-- ==== Sys2Proof/Word.lean ====
section
/-! DEFINITION. The widths the manual gives its registers and bytes (00 R2, 03 R71). -/

namespace Sys2Proof

/-- A vector or scalar register element, or an instruction word (03 R71, 02 R38). -/
abbrev Word := BitVec 32

/-- The smallest addressable unit. -/
abbrev Byte := BitVec 8

/-- A mask register or an active set, one bit per thread (01 R17). -/
abbrev Mask := BitVec 64

/-- A generic address or a 64-bit operand pair. -/
abbrev Dword := BitVec 64

end Sys2Proof
end

