-- ==== Sys2Proof/Config.lean ====
section
/-! DEFINITION. What an implementation fixes and the values the manual leaves free. An `opaque` constant has no body:
nothing can be proved of its value, so a claim holds whatever it is. -/

namespace Sys2Proof.Config

/-- A fresh free number for each tick of the model's counter (log entry 7): which of several units moves next. -/
opaque pick : Nat → Nat

/-- `info` of the permission trap of an instruction fetch, which the manual does not lay out. -/
opaque fetchInfo : Nat → Word

/-- Whether a line of device memory stands in GDDR7 as it was written last, by the model's counter (log entry 50; 17 R374). -/
opaque writtenBack : Nat → Nat → Bool

/-- A byte of an older copy of such a line in GDDR7 (log entry 50). -/
opaque olderByte : Nat → Nat → BitVec 8

/-- A byte of a flit whose payload the manual does not lay out, by session, sequence number and place (log entry 51). -/
opaque flitByte : Nat → Nat → Nat → BitVec 8

/-- A result word that the manual leaves unstated. -/
opaque unstated : Nat → Word

/-- Where a croft's cluster memory is placed, by the model's counter and the croft (log entry 15; 15 R347). -/
opaque cmemBase : Nat → Nat → Nat

/-- Which cached translation makes room for a new one, by the model's counter and the page (log entry 11; 11 R278). -/
opaque tlbVictim : Nat → Nat → Nat

/-- Which cached table entry makes room for new ones, by the model's counter and the page (log entry 11; 11 R278). -/
opaque walkVictim : Nat → Nat → Nat

/-- `info.why` where a poisoned word of cluster memory lies in a unit of a B operand, which the manual does not state (log entry 22). -/
opaque whyPoisonedB : List Byte → Nat

/-- In place of the generator's next state, for an element of a tagged block whose thread is outside act(F), by the generator's state and the
element: such an element draws nothing, and which way it rounds under `rsr` the manual does not state (03 R75; log entry 28). -/
opaque undrawn : Word → Nat → Word

/-- The digest of Brynkesen's root public key, which the ROM holds (17 R371). -/
opaque rootDigest : BitVec 256

/-- How many cycles pass at one step, beyond one (log entry 8; 00 R5). -/
opaque cyclesPassed : Nat → Nat

/-- Whether `fexp2` of this operand delivers the upper of the two bracketing values (04 R115; log entry 9). -/
opaque fexp2Upper : Word → Bool

/-- Whether `flog2` of this operand delivers the upper of the two bracketing values (04 R115; log entry 9). -/
opaque flog2Upper : Word → Bool

/-- Which of the fp32 values within 2 ulp of the sine `fsin` delivers (04 R115; log entry 10). -/
opaque fsinChoice : Word → Nat

/-- The same for `fcos`. -/
opaque fcosChoice : Word → Nat

/-- The same for `ftanh`. -/
opaque ftanhChoice : Word → Nat

end Sys2Proof.Config
end

