-- ==== Sys2Proof/Syntax.lean ====
section
/-! DEFINITION. The steps of the Hiolmion H1: one constructor for each row of spec/opcode_table.json.
The encoded rows carry the fields of their word (02 R50, 15 R336) but not the chain bit, which belongs to the
group (02 R40). The rows without an encoding are the device's own steps and what the host and the peers do to it;
each carries the data that says which unit acts and what arrives (spec/95). The encoded rows with fields come first. -/

namespace Sys2Proof

/-- What a peer asks of this device in one remote operation, with the addresses already physical (18 R402, R403). -/
inductive RemoteBody where
  /-- `rld`: the 32-bit words read, in ascending thread order. -/
  | read (addrs : List (BitVec 52))
  /-- `ratom`: the operation code, address, y0 and y1 of each active thread, in ascending thread order. -/
  | atom (items : List (BitVec 4 × BitVec 52 × BitVec 32 × BitVec 32))
  /-- `rst`: the destination, the bytes and the flag (0 none). -/
  | put (dest : BitVec 52) (bytes : List (BitVec 8)) (flag : BitVec 52)
  deriving DecidableEq, Repr

/-- What an answer from a peer is for: a remote request to it by its tag (20 R423), a bulk request to it by its sender record (18 R411), or this
device's part in a reduction (18 R408). -/
inductive AnswerTo where
  | request (peer : Nat) (tag : BitVec 16)
  | transfer (peer ctx tag : Nat)
  | reduction (ctx id : Nat)
  deriving DecidableEq, Repr

/-- The side of a transfer whose record is meant, at the device that hears of it (18 R410). -/
inductive Side where
  | sender
  | receiver
  deriving DecidableEq, Repr

/-- The record that a peer's abort, pause or resume is for: its side, and its tag (18 R409, R413, R415). -/
structure RecordTag where
  side : Side
  tag : Nat
  deriving DecidableEq, Repr

/-- The kinds of a host CXL.mem request (17 R367, R370). -/
inductive CxlKind where
  | read
  | write
  | atomicOr
  deriving DecidableEq, Repr

/-- A signed manifest (17 R371): its bytes, its root public key and its signature, and what it says, the security version and a digest of each
component. -/
structure SignedManifest where
  manifest : List (BitVec 8) := []
  key : List (BitVec 8) := []
  signature : List (BitVec 8) := []
  version : Nat := 0
  digests : List (BitVec 256) := []
  deriving DecidableEq, Repr

/-- The bytes of a firmware component (17 R372). -/
abbrev Component := List (BitVec 8)

/-- The firmware on the module's flash as a cold reset finds it (17 R370 to R372): the signed manifest and the components of slots 1 to 5. -/
structure Image extends SignedManifest where
  components : List Component := []
  deriving DecidableEq, Repr

/-- Where bulk data comes from: the device that sends it and the port that it arrives by, Ethernet port e as 96 + e (18 R411). -/
structure Arrival where
  source : Nat
  port : Nat
  deriving DecidableEq, Repr

/-- One step of the device, named by its row of spec/opcode_table.json. -/
inductive Instr where
  /-- Raises the software trap (cause 0x0E) with the code placed in info. (R130) -/
  | trap (i : BitVec 5)
  /-- Leaves runtime mode and resumes the trapping entry at the epc word or the word after it. (R148) -/
  | rte (i : BitVec 1)
  /-- Reads a special register into a scalar register, or into a vector register for lane and tidx. (R131) -/
  | rdsr (d : BitVec 7) (n : BitVec 5)
  /-- Writes a scalar value to a special register under the rules for status, rng, tvec and epc. (R131) -/
  | wrsr (a : BitVec 7) (n : BitVec 5)
  /-- Writes the value of the named counter, as it stands at issue, to a scalar register. (R131) -/
  | rdcnt (d : BitVec 7) (p : BitVec 5)
  /-- Writes a service record to the context's fault ring and suspends the sub-furrow until the host replies. (R133) -/
  | sysc (d : BitVec 7) (a : BitVec 7) (n : BitVec 5)
  /-- Stops every furrow of the issuing plot, or a stream and its croft, and reports status halted with a code. (R130) -/
  | halt (a : BitVec 7)
  /-- Creates as many requested furrows as fit now in the issuing plot at the named entry and writes the count. (R158) -/
  | spawn (d : BitVec 7) (a : BitVec 7) (e : BitVec 5)
  /-- Raises the breakpoint trap (cause 0x0F) with the code placed in info. (R130) -/
  | brkpt (i : BitVec 5)
  /-- Makes the issuing entry wait until each named counter is at or below its threshold. (R177) -/
  | waitc (l : BitVec 6) (s : BitVec 6) (p : BitVec 6) (m : BitVec 6)
  /-- Uniform branch on the signed value of a scalar register compared with zero. (R135) -/
  | br (k : BitVec 4) (r : BitVec 7) (o : BitVec 14)
  /-- Branches on a mask register, splitting the sub-furrow for set or clr when threads disagree. (R140) -/
  | brk (k : BitVec 4) (r : BitVec 4) (o : BitVec 14)
  /-- Writes the link p+1 to a scalar register and continues at the packet offset. (R136) -/
  | call (r : BitVec 7) (o : BitVec 14)
  /-- Decrements a scalar register and branches while the new value is not zero. (R137) -/
  | loop (r : BitVec 7) (o : BitVec 14)
  /-- Scalar add modulo 2^32. (R97) -/
  | sadd (d : BitVec 7) (a : BitVec 7) (b : BitVec 7)
  /-- Scalar subtract modulo 2^32. (R97) -/
  | ssub (d : BitVec 7) (a : BitVec 7) (b : BitVec 7)
  /-- Scalar multiply, low 32 bits. (R97) -/
  | smul (d : BitVec 7) (a : BitVec 7) (b : BitVec 7)
  /-- Scalar signed multiply, high 32 bits. (R97) -/
  | smulh (d : BitVec 7) (a : BitVec 7) (b : BitVec 7)
  /-- Scalar bitwise AND. (R97) -/
  | sand (d : BitVec 7) (a : BitVec 7) (b : BitVec 7)
  /-- Scalar bitwise OR. (R97) -/
  | sor (d : BitVec 7) (a : BitVec 7) (b : BitVec 7)
  /-- Scalar bitwise XOR. (R97) -/
  | sxor (d : BitVec 7) (a : BitVec 7) (b : BitVec 7)
  /-- Scalar a AND NOT b. (R97) -/
  | sandn (d : BitVec 7) (a : BitVec 7) (b : BitVec 7)
  /-- Scalar shift left by a register amount. (R98) -/
  | sshl (d : BitVec 7) (a : BitVec 7) (b : BitVec 7)
  /-- Scalar logical shift right by a register amount. (R98) -/
  | sshr (d : BitVec 7) (a : BitVec 7) (b : BitVec 7)
  /-- Scalar arithmetic shift right by a register amount. (R98) -/
  | ssra (d : BitVec 7) (a : BitVec 7) (b : BitVec 7)
  /-- Scalar rotate left by a register amount mod 32. (R98) -/
  | srot (d : BitVec 7) (a : BitVec 7) (b : BitVec 7)
  /-- Scalar shift left by an immediate amount. (R98) -/
  | sshli (d : BitVec 7) (a : BitVec 7) (b : BitVec 5)
  /-- Scalar logical shift right by an immediate amount. (R98) -/
  | sshri (d : BitVec 7) (a : BitVec 7) (b : BitVec 5)
  /-- Scalar arithmetic shift right by an immediate amount. (R98) -/
  | ssrai (d : BitVec 7) (a : BitVec 7) (b : BitVec 5)
  /-- Scalar rotate left by an immediate amount. (R98) -/
  | sroti (d : BitVec 7) (a : BitVec 7) (b : BitVec 5)
  /-- Scalar signed minimum. (R97) -/
  | smin (d : BitVec 7) (a : BitVec 7) (b : BitVec 7)
  /-- Scalar signed maximum. (R97) -/
  | smax (d : BitVec 7) (a : BitVec 7) (b : BitVec 7)
  /-- Scalar unsigned minimum. (R97) -/
  | sminn (d : BitVec 7) (a : BitVec 7) (b : BitVec 7)
  /-- Scalar unsigned maximum. (R97) -/
  | smaxn (d : BitVec 7) (a : BitVec 7) (b : BitVec 7)
  /-- Scalar set to 1 when equal. (R97) -/
  | sseq (d : BitVec 7) (a : BitVec 7) (b : BitVec 7)
  /-- Scalar set to 1 when signed less than. (R97) -/
  | sslt (d : BitVec 7) (a : BitVec 7) (b : BitVec 7)
  /-- Scalar set to 1 when unsigned less than. (R97) -/
  | ssltn (d : BitVec 7) (a : BitVec 7) (b : BitVec 7)
  /-- Scalar set to 1 when not equal. (R97) -/
  | ssne (d : BitVec 7) (a : BitVec 7) (b : BitVec 7)
  /-- Scalar move. (R97) -/
  | smov (d : BitVec 7) (a : BitVec 7)
  /-- Scalar select using the destination as the condition. (R99) -/
  | ssel (d : BitVec 7) (a : BitVec 7) (b : BitVec 7)
  /-- Scalar count of leading zeros. (R97) -/
  | sclz (d : BitVec 7) (a : BitVec 7)
  /-- Scalar count of set bits. (R97) -/
  | spopc (d : BitVec 7) (a : BitVec 7)
  /-- Scalar add of a sign-extended immediate. (R100) -/
  | saddi (d : BitVec 7) (a : BitVec 7) (i : BitVec 11)
  /-- Loads a sign-extended immediate into a scalar register. (R100) -/
  | sli (d : BitVec 7) (i : BitVec 18)
  /-- Loads an immediate shifted left by 14 into a scalar register. (R100) -/
  | slui (d : BitVec 7) (i : BitVec 18)
  /-- Continues at the packet index held in a scalar register. (R136) -/
  | jmp (a : BitVec 7)
  /-- Writes the link p+1 and continues at the packet index in a scalar register. (R136) -/
  | callr (d : BitVec 7) (a : BitVec 7)
  /-- Vector add with optional carry-in from the fourth operand. (R101) -/
  | vadd (w : BitVec 2) (d : BitVec 7) (a : BitVec 7) (b : BitVec 7)
  /-- Vector subtract. (R101) -/
  | vsub (w : BitVec 2) (d : BitVec 7) (a : BitVec 7) (b : BitVec 7)
  /-- Vector multiply, low 32 bits. (R101) -/
  | vmul (w : BitVec 2) (d : BitVec 7) (a : BitVec 7) (b : BitVec 7)
  /-- Vector signed multiply, high 32 bits. (R101) -/
  | vmulh (w : BitVec 2) (d : BitVec 7) (a : BitVec 7) (b : BitVec 7)
  /-- Vector unsigned multiply, high 32 bits. (R101) -/
  | vmulhn (w : BitVec 2) (d : BitVec 7) (a : BitVec 7) (b : BitVec 7)
  /-- Vector carry out of an unsigned add with carry-in. (R102) -/
  | vaddc (w : BitVec 2) (d : BitVec 7) (a : BitVec 7) (b : BitVec 7)
  /-- Vector saturating add, signed or unsigned by pfx.xop. (R103) -/
  | vsadd (w : BitVec 2) (d : BitVec 7) (a : BitVec 7) (b : BitVec 7)
  /-- Vector saturating subtract, signed or unsigned by pfx.xop. (R103) -/
  | vssub (w : BitVec 2) (d : BitVec 7) (a : BitVec 7) (b : BitVec 7)
  /-- Vector bitwise AND. (R101) -/
  | vand (w : BitVec 2) (d : BitVec 7) (a : BitVec 7) (b : BitVec 7)
  /-- Vector bitwise OR. (R101) -/
  | vor (w : BitVec 2) (d : BitVec 7) (a : BitVec 7) (b : BitVec 7)
  /-- Vector bitwise XOR. (R101) -/
  | vxor (w : BitVec 2) (d : BitVec 7) (a : BitVec 7) (b : BitVec 7)
  /-- Vector x AND NOT y. (R101) -/
  | vandn (w : BitVec 2) (d : BitVec 7) (a : BitVec 7) (b : BitVec 7)
  /-- Vector shift left by a per-thread amount. (R98) -/
  | vshl (w : BitVec 2) (d : BitVec 7) (a : BitVec 7) (b : BitVec 7)
  /-- Vector logical shift right by a per-thread amount. (R98) -/
  | vshr (w : BitVec 2) (d : BitVec 7) (a : BitVec 7) (b : BitVec 7)
  /-- Vector arithmetic shift right by a per-thread amount. (R98) -/
  | vsra (w : BitVec 2) (d : BitVec 7) (a : BitVec 7) (b : BitVec 7)
  /-- Vector rotate left by a per-thread amount. (R98) -/
  | vrot (w : BitVec 2) (d : BitVec 7) (a : BitVec 7) (b : BitVec 7)
  /-- Vector shift left by an immediate amount. (R98) -/
  | vshli (w : BitVec 2) (d : BitVec 7) (a : BitVec 7) (b : BitVec 5)
  /-- Vector logical shift right by an immediate amount. (R98) -/
  | vshri (w : BitVec 2) (d : BitVec 7) (a : BitVec 7) (b : BitVec 5)
  /-- Vector arithmetic shift right by an immediate amount. (R98) -/
  | vsrai (w : BitVec 2) (d : BitVec 7) (a : BitVec 7) (b : BitVec 5)
  /-- Vector rotate left by an immediate amount. (R98) -/
  | vroti (w : BitVec 2) (d : BitVec 7) (a : BitVec 7) (b : BitVec 5)
  /-- Vector signed minimum. (R101) -/
  | vmin (w : BitVec 2) (d : BitVec 7) (a : BitVec 7) (b : BitVec 7)
  /-- Vector signed maximum. (R101) -/
  | vmax (w : BitVec 2) (d : BitVec 7) (a : BitVec 7) (b : BitVec 7)
  /-- Vector unsigned minimum. (R101) -/
  | vminn (w : BitVec 2) (d : BitVec 7) (a : BitVec 7) (b : BitVec 7)
  /-- Vector unsigned maximum. (R101) -/
  | vmaxn (w : BitVec 2) (d : BitVec 7) (a : BitVec 7) (b : BitVec 7)
  /-- Vector count of leading zeros. (R101) -/
  | vclz (w : BitVec 2) (d : BitVec 7) (a : BitVec 7)
  /-- Vector count of set bits. (R101) -/
  | vpopc (w : BitVec 2) (d : BitVec 7) (a : BitVec 7)
  /-- Vector bit reversal. (R101) -/
  | vbrev (w : BitVec 2) (d : BitVec 7) (a : BitVec 7)
  /-- Vector signed absolute value, optionally saturating. (R101) -/
  | vabs (w : BitVec 2) (d : BitVec 7) (a : BitVec 7)
  /-- Vector sign-extending bit-field extract. (R105) -/
  | vbfe (w : BitVec 2) (d : BitVec 7) (a : BitVec 7) (b : BitVec 7)
  /-- Vector zero-extending bit-field extract. (R105) -/
  | vbfen (w : BitVec 2) (d : BitVec 7) (a : BitVec 7) (b : BitVec 7)
  /-- Vector bit-field insert into the destination. (R105) -/
  | vbfi (w : BitVec 2) (d : BitVec 7) (a : BitVec 7) (b : BitVec 7)
  /-- Vector byte permute from an 8-byte source. (R106) -/
  | vprmb (w : BitVec 2) (d : BitVec 7) (a : BitVec 7) (b : BitVec 7)
  /-- Vector signed multiply-accumulate into the destination. (R104) -/
  | vmad (w : BitVec 2) (d : BitVec 7) (a : BitVec 7) (b : BitVec 7)
  /-- Vector signed 4-way byte dot product accumulate. (R104) -/
  | vdot4 (w : BitVec 2) (d : BitVec 7) (a : BitVec 7) (b : BitVec 7)
  /-- Vector unsigned 4-way byte dot product accumulate. (R104) -/
  | vdot4n (w : BitVec 2) (d : BitVec 7) (a : BitVec 7) (b : BitVec 7)
  /-- Vector sum of absolute byte differences accumulate. (R104) -/
  | vsad (w : BitVec 2) (d : BitVec 7) (a : BitVec 7) (b : BitVec 7)
  /-- Vector add of a sign-extended immediate. (R107) -/
  | vaddi (d : BitVec 7) (a : BitVec 7) (i : BitVec 11)
  /-- Loads a sign-extended immediate into a vector register. (R107) -/
  | vli (d : BitVec 7) (i : BitVec 18)
  /-- Vector compare equal into a mask register. (R108) -/
  | vceq (d : BitVec 4) (a : BitVec 7) (b : BitVec 7)
  /-- Vector signed less-than compare into a mask register. (R108) -/
  | vclt (d : BitVec 4) (a : BitVec 7) (b : BitVec 7)
  /-- Vector unsigned less-than compare into a mask register. (R108) -/
  | vcltn (d : BitVec 4) (a : BitVec 7) (b : BitVec 7)
  /-- Vector compare not-equal into a mask register. (R108) -/
  | vcne (d : BitVec 4) (a : BitVec 7) (b : BitVec 7)
  /-- Vector select between two registers by a mask register. (R109) -/
  | vsel (k : BitVec 4) (d : BitVec 7) (a : BitVec 7) (b : BitVec 7)
  /-- Vector move. (R110) -/
  | vmov (w : BitVec 2) (d : BitVec 7) (a : BitVec 7)
  /-- Broadcasts a scalar register to a vector register. (R110) -/
  | vmovs (d : BitVec 7) (a : BitVec 7)
  /-- Reads one thread's element of a vector register into a scalar register. (R110) -/
  | vrdl (d : BitVec 7) (a : BitVec 7) (b : BitVec 7)
  /-- Writes a scalar value into one thread's element of a vector register. (R110) -/
  | vwrl (d : BitVec 7) (a : BitVec 7) (b : BitVec 7)
  /-- fp32 add rounded once. (R111) -/
  | fadd (w : BitVec 2) (d : BitVec 7) (a : BitVec 7) (b : BitVec 7)
  /-- fp32 subtract rounded once. (R111) -/
  | fsub (w : BitVec 2) (d : BitVec 7) (a : BitVec 7) (b : BitVec 7)
  /-- fp32 multiply rounded once. (R111) -/
  | fmul (w : BitVec 2) (d : BitVec 7) (a : BitVec 7) (b : BitVec 7)
  /-- fp32 fused multiply-add into the destination. (R111) -/
  | fmac (w : BitVec 2) (d : BitVec 7) (a : BitVec 7) (b : BitVec 7)
  /-- fp32 minimumNumber. (R113) -/
  | fmin (w : BitVec 2) (d : BitVec 7) (a : BitVec 7) (b : BitVec 7)
  /-- fp32 maximumNumber. (R113) -/
  | fmax (w : BitVec 2) (d : BitVec 7) (a : BitVec 7) (b : BitVec 7)
  /-- Copies the sign of y onto x. (R111) -/
  | fcpys (w : BitVec 2) (d : BitVec 7) (a : BitVec 7) (b : BitVec 7)
  /-- Scales an fp32 value by a clamped power of two. (R111) -/
  | fscal (w : BitVec 2) (d : BitVec 7) (a : BitVec 7) (b : BitVec 7)
  /-- fp32 compare equal into a mask register. (R114) -/
  | fceq (d : BitVec 4) (a : BitVec 7) (b : BitVec 7)
  /-- fp32 compare less-than into a mask register. (R114) -/
  | fclt (d : BitVec 4) (a : BitVec 7) (b : BitVec 7)
  /-- fp32 compare less-or-equal into a mask register. (R114) -/
  | fcle (d : BitVec 4) (a : BitVec 7) (b : BitVec 7)
  /-- fp32 unordered compare into a mask register. (R114) -/
  | fcun (d : BitVec 4) (a : BitVec 7) (b : BitVec 7)
  /-- Correctly rounded fp32 reciprocal. (R115) -/
  | frcp (w : BitVec 2) (d : BitVec 7) (a : BitVec 7)
  /-- Correctly rounded fp32 reciprocal square root. (R115) -/
  | frsq (w : BitVec 2) (d : BitVec 7) (a : BitVec 7)
  /-- Correctly rounded fp32 square root. (R115) -/
  | fsqrt (w : BitVec 2) (d : BitVec 7) (a : BitVec 7)
  /-- fp32 base-2 exponential. (R115) -/
  | fexp2 (w : BitVec 2) (d : BitVec 7) (a : BitVec 7)
  /-- fp32 base-2 logarithm. (R115) -/
  | flog2 (w : BitVec 2) (d : BitVec 7) (a : BitVec 7)
  /-- fp32 sine. (R117) -/
  | fsin (w : BitVec 2) (d : BitVec 7) (a : BitVec 7)
  /-- fp32 cosine. (R117) -/
  | fcos (w : BitVec 2) (d : BitVec 7) (a : BitVec 7)
  /-- fp32 hyperbolic tangent. (R117) -/
  | ftanh (w : BitVec 2) (d : BitVec 7) (a : BitVec 7)
  /-- Converts i32 or n32 to fp32. (R118) -/
  | cvtf (w : BitVec 2) (d : BitVec 7) (a : BitVec 7) (b : BitVec 1)
  /-- Converts fp32 to i32 or n32. (R118) -/
  | cvti (w : BitVec 2) (d : BitVec 7) (a : BitVec 7) (b : BitVec 1)
  /-- Rounds fp32 to an integral fp32 value. (R118) -/
  | frnd (w : BitVec 2) (d : BitVec 7) (a : BitVec 7)
  /-- Converts between fp32 and fp16 or bf16 halves. (R119) -/
  | cvtn (w : BitVec 2) (d : BitVec 7) (a : BitVec 7) (b : BitVec 3)
  /-- Packs 48 fp32 values per block group into a tagged block. (R122) -/
  | qpack (d : BitVec 7) (a : BitVec 7) (b : BitVec 2)
  /-- Unpacks a tagged block in registers into fp32 values. (R123) -/
  | qunpk (d : BitVec 7) (a : BitVec 7)
  /-- Rescales a tagged block by a power of two. (R124) -/
  | qscal (d : BitVec 7) (a : BitVec 7) (b : BitVec 7)
  /-- Re-encodes a tagged block in another format. (R125) -/
  | qretag (d : BitVec 7) (a : BitVec 7) (b : BitVec 2)
  /-- Mask-register AND. (R127) -/
  | kand (d : BitVec 4) (a : BitVec 4) (b : BitVec 4)
  /-- Mask-register OR. (R127) -/
  | kor (d : BitVec 4) (a : BitVec 4) (b : BitVec 4)
  /-- Mask-register XOR. (R127) -/
  | kxor (d : BitVec 4) (a : BitVec 4) (b : BitVec 4)
  /-- Mask-register AND NOT. (R127) -/
  | kandn (d : BitVec 4) (a : BitVec 4) (b : BitVec 4)
  /-- Counts active threads whose mask bit is set. (R128) -/
  | kpopc (d : BitVec 7) (a : BitVec 4)
  /-- Finds the least active thread whose mask bit is set. (R128) -/
  | kffs (d : BitVec 7) (a : BitVec 4)
  /-- Copies a whole mask register to a scalar pair. (R128) -/
  | ktos (d : BitVec 7) (a : BitVec 4)
  /-- Writes a mask register from a scalar pair for active threads. (R128) -/
  | kfrs (d : BitVec 4) (a : BitVec 7)
  /-- Shuffle by per-thread index within a segment. (R152) -/
  | shfli (w : BitVec 2) (d : BitVec 7) (a : BitVec 7) (b : BitVec 7)
  /-- Shuffle up by n within a segment. (R152) -/
  | shflu (w : BitVec 2) (d : BitVec 7) (a : BitVec 7) (b : BitVec 6)
  /-- Shuffle down by n within a segment. (R152) -/
  | shfld (w : BitVec 2) (d : BitVec 7) (a : BitVec 7) (b : BitVec 6)
  /-- Shuffle by XOR with n within a segment. (R152) -/
  | shflx (w : BitVec 2) (d : BitVec 7) (a : BitVec 7) (b : BitVec 6)
  /-- Add reduction over the active threads of each segment. (R153) -/
  | redadd (t : BitVec 2) (d : BitVec 7) (a : BitVec 7)
  /-- Minimum reduction over each segment. (R153) -/
  | redmin (t : BitVec 2) (d : BitVec 7) (a : BitVec 7)
  /-- Maximum reduction over each segment. (R153) -/
  | redmax (t : BitVec 2) (d : BitVec 7) (a : BitVec 7)
  /-- Bitwise OR reduction over each segment. (R153) -/
  | redor (d : BitVec 7) (a : BitVec 7)
  /-- Inclusive add scan over each segment. (R153) -/
  | scanadd (t : BitVec 2) (d : BitVec 7) (a : BitVec 7)
  /-- Inclusive minimum scan over each segment. (R153) -/
  | scanmin (t : BitVec 2) (d : BitVec 7) (a : BitVec 7)
  /-- Inclusive maximum scan over each segment. (R153) -/
  | scanmax (t : BitVec 2) (d : BitVec 7) (a : BitVec 7)
  /-- Exclusive add scan over each segment. (R153) -/
  | scanaddx (t : BitVec 2) (d : BitVec 7) (a : BitVec 7)
  /-- Match on keys and add values within each key set, marking a leader. (R154) -/
  | mred (k : BitVec 4) (d : BitVec 7) (a : BitVec 7) (b : BitVec 7)
  /-- Match on keys and fp32-add values within each key set. (R154) -/
  | mredf (k : BitVec 4) (d : BitVec 7) (a : BitVec 7) (b : BitVec 7)
  /-- Match on keys and take the minimum or maximum within each key set. (R154) -/
  | mredm (k : BitVec 4) (d : BitVec 7) (a : BitVec 7) (b : BitVec 7)
  /-- Vector load of 2^w words per thread from the selected space. (R169) -/
  | ld (s : BitVec 3) (w : BitVec 2) (d : BitVec 7) (a : BitVec 7) (o : BitVec 6)
  /-- Vector store of 2^w words per thread to the selected space. (R170) -/
  | st (s : BitVec 3) (w : BitVec 2) (d : BitVec 7) (a : BitVec 7) (o : BitVec 6)
  /-- Vector sub-word load with sign or zero extension. (R169) -/
  | ldsw (s : BitVec 3) (w : BitVec 2) (d : BitVec 7) (a : BitVec 7) (o : BitVec 6)
  /-- Vector 8- or 16-bit store. (R170) -/
  | stsw (s : BitVec 3) (w : BitVec 1) (d : BitVec 7) (a : BitVec 7) (o : BitVec 6)
  /-- Uniform load into scalar registers. (R169) -/
  | ldu (s : BitVec 3) (w : BitVec 2) (d : BitVec 7) (a : BitVec 7) (o : BitVec 6)
  /-- Uniform store from scalar registers. (R170) -/
  | stu (s : BitVec 3) (w : BitVec 2) (d : BitVec 7) (a : BitVec 7) (o : BitVec 6)
  /-- Atomic add returning the old value. (R174) -/
  | atadd (s : BitVec 3) (d : BitVec 7) (a : BitVec 6) (b : BitVec 7)
  /-- Atomic AND returning the old value. (R174) -/
  | atand (s : BitVec 3) (d : BitVec 7) (a : BitVec 6) (b : BitVec 7)
  /-- Atomic OR returning the old value. (R174) -/
  | ator (s : BitVec 3) (d : BitVec 7) (a : BitVec 6) (b : BitVec 7)
  /-- Atomic XOR returning the old value. (R174) -/
  | atxor (s : BitVec 3) (d : BitVec 7) (a : BitVec 6) (b : BitVec 7)
  /-- Atomic signed minimum. (R174) -/
  | atmin (s : BitVec 3) (d : BitVec 7) (a : BitVec 6) (b : BitVec 7)
  /-- Atomic signed maximum. (R174) -/
  | atmax (s : BitVec 3) (d : BitVec 7) (a : BitVec 6) (b : BitVec 7)
  /-- Atomic unsigned minimum. (R174) -/
  | atminn (s : BitVec 3) (d : BitVec 7) (a : BitVec 6) (b : BitVec 7)
  /-- Atomic unsigned maximum. (R174) -/
  | atmaxn (s : BitVec 3) (d : BitVec 7) (a : BitVec 6) (b : BitVec 7)
  /-- Atomic exchange. (R174) -/
  | atexch (s : BitVec 3) (d : BitVec 7) (a : BitVec 6) (b : BitVec 7)
  /-- Atomic compare-and-swap. (R174) -/
  | atcas (s : BitVec 3) (d : BitVec 7) (a : BitVec 6) (b : BitVec 7)
  /-- Atomic fp32 add. (R174) -/
  | atfadd (s : BitVec 3) (d : BitVec 7) (a : BitVec 6) (b : BitVec 7)
  /-- Atomic wrapping increment. (R174) -/
  | atincw (s : BitVec 3) (d : BitVec 7) (a : BitVec 6) (b : BitVec 7)
  /-- Acquire fence at the named scope. (R267) -/
  | fenceAcq (s : BitVec 3)
  /-- Release fence at the named scope. (R267) -/
  | fenceRel (s : BitVec 3)
  /-- Release then acquire fence at the named scope. (R267) -/
  | fenceAr (s : BitVec 3)
  /-- fence.ar that also raises pts to the core's horizon. (R267) -/
  | fenceSc (s : BitVec 3)
  /-- 32-bit load followed by an acquire at its scope. (R268) -/
  | lda (d : BitVec 7) (a : BitVec 7) (s : BitVec 3)
  /-- 32-bit store preceded by a release at its scope. (R268) -/
  | stl (d : BitVec 7) (a : BitVec 7) (s : BitVec 3)
  /-- Arrives at a barrier word after a release and parks until the phase ends. (R180) -/
  | barw (a : BitVec 7) (s : BitVec 3)
  /-- Arrives at a barrier word without waiting and returns the prior phase. (R180) -/
  | bara (d : BitVec 7) (a : BitVec 7) (s : BitVec 3)
  /-- Reads the low word of a barrier word. (R180) -/
  | barq (d : BitVec 7) (a : BitVec 7) (s : BitVec 3)
  /-- Initialises a barrier word with its expected count and mode. (R180) -/
  | bari (d : BitVec 7) (a : BitVec 7) (s : BitVec 3)
  /-- Waits until one counter is at or below a scalar threshold. (R178) -/
  | waitp (a : BitVec 7) (p : BitVec 5)
  /-- Parks the entry until a word meets a condition, then acquires. (R272) -/
  | waitw (d : BitVec 7) (a : BitVec 7) (q : BitVec 2) (s : BitVec 3)
  /-- Hints that lines will be read into the L1 or L2. (R184) -/
  | pref (a : BitVec 7) (l : BitVec 1)
  /-- Writes a line from the L2 back to its memory. (R184) -/
  | wbl (a : BitVec 7)
  /-- Drops one line from the issuing core's L1. (R184) -/
  | invl (a : BitVec 7)
  /-- Writes a scope-table entry from a record and installs it on every cluster. (R270) -/
  | scopeset (d : BitVec 7) (a : BitVec 7) (n : BitVec 3)
  /-- Stores a scope-table entry as a 64-byte record. (R269) -/
  | scoperd (a : BitVec 7) (n : BitVec 3)
  /-- Enqueues a copy-engine command from a scalar octet. (R236) -/
  | cpy (a : BitVec 7)
  /-- Enqueues a multicast copy command with a target quad. (R240) -/
  | cpym (d : BitVec 7) (a : BitVec 7)
  /-- Sends a 32-byte tagged message to a target cluster. (R273) -/
  | msg (d : BitVec 7) (a : BitVec 7)
  /-- Posts a receive or takes a matching queued message. (R275) -/
  | mpost (d : BitVec 7) (a : BitVec 7)
  /-- Counts queued messages that match. (R275) -/
  | mprobe (d : BitVec 7) (a : BitVec 7)
  /-- Releases and offers a 32-byte record to a work-graph node. (R276) -/
  | emit (d : BitVec 7) (a : BitVec 7)
  /-- Looks up the leaf covering a key and its owner and block. (R313) -/
  | klook (d : BitVec 7) (a : BitVec 7)
  /-- Finds a neighbour across a face, with face children when refined. (R313) -/
  | knbr (d : BitVec 7) (a : BitVec 7)
  /-- Refines an owned leaf into its children. (R315) -/
  | kref (d : BitVec 7) (a : BitVec 7)
  /-- Coarsens children back into their parent. (R316) -/
  | kmrg (d : BitVec 7) (a : BitVec 7)
  /-- Raises a leaf's pin count and the plot's held-pin counter. (R314) -/
  | kpin (d : BitVec 7) (a : BitVec 7)
  /-- Lowers a leaf's pin count, starting a pending move at zero. (R314) -/
  | kunpin (d : BitVec 7) (a : BitVec 7)
  /-- Adds an amount to a leaf's cost counter. (R314) -/
  | kcost (d : BitVec 7) (a : BitVec 7)
  /-- Rebalances the local stake table over participant clusters and starts transplants. (R320) -/
  | kbal (d : BitVec 7) (a : BitVec 7)
  /-- Returns the first owned or leaving directory entry at or above a cursor. (R317) -/
  | kiter (d : BitVec 7) (a : BitVec 7)
  /-- Reads one stake entry of a stake table. (R318) -/
  | kcut (d : BitVec 7) (a : BitVec 7) (n : BitVec 2)
  /-- Installs or uninstalls an acre on every cluster of the context. (R319) -/
  | kacre (d : BitVec 7) (a : BitVec 7)
  /-- Encodes coordinates into a Morton key. (R303) -/
  | kenc (d : BitVec 7) (a : BitVec 7) (b : BitVec 7)
  /-- Decodes a key into coordinates. (R303) -/
  | kdec (d : BitVec 7) (a : BitVec 7) (b : BitVec 7)
  /-- Computes the parent key. (R303) -/
  | kpar (d : BitVec 7) (a : BitVec 7) (b : BitVec 7)
  /-- Computes a child key. (R303) -/
  | kchd (d : BitVec 7) (a : BitVec 7) (b : BitVec 7)
  /-- Remote 32-bit load from a peer device. (R402) -/
  | rld (d : BitVec 7) (a : BitVec 7) (r : BitVec 1) (s : BitVec 3)
  /-- Flagged remote put of up to 4 KiB to a peer. (R403) -/
  | rst (d : BitVec 7) (a : BitVec 7) (r : BitVec 1) (s : BitVec 3)
  /-- Remote atomic at a peer's home. (R402) -/
  | ratom (d : BitVec 7) (a : BitVec 7) (r : BitVec 1) (s : BitVec 3)
  /-- Creates a receiver-granted bulk transfer to a peer. (R409) -/
  | xsend (d : BitVec 7) (a : BitVec 7) (r : BitVec 1) (s : BitVec 3)
  /-- Reads a sender transfer record's state and counts, freeing a finished record. (R416) -/
  | xpoll (d : BitVec 7) (a : BitVec 7)
  /-- In-network reduction over a peer group. (R408) -/
  | rred (d : BitVec 7) (a : BitVec 7) (r : BitVec 1) (s : BitVec 3)
  /-- Waits for older remote operations and releases at its scope. (R404) -/
  | rfence (s : BitVec 3)
  /-- Reports paths and queue state towards a peer. (R406) -/
  | rpath (d : BitVec 7) (a : BitVec 7)
  /-- Matrix multiply-accumulate of an A tile and B blocks into accumulators. (R218) -/
  | mma (h : BitVec 5) (k : BitVec 1) (e : BitVec 1) (t : BitVec 4) (u : BitVec 4) (s : BitVec 7)
  /-- Loads an A tile from cluster memory. (R220) -/
  | mlda (t : BitVec 4) (a : BitVec 7)
  /-- Clears an accumulator tile. (R220) -/
  | mzero (t : BitVec 4)
  /-- Stores an accumulator tile to cluster memory. (R220) -/
  | mst (t : BitVec 4) (a : BitVec 7)
  /-- Reads the next matrix charge, or reads and clears mev. (R221) -/
  | mest (d : BitVec 7) (i : BitVec 1)
  /-- Writes part of an A tile from a vector octet. (R226) -/
  | twr (d : BitVec 7) (t : BitVec 4) (p : BitVec 5)
  /-- Reads part of an accumulator tile into a vector octet. (R226) -/
  | trd (d : BitVec 7) (t : BitVec 4) (p : BitVec 5)
  /-- Prefix word supplying mask, rounding, fourth operand and modifiers to the next word. (R53) -/
  | pfx (k : BitVec 4) (r : BitVec 3) (z : BitVec 1) (f : BitVec 7) (w : BitVec 2) (n : BitVec 3) (s : BitVec 1) (x : BitVec 4)
  /-- Immediate extension word for the next word. (R56) -/
  | lim (i : BitVec 25)
  /-- Loads a sign-extended immediate into a drill register. (R337) -/
  | drillLi (a : BitVec 5) (i : BitVec 16)
  /-- Shifts a drill register left 16 and ORs an immediate. (R337) -/
  | drillLih (a : BitVec 5) (i : BitVec 16)
  /-- Loads a 32-bit word from a region as an acquire. (R337) -/
  | drillLdw (a : BitVec 5) (b : BitVec 5) (g : BitVec 3) (o : BitVec 12)
  /-- Loads a 64-bit word from a region as an acquire. (R337) -/
  | drillLdd (a : BitVec 5) (b : BitVec 5) (g : BitVec 3) (o : BitVec 12)
  /-- Stores the low 32 bits of a drill register to a region. (R337) -/
  | drillStw (a : BitVec 5) (b : BitVec 5) (g : BitVec 3) (o : BitVec 12)
  /-- Stores a 64-bit drill register to a region. (R337) -/
  | drillStd (a : BitVec 5) (b : BitVec 5) (g : BitVec 3) (o : BitVec 12)
  /-- Adds two drill registers. (R337) -/
  | drillAdd (a : BitVec 5) (b : BitVec 5)
  /-- Subtracts two drill registers. (R337) -/
  | drillSub (a : BitVec 5) (b : BitVec 5)
  /-- ANDs two drill registers. (R337) -/
  | drillAnd (a : BitVec 5) (b : BitVec 5)
  /-- ORs two drill registers. (R337) -/
  | drillOr (a : BitVec 5) (b : BitVec 5)
  /-- XORs two drill registers. (R337) -/
  | drillXor (a : BitVec 5) (b : BitVec 5)
  /-- Shifts a drill register left by an immediate. (R337) -/
  | drillShl (a : BitVec 5) (s : BitVec 6)
  /-- Shifts a drill register right logically by an immediate. (R337) -/
  | drillShr (a : BitVec 5) (s : BitVec 6)
  /-- Adds a sign-extended immediate to a drill register. (R337) -/
  | drillAddi (a : BitVec 5) (i : BitVec 16)
  /-- Skips words when two drill registers are equal. (R337) -/
  | drillBeq (a : BitVec 5) (b : BitVec 5) (i : BitVec 16)
  /-- Skips words when two drill registers differ. (R337) -/
  | drillBne (a : BitVec 5) (b : BitVec 5) (i : BitVec 16)
  /-- Skips words when one drill register is unsigned-below another. (R337) -/
  | drillBltu (a : BitVec 5) (b : BitVec 5) (i : BitVec 16)
  /-- Runs the next len words n times with an index register. (R337) -/
  | drillLoop (a : BitVec 5) (l : BitVec 8) (n : BitVec 8)
  /-- Checks and dispatches a launch record, installing level scope entries. (R344) -/
  | drillLaunch (a : BitVec 5) (b : BitVec 5)
  /-- Flushes a work-graph node's partly filled sheaf. (R351) -/
  | drillNode (a : BitVec 5) (i : BitVec 16)
  /-- Writes a 64-bit value as a device-tier release. (R337) -/
  | drillSignal (a : BitVec 5) (b : BitVec 5)
  /-- Waits until a 64-bit word meets a condition. (R337) -/
  | drillWaitsig (a : BitVec 5) (b : BitVec 5) (c : BitVec 2)
  /-- Runs packets from an indirect buffer at one depth more. (R340) -/
  | drillIndirect (a : BitVec 5) (b : BitVec 5)
  /-- Does nothing; a group made only of nop words takes no issue cycle. (R130) -/
  | nop
  /-- Ends the issuing sub-furrow, clears its threads from the ancestor masks and frees its split entry. (R132) -/
  | exit
  /-- Gives the furrow's next issue turn to another ready furrow of the core. (R130) -/
  | yield
  /-- Drops every line from the issuing core's L1. (R184) -/
  | invlAll
  /-- Empties the A latch. (R220) -/
  | mrls
  /-- Issue of a group holding an illegal or misplaced word raises cause 0x01 or 0x0A with no member taking effect. (R64) -/
  | illegalPattern (cause : BitVec 6) (slot : BitVec 2) (word : BitVec 32)
  /-- A plot is admitted to a core once all its furrows and allocations fit, starting any croft stream. (R156) -/
  | plotAdmit (plot : Nat)
  /-- An ended furrow's slot and registers return to the core once its counters reach zero. (R132) -/
  | furrowRelease (furrow : Nat)
  /-- A load's data arrives, its destination is written and its counter falls. (R169) -/
  | loadComplete (op : Nat)
  /-- A store's write completion stamp returns, updating the L1 copy and maxw. (R260) -/
  | storeComplete (op : Nat)
  /-- An atomic's thread operations have performed and replies are written. (R175) -/
  | atomicComplete (op : Nat)
  /-- A fill reply reaches an L1 and serves the loads waiting on it. (R260) -/
  | l1Fill (core line : Nat)
  /-- A read request at a home extends rts and returns data with stamps. (R258) -/
  | homeRead (op line : Nat)
  /-- A lease renewal request at a home extends rts or returns new data. (R258) -/
  | homeRenewal (op line : Nat)
  /-- A store request at a home takes a new wts and returns it as the completion stamp. (R258) -/
  | homeStore (op line : Nat)
  /-- An exclusive line reaches an L1, which performs the waiting atomic's operations. (R262) -/
  | exclusiveGrant (op line : Nat)
  /-- A recall reaches an owning L1, which returns the line and stamps to the home. (R263) -/
  | recall (line : Nat)
  /-- When a stamp would pass 2^47 the package drains accesses and resets every stamp. (R261) -/
  | stampRebase
  /-- The home applies a barrier arrival, possibly ending the phase or refusing with cause 0x09. (R181) -/
  | barrierArrival (op : Nat)
  /-- A parked barw entry wakes on a phase change and performs its acquire. (R182) -/
  | barrierWake (furrow entry : Nat)
  /-- An overflow waiter's core re-reads the barrier word every 256 cycles. (R182) -/
  | barrierReread (furrow entry : Nat)
  /-- A write to the line of a waited word wakes the waitw to re-read it. (R272) -/
  | waitwWake (furrow entry : Nat)
  /-- An overflow waitw re-reads its word every 256 cycles. (R272) -/
  | waitwPoll (furrow entry : Nat)
  /-- A fault or service record held in the walker is written once the ring has room. (R279) -/
  | faultRecordWrite (ctx : Nat)
  /-- A host write re-issues every suspended instruction of the context. (R280) -/
  | fresume (ctx : Nat)
  /-- A host write delivers a service reply and resumes the suspended sub-furrow or stream. (R280) -/
  | svcrep (ctx : Nat) (value : BitVec 64)
  /-- A host write invalidates a page range or whole context in every TLB and walk cache. (R280) -/
  | tlbinv (ctx : Nat) (value : BitVec 64)
  /-- A message at its target cluster matches a posted receive, queues, or is refused. (R274) -/
  | messageArrival (op : Nat)
  /-- A scopeset's new entry is installed after earlier scopesets on the entry complete. (R270) -/
  | scopeInstall (op : Nat)
  /-- A slice whose corrected errors pass the threshold is written back and its buckets reassigned. (R281) -/
  | l2SliceRetire (die slice : Nat)
  /-- A request refused by a retiring slice is re-sent after 64 cycles. (R281) -/
  | retireResend (op : Nat)
  /-- A host write of dpart repartitions stacked SRAM between die scratchpad and L2. (R253) -/
  | dpartWrite (die : Nat) (value : BitVec 32)
  /-- The copy engine takes a command from a core queue, checks it and moves its bytes. (R239) -/
  | copyCommandStart (cluster : Nat)
  /-- A copy command ends, writes any record and its ring word, and the issuer's c.cp falls. (R243) -/
  | copyCommandEnd (cluster : Nat)
  /-- The engine chooses a queue head by arbitration and starts it once its charge fits the budget. (R223) -/
  | matrixOpStart (cluster : Nat)
  /-- A matrix operation completes 32 cycles after its last engine cycle and c.mx falls. (R211) -/
  | matrixOpComplete (op : Nat)
  /-- Every 1,024 cycles each cluster's budget rises by its effective rate up to the ceiling. (R378) -/
  | budgetAddition (cluster : Nat)
  /-- Every 2,000 cycles the controller adjusts each cluster's effective rate against pwrcap. (R377) -/
  | powerMeasure (milliwatts : Nat)
  /-- A die temperature crossing a limit halves rates, stops matrix starts or holds reset. (R379) -/
  | thermalLimit (die celsius : Nat)
  /-- A key request reaches its owner's key unit and is answered or forwarded once. (R312) -/
  | keyRequest (op : Nat)
  /-- When a leaf's copy completes, the new entry is owned and the old one becomes forward. (R322) -/
  | leafHandover (ctx acre cluster : Nat) (key : BitVec 64)
  /-- Once no request of the old generation remains, forward entries are removed and ast.bal returns to 0. (R323) -/
  | kbalDrain (ctx acre : Nat)
  /-- A read of qres reserves a ticket or reports full. (R333) -/
  | qresRead (queue : Nat)
  /-- Setting qcfg.en loads and checks the drill program. (R339) -/
  | queueEnable (queue : Nat) (cfg : BitVec 32)
  /-- A qctl write of 1 stops the drill and saves plots at their boundaries. (R355) -/
  | qctlPreempt (queue : Nat)
  /-- A qctl write of 2 places saved plots and streams again and restarts the drill. (R357) -/
  | qctlResume (queue : Nat)
  /-- A qctl write of 3 drops unplaced work and tears the queue down. (R359) -/
  | qctlDestroy (queue : Nat)
  /-- The drill consumes ticket qrd once its commit bit is set, acquiring its contents. (R334) -/
  | drillPacketStart (queue : Nat)
  /-- Ends the current indirect buffer. (R337) -/
  | drillRet
  /-- Waits until every earlier launch of the queue has written its signal. (R337) -/
  | drillFence
  /-- Ends the packet. (R337) -/
  | drillNext
  /-- The front end places a waiting croft and its plots on a cluster and cores when they fit. (R345) -/
  | plotPlace (launch : Nat)
  /-- When every effect of a launch is complete the front end writes its completion signal. (R352) -/
  | launchSignal (launch : Nat)
  /-- A plot reaching its boundary under pre-emption is saved and its resources freed. (R356) -/
  | plotSave (plot : Nat)
  /-- A stream is saved once its croft's plots are saved or ended and its counters are zero. (R355) -/
  | streamSave (furrow : Nat)
  /-- The front end takes an emitted record into a node's filling buffer or refuses it. (R350) -/
  | sheafRecordOffer (op : Nat)
  /-- A node's timer expiry launches its sheaf. (R351) -/
  | sheafTimerExpire (launch node : Nat)
  /-- Power-on or conventional reset runs the boot sequence to ready or recovery. (R370) -/
  | coldReset (fail : BitVec 8) (signed : SignedManifest) (components : List Component)
  /-- A pkgreset write resets every unit but Krypidy and ends every context. (R374) -/
  | warmReset (zeroGddr : Bool)
  /-- A CXL.io FLR resets only the CXL.io configuration state. (R374) -/
  | functionLevelReset
  /-- Krypidy returns its measurement slots, signed when signatures remain. (R372) -/
  | spdmGetMeasurements (signed : Bool)
  /-- A host write sets the device number only while no context is active. (R369) -/
  | devnoWrite (value : BitVec 64)
  /-- A host write of 0 clears a RAS counter and re-arms its threshold record. (R381) -/
  | rasCounterClear (unit : Nat)
  /-- A bridge losing half its lanes continues at half width. (R362) -/
  | bridgeHalfFailure (bridge : Nat)
  /-- A failed bridge's traffic is relayed through another die. (R362) -/
  | bridgeFailure (bridge : Nat)
  /-- A write to a register with no behaviour of its own stores its value. (R368) -/
  | registerWrite (offset : Nat) (value : BitVec 64)
  /-- A flit is accepted in sequence and acted on, or discarded. (R386) -/
  | flitReceive (port : Nat) (usable : Bool) (bytes : List (BitVec 8))
  /-- An unacknowledged flit after 2 µs of light makes the transmitter replay. (R386) -/
  | replayTimeout (group peer : Nat)
  /-- Light lost on positions restripes the link and replays from the first unacknowledged flit. (R387) -/
  | lossOfLight (port : Nat) (positions : BitVec 16) (laser : BitVec 8)
  /-- A receiver seeing 16 dark beat times reports a new usable mask. (R387) -/
  | darkPositionDetect (port : Nat) (positions : BitVec 16)
  /-- Light and beacon absent for 4 µs turn a headland into loss of light. (R387) -/
  | headlandTimeout (port : Nat)
  /-- A position passing wlthr is handed back and retrained. (R388) -/
  | wavelengthRetrain (port position : Nat)
  /-- A retrained position rejoins, or stays out after three failures. (R388) -/
  | wavelengthRejoin (port position : Nat) (ok : Bool)
  /-- A peer beacon sets the group's current slot entry. (R392) -/
  | beaconReceive (port source : Nat) (seed : BitVec 9)
  /-- At each return of light each port sends a beacon. (R392) -/
  | lightReturn (group : Nat)
  /-- A port starts no flit past its slot's light time; unacknowledged flits wait for the next slot. (R392) -/
  | slotClose (group : Nat)
  /-- A remote load, atomic or put reaches its target and performs or is refused. (R402) -/
  | remoteRequest (source : Nat) (agent : Nat) (tag : BitVec 16) (ordered : Bool) (body : RemoteBody)
  /-- A remote operation's answer arrives and completes it. (R402) -/
  | remoteReply (about : AnswerTo) (fail : List (BitVec 3)) (values : List (BitVec 32)) (marks : List Bool)
  /-- A remote operation without an answer within rtmo completes with reason 6. (R405) -/
  | remoteTimeout (op : Nat)
  /-- A fabric engine combines reduction values and delivers the result to members. (R408) -/
  | reductionCombine (ctx id : Nat) (member : Nat) (mode opcode : Nat) (values : List (BitVec 32))
  /-- A receiver takes a bulk request and seed, accepting, deferring or refusing it. (R411) -/
  | bulkRequest (source ctx tag : Nat) (dest flag : BitVec 52) (length : BitVec 32) (unit : Nat) (attributes : BitVec 6) (seed : List (BitVec 8))
  /-- A receiver issues a grant to the first-ranked candidate that fits its unit's limit. (R412) -/
  | grantIssue (unit : Nat)
  /-- A sender receives a grant and sends the granted bytes. (R412) -/
  | grantReceive (peer ctx tag : Nat) (offset size : BitVec 32)
  /-- Bulk data arrives and is placed and counted, or discarded. (R411) -/
  | bulkDataReceive (link : Arrival) (ctx tag : Nat) (offset : BitVec 32) (bytes : List (BitVec 8))
  /-- An unfilled grant expires and its bytes are granted again. (R413) -/
  | grantExpiry (source ctx tag : Nat) (index : Nat)
  /-- A sender hearing nothing for 8 × xexp orphans its record. (R413) -/
  | senderSilenceTimeout (ctx tag : Nat)
  /-- The sender receives done and its record becomes done. (R414) -/
  | doneReceive (peer ctx tag : Nat)
  /-- An abort arrives: a sender's record becomes orphaned, a receiver's is dropped. (R409, R413) -/
  | abortReceive (peer ctx : Nat) (tag : RecordTag)
  /-- A deferred sender resends its request and seed after 100 µs. (R411) -/
  | deferResend (ctx tag : Nat)
  /-- An xctl write of 1 pauses and saves the context's transfers. (R415) -/
  | xctlPause (ctx : Nat)
  /-- An xctl write of 2 reloads saved transfers and restarts their timers. (R415) -/
  | xctlResume (ctx : Nat)
  /-- A peer's pause or resume notice pauses or resumes the matching record. (R415) -/
  | pauseNotice (peer ctx : Nat) (tag : RecordTag) (paused : Bool)
  /-- A page-table walk ends: the access proceeds with pte.a and pte.d set, the entry is malformed and traps, or the miss is replayed. (R278) -/
  | pageWalkComplete (furrow : Nat) (va : BitVec 56) (access : BitVec 3)
  /-- A twr or trd completes when its tile words or registers are written, and the furrow's c.mx falls. (R227) -/
  | tileTransferComplete (op : Nat)
  /-- When a full queue fault ring gains room, the front end writes the held record and resumes dispatching from the queue. (R354) -/
  | queueFaultRingSpace (queue : Nat)
  /-- A host CXL.mem read, write or atomic reaches device memory, and completes with an error until bootst reads 5. (R370) -/
  | cxlMemRequest (kind : CxlKind) (address : Nat) (bytes : List (BitVec 8))
  /-- Removal of module power ends all activity, releases a 120 °C thermal hold and discards unused reserved signing indices. (R379) -/
  | powerLoss
  deriving DecidableEq, Repr

end Sys2Proof
end

