-- ==== Sys2Proof/WellFormed.lean ====
section
/-! DEFINITION. The legality of one decoded word on its own (02 R16, R51, R52, R58, R61 to R63; 04 R96; 05 R129,
R137; 06 R165; 13 R309; 15 R339). What depends on the group or on an attached PFX or LIM is checked with the group in
Decode. -/

namespace Sys2Proof

/-- A wide operand of width code `w` is aligned and is not based on register 0; a single register is free (01 R16). -/
def wide (w : BitVec 2) (base : BitVec 7) : Bool :=
  w == 0 || (base != 0 && base.toNat % 2 ^ w.toNat == 0)

/-- The special registers `wrsr` may name: those that are not read-only (01 R25). -/
def srWritable (n : BitVec 5) : Bool :=
  n == 21 || (23 ≤ n.toNat && n.toNat ≤ 28)

/-- The spaces of the vector loads and stores, and the pair rule of the two generic ones (02 R62, 06 R165). -/
def spVector (sp : BitVec 3) (a : BitVec 7) : Bool :=
  if sp == 0 || sp == 5 then wide 1 a else sp.toNat ≤ 5

/-- The spaces of `ldu` and `stu` (06 R165). -/
def spUniform (sp : BitVec 3) (a : BitVec 7) : Bool :=
  if sp == 5 then wide 1 a else sp == 2 || sp == 3 || sp == 4

/-- A drill register number is 15 or less (15 R339). -/
def gReg (a : BitVec 5) : Bool := a.toNat ≤ 15

/-- The word's own bits are legal. The device's own steps have no word and are legal. -/
def wellFormed : Instr → Bool
  | .trap _ => true
  | .rte _ => true
  | .rdsr _ n => n.toNat ≤ 28
  | .wrsr _ n => srWritable n
  | .rdcnt _ p => p.toNat ≤ 5
  | .sysc _ a _ => wide 2 a
  | .halt _ => true
  | .spawn _ _ _ => true
  | .brkpt _ => true
  | .waitc _ _ _ _ => true
  | .br k r _ => k.toNat ≤ 6 && (k != 0 || r == 0)
  | .brk k _ _ => k.toNat ≤ 4
  | .call _ _ => true
  | .loop r _ => r != 0
  | .sadd _ _ _ => true
  | .ssub _ _ _ => true
  | .smul _ _ _ => true
  | .smulh _ _ _ => true
  | .sand _ _ _ => true
  | .sor _ _ _ => true
  | .sxor _ _ _ => true
  | .sandn _ _ _ => true
  | .sshl _ _ _ => true
  | .sshr _ _ _ => true
  | .ssra _ _ _ => true
  | .srot _ _ _ => true
  | .sshli _ _ _ => true
  | .sshri _ _ _ => true
  | .ssrai _ _ _ => true
  | .sroti _ _ _ => true
  | .smin _ _ _ => true
  | .smax _ _ _ => true
  | .sminn _ _ _ => true
  | .smaxn _ _ _ => true
  | .sseq _ _ _ => true
  | .sslt _ _ _ => true
  | .ssltn _ _ _ => true
  | .ssne _ _ _ => true
  | .smov _ _ => true
  | .ssel _ _ _ => true
  | .sclz _ _ => true
  | .spopc _ _ => true
  | .saddi _ _ _ => true
  | .sli _ _ => true
  | .slui _ _ => true
  | .jmp _ => true
  | .callr _ _ => true
  | .vadd w d a b => wide w d && wide w a && wide w b
  | .vsub w d a b => wide w d && wide w a && wide w b
  | .vmul w d a b => wide w d && wide w a && wide w b
  | .vmulh w d a b => wide w d && wide w a && wide w b
  | .vmulhn w d a b => wide w d && wide w a && wide w b
  | .vaddc w d a b => wide w d && wide w a && wide w b
  | .vsadd w d a b => wide w d && wide w a && wide w b
  | .vssub w d a b => wide w d && wide w a && wide w b
  | .vand w d a b => wide w d && wide w a && wide w b
  | .vor w d a b => wide w d && wide w a && wide w b
  | .vxor w d a b => wide w d && wide w a && wide w b
  | .vandn w d a b => wide w d && wide w a && wide w b
  | .vshl w d a b => wide w d && wide w a && wide w b
  | .vshr w d a b => wide w d && wide w a && wide w b
  | .vsra w d a b => wide w d && wide w a && wide w b
  | .vrot w d a b => wide w d && wide w a && wide w b
  | .vshli w d a _ => wide w d && wide w a
  | .vshri w d a _ => wide w d && wide w a
  | .vsrai w d a _ => wide w d && wide w a
  | .vroti w d a _ => wide w d && wide w a
  | .vmin w d a b => wide w d && wide w a && wide w b
  | .vmax w d a b => wide w d && wide w a && wide w b
  | .vminn w d a b => wide w d && wide w a && wide w b
  | .vmaxn w d a b => wide w d && wide w a && wide w b
  | .vclz w d a => wide w d && wide w a
  | .vpopc w d a => wide w d && wide w a
  | .vbrev w d a => wide w d && wide w a
  | .vabs w d a => wide w d && wide w a
  | .vbfe w d a b => wide w d && wide w a && wide w b
  | .vbfen w d a b => wide w d && wide w a && wide w b
  | .vbfi w d a b => wide w d && wide w a && wide w b
  | .vprmb w d a b => wide w d && wide w a && wide w b
  | .vmad w d a b => wide w d && wide w a && wide w b
  | .vdot4 w d a b => wide w d && wide w a && wide w b
  | .vdot4n w d a b => wide w d && wide w a && wide w b
  | .vsad w d a b => wide w d && wide w a && wide w b
  | .vaddi _ _ _ => true
  | .vli _ _ => true
  | .vceq _ _ _ => true
  | .vclt _ _ _ => true
  | .vcltn _ _ _ => true
  | .vcne _ _ _ => true
  | .vsel _ _ _ _ => true
  | .vmov w d a => wide w d && wide w a
  | .vmovs _ _ => true
  | .vrdl _ _ _ => true
  | .vwrl _ _ _ => true
  | .fadd w d a b => wide w d && wide w a && wide w b
  | .fsub w d a b => wide w d && wide w a && wide w b
  | .fmul w d a b => wide w d && wide w a && wide w b
  | .fmac w d a b => wide w d && wide w a && wide w b
  | .fmin w d a b => wide w d && wide w a && wide w b
  | .fmax w d a b => wide w d && wide w a && wide w b
  | .fcpys w d a b => wide w d && wide w a && wide w b
  | .fscal w d a b => wide w d && wide w a && wide w b
  | .fceq _ _ _ => true
  | .fclt _ _ _ => true
  | .fcle _ _ _ => true
  | .fcun _ _ _ => true
  | .frcp w d a => wide w d && wide w a
  | .frsq w d a => wide w d && wide w a
  | .fsqrt w d a => wide w d && wide w a
  | .fexp2 w d a => wide w d && wide w a
  | .flog2 w d a => wide w d && wide w a
  | .fsin w d a => wide w d && wide w a
  | .fcos w d a => wide w d && wide w a
  | .ftanh w d a => wide w d && wide w a
  | .cvtf w d a _ => wide w d && wide w a
  | .cvti w d a _ => wide w d && wide w a
  | .frnd w d a => wide w d && wide w a
  | .cvtn w d a _ => wide w d && wide w a
  | .qpack _ a b => wide 2 a && b != 0
  | .qunpk d _ => wide 2 d
  | .qscal _ _ _ => true
  | .qretag _ _ b => b != 0
  | .kand _ _ _ => true
  | .kor _ _ _ => true
  | .kxor _ _ _ => true
  | .kandn _ _ _ => true
  | .kpopc _ _ => true
  | .kffs _ _ => true
  | .ktos d _ => wide 1 d
  | .kfrs _ a => wide 1 a
  | .shfli w d a _ => wide w d && wide w a
  | .shflu w d a _ => wide w d && wide w a
  | .shfld w d a _ => wide w d && wide w a
  | .shflx w d a _ => wide w d && wide w a
  | .redadd t _ _ => t == 0 || t == 2
  | .redmin t _ _ => t != 3
  | .redmax t _ _ => t != 3
  | .redor _ _ => true
  | .scanadd t _ _ => t == 0 || t == 2
  | .scanmin t _ _ => t != 3
  | .scanmax t _ _ => t != 3
  | .scanaddx t _ _ => t == 0 || t == 2
  | .mred _ _ _ _ => true
  | .mredf _ _ _ _ => true
  | .mredm _ _ _ _ => true
  | .ld s w d a _ => spVector s a && wide w d
  | .st s w d a _ => spVector s a && wide w d
  | .ldsw s _ _ a _ => spVector s a
  | .stsw s _ _ a _ => spVector s a
  | .ldu s w d a _ => spUniform s a && wide w d
  | .stu s w d a _ => spUniform s a && wide w d
  | .atadd _ _ a _ => a != 0
  | .atand _ _ a _ => a != 0
  | .ator _ _ a _ => a != 0
  | .atxor _ _ a _ => a != 0
  | .atmin _ _ a _ => a != 0
  | .atmax _ _ a _ => a != 0
  | .atminn _ _ a _ => a != 0
  | .atmaxn _ _ a _ => a != 0
  | .atexch _ _ a _ => a != 0
  | .atcas _ _ a b => a != 0 && wide 1 b
  | .atfadd _ _ a _ => a != 0
  | .atincw _ _ a _ => a != 0
  | .fenceAcq _ => true
  | .fenceRel _ => true
  | .fenceAr _ => true
  | .fenceSc _ => true
  | .lda _ a _ => wide 1 a
  | .stl _ a _ => wide 1 a
  | .barw a _ => wide 1 a
  | .bara _ a _ => wide 1 a
  | .barq _ a _ => wide 1 a
  | .bari _ a _ => wide 1 a
  | .waitp _ p => p.toNat ≤ 5
  | .waitw _ a q _ => q != 3 && wide 1 a
  | .pref a _ => wide 1 a
  | .wbl a => wide 1 a
  | .invl a => wide 1 a
  | .scopeset _ a n => n != 0 && wide 1 a
  | .scoperd a _ => wide 1 a
  | .cpy a => wide 3 a
  | .cpym d a => wide 2 d && wide 3 a
  | .msg d a => wide 1 d && wide 3 a
  | .mpost _ a => wide 2 a
  | .mprobe _ a => wide 2 a
  | .emit _ a => wide 3 a
  | .klook d a => wide 3 d && wide 2 a
  | .knbr d a => wide 3 d && wide 2 a
  | .kref _ a => wide 2 a
  | .kmrg _ a => wide 2 a
  | .kpin d a => wide 3 d && wide 2 a
  | .kunpin d a => wide 1 d && wide 2 a
  | .kcost d a => wide 1 d && wide 2 a
  | .kbal _ a => wide 2 a
  | .kiter d a => wide 3 d && wide 2 a
  | .kcut d a n => wide 3 d && wide 1 a && n != 3
  | .kacre _ a => wide 1 a
  | .kenc d a _ => wide 1 d && wide 2 a
  | .kdec d a _ => wide 2 d && wide 1 a
  | .kpar d a _ => wide 1 d && wide 1 a
  | .kchd d a _ => wide 1 d && wide 1 a
  | .rld _ a _ _ => wide 1 a
  | .rst _ a _ _ => wide 3 a
  | .ratom _ a _ _ => wide 2 a
  | .xsend _ a _ _ => wide 3 a
  | .xpoll d _ => wide 2 d
  | .rred _ a _ _ => wide 3 a
  | .rfence _ => true
  | .rpath d _ => wide 2 d
  | .mma h _ _ t u _ => h.toNat ≤ 17 && (!(h == 6 || h == 7) || t &&& 1 == 0) && (h != 7 || u &&& 1 == 0)
  | .mlda _ _ => true
  | .mzero _ => true
  | .mst _ _ => true
  | .mest _ _ => true
  | .twr d _ _ => wide 3 d
  | .trd d _ _ => wide 3 d
  | .pfx _ r _ _ _ _ _ _ => r != 7
  | .lim _ => true
  | .drillLi a _ => gReg a
  | .drillLih a _ => gReg a
  | .drillLdw a b g _ => gReg a && gReg b && g.toNat ≤ 5
  | .drillLdd a b g _ => gReg a && gReg b && g.toNat ≤ 5
  | .drillStw a b g _ => gReg a && gReg b && g.toNat ≤ 5
  | .drillStd a b g _ => gReg a && gReg b && g.toNat ≤ 5
  | .drillAdd a b => gReg a && gReg b
  | .drillSub a b => gReg a && gReg b
  | .drillAnd a b => gReg a && gReg b
  | .drillOr a b => gReg a && gReg b
  | .drillXor a b => gReg a && gReg b
  | .drillShl a _ => gReg a
  | .drillShr a _ => gReg a
  | .drillAddi a _ => gReg a
  | .drillBeq a b i => gReg a && gReg b && i != 0
  | .drillBne a b i => gReg a && gReg b && i != 0
  | .drillBltu a b i => gReg a && gReg b && i != 0
  | .drillLoop a l n => gReg a && l != 0 && n != 0
  | .drillLaunch a b => gReg a && gReg b
  | .drillNode a _ => gReg a
  | .drillSignal a b => gReg a && gReg b
  | .drillWaitsig a b c => gReg a && gReg b && c != 3
  | .drillIndirect a b => gReg a && gReg b
  | .nop => true
  | .exit => true
  | .yield => true
  | .invlAll => true
  | .mrls => true
  | .illegalPattern _ _ _ => true
  | .plotAdmit _ => true
  | .furrowRelease _ => true
  | .loadComplete _ => true
  | .storeComplete _ => true
  | .atomicComplete _ => true
  | .l1Fill _ _ => true
  | .homeRead _ _ => true
  | .homeRenewal _ _ => true
  | .homeStore _ _ => true
  | .exclusiveGrant _ _ => true
  | .recall _ => true
  | .stampRebase => true
  | .barrierArrival _ => true
  | .barrierWake _ _ => true
  | .barrierReread _ _ => true
  | .waitwWake _ _ => true
  | .waitwPoll _ _ => true
  | .faultRecordWrite _ => true
  | .fresume _ => true
  | .svcrep _ _ => true
  | .tlbinv _ _ => true
  | .messageArrival _ => true
  | .scopeInstall _ => true
  | .l2SliceRetire _ _ => true
  | .retireResend _ => true
  | .dpartWrite _ _ => true
  | .copyCommandStart _ => true
  | .copyCommandEnd _ => true
  | .matrixOpStart _ => true
  | .matrixOpComplete _ => true
  | .budgetAddition _ => true
  | .powerMeasure _ => true
  | .thermalLimit _ _ => true
  | .keyRequest _ => true
  | .leafHandover _ _ _ _ => true
  | .kbalDrain _ _ => true
  | .qresRead _ => true
  | .queueEnable _ _ => true
  | .qctlPreempt _ => true
  | .qctlResume _ => true
  | .qctlDestroy _ => true
  | .drillPacketStart _ => true
  | .drillRet => true
  | .drillFence => true
  | .drillNext => true
  | .plotPlace _ => true
  | .launchSignal _ => true
  | .plotSave _ => true
  | .streamSave _ => true
  | .sheafRecordOffer _ => true
  | .sheafTimerExpire _ _ => true
  | .coldReset _ _ _ => true
  | .warmReset _ => true
  | .functionLevelReset => true
  | .spdmGetMeasurements _ => true
  | .devnoWrite _ => true
  | .rasCounterClear _ => true
  | .bridgeHalfFailure _ => true
  | .bridgeFailure _ => true
  | .registerWrite _ _ => true
  | .flitReceive _ _ _ => true
  | .replayTimeout _ _ => true
  | .lossOfLight _ _ _ => true
  | .darkPositionDetect _ _ => true
  | .headlandTimeout _ => true
  | .wavelengthRetrain _ _ => true
  | .wavelengthRejoin _ _ _ => true
  | .beaconReceive _ _ _ => true
  | .lightReturn _ => true
  | .slotClose _ => true
  | .remoteRequest _ _ _ _ _ => true
  | .remoteReply _ _ _ _ => true
  | .remoteTimeout _ => true
  | .reductionCombine _ _ _ _ _ _ => true
  | .bulkRequest _ _ _ _ _ _ _ _ _ => true
  | .grantIssue _ => true
  | .grantReceive _ _ _ _ _ => true
  | .bulkDataReceive _ _ _ _ _ => true
  | .grantExpiry _ _ _ _ => true
  | .senderSilenceTimeout _ _ => true
  | .doneReceive _ _ _ => true
  | .abortReceive _ _ _ => true
  | .deferResend _ _ => true
  | .xctlPause _ => true
  | .xctlResume _ => true
  | .pauseNotice _ _ _ _ => true
  | .pageWalkComplete _ _ _ => true
  | .tileTransferComplete _ => true
  | .queueFaultRingSpace _ => true
  | .cxlMemRequest _ _ _ => true
  | .powerLoss => true

end Sys2Proof
end

