-- ==== Sys2Proof/Decode.lean ====
section
/-! DEFINITION. Words to instructions and back (02 R38 to R65, 15 R336), and the formation and check of an issue group
(02 R40, R41, R53 to R57, R64, R65). A word is read as a number; a field is `hi:lo` of it. Decoding is total and
rejects by name; it reads the row's fixed bits, and what is illegal beyond them is `wellFormed` or the group check. -/

namespace Sys2Proof

/-- The `len` bits of `n` from bit `lo` up (00 R3). -/
def fld (n lo len : Nat) : Nat := n / 2 ^ lo % 2 ^ len

/-- Why a word is no instruction. -/
inductive DecodeError where
  /-- The major or function is assigned no row: a reserved function (02 R60, R61). -/
  | reservedFunction
  /-- The function is assigned, and a bit that it requires to be zero, or the chain bit a PFX or LIM needs, is wrong (02 R51, R53, R56, R64). -/
  | reservedField
  deriving DecidableEq, Repr

/-- Major 0x00 (02 R60, R61). -/
def decodeMajor00 (n : Nat) : Except DecodeError Instr :=
  if fld n 5 20 = 3 then .ok (.trap (.ofNat _ (fld n 0 5))) else
  if fld n 1 24 = 64 then .ok (.rte (.ofNat _ (fld n 0 1))) else
  if fld n 5 13 = 5 then .ok (.rdsr (.ofNat _ (fld n 18 7)) (.ofNat _ (fld n 0 5))) else
  if fld n 5 6 = 6 ∧ fld n 18 7 = 0 then .ok (.wrsr (.ofNat _ (fld n 11 7)) (.ofNat _ (fld n 0 5))) else
  if fld n 5 13 = 7 then .ok (.rdcnt (.ofNat _ (fld n 18 7)) (.ofNat _ (fld n 0 5))) else
  if fld n 5 6 = 8 then .ok (.sysc (.ofNat _ (fld n 18 7)) (.ofNat _ (fld n 11 7)) (.ofNat _ (fld n 0 5))) else
  if fld n 0 11 = 288 ∧ fld n 18 7 = 0 then .ok (.halt (.ofNat _ (fld n 11 7))) else
  if fld n 5 6 = 10 then .ok (.spawn (.ofNat _ (fld n 18 7)) (.ofNat _ (fld n 11 7)) (.ofNat _ (fld n 0 5))) else
  if fld n 5 20 = 11 then .ok (.brkpt (.ofNat _ (fld n 0 5))) else
  if fld n 0 25 = 0 then .ok (.nop) else
  if fld n 0 25 = 32 then .ok (.exit) else
  if fld n 0 25 = 64 then .ok (.yield) else
  if fld n 5 6 ≤ 11 then .error .reservedField else .error .reservedFunction

/-- Major 0x01 (02 R60). -/
def decodeMajor01 (n : Nat) : Except DecodeError Instr :=
  if fld n 24 1 = 0 then .ok (.waitc (.ofNat _ (fld n 18 6)) (.ofNat _ (fld n 12 6)) (.ofNat _ (fld n 6 6)) (.ofNat _ (fld n 0 6))) else
  .error .reservedField

/-- Major 0x02 (02 R60). -/
def decodeMajor02 (n : Nat) : Except DecodeError Instr :=
  .ok (.br (.ofNat _ (fld n 21 4)) (.ofNat _ (fld n 14 7)) (.ofNat _ (fld n 0 14)))

/-- Major 0x03 (02 R60). -/
def decodeMajor03 (n : Nat) : Except DecodeError Instr :=
  if fld n 18 3 = 0 then .ok (.brk (.ofNat _ (fld n 21 4)) (.ofNat _ (fld n 14 4)) (.ofNat _ (fld n 0 14))) else
  .error .reservedField

/-- Major 0x04 (02 R60). -/
def decodeMajor04 (n : Nat) : Except DecodeError Instr :=
  if fld n 21 4 = 0 then .ok (.call (.ofNat _ (fld n 14 7)) (.ofNat _ (fld n 0 14))) else
  .error .reservedField

/-- Major 0x05 (02 R60). -/
def decodeMajor05 (n : Nat) : Except DecodeError Instr :=
  if fld n 21 4 = 0 then .ok (.loop (.ofNat _ (fld n 14 7)) (.ofNat _ (fld n 0 14))) else
  .error .reservedField

/-- Major 0x06 (02 R60). -/
def decodeMajor06 (n : Nat) : Except DecodeError Instr :=
  if fld n 21 4 = 0 then .ok (.sadd (.ofNat _ (fld n 14 7)) (.ofNat _ (fld n 7 7)) (.ofNat _ (fld n 0 7))) else
  if fld n 21 4 = 4 then .ok (.ssub (.ofNat _ (fld n 14 7)) (.ofNat _ (fld n 7 7)) (.ofNat _ (fld n 0 7))) else
  if fld n 21 4 = 8 then .ok (.smul (.ofNat _ (fld n 14 7)) (.ofNat _ (fld n 7 7)) (.ofNat _ (fld n 0 7))) else
  if fld n 21 4 = 12 then .ok (.smulh (.ofNat _ (fld n 14 7)) (.ofNat _ (fld n 7 7)) (.ofNat _ (fld n 0 7))) else
  .error .reservedField

/-- Major 0x07 (02 R60). -/
def decodeMajor07 (n : Nat) : Except DecodeError Instr :=
  if fld n 21 4 = 0 then .ok (.sand (.ofNat _ (fld n 14 7)) (.ofNat _ (fld n 7 7)) (.ofNat _ (fld n 0 7))) else
  if fld n 21 4 = 4 then .ok (.sor (.ofNat _ (fld n 14 7)) (.ofNat _ (fld n 7 7)) (.ofNat _ (fld n 0 7))) else
  if fld n 21 4 = 8 then .ok (.sxor (.ofNat _ (fld n 14 7)) (.ofNat _ (fld n 7 7)) (.ofNat _ (fld n 0 7))) else
  if fld n 21 4 = 12 then .ok (.sandn (.ofNat _ (fld n 14 7)) (.ofNat _ (fld n 7 7)) (.ofNat _ (fld n 0 7))) else
  .error .reservedField

/-- Major 0x08 (02 R60). -/
def decodeMajor08 (n : Nat) : Except DecodeError Instr :=
  if fld n 21 4 = 0 then .ok (.sshl (.ofNat _ (fld n 14 7)) (.ofNat _ (fld n 7 7)) (.ofNat _ (fld n 0 7))) else
  if fld n 21 4 = 4 then .ok (.sshr (.ofNat _ (fld n 14 7)) (.ofNat _ (fld n 7 7)) (.ofNat _ (fld n 0 7))) else
  if fld n 21 4 = 8 then .ok (.ssra (.ofNat _ (fld n 14 7)) (.ofNat _ (fld n 7 7)) (.ofNat _ (fld n 0 7))) else
  if fld n 21 4 = 12 then .ok (.srot (.ofNat _ (fld n 14 7)) (.ofNat _ (fld n 7 7)) (.ofNat _ (fld n 0 7))) else
  .error .reservedField

/-- Major 0x09 (02 R60). -/
def decodeMajor09 (n : Nat) : Except DecodeError Instr :=
  if fld n 5 2 = 0 ∧ fld n 21 4 = 0 then .ok (.sshli (.ofNat _ (fld n 14 7)) (.ofNat _ (fld n 7 7)) (.ofNat _ (fld n 0 5))) else
  if fld n 5 2 = 0 ∧ fld n 21 4 = 4 then .ok (.sshri (.ofNat _ (fld n 14 7)) (.ofNat _ (fld n 7 7)) (.ofNat _ (fld n 0 5))) else
  if fld n 5 2 = 0 ∧ fld n 21 4 = 8 then .ok (.ssrai (.ofNat _ (fld n 14 7)) (.ofNat _ (fld n 7 7)) (.ofNat _ (fld n 0 5))) else
  if fld n 5 2 = 0 ∧ fld n 21 4 = 12 then .ok (.sroti (.ofNat _ (fld n 14 7)) (.ofNat _ (fld n 7 7)) (.ofNat _ (fld n 0 5))) else
  .error .reservedField

/-- Major 0x0a (02 R60). -/
def decodeMajor0A (n : Nat) : Except DecodeError Instr :=
  if fld n 21 4 = 0 then .ok (.smin (.ofNat _ (fld n 14 7)) (.ofNat _ (fld n 7 7)) (.ofNat _ (fld n 0 7))) else
  if fld n 21 4 = 4 then .ok (.smax (.ofNat _ (fld n 14 7)) (.ofNat _ (fld n 7 7)) (.ofNat _ (fld n 0 7))) else
  if fld n 21 4 = 8 then .ok (.sminn (.ofNat _ (fld n 14 7)) (.ofNat _ (fld n 7 7)) (.ofNat _ (fld n 0 7))) else
  if fld n 21 4 = 12 then .ok (.smaxn (.ofNat _ (fld n 14 7)) (.ofNat _ (fld n 7 7)) (.ofNat _ (fld n 0 7))) else
  .error .reservedField

/-- Major 0x0b (02 R60). -/
def decodeMajor0B (n : Nat) : Except DecodeError Instr :=
  if fld n 21 4 = 0 then .ok (.sseq (.ofNat _ (fld n 14 7)) (.ofNat _ (fld n 7 7)) (.ofNat _ (fld n 0 7))) else
  if fld n 21 4 = 4 then .ok (.sslt (.ofNat _ (fld n 14 7)) (.ofNat _ (fld n 7 7)) (.ofNat _ (fld n 0 7))) else
  if fld n 21 4 = 8 then .ok (.ssltn (.ofNat _ (fld n 14 7)) (.ofNat _ (fld n 7 7)) (.ofNat _ (fld n 0 7))) else
  if fld n 21 4 = 12 then .ok (.ssne (.ofNat _ (fld n 14 7)) (.ofNat _ (fld n 7 7)) (.ofNat _ (fld n 0 7))) else
  .error .reservedField

/-- Major 0x0c (02 R60). -/
def decodeMajor0C (n : Nat) : Except DecodeError Instr :=
  if fld n 0 7 = 0 ∧ fld n 21 4 = 0 then .ok (.smov (.ofNat _ (fld n 14 7)) (.ofNat _ (fld n 7 7))) else
  if fld n 21 4 = 4 then .ok (.ssel (.ofNat _ (fld n 14 7)) (.ofNat _ (fld n 7 7)) (.ofNat _ (fld n 0 7))) else
  if fld n 0 7 = 0 ∧ fld n 21 4 = 8 then .ok (.sclz (.ofNat _ (fld n 14 7)) (.ofNat _ (fld n 7 7))) else
  if fld n 0 7 = 0 ∧ fld n 21 4 = 12 then .ok (.spopc (.ofNat _ (fld n 14 7)) (.ofNat _ (fld n 7 7))) else
  .error .reservedField

/-- Major 0x0d (02 R60). -/
def decodeMajor0D (n : Nat) : Except DecodeError Instr :=
  .ok (.saddi (.ofNat _ (fld n 18 7)) (.ofNat _ (fld n 11 7)) (.ofNat _ (fld n 0 11)))

/-- Major 0x0e (02 R60). -/
def decodeMajor0E (n : Nat) : Except DecodeError Instr :=
  .ok (.sli (.ofNat _ (fld n 18 7)) (.ofNat _ (fld n 0 18)))

/-- Major 0x0f (02 R60). -/
def decodeMajor0F (n : Nat) : Except DecodeError Instr :=
  .ok (.slui (.ofNat _ (fld n 18 7)) (.ofNat _ (fld n 0 18)))

/-- Major 0x10 (02 R60, R61). -/
def decodeMajor10 (n : Nat) : Except DecodeError Instr :=
  if fld n 0 11 = 0 ∧ fld n 18 7 = 0 then .ok (.jmp (.ofNat _ (fld n 11 7))) else
  if fld n 0 11 = 32 then .ok (.callr (.ofNat _ (fld n 18 7)) (.ofNat _ (fld n 11 7))) else
  if fld n 5 6 ≤ 1 then .error .reservedField else .error .reservedFunction

/-- Major 0x11 (02 R60). -/
def decodeMajor11 (n : Nat) : Except DecodeError Instr :=
  if fld n 23 2 = 0 then .ok (.vadd (.ofNat _ (fld n 21 2)) (.ofNat _ (fld n 14 7)) (.ofNat _ (fld n 7 7)) (.ofNat _ (fld n 0 7))) else
  if fld n 23 2 = 1 then .ok (.vsub (.ofNat _ (fld n 21 2)) (.ofNat _ (fld n 14 7)) (.ofNat _ (fld n 7 7)) (.ofNat _ (fld n 0 7))) else
  if fld n 23 2 = 2 then .ok (.vmul (.ofNat _ (fld n 21 2)) (.ofNat _ (fld n 14 7)) (.ofNat _ (fld n 7 7)) (.ofNat _ (fld n 0 7))) else
  if fld n 23 2 = 3 then .ok (.vmulh (.ofNat _ (fld n 21 2)) (.ofNat _ (fld n 14 7)) (.ofNat _ (fld n 7 7)) (.ofNat _ (fld n 0 7))) else
  .error .reservedField

/-- Major 0x12 (02 R60). -/
def decodeMajor12 (n : Nat) : Except DecodeError Instr :=
  if fld n 23 2 = 0 then .ok (.vmulhn (.ofNat _ (fld n 21 2)) (.ofNat _ (fld n 14 7)) (.ofNat _ (fld n 7 7)) (.ofNat _ (fld n 0 7))) else
  if fld n 23 2 = 1 then .ok (.vaddc (.ofNat _ (fld n 21 2)) (.ofNat _ (fld n 14 7)) (.ofNat _ (fld n 7 7)) (.ofNat _ (fld n 0 7))) else
  if fld n 23 2 = 2 then .ok (.vsadd (.ofNat _ (fld n 21 2)) (.ofNat _ (fld n 14 7)) (.ofNat _ (fld n 7 7)) (.ofNat _ (fld n 0 7))) else
  if fld n 23 2 = 3 then .ok (.vssub (.ofNat _ (fld n 21 2)) (.ofNat _ (fld n 14 7)) (.ofNat _ (fld n 7 7)) (.ofNat _ (fld n 0 7))) else
  .error .reservedField

/-- Major 0x13 (02 R60). -/
def decodeMajor13 (n : Nat) : Except DecodeError Instr :=
  if fld n 23 2 = 0 then .ok (.vand (.ofNat _ (fld n 21 2)) (.ofNat _ (fld n 14 7)) (.ofNat _ (fld n 7 7)) (.ofNat _ (fld n 0 7))) else
  if fld n 23 2 = 1 then .ok (.vor (.ofNat _ (fld n 21 2)) (.ofNat _ (fld n 14 7)) (.ofNat _ (fld n 7 7)) (.ofNat _ (fld n 0 7))) else
  if fld n 23 2 = 2 then .ok (.vxor (.ofNat _ (fld n 21 2)) (.ofNat _ (fld n 14 7)) (.ofNat _ (fld n 7 7)) (.ofNat _ (fld n 0 7))) else
  if fld n 23 2 = 3 then .ok (.vandn (.ofNat _ (fld n 21 2)) (.ofNat _ (fld n 14 7)) (.ofNat _ (fld n 7 7)) (.ofNat _ (fld n 0 7))) else
  .error .reservedField

/-- Major 0x14 (02 R60). -/
def decodeMajor14 (n : Nat) : Except DecodeError Instr :=
  if fld n 23 2 = 0 then .ok (.vshl (.ofNat _ (fld n 21 2)) (.ofNat _ (fld n 14 7)) (.ofNat _ (fld n 7 7)) (.ofNat _ (fld n 0 7))) else
  if fld n 23 2 = 1 then .ok (.vshr (.ofNat _ (fld n 21 2)) (.ofNat _ (fld n 14 7)) (.ofNat _ (fld n 7 7)) (.ofNat _ (fld n 0 7))) else
  if fld n 23 2 = 2 then .ok (.vsra (.ofNat _ (fld n 21 2)) (.ofNat _ (fld n 14 7)) (.ofNat _ (fld n 7 7)) (.ofNat _ (fld n 0 7))) else
  if fld n 23 2 = 3 then .ok (.vrot (.ofNat _ (fld n 21 2)) (.ofNat _ (fld n 14 7)) (.ofNat _ (fld n 7 7)) (.ofNat _ (fld n 0 7))) else
  .error .reservedField

/-- Major 0x15 (02 R60). -/
def decodeMajor15 (n : Nat) : Except DecodeError Instr :=
  if fld n 5 2 = 0 ∧ fld n 23 2 = 0 then .ok (.vshli (.ofNat _ (fld n 21 2)) (.ofNat _ (fld n 14 7)) (.ofNat _ (fld n 7 7)) (.ofNat _ (fld n 0 5))) else
  if fld n 5 2 = 0 ∧ fld n 23 2 = 1 then .ok (.vshri (.ofNat _ (fld n 21 2)) (.ofNat _ (fld n 14 7)) (.ofNat _ (fld n 7 7)) (.ofNat _ (fld n 0 5))) else
  if fld n 5 2 = 0 ∧ fld n 23 2 = 2 then .ok (.vsrai (.ofNat _ (fld n 21 2)) (.ofNat _ (fld n 14 7)) (.ofNat _ (fld n 7 7)) (.ofNat _ (fld n 0 5))) else
  if fld n 5 2 = 0 ∧ fld n 23 2 = 3 then .ok (.vroti (.ofNat _ (fld n 21 2)) (.ofNat _ (fld n 14 7)) (.ofNat _ (fld n 7 7)) (.ofNat _ (fld n 0 5))) else
  .error .reservedField

/-- Major 0x16 (02 R60). -/
def decodeMajor16 (n : Nat) : Except DecodeError Instr :=
  if fld n 23 2 = 0 then .ok (.vmin (.ofNat _ (fld n 21 2)) (.ofNat _ (fld n 14 7)) (.ofNat _ (fld n 7 7)) (.ofNat _ (fld n 0 7))) else
  if fld n 23 2 = 1 then .ok (.vmax (.ofNat _ (fld n 21 2)) (.ofNat _ (fld n 14 7)) (.ofNat _ (fld n 7 7)) (.ofNat _ (fld n 0 7))) else
  if fld n 23 2 = 2 then .ok (.vminn (.ofNat _ (fld n 21 2)) (.ofNat _ (fld n 14 7)) (.ofNat _ (fld n 7 7)) (.ofNat _ (fld n 0 7))) else
  if fld n 23 2 = 3 then .ok (.vmaxn (.ofNat _ (fld n 21 2)) (.ofNat _ (fld n 14 7)) (.ofNat _ (fld n 7 7)) (.ofNat _ (fld n 0 7))) else
  .error .reservedField

/-- Major 0x17 (02 R60). -/
def decodeMajor17 (n : Nat) : Except DecodeError Instr :=
  if fld n 0 7 = 0 ∧ fld n 23 2 = 0 then .ok (.vclz (.ofNat _ (fld n 21 2)) (.ofNat _ (fld n 14 7)) (.ofNat _ (fld n 7 7))) else
  if fld n 0 7 = 0 ∧ fld n 23 2 = 1 then .ok (.vpopc (.ofNat _ (fld n 21 2)) (.ofNat _ (fld n 14 7)) (.ofNat _ (fld n 7 7))) else
  if fld n 0 7 = 0 ∧ fld n 23 2 = 2 then .ok (.vbrev (.ofNat _ (fld n 21 2)) (.ofNat _ (fld n 14 7)) (.ofNat _ (fld n 7 7))) else
  if fld n 0 7 = 0 ∧ fld n 23 2 = 3 then .ok (.vabs (.ofNat _ (fld n 21 2)) (.ofNat _ (fld n 14 7)) (.ofNat _ (fld n 7 7))) else
  .error .reservedField

/-- Major 0x18 (02 R60). -/
def decodeMajor18 (n : Nat) : Except DecodeError Instr :=
  if fld n 23 2 = 0 then .ok (.vbfe (.ofNat _ (fld n 21 2)) (.ofNat _ (fld n 14 7)) (.ofNat _ (fld n 7 7)) (.ofNat _ (fld n 0 7))) else
  if fld n 23 2 = 1 then .ok (.vbfen (.ofNat _ (fld n 21 2)) (.ofNat _ (fld n 14 7)) (.ofNat _ (fld n 7 7)) (.ofNat _ (fld n 0 7))) else
  if fld n 23 2 = 2 then .ok (.vbfi (.ofNat _ (fld n 21 2)) (.ofNat _ (fld n 14 7)) (.ofNat _ (fld n 7 7)) (.ofNat _ (fld n 0 7))) else
  if fld n 23 2 = 3 then .ok (.vprmb (.ofNat _ (fld n 21 2)) (.ofNat _ (fld n 14 7)) (.ofNat _ (fld n 7 7)) (.ofNat _ (fld n 0 7))) else
  .error .reservedField

/-- Major 0x19 (02 R60). -/
def decodeMajor19 (n : Nat) : Except DecodeError Instr :=
  if fld n 23 2 = 0 then .ok (.vmad (.ofNat _ (fld n 21 2)) (.ofNat _ (fld n 14 7)) (.ofNat _ (fld n 7 7)) (.ofNat _ (fld n 0 7))) else
  if fld n 23 2 = 1 then .ok (.vdot4 (.ofNat _ (fld n 21 2)) (.ofNat _ (fld n 14 7)) (.ofNat _ (fld n 7 7)) (.ofNat _ (fld n 0 7))) else
  if fld n 23 2 = 2 then .ok (.vdot4n (.ofNat _ (fld n 21 2)) (.ofNat _ (fld n 14 7)) (.ofNat _ (fld n 7 7)) (.ofNat _ (fld n 0 7))) else
  if fld n 23 2 = 3 then .ok (.vsad (.ofNat _ (fld n 21 2)) (.ofNat _ (fld n 14 7)) (.ofNat _ (fld n 7 7)) (.ofNat _ (fld n 0 7))) else
  .error .reservedField

/-- Major 0x1a (02 R60). -/
def decodeMajor1A (n : Nat) : Except DecodeError Instr :=
  .ok (.vaddi (.ofNat _ (fld n 18 7)) (.ofNat _ (fld n 11 7)) (.ofNat _ (fld n 0 11)))

/-- Major 0x1b (02 R60). -/
def decodeMajor1B (n : Nat) : Except DecodeError Instr :=
  .ok (.vli (.ofNat _ (fld n 18 7)) (.ofNat _ (fld n 0 18)))

/-- Major 0x1c (02 R60). -/
def decodeMajor1C (n : Nat) : Except DecodeError Instr :=
  if fld n 18 7 = 0 then .ok (.vceq (.ofNat _ (fld n 14 4)) (.ofNat _ (fld n 7 7)) (.ofNat _ (fld n 0 7))) else
  if fld n 18 7 = 32 then .ok (.vclt (.ofNat _ (fld n 14 4)) (.ofNat _ (fld n 7 7)) (.ofNat _ (fld n 0 7))) else
  if fld n 18 7 = 64 then .ok (.vcltn (.ofNat _ (fld n 14 4)) (.ofNat _ (fld n 7 7)) (.ofNat _ (fld n 0 7))) else
  if fld n 18 7 = 96 then .ok (.vcne (.ofNat _ (fld n 14 4)) (.ofNat _ (fld n 7 7)) (.ofNat _ (fld n 0 7))) else
  .error .reservedField

/-- Major 0x1d (02 R60). -/
def decodeMajor1D (n : Nat) : Except DecodeError Instr :=
  .ok (.vsel (.ofNat _ (fld n 21 4)) (.ofNat _ (fld n 14 7)) (.ofNat _ (fld n 7 7)) (.ofNat _ (fld n 0 7)))

/-- Major 0x1e (02 R60). -/
def decodeMajor1E (n : Nat) : Except DecodeError Instr :=
  if fld n 0 7 = 0 ∧ fld n 23 2 = 0 then .ok (.vmov (.ofNat _ (fld n 21 2)) (.ofNat _ (fld n 14 7)) (.ofNat _ (fld n 7 7))) else
  if fld n 0 7 = 0 ∧ fld n 21 4 = 4 then .ok (.vmovs (.ofNat _ (fld n 14 7)) (.ofNat _ (fld n 7 7))) else
  if fld n 21 4 = 8 then .ok (.vrdl (.ofNat _ (fld n 14 7)) (.ofNat _ (fld n 7 7)) (.ofNat _ (fld n 0 7))) else
  if fld n 21 4 = 12 then .ok (.vwrl (.ofNat _ (fld n 14 7)) (.ofNat _ (fld n 7 7)) (.ofNat _ (fld n 0 7))) else
  .error .reservedField

/-- Major 0x1f (02 R60). -/
def decodeMajor1F (n : Nat) : Except DecodeError Instr :=
  if fld n 23 2 = 0 then .ok (.fadd (.ofNat _ (fld n 21 2)) (.ofNat _ (fld n 14 7)) (.ofNat _ (fld n 7 7)) (.ofNat _ (fld n 0 7))) else
  if fld n 23 2 = 1 then .ok (.fsub (.ofNat _ (fld n 21 2)) (.ofNat _ (fld n 14 7)) (.ofNat _ (fld n 7 7)) (.ofNat _ (fld n 0 7))) else
  if fld n 23 2 = 2 then .ok (.fmul (.ofNat _ (fld n 21 2)) (.ofNat _ (fld n 14 7)) (.ofNat _ (fld n 7 7)) (.ofNat _ (fld n 0 7))) else
  if fld n 23 2 = 3 then .ok (.fmac (.ofNat _ (fld n 21 2)) (.ofNat _ (fld n 14 7)) (.ofNat _ (fld n 7 7)) (.ofNat _ (fld n 0 7))) else
  .error .reservedField

/-- Major 0x20 (02 R60). -/
def decodeMajor20 (n : Nat) : Except DecodeError Instr :=
  if fld n 23 2 = 0 then .ok (.fmin (.ofNat _ (fld n 21 2)) (.ofNat _ (fld n 14 7)) (.ofNat _ (fld n 7 7)) (.ofNat _ (fld n 0 7))) else
  if fld n 23 2 = 1 then .ok (.fmax (.ofNat _ (fld n 21 2)) (.ofNat _ (fld n 14 7)) (.ofNat _ (fld n 7 7)) (.ofNat _ (fld n 0 7))) else
  if fld n 23 2 = 2 then .ok (.fcpys (.ofNat _ (fld n 21 2)) (.ofNat _ (fld n 14 7)) (.ofNat _ (fld n 7 7)) (.ofNat _ (fld n 0 7))) else
  if fld n 23 2 = 3 then .ok (.fscal (.ofNat _ (fld n 21 2)) (.ofNat _ (fld n 14 7)) (.ofNat _ (fld n 7 7)) (.ofNat _ (fld n 0 7))) else
  .error .reservedField

/-- Major 0x21 (02 R60). -/
def decodeMajor21 (n : Nat) : Except DecodeError Instr :=
  if fld n 18 7 = 0 then .ok (.fceq (.ofNat _ (fld n 14 4)) (.ofNat _ (fld n 7 7)) (.ofNat _ (fld n 0 7))) else
  if fld n 18 7 = 32 then .ok (.fclt (.ofNat _ (fld n 14 4)) (.ofNat _ (fld n 7 7)) (.ofNat _ (fld n 0 7))) else
  if fld n 18 7 = 64 then .ok (.fcle (.ofNat _ (fld n 14 4)) (.ofNat _ (fld n 7 7)) (.ofNat _ (fld n 0 7))) else
  if fld n 18 7 = 96 then .ok (.fcun (.ofNat _ (fld n 14 4)) (.ofNat _ (fld n 7 7)) (.ofNat _ (fld n 0 7))) else
  .error .reservedField

/-- Major 0x22 (02 R60). -/
def decodeMajor22 (n : Nat) : Except DecodeError Instr :=
  if fld n 0 7 = 0 ∧ fld n 23 2 = 0 then .ok (.frcp (.ofNat _ (fld n 21 2)) (.ofNat _ (fld n 14 7)) (.ofNat _ (fld n 7 7))) else
  if fld n 0 7 = 0 ∧ fld n 23 2 = 1 then .ok (.frsq (.ofNat _ (fld n 21 2)) (.ofNat _ (fld n 14 7)) (.ofNat _ (fld n 7 7))) else
  if fld n 0 7 = 0 ∧ fld n 23 2 = 2 then .ok (.fsqrt (.ofNat _ (fld n 21 2)) (.ofNat _ (fld n 14 7)) (.ofNat _ (fld n 7 7))) else
  if fld n 0 7 = 0 ∧ fld n 23 2 = 3 then .ok (.fexp2 (.ofNat _ (fld n 21 2)) (.ofNat _ (fld n 14 7)) (.ofNat _ (fld n 7 7))) else
  .error .reservedField

/-- Major 0x23 (02 R60). -/
def decodeMajor23 (n : Nat) : Except DecodeError Instr :=
  if fld n 0 7 = 0 ∧ fld n 23 2 = 0 then .ok (.flog2 (.ofNat _ (fld n 21 2)) (.ofNat _ (fld n 14 7)) (.ofNat _ (fld n 7 7))) else
  if fld n 0 7 = 0 ∧ fld n 23 2 = 1 then .ok (.fsin (.ofNat _ (fld n 21 2)) (.ofNat _ (fld n 14 7)) (.ofNat _ (fld n 7 7))) else
  if fld n 0 7 = 0 ∧ fld n 23 2 = 2 then .ok (.fcos (.ofNat _ (fld n 21 2)) (.ofNat _ (fld n 14 7)) (.ofNat _ (fld n 7 7))) else
  if fld n 0 7 = 0 ∧ fld n 23 2 = 3 then .ok (.ftanh (.ofNat _ (fld n 21 2)) (.ofNat _ (fld n 14 7)) (.ofNat _ (fld n 7 7))) else
  .error .reservedField

/-- Major 0x24 (02 R60). -/
def decodeMajor24 (n : Nat) : Except DecodeError Instr :=
  if fld n 1 6 = 0 ∧ fld n 23 2 = 0 then .ok (.cvtf (.ofNat _ (fld n 21 2)) (.ofNat _ (fld n 14 7)) (.ofNat _ (fld n 7 7)) (.ofNat _ (fld n 0 1))) else
  if fld n 1 6 = 0 ∧ fld n 23 2 = 1 then .ok (.cvti (.ofNat _ (fld n 21 2)) (.ofNat _ (fld n 14 7)) (.ofNat _ (fld n 7 7)) (.ofNat _ (fld n 0 1))) else
  if fld n 0 7 = 0 ∧ fld n 23 2 = 2 then .ok (.frnd (.ofNat _ (fld n 21 2)) (.ofNat _ (fld n 14 7)) (.ofNat _ (fld n 7 7))) else
  if fld n 3 4 = 0 ∧ fld n 23 2 = 3 then .ok (.cvtn (.ofNat _ (fld n 21 2)) (.ofNat _ (fld n 14 7)) (.ofNat _ (fld n 7 7)) (.ofNat _ (fld n 0 3))) else
  .error .reservedField

/-- Major 0x25 (02 R60). -/
def decodeMajor25 (n : Nat) : Except DecodeError Instr :=
  if fld n 2 5 = 0 ∧ fld n 21 4 = 2 then .ok (.qpack (.ofNat _ (fld n 14 7)) (.ofNat _ (fld n 7 7)) (.ofNat _ (fld n 0 2))) else
  if fld n 0 7 = 0 ∧ fld n 21 4 = 6 then .ok (.qunpk (.ofNat _ (fld n 14 7)) (.ofNat _ (fld n 7 7))) else
  if fld n 21 4 = 8 then .ok (.qscal (.ofNat _ (fld n 14 7)) (.ofNat _ (fld n 7 7)) (.ofNat _ (fld n 0 7))) else
  if fld n 2 5 = 0 ∧ fld n 21 4 = 12 then .ok (.qretag (.ofNat _ (fld n 14 7)) (.ofNat _ (fld n 7 7)) (.ofNat _ (fld n 0 2))) else
  .error .reservedField

/-- Major 0x26 (02 R60). -/
def decodeMajor26 (n : Nat) : Except DecodeError Instr :=
  if fld n 4 3 = 0 ∧ fld n 11 3 = 0 ∧ fld n 18 7 = 0 then .ok (.kand (.ofNat _ (fld n 14 4)) (.ofNat _ (fld n 7 4)) (.ofNat _ (fld n 0 4))) else
  if fld n 4 3 = 0 ∧ fld n 11 3 = 0 ∧ fld n 18 7 = 32 then .ok (.kor (.ofNat _ (fld n 14 4)) (.ofNat _ (fld n 7 4)) (.ofNat _ (fld n 0 4))) else
  if fld n 4 3 = 0 ∧ fld n 11 3 = 0 ∧ fld n 18 7 = 64 then .ok (.kxor (.ofNat _ (fld n 14 4)) (.ofNat _ (fld n 7 4)) (.ofNat _ (fld n 0 4))) else
  if fld n 4 3 = 0 ∧ fld n 11 3 = 0 ∧ fld n 18 7 = 96 then .ok (.kandn (.ofNat _ (fld n 14 4)) (.ofNat _ (fld n 7 4)) (.ofNat _ (fld n 0 4))) else
  .error .reservedField

/-- Major 0x27 (02 R60). -/
def decodeMajor27 (n : Nat) : Except DecodeError Instr :=
  if fld n 0 7 = 0 ∧ fld n 11 3 = 0 ∧ fld n 21 4 = 0 then .ok (.kpopc (.ofNat _ (fld n 14 7)) (.ofNat _ (fld n 7 4))) else
  if fld n 0 7 = 0 ∧ fld n 11 3 = 0 ∧ fld n 21 4 = 4 then .ok (.kffs (.ofNat _ (fld n 14 7)) (.ofNat _ (fld n 7 4))) else
  if fld n 0 7 = 0 ∧ fld n 11 3 = 0 ∧ fld n 21 4 = 9 then .ok (.ktos (.ofNat _ (fld n 14 7)) (.ofNat _ (fld n 7 4))) else
  if fld n 0 7 = 0 ∧ fld n 18 7 = 104 then .ok (.kfrs (.ofNat _ (fld n 14 4)) (.ofNat _ (fld n 7 7))) else
  .error .reservedField

/-- Major 0x28 (02 R60). -/
def decodeMajor28 (n : Nat) : Except DecodeError Instr :=
  if fld n 23 2 = 0 then .ok (.shfli (.ofNat _ (fld n 21 2)) (.ofNat _ (fld n 14 7)) (.ofNat _ (fld n 7 7)) (.ofNat _ (fld n 0 7))) else
  if fld n 6 1 = 0 ∧ fld n 23 2 = 1 then .ok (.shflu (.ofNat _ (fld n 21 2)) (.ofNat _ (fld n 14 7)) (.ofNat _ (fld n 7 7)) (.ofNat _ (fld n 0 6))) else
  if fld n 6 1 = 0 ∧ fld n 23 2 = 2 then .ok (.shfld (.ofNat _ (fld n 21 2)) (.ofNat _ (fld n 14 7)) (.ofNat _ (fld n 7 7)) (.ofNat _ (fld n 0 6))) else
  if fld n 6 1 = 0 ∧ fld n 23 2 = 3 then .ok (.shflx (.ofNat _ (fld n 21 2)) (.ofNat _ (fld n 14 7)) (.ofNat _ (fld n 7 7)) (.ofNat _ (fld n 0 6))) else
  .error .reservedField

/-- Major 0x29 (02 R60). -/
def decodeMajor29 (n : Nat) : Except DecodeError Instr :=
  if fld n 0 7 = 0 ∧ fld n 23 2 = 0 then .ok (.redadd (.ofNat _ (fld n 21 2)) (.ofNat _ (fld n 14 7)) (.ofNat _ (fld n 7 7))) else
  if fld n 0 7 = 0 ∧ fld n 23 2 = 1 then .ok (.redmin (.ofNat _ (fld n 21 2)) (.ofNat _ (fld n 14 7)) (.ofNat _ (fld n 7 7))) else
  if fld n 0 7 = 0 ∧ fld n 23 2 = 2 then .ok (.redmax (.ofNat _ (fld n 21 2)) (.ofNat _ (fld n 14 7)) (.ofNat _ (fld n 7 7))) else
  if fld n 0 7 = 0 ∧ fld n 21 4 = 12 then .ok (.redor (.ofNat _ (fld n 14 7)) (.ofNat _ (fld n 7 7))) else
  .error .reservedField

/-- Major 0x2a (02 R60). -/
def decodeMajor2A (n : Nat) : Except DecodeError Instr :=
  if fld n 0 7 = 0 ∧ fld n 23 2 = 0 then .ok (.scanadd (.ofNat _ (fld n 21 2)) (.ofNat _ (fld n 14 7)) (.ofNat _ (fld n 7 7))) else
  if fld n 0 7 = 0 ∧ fld n 23 2 = 1 then .ok (.scanmin (.ofNat _ (fld n 21 2)) (.ofNat _ (fld n 14 7)) (.ofNat _ (fld n 7 7))) else
  if fld n 0 7 = 0 ∧ fld n 23 2 = 2 then .ok (.scanmax (.ofNat _ (fld n 21 2)) (.ofNat _ (fld n 14 7)) (.ofNat _ (fld n 7 7))) else
  if fld n 0 7 = 0 ∧ fld n 23 2 = 3 then .ok (.scanaddx (.ofNat _ (fld n 21 2)) (.ofNat _ (fld n 14 7)) (.ofNat _ (fld n 7 7))) else
  .error .reservedField

/-- Major 0x2b (02 R60). -/
def decodeMajor2B (n : Nat) : Except DecodeError Instr :=
  .ok (.mred (.ofNat _ (fld n 21 4)) (.ofNat _ (fld n 14 7)) (.ofNat _ (fld n 7 7)) (.ofNat _ (fld n 0 7)))

/-- Major 0x2c (02 R60). -/
def decodeMajor2C (n : Nat) : Except DecodeError Instr :=
  .ok (.mredf (.ofNat _ (fld n 21 4)) (.ofNat _ (fld n 14 7)) (.ofNat _ (fld n 7 7)) (.ofNat _ (fld n 0 7)))

/-- Major 0x2d (02 R60). -/
def decodeMajor2D (n : Nat) : Except DecodeError Instr :=
  .ok (.mredm (.ofNat _ (fld n 21 4)) (.ofNat _ (fld n 14 7)) (.ofNat _ (fld n 7 7)) (.ofNat _ (fld n 0 7)))

/-- Major 0x2e (02 R60). -/
def decodeMajor2E (n : Nat) : Except DecodeError Instr :=
  .ok (.ld (.ofNat _ (fld n 22 3)) (.ofNat _ (fld n 20 2)) (.ofNat _ (fld n 13 7)) (.ofNat _ (fld n 6 7)) (.ofNat _ (fld n 0 6)))

/-- Major 0x2f (02 R60). -/
def decodeMajor2F (n : Nat) : Except DecodeError Instr :=
  .ok (.st (.ofNat _ (fld n 22 3)) (.ofNat _ (fld n 20 2)) (.ofNat _ (fld n 13 7)) (.ofNat _ (fld n 6 7)) (.ofNat _ (fld n 0 6)))

/-- Major 0x30 (02 R60). -/
def decodeMajor30 (n : Nat) : Except DecodeError Instr :=
  .ok (.ldsw (.ofNat _ (fld n 22 3)) (.ofNat _ (fld n 20 2)) (.ofNat _ (fld n 13 7)) (.ofNat _ (fld n 6 7)) (.ofNat _ (fld n 0 6)))

/-- Major 0x31 (02 R60). -/
def decodeMajor31 (n : Nat) : Except DecodeError Instr :=
  if fld n 21 1 = 0 then .ok (.stsw (.ofNat _ (fld n 22 3)) (.ofNat _ (fld n 20 1)) (.ofNat _ (fld n 13 7)) (.ofNat _ (fld n 6 7)) (.ofNat _ (fld n 0 6))) else
  .error .reservedField

/-- Major 0x32 (02 R60). -/
def decodeMajor32 (n : Nat) : Except DecodeError Instr :=
  .ok (.ldu (.ofNat _ (fld n 22 3)) (.ofNat _ (fld n 20 2)) (.ofNat _ (fld n 13 7)) (.ofNat _ (fld n 6 7)) (.ofNat _ (fld n 0 6)))

/-- Major 0x33 (02 R60). -/
def decodeMajor33 (n : Nat) : Except DecodeError Instr :=
  .ok (.stu (.ofNat _ (fld n 22 3)) (.ofNat _ (fld n 20 2)) (.ofNat _ (fld n 13 7)) (.ofNat _ (fld n 6 7)) (.ofNat _ (fld n 0 6)))

/-- Major 0x34 (02 R60). -/
def decodeMajor34 (n : Nat) : Except DecodeError Instr :=
  if fld n 23 2 = 0 then .ok (.atadd (.ofNat _ (fld n 20 3)) (.ofNat _ (fld n 13 7)) (.ofNat _ (fld n 7 6)) (.ofNat _ (fld n 0 7))) else
  if fld n 23 2 = 1 then .ok (.atand (.ofNat _ (fld n 20 3)) (.ofNat _ (fld n 13 7)) (.ofNat _ (fld n 7 6)) (.ofNat _ (fld n 0 7))) else
  if fld n 23 2 = 2 then .ok (.ator (.ofNat _ (fld n 20 3)) (.ofNat _ (fld n 13 7)) (.ofNat _ (fld n 7 6)) (.ofNat _ (fld n 0 7))) else
  if fld n 23 2 = 3 then .ok (.atxor (.ofNat _ (fld n 20 3)) (.ofNat _ (fld n 13 7)) (.ofNat _ (fld n 7 6)) (.ofNat _ (fld n 0 7))) else
  .error .reservedField

/-- Major 0x35 (02 R60). -/
def decodeMajor35 (n : Nat) : Except DecodeError Instr :=
  if fld n 23 2 = 0 then .ok (.atmin (.ofNat _ (fld n 20 3)) (.ofNat _ (fld n 13 7)) (.ofNat _ (fld n 7 6)) (.ofNat _ (fld n 0 7))) else
  if fld n 23 2 = 1 then .ok (.atmax (.ofNat _ (fld n 20 3)) (.ofNat _ (fld n 13 7)) (.ofNat _ (fld n 7 6)) (.ofNat _ (fld n 0 7))) else
  if fld n 23 2 = 2 then .ok (.atminn (.ofNat _ (fld n 20 3)) (.ofNat _ (fld n 13 7)) (.ofNat _ (fld n 7 6)) (.ofNat _ (fld n 0 7))) else
  if fld n 23 2 = 3 then .ok (.atmaxn (.ofNat _ (fld n 20 3)) (.ofNat _ (fld n 13 7)) (.ofNat _ (fld n 7 6)) (.ofNat _ (fld n 0 7))) else
  .error .reservedField

/-- Major 0x36 (02 R60). -/
def decodeMajor36 (n : Nat) : Except DecodeError Instr :=
  if fld n 23 2 = 0 then .ok (.atexch (.ofNat _ (fld n 20 3)) (.ofNat _ (fld n 13 7)) (.ofNat _ (fld n 7 6)) (.ofNat _ (fld n 0 7))) else
  if fld n 23 2 = 1 then .ok (.atcas (.ofNat _ (fld n 20 3)) (.ofNat _ (fld n 13 7)) (.ofNat _ (fld n 7 6)) (.ofNat _ (fld n 0 7))) else
  if fld n 23 2 = 2 then .ok (.atfadd (.ofNat _ (fld n 20 3)) (.ofNat _ (fld n 13 7)) (.ofNat _ (fld n 7 6)) (.ofNat _ (fld n 0 7))) else
  if fld n 23 2 = 3 then .ok (.atincw (.ofNat _ (fld n 20 3)) (.ofNat _ (fld n 13 7)) (.ofNat _ (fld n 7 6)) (.ofNat _ (fld n 0 7))) else
  .error .reservedField

/-- Major 0x37 (02 R60, R61). -/
def decodeMajor37 (n : Nat) : Except DecodeError Instr :=
  if fld n 3 22 = 0 then .ok (.fenceAcq (.ofNat _ (fld n 0 3))) else
  if fld n 3 22 = 4 then .ok (.fenceRel (.ofNat _ (fld n 0 3))) else
  if fld n 3 22 = 8 then .ok (.fenceAr (.ofNat _ (fld n 0 3))) else
  if fld n 3 22 = 12 then .ok (.fenceSc (.ofNat _ (fld n 0 3))) else
  if fld n 3 8 = 16 then .ok (.lda (.ofNat _ (fld n 18 7)) (.ofNat _ (fld n 11 7)) (.ofNat _ (fld n 0 3))) else
  if fld n 3 8 = 20 then .ok (.stl (.ofNat _ (fld n 18 7)) (.ofNat _ (fld n 11 7)) (.ofNat _ (fld n 0 3))) else
  if fld n 3 8 = 24 ∧ fld n 18 7 = 0 then .ok (.barw (.ofNat _ (fld n 11 7)) (.ofNat _ (fld n 0 3))) else
  if fld n 3 8 = 28 then .ok (.bara (.ofNat _ (fld n 18 7)) (.ofNat _ (fld n 11 7)) (.ofNat _ (fld n 0 3))) else
  if fld n 3 8 = 32 then .ok (.barq (.ofNat _ (fld n 18 7)) (.ofNat _ (fld n 11 7)) (.ofNat _ (fld n 0 3))) else
  if fld n 3 8 = 36 then .ok (.bari (.ofNat _ (fld n 18 7)) (.ofNat _ (fld n 11 7)) (.ofNat _ (fld n 0 3))) else
  if fld n 5 6 = 10 ∧ fld n 18 7 = 0 then .ok (.waitp (.ofNat _ (fld n 11 7)) (.ofNat _ (fld n 0 5))) else
  if fld n 5 6 = 11 then .ok (.waitw (.ofNat _ (fld n 18 7)) (.ofNat _ (fld n 11 7)) (.ofNat _ (fld n 3 2)) (.ofNat _ (fld n 0 3))) else
  if fld n 1 10 = 192 ∧ fld n 18 7 = 0 then .ok (.pref (.ofNat _ (fld n 11 7)) (.ofNat _ (fld n 0 1))) else
  if fld n 0 11 = 416 ∧ fld n 18 7 = 0 then .ok (.wbl (.ofNat _ (fld n 11 7))) else
  if fld n 0 11 = 448 ∧ fld n 18 7 = 0 then .ok (.invl (.ofNat _ (fld n 11 7))) else
  if fld n 3 8 = 60 then .ok (.scopeset (.ofNat _ (fld n 18 7)) (.ofNat _ (fld n 11 7)) (.ofNat _ (fld n 0 3))) else
  if fld n 3 8 = 64 ∧ fld n 18 7 = 0 then .ok (.scoperd (.ofNat _ (fld n 11 7)) (.ofNat _ (fld n 0 3))) else
  if fld n 0 11 = 544 ∧ fld n 18 7 = 0 then .ok (.cpy (.ofNat _ (fld n 11 7))) else
  if fld n 0 11 = 576 then .ok (.cpym (.ofNat _ (fld n 18 7)) (.ofNat _ (fld n 11 7))) else
  if fld n 0 11 = 608 then .ok (.msg (.ofNat _ (fld n 18 7)) (.ofNat _ (fld n 11 7))) else
  if fld n 0 11 = 640 then .ok (.mpost (.ofNat _ (fld n 18 7)) (.ofNat _ (fld n 11 7))) else
  if fld n 0 11 = 672 then .ok (.mprobe (.ofNat _ (fld n 18 7)) (.ofNat _ (fld n 11 7))) else
  if fld n 0 11 = 704 then .ok (.emit (.ofNat _ (fld n 18 7)) (.ofNat _ (fld n 11 7))) else
  if fld n 0 25 = 449 then .ok (.invlAll) else
  if fld n 5 6 ≤ 22 then .error .reservedField else .error .reservedFunction

/-- Major 0x38 (02 R60, R61). -/
def decodeMajor38 (n : Nat) : Except DecodeError Instr :=
  if fld n 0 11 = 0 then .ok (.klook (.ofNat _ (fld n 18 7)) (.ofNat _ (fld n 11 7))) else
  if fld n 0 11 = 32 then .ok (.knbr (.ofNat _ (fld n 18 7)) (.ofNat _ (fld n 11 7))) else
  if fld n 0 11 = 64 then .ok (.kref (.ofNat _ (fld n 18 7)) (.ofNat _ (fld n 11 7))) else
  if fld n 0 11 = 96 then .ok (.kmrg (.ofNat _ (fld n 18 7)) (.ofNat _ (fld n 11 7))) else
  if fld n 0 11 = 128 then .ok (.kpin (.ofNat _ (fld n 18 7)) (.ofNat _ (fld n 11 7))) else
  if fld n 0 11 = 160 then .ok (.kunpin (.ofNat _ (fld n 18 7)) (.ofNat _ (fld n 11 7))) else
  if fld n 0 11 = 192 then .ok (.kcost (.ofNat _ (fld n 18 7)) (.ofNat _ (fld n 11 7))) else
  if fld n 0 11 = 224 then .ok (.kbal (.ofNat _ (fld n 18 7)) (.ofNat _ (fld n 11 7))) else
  if fld n 0 11 = 256 then .ok (.kiter (.ofNat _ (fld n 18 7)) (.ofNat _ (fld n 11 7))) else
  if fld n 2 9 = 72 then .ok (.kcut (.ofNat _ (fld n 18 7)) (.ofNat _ (fld n 11 7)) (.ofNat _ (fld n 0 2))) else
  if fld n 0 11 = 320 then .ok (.kacre (.ofNat _ (fld n 18 7)) (.ofNat _ (fld n 11 7))) else
  if fld n 5 6 ≤ 10 then .error .reservedField else .error .reservedFunction

/-- Major 0x39 (02 R60). -/
def decodeMajor39 (n : Nat) : Except DecodeError Instr :=
  if fld n 21 4 = 1 then .ok (.kenc (.ofNat _ (fld n 14 7)) (.ofNat _ (fld n 7 7)) (.ofNat _ (fld n 0 7))) else
  if fld n 21 4 = 5 then .ok (.kdec (.ofNat _ (fld n 14 7)) (.ofNat _ (fld n 7 7)) (.ofNat _ (fld n 0 7))) else
  if fld n 21 4 = 9 then .ok (.kpar (.ofNat _ (fld n 14 7)) (.ofNat _ (fld n 7 7)) (.ofNat _ (fld n 0 7))) else
  if fld n 21 4 = 13 then .ok (.kchd (.ofNat _ (fld n 14 7)) (.ofNat _ (fld n 7 7)) (.ofNat _ (fld n 0 7))) else
  .error .reservedField

/-- Major 0x3a (02 R60, R61). -/
def decodeMajor3A (n : Nat) : Except DecodeError Instr :=
  if fld n 4 7 = 0 then .ok (.rld (.ofNat _ (fld n 18 7)) (.ofNat _ (fld n 11 7)) (.ofNat _ (fld n 3 1)) (.ofNat _ (fld n 0 3))) else
  if fld n 4 7 = 2 then .ok (.rst (.ofNat _ (fld n 18 7)) (.ofNat _ (fld n 11 7)) (.ofNat _ (fld n 3 1)) (.ofNat _ (fld n 0 3))) else
  if fld n 4 7 = 4 then .ok (.ratom (.ofNat _ (fld n 18 7)) (.ofNat _ (fld n 11 7)) (.ofNat _ (fld n 3 1)) (.ofNat _ (fld n 0 3))) else
  if fld n 4 7 = 6 then .ok (.xsend (.ofNat _ (fld n 18 7)) (.ofNat _ (fld n 11 7)) (.ofNat _ (fld n 3 1)) (.ofNat _ (fld n 0 3))) else
  if fld n 0 11 = 128 then .ok (.xpoll (.ofNat _ (fld n 18 7)) (.ofNat _ (fld n 11 7))) else
  if fld n 4 7 = 10 then .ok (.rred (.ofNat _ (fld n 18 7)) (.ofNat _ (fld n 11 7)) (.ofNat _ (fld n 3 1)) (.ofNat _ (fld n 0 3))) else
  if fld n 3 22 = 24 then .ok (.rfence (.ofNat _ (fld n 0 3))) else
  if fld n 0 11 = 224 then .ok (.rpath (.ofNat _ (fld n 18 7)) (.ofNat _ (fld n 11 7))) else
  if fld n 5 6 ≤ 7 then .error .reservedField else .error .reservedFunction

/-- Major 0x3b (02 R60). -/
def decodeMajor3B (n : Nat) : Except DecodeError Instr :=
  if fld n 0 3 = 0 then .ok (.mma (.ofNat _ (fld n 20 5)) (.ofNat _ (fld n 19 1)) (.ofNat _ (fld n 18 1)) (.ofNat _ (fld n 14 4)) (.ofNat _ (fld n 10 4)) (.ofNat _ (fld n 3 7))) else
  .error .reservedField

/-- Major 0x3c (02 R60, R61). -/
def decodeMajor3C (n : Nat) : Except DecodeError Instr :=
  if fld n 0 11 = 0 ∧ fld n 22 3 = 0 then .ok (.mlda (.ofNat _ (fld n 18 4)) (.ofNat _ (fld n 11 7))) else
  if fld n 0 18 = 32 ∧ fld n 22 3 = 0 then .ok (.mzero (.ofNat _ (fld n 18 4))) else
  if fld n 0 11 = 64 ∧ fld n 22 3 = 0 then .ok (.mst (.ofNat _ (fld n 18 4)) (.ofNat _ (fld n 11 7))) else
  if fld n 1 17 = 64 then .ok (.mest (.ofNat _ (fld n 18 7)) (.ofNat _ (fld n 0 1))) else
  if fld n 0 25 = 96 then .ok (.mrls) else
  if fld n 5 6 ≤ 4 then .error .reservedField else .error .reservedFunction

/-- Major 0x3d (02 R60, R61). -/
def decodeMajor3D (n : Nat) : Except DecodeError Instr :=
  if fld n 5 6 = 0 ∧ fld n 15 3 = 0 then .ok (.twr (.ofNat _ (fld n 18 7)) (.ofNat _ (fld n 11 4)) (.ofNat _ (fld n 0 5))) else
  if fld n 5 6 = 1 ∧ fld n 15 3 = 0 then .ok (.trd (.ofNat _ (fld n 18 7)) (.ofNat _ (fld n 11 4)) (.ofNat _ (fld n 0 5))) else
  if fld n 5 6 ≤ 1 then .error .reservedField else .error .reservedFunction

/-- Major 0x3e (02 R60). -/
def decodeMajor3E (n : Nat) : Except DecodeError Instr :=
  if fld n 31 1 = 1 then .ok (.pfx (.ofNat _ (fld n 21 4)) (.ofNat _ (fld n 18 3)) (.ofNat _ (fld n 17 1)) (.ofNat _ (fld n 10 7)) (.ofNat _ (fld n 8 2)) (.ofNat _ (fld n 5 3)) (.ofNat _ (fld n 4 1)) (.ofNat _ (fld n 0 4))) else
  .error .reservedField

/-- Major 0x3f (02 R60). -/
def decodeMajor3F (n : Nat) : Except DecodeError Instr :=
  if fld n 31 1 = 1 then .ok (.lim (.ofNat _ (fld n 0 25))) else
  .error .reservedField

/-- The Ocrov instruction of a word (02 R50, R60). -/
def decodeWord (w : Word) : Except DecodeError Instr :=
  let n := w.toNat
  match fld n 25 6 with
  | 0 => decodeMajor00 n
  | 1 => decodeMajor01 n
  | 2 => decodeMajor02 n
  | 3 => decodeMajor03 n
  | 4 => decodeMajor04 n
  | 5 => decodeMajor05 n
  | 6 => decodeMajor06 n
  | 7 => decodeMajor07 n
  | 8 => decodeMajor08 n
  | 9 => decodeMajor09 n
  | 10 => decodeMajor0A n
  | 11 => decodeMajor0B n
  | 12 => decodeMajor0C n
  | 13 => decodeMajor0D n
  | 14 => decodeMajor0E n
  | 15 => decodeMajor0F n
  | 16 => decodeMajor10 n
  | 17 => decodeMajor11 n
  | 18 => decodeMajor12 n
  | 19 => decodeMajor13 n
  | 20 => decodeMajor14 n
  | 21 => decodeMajor15 n
  | 22 => decodeMajor16 n
  | 23 => decodeMajor17 n
  | 24 => decodeMajor18 n
  | 25 => decodeMajor19 n
  | 26 => decodeMajor1A n
  | 27 => decodeMajor1B n
  | 28 => decodeMajor1C n
  | 29 => decodeMajor1D n
  | 30 => decodeMajor1E n
  | 31 => decodeMajor1F n
  | 32 => decodeMajor20 n
  | 33 => decodeMajor21 n
  | 34 => decodeMajor22 n
  | 35 => decodeMajor23 n
  | 36 => decodeMajor24 n
  | 37 => decodeMajor25 n
  | 38 => decodeMajor26 n
  | 39 => decodeMajor27 n
  | 40 => decodeMajor28 n
  | 41 => decodeMajor29 n
  | 42 => decodeMajor2A n
  | 43 => decodeMajor2B n
  | 44 => decodeMajor2C n
  | 45 => decodeMajor2D n
  | 46 => decodeMajor2E n
  | 47 => decodeMajor2F n
  | 48 => decodeMajor30 n
  | 49 => decodeMajor31 n
  | 50 => decodeMajor32 n
  | 51 => decodeMajor33 n
  | 52 => decodeMajor34 n
  | 53 => decodeMajor35 n
  | 54 => decodeMajor36 n
  | 55 => decodeMajor37 n
  | 56 => decodeMajor38 n
  | 57 => decodeMajor39 n
  | 58 => decodeMajor3A n
  | 59 => decodeMajor3B n
  | 60 => decodeMajor3C n
  | 61 => decodeMajor3D n
  | 62 => decodeMajor3E n
  | 63 => decodeMajor3F n
  | _ => .error .reservedFunction

/-- The drill operation of a word of a queue program (15 R336, R337). -/
def decodeDrill (w : Word) : Except DecodeError Instr :=
  let n := w.toNat
  if fld n 16 5 = 0 ∧ fld n 26 6 = 0 then .ok (.drillLi (.ofNat _ (fld n 21 5)) (.ofNat _ (fld n 0 16))) else
  if fld n 16 5 = 0 ∧ fld n 26 6 = 1 then .ok (.drillLih (.ofNat _ (fld n 21 5)) (.ofNat _ (fld n 0 16))) else
  if fld n 15 1 = 0 ∧ fld n 26 6 = 2 then .ok (.drillLdw (.ofNat _ (fld n 21 5)) (.ofNat _ (fld n 16 5)) (.ofNat _ (fld n 12 3)) (.ofNat _ (fld n 0 12))) else
  if fld n 15 1 = 0 ∧ fld n 26 6 = 3 then .ok (.drillLdd (.ofNat _ (fld n 21 5)) (.ofNat _ (fld n 16 5)) (.ofNat _ (fld n 12 3)) (.ofNat _ (fld n 0 12))) else
  if fld n 15 1 = 0 ∧ fld n 26 6 = 4 then .ok (.drillStw (.ofNat _ (fld n 21 5)) (.ofNat _ (fld n 16 5)) (.ofNat _ (fld n 12 3)) (.ofNat _ (fld n 0 12))) else
  if fld n 15 1 = 0 ∧ fld n 26 6 = 5 then .ok (.drillStd (.ofNat _ (fld n 21 5)) (.ofNat _ (fld n 16 5)) (.ofNat _ (fld n 12 3)) (.ofNat _ (fld n 0 12))) else
  if fld n 0 16 = 0 ∧ fld n 26 6 = 6 then .ok (.drillAdd (.ofNat _ (fld n 21 5)) (.ofNat _ (fld n 16 5))) else
  if fld n 0 16 = 0 ∧ fld n 26 6 = 7 then .ok (.drillSub (.ofNat _ (fld n 21 5)) (.ofNat _ (fld n 16 5))) else
  if fld n 0 16 = 0 ∧ fld n 26 6 = 8 then .ok (.drillAnd (.ofNat _ (fld n 21 5)) (.ofNat _ (fld n 16 5))) else
  if fld n 0 16 = 0 ∧ fld n 26 6 = 9 then .ok (.drillOr (.ofNat _ (fld n 21 5)) (.ofNat _ (fld n 16 5))) else
  if fld n 0 16 = 0 ∧ fld n 26 6 = 10 then .ok (.drillXor (.ofNat _ (fld n 21 5)) (.ofNat _ (fld n 16 5))) else
  if fld n 6 15 = 0 ∧ fld n 26 6 = 11 then .ok (.drillShl (.ofNat _ (fld n 21 5)) (.ofNat _ (fld n 0 6))) else
  if fld n 6 15 = 0 ∧ fld n 26 6 = 12 then .ok (.drillShr (.ofNat _ (fld n 21 5)) (.ofNat _ (fld n 0 6))) else
  if fld n 16 5 = 0 ∧ fld n 26 6 = 13 then .ok (.drillAddi (.ofNat _ (fld n 21 5)) (.ofNat _ (fld n 0 16))) else
  if fld n 26 6 = 14 then .ok (.drillBeq (.ofNat _ (fld n 21 5)) (.ofNat _ (fld n 16 5)) (.ofNat _ (fld n 0 16))) else
  if fld n 26 6 = 15 then .ok (.drillBne (.ofNat _ (fld n 21 5)) (.ofNat _ (fld n 16 5)) (.ofNat _ (fld n 0 16))) else
  if fld n 26 6 = 16 then .ok (.drillBltu (.ofNat _ (fld n 21 5)) (.ofNat _ (fld n 16 5)) (.ofNat _ (fld n 0 16))) else
  if fld n 16 5 = 0 ∧ fld n 26 6 = 17 then .ok (.drillLoop (.ofNat _ (fld n 21 5)) (.ofNat _ (fld n 8 8)) (.ofNat _ (fld n 0 8))) else
  if fld n 0 16 = 0 ∧ fld n 26 6 = 18 then .ok (.drillLaunch (.ofNat _ (fld n 21 5)) (.ofNat _ (fld n 16 5))) else
  if fld n 16 5 = 0 ∧ fld n 26 6 = 19 then .ok (.drillNode (.ofNat _ (fld n 21 5)) (.ofNat _ (fld n 0 16))) else
  if fld n 0 16 = 0 ∧ fld n 26 6 = 20 then .ok (.drillSignal (.ofNat _ (fld n 21 5)) (.ofNat _ (fld n 16 5))) else
  if fld n 2 14 = 0 ∧ fld n 26 6 = 21 then .ok (.drillWaitsig (.ofNat _ (fld n 21 5)) (.ofNat _ (fld n 16 5)) (.ofNat _ (fld n 0 2))) else
  if fld n 0 16 = 0 ∧ fld n 26 6 = 22 then .ok (.drillIndirect (.ofNat _ (fld n 21 5)) (.ofNat _ (fld n 16 5))) else
  if fld n 0 32 = 1543503872 then .ok (.drillRet) else
  if fld n 0 32 = 1610612736 then .ok (.drillFence) else
  if fld n 0 32 = 1677721600 then .ok (.drillNext) else
  if fld n 26 6 ≤ 25 then .error .reservedField else .error .reservedFunction

/-- The word of an encoded instruction with chain bit 0 (1 for PFX and LIM, which have no other form), assembled by the
formulas of 04 R91, 05 R129, R135, R154, 06 R164, R173, R177, 08 R215, 15 R336; the device's own steps have no word. -/
def encode : Instr → Option Word
  | .trap i => some (.ofNat 32 (0x60 + i.toNat * 1))
  | .rte i => some (.ofNat 32 (0x80 + i.toNat * 1))
  | .rdsr d n => some (.ofNat 32 (0xa0 + d.toNat * 262144 + n.toNat * 1))
  | .wrsr a n => some (.ofNat 32 (0xc0 + a.toNat * 2048 + n.toNat * 1))
  | .rdcnt d p => some (.ofNat 32 (0xe0 + d.toNat * 262144 + p.toNat * 1))
  | .sysc d a n => some (.ofNat 32 (0x100 + d.toNat * 262144 + a.toNat * 2048 + n.toNat * 1))
  | .halt a => some (.ofNat 32 (0x120 + a.toNat * 2048))
  | .spawn d a e => some (.ofNat 32 (0x140 + d.toNat * 262144 + a.toNat * 2048 + e.toNat * 1))
  | .brkpt i => some (.ofNat 32 (0x160 + i.toNat * 1))
  | .waitc l s p m => some (.ofNat 32 (0x2000000 + l.toNat * 262144 + s.toNat * 4096 + p.toNat * 64 + m.toNat * 1))
  | .br k r o => some (.ofNat 32 (0x4000000 + k.toNat * 2097152 + r.toNat * 16384 + o.toNat * 1))
  | .brk k r o => some (.ofNat 32 (0x6000000 + k.toNat * 2097152 + r.toNat * 16384 + o.toNat * 1))
  | .call r o => some (.ofNat 32 (0x8000000 + r.toNat * 16384 + o.toNat * 1))
  | .loop r o => some (.ofNat 32 (0xa000000 + r.toNat * 16384 + o.toNat * 1))
  | .sadd d a b => some (.ofNat 32 (0xc000000 + d.toNat * 16384 + a.toNat * 128 + b.toNat * 1))
  | .ssub d a b => some (.ofNat 32 (0xc800000 + d.toNat * 16384 + a.toNat * 128 + b.toNat * 1))
  | .smul d a b => some (.ofNat 32 (0xd000000 + d.toNat * 16384 + a.toNat * 128 + b.toNat * 1))
  | .smulh d a b => some (.ofNat 32 (0xd800000 + d.toNat * 16384 + a.toNat * 128 + b.toNat * 1))
  | .sand d a b => some (.ofNat 32 (0xe000000 + d.toNat * 16384 + a.toNat * 128 + b.toNat * 1))
  | .sor d a b => some (.ofNat 32 (0xe800000 + d.toNat * 16384 + a.toNat * 128 + b.toNat * 1))
  | .sxor d a b => some (.ofNat 32 (0xf000000 + d.toNat * 16384 + a.toNat * 128 + b.toNat * 1))
  | .sandn d a b => some (.ofNat 32 (0xf800000 + d.toNat * 16384 + a.toNat * 128 + b.toNat * 1))
  | .sshl d a b => some (.ofNat 32 (0x10000000 + d.toNat * 16384 + a.toNat * 128 + b.toNat * 1))
  | .sshr d a b => some (.ofNat 32 (0x10800000 + d.toNat * 16384 + a.toNat * 128 + b.toNat * 1))
  | .ssra d a b => some (.ofNat 32 (0x11000000 + d.toNat * 16384 + a.toNat * 128 + b.toNat * 1))
  | .srot d a b => some (.ofNat 32 (0x11800000 + d.toNat * 16384 + a.toNat * 128 + b.toNat * 1))
  | .sshli d a b => some (.ofNat 32 (0x12000000 + d.toNat * 16384 + a.toNat * 128 + b.toNat * 1))
  | .sshri d a b => some (.ofNat 32 (0x12800000 + d.toNat * 16384 + a.toNat * 128 + b.toNat * 1))
  | .ssrai d a b => some (.ofNat 32 (0x13000000 + d.toNat * 16384 + a.toNat * 128 + b.toNat * 1))
  | .sroti d a b => some (.ofNat 32 (0x13800000 + d.toNat * 16384 + a.toNat * 128 + b.toNat * 1))
  | .smin d a b => some (.ofNat 32 (0x14000000 + d.toNat * 16384 + a.toNat * 128 + b.toNat * 1))
  | .smax d a b => some (.ofNat 32 (0x14800000 + d.toNat * 16384 + a.toNat * 128 + b.toNat * 1))
  | .sminn d a b => some (.ofNat 32 (0x15000000 + d.toNat * 16384 + a.toNat * 128 + b.toNat * 1))
  | .smaxn d a b => some (.ofNat 32 (0x15800000 + d.toNat * 16384 + a.toNat * 128 + b.toNat * 1))
  | .sseq d a b => some (.ofNat 32 (0x16000000 + d.toNat * 16384 + a.toNat * 128 + b.toNat * 1))
  | .sslt d a b => some (.ofNat 32 (0x16800000 + d.toNat * 16384 + a.toNat * 128 + b.toNat * 1))
  | .ssltn d a b => some (.ofNat 32 (0x17000000 + d.toNat * 16384 + a.toNat * 128 + b.toNat * 1))
  | .ssne d a b => some (.ofNat 32 (0x17800000 + d.toNat * 16384 + a.toNat * 128 + b.toNat * 1))
  | .smov d a => some (.ofNat 32 (0x18000000 + d.toNat * 16384 + a.toNat * 128))
  | .ssel d a b => some (.ofNat 32 (0x18800000 + d.toNat * 16384 + a.toNat * 128 + b.toNat * 1))
  | .sclz d a => some (.ofNat 32 (0x19000000 + d.toNat * 16384 + a.toNat * 128))
  | .spopc d a => some (.ofNat 32 (0x19800000 + d.toNat * 16384 + a.toNat * 128))
  | .saddi d a i => some (.ofNat 32 (0x1a000000 + d.toNat * 262144 + a.toNat * 2048 + i.toNat * 1))
  | .sli d i => some (.ofNat 32 (0x1c000000 + d.toNat * 262144 + i.toNat * 1))
  | .slui d i => some (.ofNat 32 (0x1e000000 + d.toNat * 262144 + i.toNat * 1))
  | .jmp a => some (.ofNat 32 (0x20000000 + a.toNat * 2048))
  | .callr d a => some (.ofNat 32 (0x20000020 + d.toNat * 262144 + a.toNat * 2048))
  | .vadd w d a b => some (.ofNat 32 (0x22000000 + w.toNat * 2097152 + d.toNat * 16384 + a.toNat * 128 + b.toNat * 1))
  | .vsub w d a b => some (.ofNat 32 (0x22800000 + w.toNat * 2097152 + d.toNat * 16384 + a.toNat * 128 + b.toNat * 1))
  | .vmul w d a b => some (.ofNat 32 (0x23000000 + w.toNat * 2097152 + d.toNat * 16384 + a.toNat * 128 + b.toNat * 1))
  | .vmulh w d a b => some (.ofNat 32 (0x23800000 + w.toNat * 2097152 + d.toNat * 16384 + a.toNat * 128 + b.toNat * 1))
  | .vmulhn w d a b => some (.ofNat 32 (0x24000000 + w.toNat * 2097152 + d.toNat * 16384 + a.toNat * 128 + b.toNat * 1))
  | .vaddc w d a b => some (.ofNat 32 (0x24800000 + w.toNat * 2097152 + d.toNat * 16384 + a.toNat * 128 + b.toNat * 1))
  | .vsadd w d a b => some (.ofNat 32 (0x25000000 + w.toNat * 2097152 + d.toNat * 16384 + a.toNat * 128 + b.toNat * 1))
  | .vssub w d a b => some (.ofNat 32 (0x25800000 + w.toNat * 2097152 + d.toNat * 16384 + a.toNat * 128 + b.toNat * 1))
  | .vand w d a b => some (.ofNat 32 (0x26000000 + w.toNat * 2097152 + d.toNat * 16384 + a.toNat * 128 + b.toNat * 1))
  | .vor w d a b => some (.ofNat 32 (0x26800000 + w.toNat * 2097152 + d.toNat * 16384 + a.toNat * 128 + b.toNat * 1))
  | .vxor w d a b => some (.ofNat 32 (0x27000000 + w.toNat * 2097152 + d.toNat * 16384 + a.toNat * 128 + b.toNat * 1))
  | .vandn w d a b => some (.ofNat 32 (0x27800000 + w.toNat * 2097152 + d.toNat * 16384 + a.toNat * 128 + b.toNat * 1))
  | .vshl w d a b => some (.ofNat 32 (0x28000000 + w.toNat * 2097152 + d.toNat * 16384 + a.toNat * 128 + b.toNat * 1))
  | .vshr w d a b => some (.ofNat 32 (0x28800000 + w.toNat * 2097152 + d.toNat * 16384 + a.toNat * 128 + b.toNat * 1))
  | .vsra w d a b => some (.ofNat 32 (0x29000000 + w.toNat * 2097152 + d.toNat * 16384 + a.toNat * 128 + b.toNat * 1))
  | .vrot w d a b => some (.ofNat 32 (0x29800000 + w.toNat * 2097152 + d.toNat * 16384 + a.toNat * 128 + b.toNat * 1))
  | .vshli w d a b => some (.ofNat 32 (0x2a000000 + w.toNat * 2097152 + d.toNat * 16384 + a.toNat * 128 + b.toNat * 1))
  | .vshri w d a b => some (.ofNat 32 (0x2a800000 + w.toNat * 2097152 + d.toNat * 16384 + a.toNat * 128 + b.toNat * 1))
  | .vsrai w d a b => some (.ofNat 32 (0x2b000000 + w.toNat * 2097152 + d.toNat * 16384 + a.toNat * 128 + b.toNat * 1))
  | .vroti w d a b => some (.ofNat 32 (0x2b800000 + w.toNat * 2097152 + d.toNat * 16384 + a.toNat * 128 + b.toNat * 1))
  | .vmin w d a b => some (.ofNat 32 (0x2c000000 + w.toNat * 2097152 + d.toNat * 16384 + a.toNat * 128 + b.toNat * 1))
  | .vmax w d a b => some (.ofNat 32 (0x2c800000 + w.toNat * 2097152 + d.toNat * 16384 + a.toNat * 128 + b.toNat * 1))
  | .vminn w d a b => some (.ofNat 32 (0x2d000000 + w.toNat * 2097152 + d.toNat * 16384 + a.toNat * 128 + b.toNat * 1))
  | .vmaxn w d a b => some (.ofNat 32 (0x2d800000 + w.toNat * 2097152 + d.toNat * 16384 + a.toNat * 128 + b.toNat * 1))
  | .vclz w d a => some (.ofNat 32 (0x2e000000 + w.toNat * 2097152 + d.toNat * 16384 + a.toNat * 128))
  | .vpopc w d a => some (.ofNat 32 (0x2e800000 + w.toNat * 2097152 + d.toNat * 16384 + a.toNat * 128))
  | .vbrev w d a => some (.ofNat 32 (0x2f000000 + w.toNat * 2097152 + d.toNat * 16384 + a.toNat * 128))
  | .vabs w d a => some (.ofNat 32 (0x2f800000 + w.toNat * 2097152 + d.toNat * 16384 + a.toNat * 128))
  | .vbfe w d a b => some (.ofNat 32 (0x30000000 + w.toNat * 2097152 + d.toNat * 16384 + a.toNat * 128 + b.toNat * 1))
  | .vbfen w d a b => some (.ofNat 32 (0x30800000 + w.toNat * 2097152 + d.toNat * 16384 + a.toNat * 128 + b.toNat * 1))
  | .vbfi w d a b => some (.ofNat 32 (0x31000000 + w.toNat * 2097152 + d.toNat * 16384 + a.toNat * 128 + b.toNat * 1))
  | .vprmb w d a b => some (.ofNat 32 (0x31800000 + w.toNat * 2097152 + d.toNat * 16384 + a.toNat * 128 + b.toNat * 1))
  | .vmad w d a b => some (.ofNat 32 (0x32000000 + w.toNat * 2097152 + d.toNat * 16384 + a.toNat * 128 + b.toNat * 1))
  | .vdot4 w d a b => some (.ofNat 32 (0x32800000 + w.toNat * 2097152 + d.toNat * 16384 + a.toNat * 128 + b.toNat * 1))
  | .vdot4n w d a b => some (.ofNat 32 (0x33000000 + w.toNat * 2097152 + d.toNat * 16384 + a.toNat * 128 + b.toNat * 1))
  | .vsad w d a b => some (.ofNat 32 (0x33800000 + w.toNat * 2097152 + d.toNat * 16384 + a.toNat * 128 + b.toNat * 1))
  | .vaddi d a i => some (.ofNat 32 (0x34000000 + d.toNat * 262144 + a.toNat * 2048 + i.toNat * 1))
  | .vli d i => some (.ofNat 32 (0x36000000 + d.toNat * 262144 + i.toNat * 1))
  | .vceq d a b => some (.ofNat 32 (0x38000000 + d.toNat * 16384 + a.toNat * 128 + b.toNat * 1))
  | .vclt d a b => some (.ofNat 32 (0x38800000 + d.toNat * 16384 + a.toNat * 128 + b.toNat * 1))
  | .vcltn d a b => some (.ofNat 32 (0x39000000 + d.toNat * 16384 + a.toNat * 128 + b.toNat * 1))
  | .vcne d a b => some (.ofNat 32 (0x39800000 + d.toNat * 16384 + a.toNat * 128 + b.toNat * 1))
  | .vsel k d a b => some (.ofNat 32 (0x3a000000 + k.toNat * 2097152 + d.toNat * 16384 + a.toNat * 128 + b.toNat * 1))
  | .vmov w d a => some (.ofNat 32 (0x3c000000 + w.toNat * 2097152 + d.toNat * 16384 + a.toNat * 128))
  | .vmovs d a => some (.ofNat 32 (0x3c800000 + d.toNat * 16384 + a.toNat * 128))
  | .vrdl d a b => some (.ofNat 32 (0x3d000000 + d.toNat * 16384 + a.toNat * 128 + b.toNat * 1))
  | .vwrl d a b => some (.ofNat 32 (0x3d800000 + d.toNat * 16384 + a.toNat * 128 + b.toNat * 1))
  | .fadd w d a b => some (.ofNat 32 (0x3e000000 + w.toNat * 2097152 + d.toNat * 16384 + a.toNat * 128 + b.toNat * 1))
  | .fsub w d a b => some (.ofNat 32 (0x3e800000 + w.toNat * 2097152 + d.toNat * 16384 + a.toNat * 128 + b.toNat * 1))
  | .fmul w d a b => some (.ofNat 32 (0x3f000000 + w.toNat * 2097152 + d.toNat * 16384 + a.toNat * 128 + b.toNat * 1))
  | .fmac w d a b => some (.ofNat 32 (0x3f800000 + w.toNat * 2097152 + d.toNat * 16384 + a.toNat * 128 + b.toNat * 1))
  | .fmin w d a b => some (.ofNat 32 (0x40000000 + w.toNat * 2097152 + d.toNat * 16384 + a.toNat * 128 + b.toNat * 1))
  | .fmax w d a b => some (.ofNat 32 (0x40800000 + w.toNat * 2097152 + d.toNat * 16384 + a.toNat * 128 + b.toNat * 1))
  | .fcpys w d a b => some (.ofNat 32 (0x41000000 + w.toNat * 2097152 + d.toNat * 16384 + a.toNat * 128 + b.toNat * 1))
  | .fscal w d a b => some (.ofNat 32 (0x41800000 + w.toNat * 2097152 + d.toNat * 16384 + a.toNat * 128 + b.toNat * 1))
  | .fceq d a b => some (.ofNat 32 (0x42000000 + d.toNat * 16384 + a.toNat * 128 + b.toNat * 1))
  | .fclt d a b => some (.ofNat 32 (0x42800000 + d.toNat * 16384 + a.toNat * 128 + b.toNat * 1))
  | .fcle d a b => some (.ofNat 32 (0x43000000 + d.toNat * 16384 + a.toNat * 128 + b.toNat * 1))
  | .fcun d a b => some (.ofNat 32 (0x43800000 + d.toNat * 16384 + a.toNat * 128 + b.toNat * 1))
  | .frcp w d a => some (.ofNat 32 (0x44000000 + w.toNat * 2097152 + d.toNat * 16384 + a.toNat * 128))
  | .frsq w d a => some (.ofNat 32 (0x44800000 + w.toNat * 2097152 + d.toNat * 16384 + a.toNat * 128))
  | .fsqrt w d a => some (.ofNat 32 (0x45000000 + w.toNat * 2097152 + d.toNat * 16384 + a.toNat * 128))
  | .fexp2 w d a => some (.ofNat 32 (0x45800000 + w.toNat * 2097152 + d.toNat * 16384 + a.toNat * 128))
  | .flog2 w d a => some (.ofNat 32 (0x46000000 + w.toNat * 2097152 + d.toNat * 16384 + a.toNat * 128))
  | .fsin w d a => some (.ofNat 32 (0x46800000 + w.toNat * 2097152 + d.toNat * 16384 + a.toNat * 128))
  | .fcos w d a => some (.ofNat 32 (0x47000000 + w.toNat * 2097152 + d.toNat * 16384 + a.toNat * 128))
  | .ftanh w d a => some (.ofNat 32 (0x47800000 + w.toNat * 2097152 + d.toNat * 16384 + a.toNat * 128))
  | .cvtf w d a b => some (.ofNat 32 (0x48000000 + w.toNat * 2097152 + d.toNat * 16384 + a.toNat * 128 + b.toNat * 1))
  | .cvti w d a b => some (.ofNat 32 (0x48800000 + w.toNat * 2097152 + d.toNat * 16384 + a.toNat * 128 + b.toNat * 1))
  | .frnd w d a => some (.ofNat 32 (0x49000000 + w.toNat * 2097152 + d.toNat * 16384 + a.toNat * 128))
  | .cvtn w d a b => some (.ofNat 32 (0x49800000 + w.toNat * 2097152 + d.toNat * 16384 + a.toNat * 128 + b.toNat * 1))
  | .qpack d a b => some (.ofNat 32 (0x4a400000 + d.toNat * 16384 + a.toNat * 128 + b.toNat * 1))
  | .qunpk d a => some (.ofNat 32 (0x4ac00000 + d.toNat * 16384 + a.toNat * 128))
  | .qscal d a b => some (.ofNat 32 (0x4b000000 + d.toNat * 16384 + a.toNat * 128 + b.toNat * 1))
  | .qretag d a b => some (.ofNat 32 (0x4b800000 + d.toNat * 16384 + a.toNat * 128 + b.toNat * 1))
  | .kand d a b => some (.ofNat 32 (0x4c000000 + d.toNat * 16384 + a.toNat * 128 + b.toNat * 1))
  | .kor d a b => some (.ofNat 32 (0x4c800000 + d.toNat * 16384 + a.toNat * 128 + b.toNat * 1))
  | .kxor d a b => some (.ofNat 32 (0x4d000000 + d.toNat * 16384 + a.toNat * 128 + b.toNat * 1))
  | .kandn d a b => some (.ofNat 32 (0x4d800000 + d.toNat * 16384 + a.toNat * 128 + b.toNat * 1))
  | .kpopc d a => some (.ofNat 32 (0x4e000000 + d.toNat * 16384 + a.toNat * 128))
  | .kffs d a => some (.ofNat 32 (0x4e800000 + d.toNat * 16384 + a.toNat * 128))
  | .ktos d a => some (.ofNat 32 (0x4f200000 + d.toNat * 16384 + a.toNat * 128))
  | .kfrs d a => some (.ofNat 32 (0x4fa00000 + d.toNat * 16384 + a.toNat * 128))
  | .shfli w d a b => some (.ofNat 32 (0x50000000 + w.toNat * 2097152 + d.toNat * 16384 + a.toNat * 128 + b.toNat * 1))
  | .shflu w d a b => some (.ofNat 32 (0x50800000 + w.toNat * 2097152 + d.toNat * 16384 + a.toNat * 128 + b.toNat * 1))
  | .shfld w d a b => some (.ofNat 32 (0x51000000 + w.toNat * 2097152 + d.toNat * 16384 + a.toNat * 128 + b.toNat * 1))
  | .shflx w d a b => some (.ofNat 32 (0x51800000 + w.toNat * 2097152 + d.toNat * 16384 + a.toNat * 128 + b.toNat * 1))
  | .redadd t d a => some (.ofNat 32 (0x52000000 + t.toNat * 2097152 + d.toNat * 16384 + a.toNat * 128))
  | .redmin t d a => some (.ofNat 32 (0x52800000 + t.toNat * 2097152 + d.toNat * 16384 + a.toNat * 128))
  | .redmax t d a => some (.ofNat 32 (0x53000000 + t.toNat * 2097152 + d.toNat * 16384 + a.toNat * 128))
  | .redor d a => some (.ofNat 32 (0x53800000 + d.toNat * 16384 + a.toNat * 128))
  | .scanadd t d a => some (.ofNat 32 (0x54000000 + t.toNat * 2097152 + d.toNat * 16384 + a.toNat * 128))
  | .scanmin t d a => some (.ofNat 32 (0x54800000 + t.toNat * 2097152 + d.toNat * 16384 + a.toNat * 128))
  | .scanmax t d a => some (.ofNat 32 (0x55000000 + t.toNat * 2097152 + d.toNat * 16384 + a.toNat * 128))
  | .scanaddx t d a => some (.ofNat 32 (0x55800000 + t.toNat * 2097152 + d.toNat * 16384 + a.toNat * 128))
  | .mred k d a b => some (.ofNat 32 (0x56000000 + k.toNat * 2097152 + d.toNat * 16384 + a.toNat * 128 + b.toNat * 1))
  | .mredf k d a b => some (.ofNat 32 (0x58000000 + k.toNat * 2097152 + d.toNat * 16384 + a.toNat * 128 + b.toNat * 1))
  | .mredm k d a b => some (.ofNat 32 (0x5a000000 + k.toNat * 2097152 + d.toNat * 16384 + a.toNat * 128 + b.toNat * 1))
  | .ld s w d a o => some (.ofNat 32 (0x5c000000 + s.toNat * 4194304 + w.toNat * 1048576 + d.toNat * 8192 + a.toNat * 64 + o.toNat * 1))
  | .st s w d a o => some (.ofNat 32 (0x5e000000 + s.toNat * 4194304 + w.toNat * 1048576 + d.toNat * 8192 + a.toNat * 64 + o.toNat * 1))
  | .ldsw s w d a o => some (.ofNat 32 (0x60000000 + s.toNat * 4194304 + w.toNat * 1048576 + d.toNat * 8192 + a.toNat * 64 + o.toNat * 1))
  | .stsw s w d a o => some (.ofNat 32 (0x62000000 + s.toNat * 4194304 + w.toNat * 1048576 + d.toNat * 8192 + a.toNat * 64 + o.toNat * 1))
  | .ldu s w d a o => some (.ofNat 32 (0x64000000 + s.toNat * 4194304 + w.toNat * 1048576 + d.toNat * 8192 + a.toNat * 64 + o.toNat * 1))
  | .stu s w d a o => some (.ofNat 32 (0x66000000 + s.toNat * 4194304 + w.toNat * 1048576 + d.toNat * 8192 + a.toNat * 64 + o.toNat * 1))
  | .atadd s d a b => some (.ofNat 32 (0x68000000 + s.toNat * 1048576 + d.toNat * 8192 + a.toNat * 128 + b.toNat * 1))
  | .atand s d a b => some (.ofNat 32 (0x68800000 + s.toNat * 1048576 + d.toNat * 8192 + a.toNat * 128 + b.toNat * 1))
  | .ator s d a b => some (.ofNat 32 (0x69000000 + s.toNat * 1048576 + d.toNat * 8192 + a.toNat * 128 + b.toNat * 1))
  | .atxor s d a b => some (.ofNat 32 (0x69800000 + s.toNat * 1048576 + d.toNat * 8192 + a.toNat * 128 + b.toNat * 1))
  | .atmin s d a b => some (.ofNat 32 (0x6a000000 + s.toNat * 1048576 + d.toNat * 8192 + a.toNat * 128 + b.toNat * 1))
  | .atmax s d a b => some (.ofNat 32 (0x6a800000 + s.toNat * 1048576 + d.toNat * 8192 + a.toNat * 128 + b.toNat * 1))
  | .atminn s d a b => some (.ofNat 32 (0x6b000000 + s.toNat * 1048576 + d.toNat * 8192 + a.toNat * 128 + b.toNat * 1))
  | .atmaxn s d a b => some (.ofNat 32 (0x6b800000 + s.toNat * 1048576 + d.toNat * 8192 + a.toNat * 128 + b.toNat * 1))
  | .atexch s d a b => some (.ofNat 32 (0x6c000000 + s.toNat * 1048576 + d.toNat * 8192 + a.toNat * 128 + b.toNat * 1))
  | .atcas s d a b => some (.ofNat 32 (0x6c800000 + s.toNat * 1048576 + d.toNat * 8192 + a.toNat * 128 + b.toNat * 1))
  | .atfadd s d a b => some (.ofNat 32 (0x6d000000 + s.toNat * 1048576 + d.toNat * 8192 + a.toNat * 128 + b.toNat * 1))
  | .atincw s d a b => some (.ofNat 32 (0x6d800000 + s.toNat * 1048576 + d.toNat * 8192 + a.toNat * 128 + b.toNat * 1))
  | .fenceAcq s => some (.ofNat 32 (0x6e000000 + s.toNat * 1))
  | .fenceRel s => some (.ofNat 32 (0x6e000020 + s.toNat * 1))
  | .fenceAr s => some (.ofNat 32 (0x6e000040 + s.toNat * 1))
  | .fenceSc s => some (.ofNat 32 (0x6e000060 + s.toNat * 1))
  | .lda d a s => some (.ofNat 32 (0x6e000080 + d.toNat * 262144 + a.toNat * 2048 + s.toNat * 1))
  | .stl d a s => some (.ofNat 32 (0x6e0000a0 + d.toNat * 262144 + a.toNat * 2048 + s.toNat * 1))
  | .barw a s => some (.ofNat 32 (0x6e0000c0 + a.toNat * 2048 + s.toNat * 1))
  | .bara d a s => some (.ofNat 32 (0x6e0000e0 + d.toNat * 262144 + a.toNat * 2048 + s.toNat * 1))
  | .barq d a s => some (.ofNat 32 (0x6e000100 + d.toNat * 262144 + a.toNat * 2048 + s.toNat * 1))
  | .bari d a s => some (.ofNat 32 (0x6e000120 + d.toNat * 262144 + a.toNat * 2048 + s.toNat * 1))
  | .waitp a p => some (.ofNat 32 (0x6e000140 + a.toNat * 2048 + p.toNat * 1))
  | .waitw d a q s => some (.ofNat 32 (0x6e000160 + d.toNat * 262144 + a.toNat * 2048 + q.toNat * 8 + s.toNat * 1))
  | .pref a l => some (.ofNat 32 (0x6e000180 + a.toNat * 2048 + l.toNat * 1))
  | .wbl a => some (.ofNat 32 (0x6e0001a0 + a.toNat * 2048))
  | .invl a => some (.ofNat 32 (0x6e0001c0 + a.toNat * 2048))
  | .scopeset d a n => some (.ofNat 32 (0x6e0001e0 + d.toNat * 262144 + a.toNat * 2048 + n.toNat * 1))
  | .scoperd a n => some (.ofNat 32 (0x6e000200 + a.toNat * 2048 + n.toNat * 1))
  | .cpy a => some (.ofNat 32 (0x6e000220 + a.toNat * 2048))
  | .cpym d a => some (.ofNat 32 (0x6e000240 + d.toNat * 262144 + a.toNat * 2048))
  | .msg d a => some (.ofNat 32 (0x6e000260 + d.toNat * 262144 + a.toNat * 2048))
  | .mpost d a => some (.ofNat 32 (0x6e000280 + d.toNat * 262144 + a.toNat * 2048))
  | .mprobe d a => some (.ofNat 32 (0x6e0002a0 + d.toNat * 262144 + a.toNat * 2048))
  | .emit d a => some (.ofNat 32 (0x6e0002c0 + d.toNat * 262144 + a.toNat * 2048))
  | .klook d a => some (.ofNat 32 (0x70000000 + d.toNat * 262144 + a.toNat * 2048))
  | .knbr d a => some (.ofNat 32 (0x70000020 + d.toNat * 262144 + a.toNat * 2048))
  | .kref d a => some (.ofNat 32 (0x70000040 + d.toNat * 262144 + a.toNat * 2048))
  | .kmrg d a => some (.ofNat 32 (0x70000060 + d.toNat * 262144 + a.toNat * 2048))
  | .kpin d a => some (.ofNat 32 (0x70000080 + d.toNat * 262144 + a.toNat * 2048))
  | .kunpin d a => some (.ofNat 32 (0x700000a0 + d.toNat * 262144 + a.toNat * 2048))
  | .kcost d a => some (.ofNat 32 (0x700000c0 + d.toNat * 262144 + a.toNat * 2048))
  | .kbal d a => some (.ofNat 32 (0x700000e0 + d.toNat * 262144 + a.toNat * 2048))
  | .kiter d a => some (.ofNat 32 (0x70000100 + d.toNat * 262144 + a.toNat * 2048))
  | .kcut d a n => some (.ofNat 32 (0x70000120 + d.toNat * 262144 + a.toNat * 2048 + n.toNat * 1))
  | .kacre d a => some (.ofNat 32 (0x70000140 + d.toNat * 262144 + a.toNat * 2048))
  | .kenc d a b => some (.ofNat 32 (0x72200000 + d.toNat * 16384 + a.toNat * 128 + b.toNat * 1))
  | .kdec d a b => some (.ofNat 32 (0x72a00000 + d.toNat * 16384 + a.toNat * 128 + b.toNat * 1))
  | .kpar d a b => some (.ofNat 32 (0x73200000 + d.toNat * 16384 + a.toNat * 128 + b.toNat * 1))
  | .kchd d a b => some (.ofNat 32 (0x73a00000 + d.toNat * 16384 + a.toNat * 128 + b.toNat * 1))
  | .rld d a r s => some (.ofNat 32 (0x74000000 + d.toNat * 262144 + a.toNat * 2048 + r.toNat * 8 + s.toNat * 1))
  | .rst d a r s => some (.ofNat 32 (0x74000020 + d.toNat * 262144 + a.toNat * 2048 + r.toNat * 8 + s.toNat * 1))
  | .ratom d a r s => some (.ofNat 32 (0x74000040 + d.toNat * 262144 + a.toNat * 2048 + r.toNat * 8 + s.toNat * 1))
  | .xsend d a r s => some (.ofNat 32 (0x74000060 + d.toNat * 262144 + a.toNat * 2048 + r.toNat * 8 + s.toNat * 1))
  | .xpoll d a => some (.ofNat 32 (0x74000080 + d.toNat * 262144 + a.toNat * 2048))
  | .rred d a r s => some (.ofNat 32 (0x740000a0 + d.toNat * 262144 + a.toNat * 2048 + r.toNat * 8 + s.toNat * 1))
  | .rfence s => some (.ofNat 32 (0x740000c0 + s.toNat * 1))
  | .rpath d a => some (.ofNat 32 (0x740000e0 + d.toNat * 262144 + a.toNat * 2048))
  | .mma h k e t u s => some (.ofNat 32 (0x76000000 + h.toNat * 1048576 + k.toNat * 524288 + e.toNat * 262144 + t.toNat * 16384 + u.toNat * 1024 + s.toNat * 8))
  | .mlda t a => some (.ofNat 32 (0x78000000 + t.toNat * 262144 + a.toNat * 2048))
  | .mzero t => some (.ofNat 32 (0x78000020 + t.toNat * 262144))
  | .mst t a => some (.ofNat 32 (0x78000040 + t.toNat * 262144 + a.toNat * 2048))
  | .mest d i => some (.ofNat 32 (0x78000080 + d.toNat * 262144 + i.toNat * 1))
  | .twr d t p => some (.ofNat 32 (0x7a000000 + d.toNat * 262144 + t.toNat * 2048 + p.toNat * 1))
  | .trd d t p => some (.ofNat 32 (0x7a000020 + d.toNat * 262144 + t.toNat * 2048 + p.toNat * 1))
  | .pfx k r z f w n s x => some (.ofNat 32 (0xfc000000 + k.toNat * 2097152 + r.toNat * 262144 + z.toNat * 131072 + f.toNat * 1024 + w.toNat * 256 + n.toNat * 32 + s.toNat * 16 + x.toNat * 1))
  | .lim i => some (.ofNat 32 (0xfe000000 + i.toNat * 1))
  | .drillLi a i => some (.ofNat 32 (0x0 + a.toNat * 2097152 + i.toNat * 1))
  | .drillLih a i => some (.ofNat 32 (0x4000000 + a.toNat * 2097152 + i.toNat * 1))
  | .drillLdw a b g o => some (.ofNat 32 (0x8000000 + a.toNat * 2097152 + b.toNat * 65536 + g.toNat * 4096 + o.toNat * 1))
  | .drillLdd a b g o => some (.ofNat 32 (0xc000000 + a.toNat * 2097152 + b.toNat * 65536 + g.toNat * 4096 + o.toNat * 1))
  | .drillStw a b g o => some (.ofNat 32 (0x10000000 + a.toNat * 2097152 + b.toNat * 65536 + g.toNat * 4096 + o.toNat * 1))
  | .drillStd a b g o => some (.ofNat 32 (0x14000000 + a.toNat * 2097152 + b.toNat * 65536 + g.toNat * 4096 + o.toNat * 1))
  | .drillAdd a b => some (.ofNat 32 (0x18000000 + a.toNat * 2097152 + b.toNat * 65536))
  | .drillSub a b => some (.ofNat 32 (0x1c000000 + a.toNat * 2097152 + b.toNat * 65536))
  | .drillAnd a b => some (.ofNat 32 (0x20000000 + a.toNat * 2097152 + b.toNat * 65536))
  | .drillOr a b => some (.ofNat 32 (0x24000000 + a.toNat * 2097152 + b.toNat * 65536))
  | .drillXor a b => some (.ofNat 32 (0x28000000 + a.toNat * 2097152 + b.toNat * 65536))
  | .drillShl a s => some (.ofNat 32 (0x2c000000 + a.toNat * 2097152 + s.toNat * 1))
  | .drillShr a s => some (.ofNat 32 (0x30000000 + a.toNat * 2097152 + s.toNat * 1))
  | .drillAddi a i => some (.ofNat 32 (0x34000000 + a.toNat * 2097152 + i.toNat * 1))
  | .drillBeq a b i => some (.ofNat 32 (0x38000000 + a.toNat * 2097152 + b.toNat * 65536 + i.toNat * 1))
  | .drillBne a b i => some (.ofNat 32 (0x3c000000 + a.toNat * 2097152 + b.toNat * 65536 + i.toNat * 1))
  | .drillBltu a b i => some (.ofNat 32 (0x40000000 + a.toNat * 2097152 + b.toNat * 65536 + i.toNat * 1))
  | .drillLoop a l n => some (.ofNat 32 (0x44000000 + a.toNat * 2097152 + l.toNat * 256 + n.toNat * 1))
  | .drillLaunch a b => some (.ofNat 32 (0x48000000 + a.toNat * 2097152 + b.toNat * 65536))
  | .drillNode a i => some (.ofNat 32 (0x4c000000 + a.toNat * 2097152 + i.toNat * 1))
  | .drillSignal a b => some (.ofNat 32 (0x50000000 + a.toNat * 2097152 + b.toNat * 65536))
  | .drillWaitsig a b c => some (.ofNat 32 (0x54000000 + a.toNat * 2097152 + b.toNat * 65536 + c.toNat * 1))
  | .drillIndirect a b => some (.ofNat 32 (0x58000000 + a.toNat * 2097152 + b.toNat * 65536))
  | .nop => some (.ofNat 32 (0x0))
  | .exit => some (.ofNat 32 (0x20))
  | .yield => some (.ofNat 32 (0x40))
  | .invlAll => some (.ofNat 32 (0x6e0001c1))
  | .mrls => some (.ofNat 32 (0x78000060))
  | .illegalPattern _ _ _ => none
  | .plotAdmit _ => none
  | .furrowRelease _ => none
  | .loadComplete _ => none
  | .storeComplete _ => none
  | .atomicComplete _ => none
  | .l1Fill _ _ => none
  | .homeRead _ _ => none
  | .homeRenewal _ _ => none
  | .homeStore _ _ => none
  | .exclusiveGrant _ _ => none
  | .recall _ => none
  | .stampRebase => none
  | .barrierArrival _ => none
  | .barrierWake _ _ => none
  | .barrierReread _ _ => none
  | .waitwWake _ _ => none
  | .waitwPoll _ _ => none
  | .faultRecordWrite _ => none
  | .fresume _ => none
  | .svcrep _ _ => none
  | .tlbinv _ _ => none
  | .messageArrival _ => none
  | .scopeInstall _ => none
  | .l2SliceRetire _ _ => none
  | .retireResend _ => none
  | .dpartWrite _ _ => none
  | .copyCommandStart _ => none
  | .copyCommandEnd _ => none
  | .matrixOpStart _ => none
  | .matrixOpComplete _ => none
  | .budgetAddition _ => none
  | .powerMeasure _ => none
  | .thermalLimit _ _ => none
  | .keyRequest _ => none
  | .leafHandover _ _ _ _ => none
  | .kbalDrain _ _ => none
  | .qresRead _ => none
  | .queueEnable _ _ => none
  | .qctlPreempt _ => none
  | .qctlResume _ => none
  | .qctlDestroy _ => none
  | .drillPacketStart _ => none
  | .drillRet => some (.ofNat 32 (0x5c000000))
  | .drillFence => some (.ofNat 32 (0x60000000))
  | .drillNext => some (.ofNat 32 (0x64000000))
  | .plotPlace _ => none
  | .launchSignal _ => none
  | .plotSave _ => none
  | .streamSave _ => none
  | .sheafRecordOffer _ => none
  | .sheafTimerExpire _ _ => none
  | .coldReset _ _ _ => none
  | .warmReset _ => none
  | .functionLevelReset => none
  | .spdmGetMeasurements _ => none
  | .devnoWrite _ => none
  | .rasCounterClear _ => none
  | .bridgeHalfFailure _ => none
  | .bridgeFailure _ => none
  | .registerWrite _ _ => none
  | .flitReceive _ _ _ => none
  | .replayTimeout _ _ => none
  | .lossOfLight _ _ _ => none
  | .darkPositionDetect _ _ => none
  | .headlandTimeout _ => none
  | .wavelengthRetrain _ _ => none
  | .wavelengthRejoin _ _ _ => none
  | .beaconReceive _ _ _ => none
  | .lightReturn _ => none
  | .slotClose _ => none
  | .remoteRequest _ _ _ _ _ => none
  | .remoteReply _ _ _ _ => none
  | .remoteTimeout _ => none
  | .reductionCombine _ _ _ _ _ _ => none
  | .bulkRequest _ _ _ _ _ _ _ _ _ => none
  | .grantIssue _ => none
  | .grantReceive _ _ _ _ _ => none
  | .bulkDataReceive _ _ _ _ _ => none
  | .grantExpiry _ _ _ _ => none
  | .senderSilenceTimeout _ _ => none
  | .doneReceive _ _ _ => none
  | .abortReceive _ _ _ => none
  | .deferResend _ _ => none
  | .xctlPause _ => none
  | .xctlResume _ => none
  | .pauseNotice _ _ _ _ => none
  | .pageWalkComplete _ _ _ => none
  | .tileTransferComplete _ => none
  | .queueFaultRingSpace _ => none
  | .cxlMemRequest _ _ _ => none
  | .powerLoss => none

/-! ### Groups -/

/-- The three pipes (02 R41). -/
inductive Pipe where
  | s
  | v
  | m
  deriving DecidableEq, Repr

/-- The major of a word. -/
def majorOf (w : Word) : Nat := fld w.toNat 25 6

/-- The pipe of each major but PFX and LIM (02 R60). -/
def pipeOf (major : Nat) : Pipe :=
  if major ≤ 0x10 then .s
  else if major ≤ 0x2D ∨ major = 0x39 ∨ major = 0x3D then .v
  else .m

/-- The prefix fields a base accepts beyond `pfx.k` and `pfx.mz` (02 R54, 04 R93). -/
structure PfxAccept where
  rm : Bool := false
  c4 : Bool := false
  neg : Bool := false
  sat : Bool := false
  /-- the highest `pfx.xop` accepted -/
  xop : Nat := 0
  deriving DecidableEq, Repr

/-- Whether the word may carry a PFX, and which fields it takes, judged by its major and function (02 R53, R54; 04 R101,
R103, R111, R115, R118, R122 to R125; 05 R151, R154). -/
def pfxAccept (w : Word) : Option PfxAccept :=
  let m := majorOf w
  let fn := fld w.toNat 23 2
  let ty := fld w.toNat 21 2
  let xfn := fld w.toNat 5 6
  if m = 0x11 ∧ fn = 0 ∨ m = 0x12 ∧ fn = 1 ∨ m = 0x18 ∧ fn = 3 then some { c4 := true }
  else if m = 0x12 ∧ 2 ≤ fn then some { xop := 1 }
  else if m = 0x17 ∧ fn = 3 ∨ m = 0x19 then some { sat := true }
  else if m = 0x1F then some { rm := true, neg := true, sat := true }
  else if m = 0x20 ∧ fn = 3 then some { rm := true, sat := true }
  else if m = 0x22 ∧ fn ≤ 2 then some { rm := true, sat := true }
  else if m = 0x22 ∨ m = 0x23 then some { sat := true }
  else if m = 0x24 ∨ m = 0x25 ∧ fn ≠ 1 ∨ m = 0x2C then some { rm := true }
  else if m = 0x28 then some { xop := 5 }
  else if m = 0x29 ∨ m = 0x2A then
    some { xop := 5, rm := ty = 2 ∧ (fn = 0 ∨ m = 0x2A ∧ fn = 3) }
  else if m = 0x2D then some { xop := 3 }
  else if pipeOf m = .v ∧ m ≠ 0x3E ∧ m ≠ 0x3F then some {}
  else if 0x2E ≤ m ∧ m ≤ 0x31 ∨ 0x34 ≤ m ∧ m ≤ 0x36 then some {}
  else if m = 0x37 ∧ (xfn = 4 ∨ xfn = 5) then some {}
  else if m = 0x38 ∧ (xfn = 0 ∨ xfn = 1 ∨ xfn = 4 ∨ xfn = 5 ∨ xfn = 6) then some {}
  else if m = 0x3A ∧ (xfn = 0 ∨ xfn = 2) then some {}
  else none

/-- A prefix word's fields (02 R53). -/
structure Pfx where
  k : BitVec 4 := 0
  rm : BitVec 3 := 0
  mz : Bool := false
  c4 : BitVec 7 := 0
  cw : BitVec 2 := 0
  neg : BitVec 3 := 0
  sat : Bool := false
  xop : BitVec 4 := 0
  deriving DecidableEq, Repr

/-- The prefix fields agree with what the base accepts, and `pfx.rm` is not 7 (02 R54, 04 R93). -/
def pfxLegal (p : Pfx) (a : PfxAccept) : Bool :=
  p.rm != 7 && (a.rm || p.rm == 0) && (a.c4 || p.c4 == 0) && p.cw == 0
    && (if a.neg then p.neg.getLsbD 0 == false else p.neg == 0)
    && (a.sat || !p.sat) && p.xop.toNat ≤ a.xop

/-- How many bits of a LIM the word uses; `none` where a LIM may not attach (02 R56, R57). -/
def limBits (w : Word) : Option Nat :=
  let m := majorOf w
  if m = 0x0D ∨ m = 0x1A then some 21
  else if m = 0x0E ∨ m = 0x1B then some 14
  else if 2 ≤ m ∧ m ≤ 5 then some 18
  else if 0x2E ≤ m ∧ m ≤ 0x33 then some 25
  else none

/-- Whether the issuing unit may run the word (02 R48): a vector furrow all but the matrix majors, an MCC stream its own list. -/
def unitRuns (mcc : Bool) (w : Word) : Bool :=
  let m := majorOf w
  let xfn := fld w.toNat 5 6
  if m = 0x3F then true
  else if mcc then
    m ≤ 0x10 || m == 0x3B || m == 0x3C || m == 0x32 || m == 0x33
      || (m == 0x37 && (xfn ≤ 3 || (6 ≤ xfn && xfn ≤ 11)))
  else m != 0x3B && m != 0x3C

/-- One member of a group: its base word's slot, word and instruction, with the attached word if any (02 R41). -/
structure Member where
  slot : Nat
  word : Word
  instr : Instr
  pfx : Option Instr := none
  lim : Option Instr := none
  deriving DecidableEq, Repr

/-- A pattern of 02 R64: the cause and the slot it names. -/
structure Illegal where
  cause : BitVec 6
  slot : Nat
  word : Word
  deriving DecidableEq, Repr

/-- The chain bit of a word (02 R40). -/
def chain (w : Word) : Bool := w.getLsbD 31

/-- The words of the group that begins at the head of the list: as far as the chain bits link (02 R40). -/
def groupWords : List (Nat × Word) → List (Nat × Word)
  | [] => []
  | (i, w) :: rest => (i, w) :: if chain w then groupWords rest else []

/-- What is wrong with one word of a group, given the word that follows it in the packet, if any. -/
def wordFaults (mcc : Bool) (i : Nat) (w : Word) (next : Option Word) : List Illegal :=
  let bad : Illegal := ⟨0x01, i, w⟩
  let unit : List Illegal := if unitRuns mcc w then [] else [⟨0x0A, i, w⟩]
  if i = 2 ∧ chain w then bad :: unit
  else
    match decodeWord w with
    | .error _ => bad :: unit
    | .ok (.pfx k r z f c n s x) =>
      match next with
      | none => bad :: unit
      | some b =>
        match pfxAccept b with
        | none => bad :: unit
        | some a =>
          if pfxLegal ⟨k, r, z == 1, f, c, n, s == 1, x⟩ a then unit else bad :: unit
    | .ok (.lim v) =>
      match next with
      | none => bad :: unit
      | some b =>
        match limBits b with
        | none => bad :: unit
        | some k => if v.toNat < 2 ^ k then unit else bad :: unit
    | .ok ins => if wellFormed ins then unit else bad :: unit

/-- The faults of every word of a group. -/
def groupWordFaults (mcc : Bool) : List (Nat × Word) → List Illegal
  | [] => []
  | (i, w) :: rest => wordFaults mcc i w ((rest.head?).map (·.2)) ++ groupWordFaults mcc rest

/-- The base words of a group: every word but PFX and LIM. -/
def baseWords (ws : List (Nat × Word)) : List (Nat × Word) :=
  ws.filter fun x => majorOf x.2 != 0x3E && majorOf x.2 != 0x3F

/-- Two members that need the same pipe: the higher one's base word is named (02 R41, R64). -/
def pipeFaults : List (Nat × Word) → List Pipe → List Illegal
  | [], _ => []
  | (i, w) :: rest, used =>
    let p := pipeOf (majorOf w)
    (if used.contains p then [⟨0x01, i, w⟩] else []) ++ pipeFaults rest (p :: used)

/-- Cause 0x01 goes ahead of 0x0A, then the lowest slot (02 R65). -/
def firstIllegal (fs : List Illegal) : Option Illegal :=
  let pick (c : BitVec 6) (i : Nat) : Option Illegal := fs.find? fun f => f.cause == c && f.slot == i
  (pick 0x01 0).orElse fun _ => (pick 0x01 1).orElse fun _ => (pick 0x01 2).orElse fun _ =>
    (pick 0x0A 0).orElse fun _ => (pick 0x0A 1).orElse fun _ => pick 0x0A 2

/-- The members of a group whose words are legal, each with its attached word. -/
def groupMembers : List (Nat × Word) → Option Instr → List Member
  | [], _ => []
  | (i, w) :: rest, att =>
    match decodeWord w with
    | .error _ => groupMembers rest none
    | .ok ins =>
      if majorOf w = 0x3E ∨ majorOf w = 0x3F then groupMembers rest (some ins)
      else
        let isPfx := match att with
          | some (.pfx ..) => true
          | _ => false
        { slot := i, word := w, instr := ins,
          pfx := if isPfx then att else none, lim := if isPfx then none else att } :: groupMembers rest none

/-- The group that begins at `start` of a packet: its last slot, and its members, or the pattern it raises (02 R40, R64, R65). -/
def decodeGroup (mcc : Bool) (packet : List Word) (start : Nat) : Nat × Except Illegal (List Member) :=
  let ws := groupWords ((packet.zipIdx.map fun x => (x.2, x.1)).drop start)
  let faults := groupWordFaults mcc ws ++ pipeFaults (baseWords ws) []
  (start + ws.length - 1,
    match firstIllegal faults with
    | some f => .error f
    | none => .ok (groupMembers ws none))

/-- The instruction the decoder reads from a word laid out as spec/opcode_table.json numbers it. Every row with bits has 32.
The drill's words share their patterns with Ocrov's: a bare word is read as Ocrov's, and as the drill's when it is none of Ocrov's
(log entry 6). -/
def decodeTableWord (nbits w : Nat) : Option Instr :=
  if nbits = 32 then
    match decodeWord (.ofNat 32 w) with
    | .ok i => some i
    | .error _ =>
      match decodeDrill (.ofNat 32 w) with
      | .ok i => some i
      | .error _ => none
  else none

end Sys2Proof
end

