-- ==== Sys2Proof/Machine/State.lean ====
section
/-! DEFINITION. The state of one Hiolmion H1 as plain data, the reasons a step can stop, and the state after reset.
Every table is sparse: a sorted list of keys and values in which a value equal to the table's default is not listed. -/

namespace Sys2Proof.Machine

/-- A sparse table by number. -/
abbrev NMap (α : Type) := List (Nat × α)

/-- The byte memories of the device under one key space (`Loc` in Machine/Ops.lean): sorted, no listed zero. -/
abbrev Memory := List Host.Cell

/-- Why the machine stops with a fault. -/
inductive Fault where
  /-- Raised by `step` alone, when no unit has anything left to do and no input stands in line (safe: the device idles until
  the outside world acts, which is a further state of `agenda` or `upsets`). -/
  | idle
  deriving DecidableEq, Repr

/-- Why a step has no meaning. -/
inductive Refusal where
  /-- An instruction that has not been given its meaning (safe). Only the arms of Dispatch answer so. -/
  | notModelled (mnemonic : String)
  deriving DecidableEq, Repr

/-- The ECC state of a stored word or register element (01 R32 to R36, 06 R187). -/
inductive Mark where
  | clean
  /-- An uncorrectable error that no read has detected yet. -/
  | uncorrectable
  | poisoned
  deriving DecidableEq, Repr

/-! ### Furrows and streams -/

/-- What a live entry waits for (01 R10). -/
inductive Wait where
  /-- `waitc` or `waitp`: a threshold for each of the six counters, 63 and above none (06 R177, R178). -/
  | counters (limits : List Nat)
  /-- A fence, `lda`-like acquire or barrier release whose operation is still in flight (11 R267, 06 R182). -/
  | operation (op : Nat)
  /-- Parked at a barrier word with the phase of its arrival (06 R182). -/
  | parked (op loc : Nat) (phase : Bool)
  /-- Parked at a `waitw` (11 R272). -/
  | word (op loc : Nat)
  /-- Suspended by `sysc`, with the reply register (05 R133). -/
  | service (reply : BitVec 7)
  /-- A page-table walk is under way for an access: its lowest missing thread and the packet (11 R278). -/
  | walk (va : BitVec 64) (access : BitVec 3) (thr : Nat) (pkt : BitVec 32)
  /-- Suspended by a translation miss until the context is resumed (11 R279). -/
  | replay (va : BitVec 64) (access : BitVec 3)
  /-- The operation has completed with a stale scope, and traps there once runtime mode has ended: the report's scope entry (11 R271). -/
  | report (idx : Nat)
  deriving DecidableEq, Repr

/-- Registers `base` to `base + count - 1` of a file: 0 vector, 1 scalar, 2 mask, 3 special, 4 the sticky flags (02 R47). -/
structure Span where
  file : Nat
  base : Nat
  count : Nat := 1
  deriving DecidableEq, Repr

/-- A split-table entry (01 R19, R20). -/
structure Entry where
  id : Nat := 0
  parent : Nat := 0
  live : Bool := true
  mask : Mask := 0
  pc : Word := 0
  slot : Nat := 0
  resident : Bool := true
  /-- creation order, for the choice of the entry to spill -/
  born : Nat := 0
  /-- when it issued last, for the same choice -/
  issued : Nat := 0
  /-- consecutive turns it was passed over by the lag rule (05 R143) -/
  lag : Nat := 0
  /-- what it waits for; none: it is ready -/
  waits : List Wait := []
  deriving DecidableEq, Repr

/-- A pending stale-scope report (11 R271). -/
structure Stale where
  idx : Nat
  kind : Nat
  gold : BitVec 4
  gnew : BitVec 4
  pkt : Word
  /-- the slot of a fence, `waitw` or `barw` at which it traps, when its entry still waits there -/
  place : Option Nat := none
  deriving DecidableEq, Repr

/-- A trap raised after its operation completed (05 R428). -/
structure LateTrap where
  cause : BitVec 6
  info : Word
  deriving DecidableEq, Repr

/-- A matrix operation waiting in a stream's queue (08 R210), with its scalar operand read at issue. -/
structure MatrixOp where
  op : Nat
  instr : Instr
  offset : Word
  pkt : Word
  slot : Nat
  deriving DecidableEq, Repr

/-- A furrow, or an MCC stream when `stream` is set (01 R10, 08 R209). -/
structure Furrow where
  valid : Bool := false
  stream : Bool := false
  /-- W (01 R6); 1 for a stream -/
  width : Nat := 16
  vcount : Nat := 16
  scount : Nat := 16
  fidx : Nat := 0
  plot : Nat := 0
  croft : Nat := 0
  cluster : Nat := 0
  core : Nat := 0
  slot : Nat := 0
  ctx : Nat := 0
  spill : Nat := 0
  code : Dword := 0
  csize : Word := 0
  etab : Dword := 0
  ecnt : Nat := 1
  /-- element (register r, thread t) at key 64 r + t -/
  v : NMap Word := []
  s : NMap Word := []
  k : NMap Mask := []
  vMark : NMap Mark := []
  sMark : NMap Mark := []
  kMark : NMap Mark := []
  entries : List Entry := []
  /-- the entry that issued last (05 R143), and whether it has not waited since: the furrow's turns stay with it inside its packet (R141) -/
  last : Nat := 0
  keeps : Bool := false
  /-- the six counters by path number (01 R22) -/
  ctr : NMap (BitVec 6) := []
  status : Word := 0
  epc : Word := 0
  cause : Word := 0
  info : Word := 0
  tvec : Word := 0
  rt : Bool := false
  /-- the entry in the handler (05 R146) -/
  handler : Nat := 0
  rng : Word := 0x6A09E667
  cyclh : Word := 0
  pts : BitVec 48 := 0
  seen : BitVec 48 := 0
  maxw : BitVec 48 := 0
  /-- loads served by L1 hits, modulo 64 (11 R259) -/
  hits : BitVec 6 := 0
  stale : List Stale := []
  late : List LateTrap := []
  /-- no further group issues: halted, faulted or being saved -/
  stopped : Bool := false
  /-- the bytes of the spill area, from its lowest address on: the little-endian 16-byte records of the spilled entries (01 R19 to R21) -/
  spilled : List Byte := []
  /-- tile bytes of a stream at key 8192 n + byte -/
  ta : NMap Byte := []
  /-- accumulator bytes of a stream at key 4096 n + byte -/
  tc : NMap Byte := []
  /-- marks of tile words: ta at 2048 n + word, tc at 65536 + 1024 n + word -/
  tileMark : NMap Mark := []
  /-- first tile number and copies of the latched tiles, with their poisoned words (08 R219) -/
  latch : Option (Nat × List (List Byte × List Nat)) := none
  histA : List Byte := []
  histB : List Byte := []
  mev : Word := 0
  mqueue : List MatrixOp := []
  /-- choices the stream's head was passed over in (08 R224) -/
  passed : Nat := 0
  /-- the poisoned-block records of the stream that no wait has reported (08 R233), oldest first: the matrix operations issued after each
  record's own, and the `info` to report -/
  poisonTrap : List (Nat × Word) := []
  deriving DecidableEq, Repr

/-! ### Operations in flight -/

/-- A scope-table entry (11 R264); `level` is the domain of a launch level's installation (15 R346). -/
structure Scope where
  map : BitVec 256 := 0
  obs : BitVec 5 := 0
  pgrp : BitVec 4 := 0
  gen : BitVec 4 := 0
  level : Option Nat := none
  deriving DecidableEq, Repr

/-- One thread's access to consecutive bytes at one location. -/
structure Acc where
  thr : Nat
  loc : Nat
  /-- the generic address, for `info` and for records -/
  addr : Dword := 0
  size : Nat := 4
  data : List Byte := []
  /-- words read that were poisoned (06 R169, R176) -/
  marks : List Bool := []
  /-- its line may stand in the L1 (06 R163, 11 R277) -/
  l1 : Bool := false
  done : Bool := false
  /-- a store's completion stamp at its line (11 R258), and whether it has come back to the core (R260) -/
  stamp : BitVec 48 := 0
  returned : Bool := false
  /-- MODEL'S OWN: the write stamp that a store found at its line -/
  prior : BitVec 48 := 0
  deriving DecidableEq, Repr

/-- What kind of operation is in flight; the instruction itself tells the rest. -/
inductive OpKind where
  | load
  | store
  | atomic
  | fence
  | arrival
  | waitw
  | scopeset
  | message
  | post
  | probe
  | emit
  | copy
  | key
  | tile
  | matrix
  | remote
  | writeback
  | prefetch
  deriving DecidableEq, Repr

/-- An operation in flight (01 R22, R23; 11 R271). -/
structure Op where
  id : Nat := 0
  furrow : Nat := 0
  entry : Nat := 0
  pkt : Word := 0
  slot : Nat := 0
  kind : OpKind := .load
  instr : Instr := .nop
  /-- the counter path it raised (01 R22) -/
  path : Option Nat := none
  /-- the instruction's active set and its zeroed threads (01 R9) -/
  act : Mask := 0
  zero : Mask := 0
  accs : List Acc := []
  /-- operands read at issue: scalar words, or words of each thread at key 8 t + j -/
  args : List Word := []
  targs : NMap Word := []
  scope : Nat := 0
  /-- acts at device tier (11 R266) -/
  device : Bool := false
  gen : BitVec 4 := 0
  /-- the version of its scope entry in force at issue (12 R284) -/
  version : Scope := {}
  /-- a scopeset on the entry completed meanwhile: its generation (11 R271) -/
  stale : Option (BitVec 4) := none
  /-- operations (by id) that must be done before this one may perform: the release part of `stl`, barriers and fences -/
  after : List Nat := []
  /-- the furrow's program stamp at issue, and the highest stamps its writes and reads returned (11 R257, R258) -/
  pts : BitVec 48 := 0
  wmax : BitVec 48 := 0
  rmax : BitVec 48 := 0
  /-- the highest stamp of any kind in its replies (11 R261) -/
  heard : BitVec 48 := 0
  /-- parked at the home: a barrier's waiter, or a `waitw` whose condition did not hold (06 R182, 11 R272) -/
  parked : Bool := false
  /-- the generation a scalar key request carries (13 R312) -/
  gen16 : BitVec 16 := 0
  results : NMap Word := []
  resultMark : NMap Mark := []
  begun : Bool := false
  /-- a fence, `barw` or `waitw` with members above it in its group: the furrow without their effect and with it, which takes place when the
  operation completes without a trap (02 R44), and the registers that are interlocked until then (R47) -/
  above : Option (Furrow × Furrow) := none
  locks : List Span := []
  /-- elements of its destination that hold their result already (06 R171): v at 64 r + t, s at 8192 + r; words of a `twr` that stand in their
  tile at 8 t + r (08 R230) -/
  early : List Nat := []
  /-- refused by a retiring slice, to be sent again (11 R281) -/
  refused : Bool := false
  /-- complete, waiting for its counter to fall in order (01 R23) -/
  done : Bool := false
  deriving DecidableEq, Repr

/-- The stamps and the owner of a 64-byte line at its home (11 R257, R262). -/
structure Line where
  wts : BitVec 48 := 0
  rts : BitVec 48 := 0
  owner : Option Nat := none
  deriving DecidableEq, Repr

/-! ### Cores, clusters and dies -/

/-- A line held in an L1 (06 R163, 11 R259, R262). -/
structure L1Line where
  line : Nat
  data : List Byte
  wts : BitVec 48
  rts : BitVec 48
  exclusive : Bool := false
  /-- MODEL'S OWN: the stamp up to which the copy holds every write of the line; a store that updates the copy raises it only when no other write
  came between (12 R291, R292; log entry 67) -/
  base : BitVec 48 := wts
  /-- the program stamps of furrows when the copy first served them, by furrow slot (12 R297) -/
  first : NMap (BitVec 48) := []
  deriving DecidableEq, Repr

/-- A fill on its way to an L1; `dropped` when the copy was dropped or updated meanwhile (11 R260). -/
structure Fill where
  /-- the load that asked for it -/
  op : Nat
  line : Nat
  data : List Byte
  wts : BitVec 48
  rts : BitVec 48
  dropped : Bool := false
  deriving DecidableEq, Repr

/-- A copy command in a core's queue (09 R236, R237). -/
structure CopyCmd where
  words : List Word
  targets : Option (List Word) := none
  op : Nat
  plot : Nat
  core : Nat
  slot : Nat
  ctx : Nat
  pkt : Word
  /-- an uncorrectable error in the command (09 R250) -/
  engineError : Bool := false
  /-- the row whose service from the line buffer meets an uncorrectable error (09 R250) -/
  bufferError : Option Nat := none
  deriving DecidableEq, Repr

/-- A command the engine has carried out and not yet ended (09 R243, R246). -/
structure CopyRun where
  cmd : CopyCmd
  status : Nat
  fc : Nat := 0
  count : Nat := 0
  addr : Nat := 0
  pois : Bool := false
  inbound : List Nat := []
  maxw : BitVec 48 := 0
  seen : BitVec 48 := 0
  deriving DecidableEq, Repr

/-- A cached translation (11 R278). -/
structure TlbEntry where
  ctx : Nat
  /-- virtual page base and log2 of its size -/
  base : Nat
  bits : Nat
  pte : Dword
  deriving DecidableEq, Repr

/-- A table entry in a die's walk cache (11 R278): the table that translates address bits from `sh` upward below a prefix. -/
structure WalkEntry where
  ctx : Nat
  sh : Nat
  pre : Nat
  table : Nat
  deriving DecidableEq, Repr

structure Core where
  cycle : Dword := 0
  horizon : BitVec 48 := 0
  l1 : List L1Line := []
  fills : List Fill := []
  copyq : List CopyCmd := []
  /-- the register error log and its overflow count (01 R37) -/
  rel : List Dword := []
  relOver : BitVec 16 := 0
  tlb : List TlbEntry := []
  deriving DecidableEq, Repr

/-- A posted receive (11 R273). -/
structure Posted where
  slot : Nat
  loc : Nat
  addr : Dword := 0
  tag : Word
  tmask : Word
  source : Option Nat
  plot : Nat
  ctx : Nat := 0
  deriving DecidableEq, Repr

/-- A message in the overflow queue (11 R274). -/
structure Msg where
  source : Nat
  tag : Word
  payload : List Word
  /-- the sender's stamp, for the release that the buffer's write is -/
  pts : BitVec 48 := 0
  deriving DecidableEq, Repr

/-- An installed acre (13 R304, R307). -/
structure Acre where
  dir : Dword := 0
  pool : Dword := 0
  cost : Dword := 0
  nblk : Nat := 0
  nent : Nat := 0
  dims : Nat := 1
  maxl : Nat := 0
  lsz : Nat := 6
  /-- the stake count of the local table before the current one, which requests of its generation still use (13 R312, R323) -/
  lastCount : Nat := 0
  /-- the cluster and the program stamp of the `kbal` that committed last, for which the forward entries are removed (13 R323, 12 R295) -/
  agent : Option (Nat × BitVec 48) := none
  /-- the acre error that a key unit found (13 R328) -/
  err : Bool := false
  deriving DecidableEq, Repr

/-- A transplant copy under way (13 R322): the leaf's old owner, key, blocks and new owner. -/
structure Move where
  ctx : Nat
  acre : Nat
  origin : Nat
  key : Dword
  old : Dword
  new : Dword
  dest : Nat
  /-- the operation of the `kbal` that started it -/
  op : Nat
  copied : Bool := false
  deriving DecidableEq, Repr

structure Cluster where
  budget : Word := 0x00040000
  /-- the stream whose queue head was chosen and waits for budget (08 R223, R224) -/
  chosen : Option Nat := none
  /-- effective rate (17 R377) -/
  rate : Nat := 156250
  cbrate : Nat := 156250
  cbceil : Word := 0x00040000
  /-- the `cbrate` and the ceiling in force, which the registers set at the next addition (17 R378) -/
  base : Nat := 156250
  ceil : Word := 0x00040000
  /-- kept rows of each core queue's line buffer: source address, bytes and whether each was poisoned (09 R242, R249) -/
  lineBuf : NMap (List (Nat × List (Byte × Bool))) := []
  /-- the queue the engine took from last (09 R237) -/
  lastQueue : Nat := 3
  run : Option CopyRun := none
  posted : List Posted := []
  overflow : List Msg := []
  /-- scope-table copies at key 8 ctx + entry; absent until loaded (11 R264) -/
  scopes : NMap (Option Scope) := []
  tlb : List TlbEntry := []
  moves : List Move := []
  deriving DecidableEq, Repr

structure Die where
  /-- the program stamp of the die's front end (11 R257, 15 R334, R352; log entry 4) -/
  pts : BitVec 48 := 0
  /-- the highest stamp that a write of the die's front end took (15 R337) -/
  maxw : BitVec 48 := 0
  dpart : Nat := 0
  /-- a change of `dpart` is being applied, and the code it brings (11 R253) -/
  busy : Bool := false
  dnext : Nat := 0
  lease : Nat := 1024
  /-- buckets reassigned from slice b mod 64 (11 R254, R281) -/
  buckets : NMap (Option Nat) := []
  /-- the stamp that lines of a reassigned bucket have at least, by bucket (11 R281) -/
  floors : NMap (BitVec 48) := []
  sliceErrors : NMap Nat := []
  sliceThreshold : Word := 0
  retired : List Nat := []
  /-- the walk cache (11 R278) -/
  walks : List WalkEntry := []
  /-- junction temperature, and whether matrix engines may not start (17 R379, 110 °C) -/
  celsius : Nat := 0
  hot : Bool := false
  lastDrill : Nat := 0
  deriving DecidableEq, Repr

/-- The gathering state of a node (15 R349): fill count, filling buffer, buffers whose sheaf launch is still open, and the launch whose
record was taken last. -/
structure NodeState where
  fill : Nat := 0
  buffer : Nat := 0
  busy : List Nat := []
  launch : Nat := 0
  /-- the filling buffer is to be launched once the other's launch is over -/
  pending : Bool := false
  deriving DecidableEq, Repr

structure Ctx where
  ptbase : Dword := 0
  fring : Dword := 0
  fringw : Dword := 0
  pgbase : Dword := 0
  rtmo : Nat := 10000
  xsave : Dword := 0
  xslen : Word := 0
  xstat : Nat := 0
  /-- records (as 32-bit words) waiting for room in the fault ring (11 R279) -/
  faults : List (List Word) := []
  /-- the master scope table (11 R264) -/
  scopes : NMap Scope := []
  acres : NMap (Option Acre) := []
  /-- the nodes' gathering states, by the address of the node table entry (15 R349) -/
  nodes : NMap NodeState := []
  deriving DecidableEq, Repr

/-! ### Queues, launches, plots and crofts -/

/-- A level of the drill's indirect nesting (15 R340): packets left, the packet's index, and the caller's g1, g2, packet, pc and loops. -/
structure Level where
  left : Nat
  index : Nat
  g1 : Dword
  g2 : Dword
  pkt : Dword
  pc : Nat
  loops : List (Nat × Nat × Nat × Nat × Nat)
  deriving DecidableEq, Repr

structure Queue where
  qbase : Dword := 0
  lsz : Nat := 0
  pri : Nat := 0
  ctx : Nat := 0
  en : Bool := false
  qbmap : Dword := 0
  qprog : Dword := 0
  qplen : Nat := 0
  qwin : NMap Dword := []
  qwlen : NMap Word := []
  qfring : Dword := 0
  qsave : Dword := 0
  qslen : Word := 0
  qtk : Word := 0
  qrd : Word := 0
  qstat : Nat := 0
  lost : BitVec 16 := 0
  /-- g1 to g15 (15 R336) -/
  g : NMap Dword := []
  program : List Word := []
  /-- a packet is being run -/
  inPacket : Bool := false
  pc : Nat := 0
  /-- the packet's own address, for region `pkt` (15 R338) -/
  pkt : Dword := 0
  /-- loops open: first word, end word, register, count, iteration -/
  loops : List (Nat × Nat × Nat × Nat × Nat) := []
  levels : List Level := []
  /-- records (as 32-bit words) held because the fault ring is full (15 R354) -/
  held : List (List Word) := []
  /-- bytes of the save area in use (15 R356) -/
  saved : Nat := 0
  /-- plots whose save was refused in this pre-emption -/
  refusedSaves : List Nat := []
  /-- the drill is held by qctl 1 -/
  drillStopped : Bool := false
  /-- launches that are complete and have not written their signal, in the order in which they completed (15 R352) -/
  overs : List Nat := []
  deriving DecidableEq, Repr

/-- The fields of a launch record (15 R342). -/
structure LaunchRec where
  levels : List Word := []
  nodes : Nat := 0
  graph : Dword := 0
  msc : Nat := 2
  mtvec : Word := 0
  mcsize : Word := 0
  metab : Dword := 0
  mcode : Dword := 0
  sscope : Nat := 0
  sval : Word := 0
  sig : Dword := 0
  arg : Dword := 0
  rpp : Nat := 0
  acre : Nat := 0
  prio : Nat := 0
  cores : Bool := false
  place : Nat := 0
  fpp : Nat := 1
  plots : Nat := 1
  cmem : Nat := 0
  spill : Nat := 0
  pmem : Nat := 0
  priv : Nat := 0
  sc : Nat := 2
  vc : Nat := 2
  w : Nat := 0
  ecnt : Nat := 1
  tvec : Word := 0
  csize : Word := 0
  etab : Dword := 0
  code : Dword := 0
  deriving DecidableEq, Repr

/-- A sheaf's place: the address of its node's entry, and which of the two buffers (15 R349). -/
structure SheafRef where
  node : Nat
  buffer : Nat
  count : Nat
  address : Dword
  deriving DecidableEq, Repr


structure Launch where
  id : Nat := 0
  queue : Nat := 0
  ticket : Word := 0
  ctx : Nat := 0
  addr : Dword := 0
  record : LaunchRec := {}
  /-- crofts of the launch (15 R343) -/
  crofts : Nat := 1
  /-- the next croft to be placed (15 R345) -/
  next : Nat := 0
  /-- the entry table and the stream's entry, read at `launch` (15 R344; log entry 14) -/
  entryTable : List Word := []
  streamEntry : Word := 0
  /-- placed by acre: the leaves have been divided among the plots, and their keys in order (13 R327) -/
  divided : Bool := true
  /-- the placement pins of its leaves have been raised (13 R327) -/
  pinned : Bool := false
  leaves : List Dword := []
  faulted : Bool := false
  halted : Bool := false
  aborted : Bool := false
  sheaf : Option SheafRef := none
  signalled : Bool := false
  /-- the highest write completion stamp of its ended furrows and streams (15 R352, 11 R267) -/
  maxw : BitVec 48 := 0
  deriving DecidableEq, Repr

/-- Where a plot stands (06 R156, 15 R355). -/
inductive PlotPhase where
  | placed
  | running
  | saved
  | ended
  deriving DecidableEq, Repr

structure Plot where
  id : Nat := 0
  launch : Nat := 0
  /-- linear index within its launch (01 R25) -/
  index : Nat := 0
  croft : Nat := 0
  cluster : Nat := 0
  core : Nat := 0
  ctx : Nat := 0
  phase : PlotPhase := .placed
  furrows : List Nat := []
  scrBase : Nat := 0
  scrSize : Nat := 0
  spillSize : Nat := 0
  /-- offset of the plot's lane-private area in every slice, and P (06 R160) -/
  laneBase : Nat := 0
  priv : Nat := 0
  width : Nat := 16
  /-- furrows it was launched with, whose lane-private areas exist (06 R159) -/
  fpp : Nat := 1
  /-- completion ring: base, entries and ring word (09 R244) -/
  ring : Option (Dword × Nat × Dword) := none
  inbound : Nat := 0
  /-- the held-pin counter (13 R314) -/
  pins : Word := 0
  /-- leaves pinned by placement (13 R327) -/
  placedLeaves : List Dword := []
  faulted : Bool := false
  halted : Bool := false
  /-- saved furrows and memories of a pre-empted plot (15 R356) -/
  savedFurrows : List Furrow := []
  /-- the scratchpad, then each lane's slice, with the numbers of their poisoned words -/
  savedBytes : List (List Byte × List Nat) := []
  savedPosts : List Posted := []
  savedOps : List Op := []
  deriving DecidableEq, Repr

structure Croft where
  id : Nat := 0
  launch : Nat := 0
  index : Nat := 0
  cluster : Nat := 0
  cmemBase : Nat := 0
  cmemSize : Nat := 0
  plots : List Nat := []
  stream : Option Nat := none
  savedStream : Option Furrow := none
  savedOps : List Op := []
  savedMem : Option (List Byte × List Nat) := none
  ended : Bool := false
  deriving DecidableEq, Repr

/-! ### Package and fabric -/

/-- A boot under way (17 R370): the failure that the hardware will show, and the firmware that is verified, measured and loaded. -/
structure Boot where
  fail : Nat
  image : Image
  deriving DecidableEq, Repr

structure Pkg where
  devno : BitVec 16 := 0
  bootst : BitVec 16 := 5
  boot : Option Boot := none
  pwrcap : Nat := 5000
  /-- the cap in force, which `pwrcap` sets at the next addition (17 R378) -/
  cap : Nat := 5000
  evring : Dword := 0
  evringw : Dword := 0
  evSeq : Word := 0
  evCounted : Nat := 0
  evDropped : Nat := 0
  /-- records taken and not yet visible in the event ring, as 32-bit words (17 R382) -/
  events : List (List Word) := []
  /-- measurement slots 0 to 5 (17 R372; log entry 68) -/
  slots : List (BitVec 256) := List.replicate 6 0
  /-- the SPDM sessions that stand (17 R375; log entry 52) -/
  sessions : List Nat := []
  /-- next unused signing index, and the end of the block reserved in flash (17 R373) -/
  signNext : Nat := 0
  signReserved : Nat := 0
  security : Nat := 0
  /-- 0 whole, 1 half width, 2 failed, by bridge (17 R362) -/
  bridges : NMap Nat := []
  thermalHold : Bool := false
  /-- power is applied -/
  power : Bool := true
  /-- RAS counters and thresholds, and those that reported (17 R381), by unit number -/
  ras : NMap Word := []
  rasThreshold : NMap Word := []
  rasReported : NMap Bool := []
  /-- consecutive measurements above `pwrcap` (17 R377, R382 kind 11) -/
  above : Nat := 0
  /-- the record of kind 12 has been written (17 R373) -/
  lowReported : Bool := false
  /-- the CXL.io configuration state, which the manual does not lay out (17 R374) -/
  cxlio : Nat := 0
  deriving DecidableEq, Repr

/-- What a flit says whose payload the manual does not lay out. -/
inductive Note where
  | none
  /-- a remote request of an operation, and the threads it is for -/
  | request (op : Nat) (body : RemoteBody)
  /-- the answer to a request -/
  | reply (fail : List (BitVec 3)) (values : List Word) (marks : List Bool)
  /-- a member's part of a reduction, and the result with its status -/
  | part (id mode opcode : Nat) (values : List Word)
  | result (id status : Nat) (values : List Word)
  /-- the answers to a bulk request -/
  | accepted
  | deferred
  | refused
  | grant (offset size : Nat)
  | done
  /-- the other side's end, pause or resume of the transfer, for the record of this side (18 R409, R413, R415) -/
  | abort (side : Side)
  | paused (side : Side)
  | resumed (side : Side)
  /-- a gap in the sequence numbers (18 R386) -/
  | gap
  /-- a relay buffer has no room for the flit (18 R394) -/
  | full
  deriving DecidableEq, Repr

/-- A flit of a session (18 R384): the header's fields, the payload as far as the manual lays it out, the context that a note is for,
and the operation or transfer that it serves here. -/
structure Flit where
  type : Nat
  dst : Nat := 0
  src : Nat := 0
  rel : Bool := false
  hop2 : Bool := false
  units : Nat := 0
  tag : BitVec 16 := 0
  addr : Dword := 0
  payload : List Byte := []
  ctx : Nat := 0
  note : Note := .none
  own : Nat := 0
  /-- the port whose receive mask it reports, which sends it (18 R387) -/
  port : Option Nat := none
  /-- its class, 4 for none, and what it is charged there: an operation's first flit bears the operation's charge (18 R393) -/
  cls : Nat := 4
  charge : Nat := 0
  /-- a relay has refused it, so it waits for a direct slot (18 R394) -/
  direct : Bool := false
  /-- another flit of the same request stands before it (20 R423) -/
  cont : Bool := false
  deriving DecidableEq, Repr

/-- One direction pair of a port group towards one peer (18 R386): the next sequence number to send, the flits kept, the next one
expected, the remote requests counted (20 R423) and the replays made. -/
structure Session where
  txNext : Word := 0
  unacked : List (Word × Flit) := []
  rxNext : Word := 0
  requests : BitVec 16 := 0
  replays : Nat := 0
  /-- how many of the kept flits have left since the last replay, and how many have left at all -/
  sent : Nat := 0
  left : Nat := 0
  /-- 0 no acknowledgement is owed; 1 a flit with none to send may carry it in an idle flit, since it acknowledges an acknowledgement flit;
  2 it leaves in an acknowledgement flit unless another flit carries it -/
  owed : Nat := 0
  /-- the gap before the next flit expected has been reported -/
  gap : Bool := false
  deriving DecidableEq, Repr

/-- A peer's report that took positions from a port's transmit mask, and the session as the report found it: the first flit kept, and how many had
left (18 R387; 19 R422). -/
structure MaskReport where
  positions : BitVec 16
  peer : Nat
  first : Word
  left : Nat
  deriving DecidableEq, Repr

/-- A rotor port (18 R383, R387, R388). -/
structure Port where
  txMask : BitVec 16 := 0xFFFF
  rxMask : BitVec 16 := 0xFFFF
  /-- transmit positions that a peer's report took from the mask and whose loss this device has not detected itself, oldest first (18 R387) -/
  reports : List MaskReport := []
  headland : Bool := false
  /-- positions handed back for retraining, and their failures since they last rejoined -/
  retraining : BitVec 16 := 0
  fails : NMap Nat := []
  /-- pre-FEC symbol errors of each receive position in this run of 2^20 codewords (18 R388) -/
  symbols : NMap Nat := []
  /-- the beats of the flit that the transmit link carries: position, beat time and 64 bits (18 R385) -/
  line : List (Nat × Nat × Dword) := []
  discarded : Word := 0
  crcErrors : Word := 0
  deriving DecidableEq, Repr

/-- A port group's place in the rotation and what it may still send in this slot (18 R392, R393). -/
structure Group where
  entry : Option Nat := none
  /-- light has returned, and no beacon of the slot has come yet -/
  awaiting : Bool := false
  /-- it may send to its peer -/
  lit : Bool := false
  /-- charged bytes left in classes 0 to 3; `none` unlimited -/
  left : List (Option Nat) := []
  /-- the class that sent last: the others come first (18 R393) -/
  turn : Nat := 3
  misses : Word := 0
  deriving DecidableEq, Repr

/-- Something queued for a peer in one class (18 R393): an operation's request for some of its threads, or flits that stand ready. -/
structure SendItem where
  op : Nat := 0
  charge : Nat := 0
  thrs : List Nat := []
  body : Option RemoteBody := none
  flits : List Flit := []
  deriving DecidableEq, Repr

/-- A remote request that has been sent and not answered (18 R405; 20 R423): its target, its tag, its operation, and the threads it is for. -/
structure Asked where
  peer : Nat
  tag : BitVec 16
  op : Nat
  thrs : List Nat := []
  deriving DecidableEq, Repr

/-- A live grant of a receiver record: its range and the bytes of it that have not arrived (18 R412, R413). -/
structure Grant where
  off : Nat
  size : Nat
  missing : List (Nat × Nat)
  deriving DecidableEq, Repr

/-- A transfer record of either side (18 R410), with what the 64-byte form does not hold. -/
structure Xfer where
  id : Nat := 0
  receiver : Bool := false
  la : Dword := 0
  ra : Dword := 0
  flag : Dword := 0
  len : Nat := 0
  done : Nat := 0
  peer : Nat := 0
  tag : BitVec 16 := 0
  pass : Nat := 0
  /-- `xr.st` while the record is not paused -/
  st : Nat := 1
  pri : Nat := 0
  rel : Bool := false
  scope : Nat := 0
  nexp : Nat := 0
  gcnt : Word := 0
  ecnt : Word := 0
  ctx : Nat := 0
  unit : Nat := 0
  /-- sender: the cluster of its agent, and the agent's program stamp at issue (12 R295) -/
  cluster : Nat := 0
  pts : BitVec 48 := 0
  /-- the sender's context, by which a receiver record is named -/
  sctx : Nat := 0
  /-- a source in a fixed window: the place of its first byte -/
  win : Option Nat := none
  seed : Nat := 0
  /-- sender: the request has left, and how many bytes of the seed after it (18 R411) -/
  requested : Bool := false
  seedSent : Nat := 0
  /-- sender: bytes granted once at least -/
  granted : List (Nat × Nat) := []
  /-- sender: ranges granted and not yet sent, one for each grant, in the order in which they came -/
  tosend : List (Nat × Nat) := []
  /-- sender: bytes that have left outside the sessions and are not acknowledged -/
  flying : Nat := 0
  /-- receiver: ungranted ranges, ascending (18 R412) -/
  ungranted : List (Nat × Nat) := []
  grants : List Grant := []
  /-- receiver: the highest stamp of its writes (18 R407) -/
  maxw : BitVec 48 := 0
  /-- paused here, and by the peer (18 R415) -/
  heldOwn : Bool := false
  heldPeer : Bool := false
  /-- its place in the save area -/
  savedAt : Option Nat := none
  deriving DecidableEq, Repr

/-- A reduction (18 R408): this device's own part in it, unless `op` is 0, and the parts received, in arrival order. -/
structure Reduction where
  ctx : Nat
  id : Nat
  op : Nat := 0
  members : List Nat := []
  opcode : Nat
  count : Nat
  relaxed : Bool
  got : List (Nat × List Word)
  /-- its part has been sent up the tree -/
  sent : Bool := false
  /-- parts disagreed before this device's own came -/
  bad : Bool := false
  deriving DecidableEq, Repr

structure Fabric where
  sltcnt : Nat := 0
  slt : NMap (BitVec 256) := []
  /-- entries of the slot table whose ranged fields have been written (18 R391; log entry 57) -/
  sltWritten : List Nat := []
  peertab : Dword := 0
  relaysz : Nat := 4
  seedmax : Nat := 16
  seedpool : Nat := 16
  grantsz : Nat := 16
  xexp : Nat := 200
  ageq : Nat := 64
  bdp : NMap (Option Word) := []
  wlthr : Word := 1024
  inwin : NMap Dword := []
  inwl : NMap Word := []
  /-- rotor ports 0 to 95; Ethernet port e, of which only the counters are used, at 96 + e -/
  ports : NMap Port := []
  groups : NMap Group := []
  /-- by 4096 group + peer -/
  sessions : NMap Session := []
  /-- by 8 peer + class; class 4 holds control, grants, answers and acknowledgements -/
  sendq : NMap (List SendItem) := []
  /-- flits waiting in the relay buffer (18 R389, R394) -/
  relay : List Flit := []
  /-- remote requests sent and not answered, oldest first (20 R423) -/
  asked : List Asked := []
  seeds : NMap Nat := []
  xfers : List Xfer := []
  reductions : List Reduction := []
  /-- the highest write stamp taken for each agent's ordered writes here (18 R407) -/
  ordered : NMap (BitVec 48) := []
  /-- slot tables found out of range (18 R391) -/
  miscounts : Word := 0
  deriving DecidableEq, Repr

/-- A hardware error, which comes from outside the model and for which spec/opcode_table.json has no row (log entry 64). -/
inductive Upset where
  /-- an error that a RAS unit corrects and counts (01 R32, 06 R187, 08 R231, 11 R255, 17 R366, R381) -/
  | corrected (unit : Nat)
  /-- the same in a slice of the L2 (11 R281) -/
  | slice (die slice : Nat)
  /-- an uncorrectable error in a vector or scalar register element or a mask register, files 0, 1 and 2 (01 R32, R36) -/
  | element (furrow file reg thread : Nat)
  /-- an uncorrectable error in a split-table entry, a counter, the issue state or the spill area of a furrow (01 R36, 06 R188) -/
  | issueState (furrow : Nat)
  /-- an uncorrectable error in a 4-byte word of memory: an SRAM's, or a GDDR7 device's (06 R187, 08 R206, 11 R255, 17 R366) -/
  | word (word : Nat)
  /-- an uncorrectable error in a word of a dirty line of the L2 (11 R255); one in a clean line only has it fetched again -/
  | cachedWord (word : Nat)
  /-- an uncorrectable error in a line of an L1 (06 R187) -/
  | cacheLine (core line : Nat)
  /-- an uncorrectable error in a tile word of a stream (08 R231) -/
  | tileWord (furrow word : Nat)
  /-- an uncorrectable error in a stream's matrix queue, latch or histories (08 R231) -/
  | matrixState (furrow : Nat)
  /-- an uncorrectable error in a command held in a copy queue (09 R250) -/
  | copyEntry (core index : Nat)
  /-- an uncorrectable error in a line buffer; with a row, it is met when the next command is served that row (09 R242, R250) -/
  | lineBuffer (core : Nat) (row : Option Nat)
  /-- an uncorrectable error in a copy engine's own state (09 R250) -/
  | copyEngine (cluster : Nat)
  /-- pre-FEC symbol errors on a receive position, and the end of its 2^20 codewords (18 R388) -/
  | symbolErrors (port position n : Nat)
  | symbolWindow (port position : Nat)
  deriving DecidableEq, Repr

/-- Where the issuing entry goes after its group (02 R45). -/
inductive Ctl where
  /-- on to the next group -/
  | fall
  /-- to slot 0 of the next packet: words after the group do not issue -/
  | nextPacket
  | goto (pkt : Word) (slot : Nat)
  /-- a `brk` that splits: the threads taken and their target (05 R140) -/
  | split (taken : Mask) (target : Word)
  | exit
  | halt (code : Word)
  deriving DecidableEq, Repr

/-- Why a group that was tried did not issue. -/
inductive Stall where
  | none
  /-- a member waits at issue for a counter, a queue or an answer: other entries may go on (01 R24, 05 R133) -/
  | wait
  /-- a member waits at issue for room in the transaction table or for older memory operations (06 R157, R185; 11 R267) -/
  | hold
  /-- a translation is missing: lowest faulting thread, its address, the access (11 R279) -/
  | miss (thr : Nat) (va : Dword) (access : BitVec 3)
  deriving DecidableEq, Repr

/-- The group in issue (02 R40, R42). -/
structure Issue where
  furrow : Nat := 0
  entry : Nat := 0
  pkt : Word := 0
  /-- base-word slot of the member that runs, and its word as it stands in the code -/
  slot : Nat := 0
  word : Word := 0
  /-- slot of the group's last word -/
  lastSlot : Nat := 0
  pfx : Option Instr := none
  lim : Option Instr := none
  /-- members that wait for the operation of a lower member -/
  rest : List Member := []
  /-- the furrow before the members above an operation that may still trap, and the registers that they write -/
  under : Option Furrow := none
  locks : List Span := []
  ctl : Ctl := .fall
  stall : Stall := .none
  /-- a member trapped: the group ends (02 R44) -/
  trapped : Bool := false
  /-- what the entry waits for once the group has issued -/
  park : List Wait := []
  /-- the member that runs waits for an operation that may still trap: the members above it are held (02 R44) -/
  hold : Bool := false
  /-- sticky flags raised by the group's vector members (01 R28) -/
  raised : Word := 0
  deriving DecidableEq, Repr

/-- A group whose upper members wait behind an operation: the furrow as it stood before the group, and the rest of the issue. -/
structure Held where
  pre : Furrow
  iss : Issue
  deriving DecidableEq, Repr

structure State where
  /-- MODEL'S OWN: events and inputs next in line (log entry 5) -/
  agenda : List Instr := []
  /-- MODEL'S OWN: hardware errors next in line (log entry 64) -/
  upsets : List Upset := []
  /-- MODEL'S OWN: numbers the free values drawn so far (log entry 7) -/
  tick : Nat := 0
  /-- MODEL'S OWN: the group in issue, its furrow before it and its furrow so far -/
  iss : Issue := {}
  /-- groups held in the middle, at 128 furrow + entry, and of saved furrows at 2^40 + 4096 plot + 128 fidx + entry -/
  held : NMap Held := []
  pre : Furrow := {}
  cur : Furrow := {}
  mem : Memory := []
  memMark : NMap Mark := []
  /-- bytes of device memory that GDDR7 holds as they are, since they were written back last: a mask for each line (06 R184) -/
  backed : NMap Dword := []
  lines : NMap Line := []
  furrows : NMap Furrow := []
  plots : NMap Plot := []
  crofts : NMap Croft := []
  launches : NMap Launch := []
  ops : List Op := []
  /-- MODEL'S OWN: numbers operations, launches, plots and crofts -/
  nextId : Nat := 1
  cores : NMap Core := []
  clusters : NMap Cluster := []
  dies : NMap Die := []
  ctxs : NMap Ctx := []
  queues : NMap Queue := []
  /-- the queue whose drill runs a word (15 R335) -/
  dq : Nat := 0
  pkg : Pkg := {}
  fab : Fabric := {}
  deriving DecidableEq, Repr

/-- The device right after reset (17 R370, R374): nothing resident, every register at its value after reset. -/
def State.reset : State := {}

end Sys2Proof.Machine
end

