-- ==== Sys2Proof/Machine/Table.lean ====
section
/-! DEFINITION. Sparse tables: sorted lists of keys and values. Memory is one of them, with bytes for values and the
unlisted byte 0 (17 R370, R374; log entry 2). -/

namespace Sys2Proof.Machine

/-- The value listed at a key. -/
def tfind {α : Type} : NMap α → Nat → Option α
  | [], _ => none
  | (j, x) :: m, k => if j = k then some x else tfind m k

/-- The value at a key, `d` where none is listed. -/
def tget {α : Type} (m : NMap α) (k : Nat) (d : α) : α := (tfind m k).getD d

/-- The table with no entry at a key. -/
def terase {α : Type} : NMap α → Nat → NMap α
  | [], _ => []
  | (j, x) :: m, k => if j = k then terase m k else (j, x) :: terase m k

/-- The table with `v` listed at a key. -/
def tput {α : Type} : NMap α → Nat → α → NMap α
  | [], k, v => [(k, v)]
  | (j, x) :: m, k, v =>
    if j = k then (k, v) :: m else if k < j then (k, v) :: (j, x) :: m else (j, x) :: tput m k v

/-- The table with `v` at a key, where `d` is what an unlisted key reads as and is never listed. -/
def tset {α : Type} [DecidableEq α] (m : NMap α) (k : Nat) (d v : α) : NMap α :=
  if v = d then terase m k else tput m k v

/-- The table with the entry at a key, if any, changed. -/
def tmod {α : Type} : NMap α → Nat → (α → α) → NMap α
  | [], _, _ => []
  | (j, x) :: m, k, f => if j = k then (j, f x) :: m else (j, x) :: tmod m k f

/-- Keys strictly rise. -/
def tsorted {α : Type} : NMap α → Bool
  | [] => true
  | [_] => true
  | (i, _) :: (j, y) :: m => decide (i < j) && tsorted ((j, y) :: m)

/-- A table in its one canonical form: keys strictly rise and no listed value is what an unlisted key reads as. -/
def tcanon {α : Type} [DecidableEq α] (m : NMap α) (d : α) : Bool :=
  tsorted m && m.all fun x => decide (x.2 ≠ d)

/-- The canonical form of memory. -/
def Memory.wf (m : Memory) : Bool := tcanon m 0

/-- The byte at a place (`Loc`, Machine/Ops.lean). -/
def readByte (m : Memory) (k : Nat) : Byte := tget m k 0

def writeByte (m : Memory) (k : Nat) (b : Byte) : Memory := tset m k 0 b

/-- `n` bytes from `k` upward. -/
def readBytes (m : Memory) (k : Nat) : Nat → List Byte
  | 0 => []
  | n + 1 => readByte m k :: readBytes m (k + 1) n

/-- The bytes written from `k` upward. -/
def writeBytes (m : Memory) (k : Nat) : List Byte → Memory
  | [] => m
  | b :: bs => writeBytes (writeByte m k b) (k + 1) bs

/-- The little-endian number of a list of bytes (00 R2). -/
def ofBytes : List Byte → Nat
  | [] => 0
  | b :: bs => b.toNat + 256 * ofBytes bs

/-- The `n` little-endian bytes of a number (00 R2). -/
def toBytes : Nat → Nat → List Byte
  | 0, _ => []
  | n + 1, x => .ofNat 8 x :: toBytes n (x / 256)

def read32 (m : Memory) (k : Nat) : Word := .ofNat 32 (ofBytes (readBytes m k 4))
def read64 (m : Memory) (k : Nat) : Dword := .ofNat 64 (ofBytes (readBytes m k 8))
def write32 (m : Memory) (k : Nat) (w : Word) : Memory := writeBytes m k (toBytes 4 w.toNat)
def write64 (m : Memory) (k : Nat) (w : Dword) : Memory := writeBytes m k (toBytes 8 w.toNat)

/-- The 32-bit words of a list of bytes whose length is a multiple of four, lowest first. -/
def wordsOf : List Byte → List Word
  | a :: b :: c :: d :: rest => .ofNat 32 (ofBytes [a, b, c, d]) :: wordsOf rest
  | _ => []

/-- The bytes of a list of words. -/
def bytesOf : List Word → List Byte
  | [] => []
  | w :: ws => toBytes 4 w.toNat ++ bytesOf ws

/-- The elements of a list at numbers 0 to `n` - 1. -/
def upto (n : Nat) : List Nat := List.range n

/-- The element of a list at a number, `d` past its end. -/
def nth {α : Type} (l : List α) (i : Nat) (d : α) : α := (l[i]?).getD d

end Sys2Proof.Machine
end

