-- ==== Sys2Proof/Machine/Ops.lean ====
section
/-! DEFINITION. The named operations over the state: tables of units, places of memory, translation, homes and their stamps,
records to the host, taking an exception and returning from one. -/

namespace Sys2Proof.Machine

/-- What a meaning answers. -/
abbrev Result := Host.Outcome State Fault Refusal

/-! ### Units -/

def State.furrow (s : State) (k : Nat) : Furrow := tget s.furrows k {}
def State.core (s : State) (k : Nat) : Core := tget s.cores k {}
def State.cluster (s : State) (k : Nat) : Cluster := tget s.clusters k {}
def State.die (s : State) (k : Nat) : Die := tget s.dies k {}
def State.ctx (s : State) (k : Nat) : Ctx := tget s.ctxs k {}
def State.queue (s : State) (k : Nat) : Queue := tget s.queues k {}
def State.plot (s : State) (k : Nat) : Plot := tget s.plots k {}
def State.croft (s : State) (k : Nat) : Croft := tget s.crofts k {}
def State.launch (s : State) (k : Nat) : Launch := tget s.launches k {}

def State.setFurrow (s : State) (k : Nat) (f : Furrow) : State := { s with furrows := tput s.furrows k f }
def State.modFurrow (s : State) (k : Nat) (g : Furrow → Furrow) : State := { s with furrows := tmod s.furrows k g }
def State.modCore (s : State) (k : Nat) (g : Core → Core) : State := { s with cores := tput s.cores k (g (s.core k)) }
def State.modCluster (s : State) (k : Nat) (g : Cluster → Cluster) : State :=
  { s with clusters := tput s.clusters k (g (s.cluster k)) }
def State.modDie (s : State) (k : Nat) (g : Die → Die) : State := { s with dies := tput s.dies k (g (s.die k)) }
def State.modCtx (s : State) (k : Nat) (g : Ctx → Ctx) : State := { s with ctxs := tput s.ctxs k (g (s.ctx k)) }
def State.modQueue (s : State) (k : Nat) (g : Queue → Queue) : State := { s with queues := tput s.queues k (g (s.queue k)) }
def State.modPlot (s : State) (k : Nat) (g : Plot → Plot) : State := { s with plots := tmod s.plots k g }
def State.modCroft (s : State) (k : Nat) (g : Croft → Croft) : State := { s with crofts := tmod s.crofts k g }
def State.modLaunch (s : State) (k : Nat) (g : Launch → Launch) : State := { s with launches := tmod s.launches k g }

/-- The number of a furrow's core in the package. -/
def Furrow.gcore (f : Furrow) : Nat := 4 * f.cluster + f.core

/-- The key of a furrow slot of a core, and of a stream slot of a cluster. -/
def furrowKey (core slot : Nat) : Nat := core * 32 + slot
def streamKey (cluster slot : Nat) : Nat := 32768 + cluster * 4 + slot

/-- The mask of all threads of a furrow (01 R17). -/
def Furrow.full (f : Furrow) : Mask := .ofNat 64 (2 ^ f.width - 1)

/-- A fresh number of an operation, a launch, a plot or a croft. -/
def State.fresh (s : State) : Nat × State := (s.nextId, { s with nextId := s.nextId + 1 })

/-- The next free value drawn (log entry 7). -/
def State.draw (s : State) : Nat × State := (Config.pick s.tick, { s with tick := s.tick + 1 })

/-- A core's cycle counter as it stands at this moment (01 R26, R37; log entry 8). -/
def cycleNow (s : State) (core : Nat) : Dword × State :=
  let c := (s.core core).cycle + 1 + .ofNat 64 (Config.cyclesPassed s.tick)
  (c, ({ s with tick := s.tick + 1 } : State).modCore core fun x => { x with cycle := c })

/-- An entry of a core's register error log, with the cycle of its detection, or counted when the log is full (01 R37). -/
def logError (s : State) (core : Nat) (e : Dword) : State :=
  let (c, s) := cycleNow s core
  s.modCore core fun x =>
    if x.rel.length < 8 then { x with rel := x.rel ++ [e ||| .ofNat 64 (c.toNat % 2 ^ 27)] }
    else { x with relOver := if x.relOver = 0xFFFF then x.relOver else x.relOver + 1 }

/-! ### Places of memory

One key space of bytes holds every memory (17 R364, 06 R160, R161, 08 R205, 11 R253): a physical address below 2^52, a lane's
slice, a core's scratchpad, a cluster's memory, a die's scratchpad. -/

def devLimit : Nat := 0x3000000000
def apertureBase : Nat := 0x4000000000
def hostBase : Nat := 2 ^ 51
def laneLoc (core lane off : Nat) : Nat := 2 ^ 53 + (core * 16 + lane) * 8192 + off
def scratchLoc (core off : Nat) : Nat := 2 ^ 54 + core * 2 ^ 18 + off
def clusterLoc (cluster off : Nat) : Nat := 2 ^ 55 + cluster * 2 ^ 22 + off
def dieLoc (die off : Nat) : Nat := 2 ^ 56 + die * 2 ^ 29 + off

/-- Lines with stamps at their homes: translated memory and die scratchpad (11 R257, R258). -/
def stamped (k : Nat) : Bool := decide (k < 2 ^ 53) || decide (2 ^ 56 ≤ k)

/-- The line of a place. -/
def lineOf (k : Nat) : Nat := k / 64

/-- Bytes of a die's scratchpad that programs reach (11 R253). -/
def dieScratchSize (s : State) (d : Nat) : Nat :=
  let n := (s.die d).dpart
  if d = 0 ∧ n ≠ 0 ∧ s.fab.relaysz ≠ 0 then n * 0x4000000 - 0x1000000 else n * 0x4000000

/-- What an agent's addresses are judged by: its context and where it stands. -/
structure Agent where
  ctx : Nat := 0
  die : Nat := 0
  cluster : Option Nat := none
  core : Nat := 0
  /-- the plot whose scratchpad and lane-private areas it reaches -/
  plot : Option Plot := none
  fidx : Nat := 0
  deriving Repr

/-- A furrow or stream as an agent. -/
def agentOf (s : State) (f : Furrow) : Agent :=
  { ctx := f.ctx, die := f.cluster / 64, cluster := some f.cluster, core := f.gcore,
    plot := if f.stream then none else tfind s.plots f.plot, fidx := f.fidx }

/-- The front end of a queue as an agent (15 R427). -/
def frontEnd (s : State) (q : Nat) : Agent := { ctx := (s.queue q).ctx, die := q / 64 }

inductive Need where
  | read
  | write
  | exec
  deriving DecidableEq, Repr

/-- Where an address leads. -/
inductive Place where
  /-- a place, with the leaf used (0 for a window) and where the walker found it, when it walked -/
  | loc (k : Nat) (pte : Nat) (leafAt : Option Nat) (base bits : Nat)
  | door (queue off pte : Nat) (leafAt : Option Nat) (base bits : Nat)
  | peer (device pa pte : Nat) (leafAt : Option Nat) (base bits : Nat)
  | fail (cause : BitVec 6)
  | miss
  deriving DecidableEq, Repr

/-- How a walk ends (11 R278). -/
inductive Walk where
  | miss
  | malformed
  | leaf (leafAt pte bits : Nat)
  deriving DecidableEq, Repr

/-- The doorbell page a physical address lies on (17 R364, R368). -/
def doorbellOf (pa : Nat) : Option (Nat × Nat) :=
  if apertureBase + 0x3000000 ≤ pa ∧ pa < apertureBase + 0x4000000 then
    some ((pa - apertureBase - 0x3000000) / 0x10000, pa % 0x10000)
  else none

/-- A leaf entry of a page of 2^`bits` bytes keeps the rules of 11 R277, 17 R364 and 18 R394. -/
def leafLegal (s : State) (e bits : Nat) : Bool :=
  let pa := fld e 16 36 * 65536
  let loc := fld e 8 2
  let peer := fld e 52 12
  decide (fld e 12 4 = 0 ∧ fld e 6 2 ≠ 3 ∧ loc ≠ 3 ∧ pa % 2 ^ bits = 0 ∧ (loc = 2 ∨ peer = 0)) &&
    (if loc = 0 then
      decide (pa + 2 ^ bits ≤ devLimit - s.fab.relaysz * 0x10000000) || (doorbellOf pa).isSome
    else if loc = 1 then decide (hostBase ≤ pa)
    else true)

/-- The pieces of `n` bytes at `k` that lie in one 64-byte line each: first byte and length. -/
def linePieces (k n : Nat) : List (Nat × Nat) :=
  ((upto (n / 64 + 2)).map fun i =>
    let a := max k (64 * (k / 64 + i))
    (a, min (k + n) (64 * (k / 64 + i + 1)) - a)).filter fun p => p.2 != 0

/-- Bytes as a unit that is no L1 finds them: those of a line that an L1 owns come from there (11 R263). -/
def latest (s : State) (k n : Nat) : List Byte :=
  ((linePieces k n).map fun p =>
    match (tget s.lines (lineOf p.1) {}).owner with
    | none => readBytes s.mem p.1 p.2
    | some c =>
      match (s.core c).l1.find? (fun x => x.line == lineOf p.1 && x.exclusive) with
      | none => readBytes s.mem p.1 p.2
      | some x => (x.data.drop (p.1 % 64)).take p.2).flatten

/-- The walk of the tables from the level that translates address bits from `sh` upward (11 R277, R278). -/
def walkFrom (s : State) (va : Nat) : List Nat → Nat → Walk
  | [], _ => .malformed
  | sh :: rest, table =>
    let at_ := table + 8 * fld va sh 10
    let e := ofBytes (latest s at_ 8)
    if fld e 0 1 = 0 then .miss
    else if fld e 1 1 = 1 then
      if sh ≠ 46 ∧ leafLegal s e sh then .leaf at_ e sh else .malformed
    else if sh = 16 ∨ fld e 12 1 ≠ 0 ∨ fld e 52 12 ≠ 0 then .malformed
    else walkFrom s va rest (fld e 13 39 * 8192)

/-- The levels that are left, and the table of the first of them, from the deepest entry of the die's walk cache on (11 R278). -/
def walkStart (s : State) (die ctx va : Nat) : List Nat × Nat :=
  let hit (sh : Nat) : Option Nat :=
    ((s.die die).walks.find? fun e => e.ctx == ctx && e.sh == sh && e.pre == va / 2 ^ (sh + 10)).map (·.table)
  match hit 16, hit 26, hit 36 with
  | some t, _, _ => ([16], t)
  | none, some t, _ => ([26, 16], t)
  | none, none, some t => ([36, 26, 16], t)
  | none, none, none => ([46, 36, 26, 16], fld (s.ctx ctx).ptbase.toNat 13 39 * 8192)

def walk (s : State) (die ctx va : Nat) : Walk := walkFrom s va (walkStart s die ctx va).1 (walkStart s die ctx va).2

/-- The table entries that a walk passes. -/
def walkPath (s : State) (ctx va : Nat) : List Nat → Nat → List WalkEntry
  | sh :: sh' :: rest, table =>
    let e := ofBytes (latest s (table + 8 * fld va sh 10) 8)
    if fld e 0 2 = 1 then
      { ctx, sh := sh', pre := va / 2 ^ (sh' + 10), table := fld e 13 39 * 8192 } :: walkPath s ctx va (sh' :: rest) (fld e 13 39 * 8192)
    else []
  | _, _ => []

/-- Whether a leaf permits an access (11 R277). -/
def permits (e : Nat) : Need → Bool
  | .read => fld e 2 1 == 1
  | .write => fld e 3 1 == 1
  | .exec => fld e 4 1 == 1

/-- A cached translation that serves the access: one whose leaf is marked dirty already when it writes (11 R278). -/
def tlbFind (tlb : List TlbEntry) (ctx va : Nat) (need : Need) : Option TlbEntry :=
  tlb.find? fun e => e.ctx == ctx && va / 2 ^ e.bits == e.base / 2 ^ e.bits &&
    (need != .write || fld e.pte.toNat 11 1 == 1 || !permits e.pte.toNat .write)

/-- The place that a legal leaf gives (11 R277, 17 R364). -/
def placeOf (va e bits : Nat) (leafAt : Option Nat) (need : Need) : Place :=
  let pa := fld e 16 36 * 65536 + va % 2 ^ bits
  if !permits e need then .fail 0x06
  else if fld e 8 2 = 2 then .peer (fld e 52 12) pa e leafAt (va / 2 ^ bits * 2 ^ bits) bits
  else
    match doorbellOf pa with
    | some (q, off) => if fld e 8 2 = 0 then .door q off e leafAt (va / 2 ^ bits * 2 ^ bits) bits else .loc pa e leafAt (va / 2 ^ bits * 2 ^ bits) bits
    | none => .loc pa e leafAt (va / 2 ^ bits * 2 ^ bits) bits

/-- The fixed windows (11 R256): the place of an address whose bits 55:48 are 0xFF. -/
def windowPlace (s : State) (ag : Agent) (thr va size : Nat) : Place :=
  let o := va % 2 ^ 48
  let inside (off limit base : Nat) : Place := if off + size ≤ limit then .loc base 0 none 0 0 else .fail 0x07
  let row := o / 2 ^ 40
  let off := o % 2 ^ 40
  if row = 0 then
    match ag.plot with
    | some p =>
      inside off (if ag.fidx < p.fpp then p.priv else 0)
        (laneLoc ag.core (thr % 16) (p.laneBase + (ag.fidx * (p.width / 16) + thr / 16) * p.priv + off))
    | none => .fail 0x07
  else if row = 1 then
    match ag.plot with
    | some p => inside off p.scrSize (scratchLoc ag.core (p.scrBase + off))
    | none => .fail 0x07
  else if row = 2 then
    match ag.cluster with
    | some c => inside off 0x400000 (clusterLoc c off)
    | none => .fail 0x07
  else if row = 3 then inside off (dieScratchSize s ag.die) (dieLoc ag.die off)
  else if row = 4 ∧ off / 2 ^ 32 < 4 then
    inside (off % 2 ^ 32) (dieScratchSize s (off / 2 ^ 32)) (dieLoc (off / 2 ^ 32) (off % 2 ^ 32))
  else if row = 8 ∧ off / 2 ^ 24 < 256 then
    inside (off % 2 ^ 24) 0x400000 (clusterLoc (off / 2 ^ 24) (off % 2 ^ 24))
  else .fail 0x07

/-- The place of an access of `size` bytes at a generic address (06 R166, 11 R256, R277, R278). -/
def resolve (s : State) (ag : Agent) (tlb : List TlbEntry) (thr va size : Nat) (need : Need) : Place :=
  if 2 ^ 56 ≤ va then .fail 0x06
  else if va / 2 ^ 48 = 0xFF then windowPlace s ag thr va size
  else
    match tlbFind tlb ag.ctx va need with
    | some e => placeOf va e.pte.toNat e.bits none need
    | none =>
      match walk s ag.die ag.ctx va with
      | .miss => .miss
      | .malformed => .fail 0x06
      | .leaf leafAt e bits => placeOf va e bits (some leafAt) need

/-- The translations cached where an agent stands. -/
def tlbOf (s : State) (ag : Agent) : List TlbEntry :=
  match ag.cluster with
  | some c => (if ag.plot.isSome then (s.core ag.core).tlb else []) ++ (s.cluster c).tlb
  | none => []

/-! ### Homes -/

/-- The lease of the die that holds a place (11 R257). -/
def homeDie (k : Nat) : Nat := if 2 ^ 56 ≤ k then (k - 2 ^ 56) / 2 ^ 29 else if hostBase ≤ k then 0 else k / 4096 % 48 / 12

/-- The hash bucket of a physical address (11 R254). -/
def bucketOf (k : Nat) : Nat := ((BitVec.ofNat 12 (fld k 6 12)) ^^^ .ofNat 12 (fld k 18 12) ^^^ .ofNat 12 (fld k 30 12) ^^^ .ofNat 12 (fld k 42 10)).toNat

/-- The stamps of a line at its home; a line never touched has those that a retired slice handed on, or 0 (11 R257, R281). -/
def State.line (s : State) (k : Nat) : Line :=
  match tfind s.lines (lineOf k) with
  | some l => l
  | none =>
    if k < 2 ^ 53 then
      let w := tget (s.die (homeDie k)).floors (bucketOf k) 0
      { wts := w, rts := w }
    else {}

/-- The later of two stamps. -/
def smax (a b : BitVec 48) : BitVec 48 := if a.toNat < b.toNat then b else a

/-- A write stamp for a write at the home by an agent with program stamp `pts` (11 R258): both stamps take it. -/
def stampWrite (s : State) (k : Nat) (pts : BitVec 48) : BitVec 48 × State :=
  if stamped k then
    let l := s.line k
    let w := smax pts (l.rts + 1)
    (w, { s with lines := tset s.lines (lineOf k) {} { l with wts := w, rts := w } })
  else (0, s)

/-- A read at the home (11 R258): the read stamp is raised past the lease. -/
def stampRead (s : State) (k : Nat) (pts : BitVec 48) : Line × State :=
  if stamped k then
    let l := s.line k
    let lease := BitVec.ofNat 48 (s.die (homeDie k)).lease
    let r := smax l.rts (smax (l.wts + lease) (pts + lease))
    ({ l with rts := r }, { s with lines := tset s.lines (lineOf k) {} { l with rts := r } })
  else ({}, s)

/-- Every whole word of a store loses its mark; a word stored in part keeps it (06 R187). -/
def clearMarks (m : NMap Mark) (k n : Nat) : NMap Mark :=
  ((upto (n / 4 + 1)).map fun i => k / 4 + i).foldl
    (fun m w => if k ≤ 4 * w ∧ 4 * w + 4 ≤ k + n then tset m w .clean .clean else m) m

/-- A barrier's phase bit (06 R179), as it stands in memory and wherever its line is. -/
def phaseAt (m : Memory) (k : Nat) : Bool := (read32 m k).getLsbD 24
def phaseNow (s : State) (k : Nat) : Bool := (nth (latest s (k + 3) 1) 0 0).getLsbD 0

/-- The write stamp of a line where it is: in the L1 that owns it, or at its home. -/
def lineStamp (s : State) (k : Nat) : BitVec 48 :=
  match (s.line k).owner with
  | none => (s.line k).wts
  | some c => (((s.core c).l1.find? fun x => x.line == lineOf k && x.exclusive).map (·.wts)).getD (s.line k).wts

/-- Waiters whose line or barrier word a write touched have something to look at (06 R182, 11 R272). -/
def touchWaiters (before : State) (s : State) (k n : Nat) : State :=
  { s with ops := s.ops.map fun o =>
      if !o.parked then o
      else match o.kind, o.accs with
      | .waitw, a :: _ => if k ≤ lineOf a.loc * 64 + 63 ∧ lineOf a.loc * 64 < k + n then { o with begun := true } else o
      | .arrival, a :: _ =>
        if phaseNow before a.loc ≠ phaseNow s a.loc ∧ !o.begun then { o with begun := true, rmax := lineStamp s a.loc } else o
      | _, _ => o }

/-- The bytes that GDDR7 holds as they are, without those that a write changes (06 R184). -/
def unback (m : NMap Dword) (k n : Nat) : NMap Dword :=
  if m.isEmpty then m
  else (linePieces k n).foldl (fun m p =>
    tset m (p.1 / 64) 0 (tget m (p.1 / 64) 0 &&& ~~~ (.ofNat 64 ((2 ^ p.2 - 1) * 2 ^ (p.1 % 64))))) m

/-- The bytes of a line that differ, as a mask. -/
def changedMask (old new : List Byte) : Dword :=
  .ofNat 64 ((old.zip new).zipIdx.foldl (fun n x => if x.1.1 = x.1.2 then n else n + 2 ^ x.2) 0)

/-- Bytes put into memory, with the marks they clear and the waiters they touch. -/
def putBytes (s : State) (k : Nat) (bs : List Byte) : State :=
  touchWaiters s { s with mem := writeBytes s.mem k bs, memMark := clearMarks s.memMark k bs.length, backed := unback s.backed k bs.length } k bs.length

/-- The copies of a line in the L1s of a cluster's cores, but for the cores kept (11 R260, R295). -/
def dropCopies (s : State) (cores : List Nat) (line : Nat) : State :=
  cores.foldl (fun s c =>
    if (s.core c).l1.any (fun x => x.line == line && !x.exclusive) || (s.core c).fills.any (·.line == line) then
      s.modCore c fun x =>
        { x with l1 := x.l1.filter fun y => !(y.line == line && !y.exclusive),
                 fills := x.fills.map fun y => if y.line = line then { y with dropped := true } else y }
    else s) s

/-- A read at the home by an agent of a cluster has found the line at stamp `w`: copies in the cluster's L1s that may lack a write up to `w` go,
and older fills are not kept, so that no agent that a cluster-tier release reaches reads backwards (12 R292; log entry 67). -/
def dropOlder (s : State) (cluster : Option Nat) (line : Nat) (w : BitVec 48) : State :=
  match cluster with
  | none => s
  | some c => ((upto 4).map (4 * c + ·)).foldl (fun s k =>
      let old (x : BitVec 48) : Bool := decide (x.toNat < w.toNat)
      if (s.core k).l1.any (fun x => x.line == line && !x.exclusive && old x.base) || (s.core k).fills.any (fun x => x.line == line && old x.wts) then
        s.modCore k fun y =>
          { y with l1 := y.l1.filter fun x => !(x.line == line && !x.exclusive && old x.base),
                   fills := y.fills.map fun x => if x.line = line && old x.wts then { x with dropped := true } else x }
      else s) s

/-- A line leaves the L1 that owns it: its data and stamps return to the home (11 R262, R263). -/
def recallLine (s : State) (line : Nat) : State :=
  match (tget s.lines line {}).owner with
  | none => s
  | some c =>
    match (s.core c).l1.find? (fun x => x.line == line && x.exclusive) with
    | none => { s with lines := tset s.lines line {} { tget s.lines line {} with owner := none } }
    | some x =>
      let s' := s.modCore c fun y => { y with l1 := y.l1.filter fun z => !(z.line == line && z.exclusive) }
      touchWaiters s { s' with mem := writeBytes s.mem (64 * line) x.data,
                               backed := if s.backed.isEmpty then s.backed else
                                 tset s.backed line 0 (tget s.backed line 0 &&& ~~~ changedMask (readBytes s.mem (64 * line) 64) x.data),
                               lines := tset s.lines line {} { wts := x.wts, rts := x.rts, owner := none } } (64 * line) 64

/-- A piece of a write that lies in one line. -/
def agentWriteLine (s : State) (cluster : Option Nat) (pts : BitVec 48) (k : Nat) (bs : List Byte) : BitVec 48 × State :=
  let s := recallLine s (lineOf k)
  let s := match cluster with
    | some c => if stamped k then dropCopies s ((upto 4).map (4 * c + ·)) (lineOf k) else s
    | none => s
  let (w, s) := stampWrite s k pts
  (w, putBytes s k bs)

/-- A write by a unit that is no L1 (an engine, the front end, the host): each line is recalled from an owner, its copies in a cluster are
dropped, and the write performs at its home with the agent's stamp (11 R258, R263, R295). Answers the highest stamp. -/
def agentWrite (s : State) (cluster : Option Nat) (pts : BitVec 48) (k : Nat) (bs : List Byte) : BitVec 48 × State :=
  (linePieces k bs.length).foldl (fun st p =>
    let (w, s) := agentWriteLine st.2 cluster pts p.1 ((bs.drop (p.1 - k)).take p.2)
    (smax st.1 w, s)) (0, s)

/-! ### Errors of memory, and the events that report them -/

/-- An event is taken, with the next sequence number; its record becomes visible in the ring later, in any order (17 R382). -/
def hostEvent (s : State) (kind unit : Nat) (data : Nat) : State :=
  let rec_ := toBytes 32 (kind + unit % 65536 * 2 ^ 48 + s.pkg.evSeq.toNat * 2 ^ 96 + data % 2 ^ 128 * 2 ^ 128)
  { s with pkg := { s.pkg with evSeq := s.pkg.evSeq + 1, events := s.pkg.events ++ [wordsOf rec_] } }

/-- A value of four words that the manual leaves unstated. -/
def freeData (tick : Nat) : Nat :=
  ((upto 4).map fun i => (Config.unstated (tick + i)).toNat * 2 ^ (32 * i)).foldl (· + ·) 0

/-- An event record whose `ev.data` the manual does not lay out. -/
def hostEventOpen (s : State) (kind unit : Nat) : State := hostEvent { s with tick := s.tick + 4 } kind unit (freeData s.tick)

/-- The RAS units of the package: cores, clusters, dies, channels and bridges under one numbering (log entry 12). -/
def rasCore (core : Nat) : Nat := core
def rasCluster (cluster : Nat) : Nat := 1024 + cluster
def rasDie (die : Nat) : Nat := 2048 + die
def rasChannel (channel : Nat) : Nat := 2112 + channel
def rasBridge (bridge : Nat) : Nat := 2176 + bridge

/-- A unit's number in its own class. -/
def rasNumber (unit : Nat) : Nat :=
  if unit < 1024 then unit else if unit < 2048 then unit - 1024 else if unit < 2112 then unit - 2048
  else if unit < 2176 then unit - 2112 else unit - 2176

/-- A RAS counter raised, with its one record of kind 7 when it reaches its threshold, and one of kind 9 beside it for a channel (17 R366,
R381; log entry 12). -/
def rasCount (s : State) (unit : Nat) : State :=
  let n := tget s.pkg.ras unit 0
  let n' := if n = 0xFFFFFFFF then n else n + 1
  let s := { s with pkg := { s.pkg with ras := tset s.pkg.ras unit 0 n' } }
  let th := tget s.pkg.rasThreshold unit 0
  if th ≠ 0 ∧ th.toNat ≤ n'.toNat ∧ !tget s.pkg.rasReported unit false then
    let s := hostEventOpen { s with pkg := { s.pkg with rasReported := tset s.pkg.rasReported unit false true } } 7 (rasNumber unit)
    if 2112 ≤ unit ∧ unit < 2176 then hostEventOpen s 9 (rasNumber unit) else s
  else s

/-- The RAS log entry of a poisoned word (01 R37, 08 R206, 11 R255), and its counter (17 R366, R381): the core whose memory or slice holds
the word, the GDDR7 channel, or the die. `rel.widx` and `rel.file` overlap at bits 35:34 in the table of 01 R37: `rel.file` 3 stands there (log entry 66). -/
def logMemory (s : State) (k : Nat) (cons : Bool) : State :=
  let put (core mem widx : Nat) : State :=
    rasCount (logError s core ((if cons then 0x800000000000 else 0) ||| .ofNat 64 (mem * 2 ^ 45) ||| .ofNat 64 (widx % 2 ^ 18 * 2 ^ 27)
      ||| 0xC00000000)) (rasCore core)
  if 2 ^ 57 ≤ k then s
  else if k < hostBase then rasCount s (rasChannel (k / 4096 % 48))
  else if 2 ^ 56 ≤ k ∨ k < 2 ^ 53 then rasCount s (rasDie (homeDie k))
  else if 2 ^ 55 ≤ k then
    let o := k - 2 ^ 55
    put (4 * (o / 2 ^ 22) + o % 2 ^ 22 / 2 ^ 20) 2 (o % 2 ^ 20 / 4)
  else if 2 ^ 54 ≤ k then put ((k - 2 ^ 54) / 2 ^ 18) 0 ((k - 2 ^ 54) % 2 ^ 18 / 4)
  else put ((k - 2 ^ 53) / 2 ^ 17) 1 ((k - 2 ^ 53) % 2 ^ 17 / 4)

/-- The words among `n` bytes at `k` whose error a read detects. -/
def latentWords (s : State) (k n : Nat) : List Nat :=
  if s.memMark.isEmpty then []
  else ((upto ((k % 4 + n + 3) / 4)).map (k / 4 + ·)).filter fun w => tget s.memMark w .clean == .uncorrectable

/-- A read of `n` bytes at `k` by a unit detects the errors of its words: each is poisoned at its home, logged and counted (06 R187, 11 R255,
17 R366; log entry 81). -/
def detect (s : State) (k n : Nat) : State :=
  (latentWords s k n).foldl (fun s w => logMemory { s with memMark := tset s.memMark w .clean .poisoned } (4 * w) true) s

/-! ### Reads by units that are no L1 -/

/-- The stamps of a read by a unit that is no L1, for an agent of `cluster`, if any: the highest write stamp of its lines; the errors of its
words are detected. -/
def agentStamp (s : State) (cluster : Option Nat) (k n : Nat) (pts : BitVec 48) : BitVec 48 × State :=
  (linePieces k n).foldl (fun st p =>
    let (l, s) := stampRead (recallLine st.2 (lineOf p.1)) p.1 pts
    (smax st.1 l.wts, dropOlder s cluster (lineOf p.1) l.wts)) (0, detect s k n)

/-- A read by a unit that is no L1: the bytes, and the highest write stamp of their lines. -/
def agentRead (s : State) (cluster : Option Nat) (k n : Nat) (pts : BitVec 48) : List Byte × BitVec 48 × State :=
  let (w, s) := agentStamp s cluster k n pts
  (readBytes s.mem k n, w, s)

/-! ### The walker's marks and the TLBs -/

/-- The places of the table entries that a walk reads. -/
def walkCells (s : State) (va : Nat) : List Nat → Nat → List Nat
  | [], _ => []
  | sh :: rest, table =>
    let k := table + 8 * fld va sh 10
    let e := ofBytes (latest s k 8)
    k :: if fld e 0 2 = 1 then walkCells s va rest (fld e 13 39 * 8192) else []

/-- A walk reads table entries, and detects the errors of their words (17 R366). -/
def walkReads (s : State) (die ctx va : Nat) : State :=
  (walkCells s va (walkStart s die ctx va).1 (walkStart s die ctx va).2).foldl (fun s k => detect s k 8) s

/-- The leaf used by a permitted access: the walker marks it accessed, and dirty for a write, by an OR in the table (11 R278). -/
def markLeaf (s : State) (leafAt : Nat) (need : Need) : State :=
  let b := nth (latest s (leafAt + 1) 1) 0 0
  let b' := b ||| (if need = .write then 0x0C else 0x04)
  if b' = b then s else (agentWrite s none 0 (leafAt + 1) [b']).2

/-- The table entries that a walk passed enter the die's walk cache; another may have to go, a free choice (11 R278; log entry 11). -/
def addWalks (s : State) (die ctx va : Nat) : State :=
  let new := walkPath s ctx va (walkStart s die ctx va).1 (walkStart s die ctx va).2
  if new = [] then s
  else s.modDie die fun d =>
    match d.walks.filter fun x => !new.any fun y => y.ctx == x.ctx && y.sh == x.sh && y.pre == x.pre with
    | [] => { d with walks := new }
    | old => { d with walks := new ++ old.eraseIdx (Config.walkVictim s.tick va) }

/-- A cached list with one more translation; another may have to go, a free choice (11 R278; log entry 11). -/
def tlbAdd (cap victim : Nat) (tlb : List TlbEntry) (e : TlbEntry) : List TlbEntry :=
  match tlb.filter fun x => !(x.ctx == e.ctx && x.base == e.base && x.bits == e.bits) with
  | [] => [e]
  | old => e :: (if old.length < cap ∧ old.length ≤ victim then old else old.eraseIdx (victim % old.length))

/-- The leaf that an access used is marked and cached in the TLBs of the core and its cluster. -/
def useLeaf (s : State) (ag : Agent) (need : Need) (pte leafAt base bits : Nat) : State :=
  let e : TlbEntry := { ctx := ag.ctx, base, bits, pte := .ofNat 64 (pte ||| (if need = .write then 0xC00 else 0x400)) }
  let s := markLeaf (addWalks (walkReads s ag.die ag.ctx base) ag.die ag.ctx base) leafAt need
  match ag.cluster with
  | some c =>
    let s := s.modCluster c fun x => { x with tlb := tlbAdd 2048 (Config.tlbVictim s.tick base) x.tlb e }
    if ag.plot.isSome then s.modCore ag.core fun x => { x with tlb := tlbAdd 64 (Config.tlbVictim s.tick (base + 1)) x.tlb e } else s
  | none => s

/-- The effects of a used place on the walker's marks and on the TLBs. -/
def usePlace (s : State) (ag : Agent) (need : Need) : Place → State
  | .loc _ pte (some leafAt) base bits => useLeaf s ag need pte leafAt base bits
  | .peer _ _ pte (some leafAt) base bits => useLeaf s ag need pte leafAt base bits
  | .door _ _ pte (some leafAt) base bits => useLeaf s ag need pte leafAt base bits
  | _ => s

/-- An access through the place would set the accessed bit of its leaf (11 R278). -/
def Place.unmarked : Place → Bool
  | .loc _ pte (some _) _ _ | .peer _ _ pte (some _) _ _ | .door _ _ pte (some _) _ _ => !pte.testBit 10
  | _ => false

/-- A read of a range would set the accessed bit of a leaf. -/
def spanUnmarked (s : State) (ag : Agent) (va : Nat) : Nat → Nat → Bool
  | 0, _ => false
  | _, 0 => false
  | fuel + 1, n =>
    let m := min n (65536 - va % 65536)
    (resolve s ag (tlbOf s ag) 0 va m .read).unmarked || spanUnmarked s ag (va + m) fuel (n - m)

/-- The pages of a range that an agent reaches are marked as its accesses use them (11 R278); a walk that misses has read its tables. -/
def spanUse (s : State) (ag : Agent) (need : Need) (va : Nat) : Nat → Nat → State
  | 0, _ => s
  | _, 0 => s
  | fuel + 1, n =>
    let m := min n (65536 - va % 65536)
    let s := match resolve s ag (tlbOf s ag) 0 va m need with
      | .miss => walkReads s ag.die ag.ctx va
      | p => usePlace s ag need p
    spanUse s ag need (va + m) fuel (n - m)

/-! ### Records to the host -/

/-- A record put into a ring whose 16-byte word holds the write count, a dropped count and the read count (09 R244, 11 R280). -/
inductive Ring where
  | full
  | done (s : State)

/-- A word as a unit that is no L1 finds it. -/
def latest32 (s : State) (k : Nat) : Word := .ofNat 32 (ofBytes (latest s k 4))

/-- The count of records written and not read (11 R280). -/
def ringUsed (s : State) (word : Nat) : Nat := (latest32 s word - latest32 s (word + 8)).toNat

def ringPut (s : State) (base word entries : Nat) (rec_ : List Byte) (pts : BitVec 48) : Ring :=
  if entries ≤ ringUsed s word then .full
  else
    let wr := latest32 s word
    let (_, s) := agentWrite (detect s word 12) none pts (base + rec_.length * (wr.toNat % entries)) rec_
    let (_, s) := agentWrite s none pts word (toBytes 4 (wr + 1).toNat)
    .done s

/-- An event record written to the host's ring, or counted (17 R382). -/
def writeEvent (s : State) (rec_ : List Byte) : State :=
  if s.pkg.evring = 0 then { s with pkg := { s.pkg with evCounted := s.pkg.evCounted + 1 } }
  else
    match ringPut s (s.pkg.evring.toNat / 32 * 32) s.pkg.evringw.toNat (2 ^ fld s.pkg.evring.toNat 0 5) rec_ 0 with
    | .done s => s
    | .full =>
      let drop := latest32 s (s.pkg.evringw.toNat + 4)
      let (_, s) := agentWrite s none 0 (s.pkg.evringw.toNat + 4) (toBytes 4 (drop + 1).toNat)
      { s with pkg := { s.pkg with evDropped := s.pkg.evDropped + 1 } }

/-- One of the records that wait becomes visible. -/
def showEvent (s : State) (i : Nat) : State :=
  match s.pkg.events[i]? with
  | none => s
  | some r => writeEvent { s with pkg := { s.pkg with events := s.pkg.events.eraseIdx i } } (bytesOf r)

/-- A front end's place of `size` bytes at an address (15 R427): `none` when it cannot be reached. -/
def frontPlace (s : State) (q va size : Nat) (need : Need) : Option Nat :=
  match resolve s (frontEnd s q) [] 0 va size need with
  | .loc k _ _ _ _ => some k
  | _ => none

/-- Each 64 KiB piece of a range, as the places of its bytes in order; `none` when some page cannot be reached. -/
def frontSpan (s : State) (q va : Nat) (need : Need) : Nat → Nat → Option (List (Nat × Nat))
  | 0, _ => some []
  | _, 0 => some []
  | fuel + 1, n =>
    let m := min n (65536 - va % 65536)
    match frontPlace s q va m need, frontSpan s q (va + m) need fuel (n - m) with
    | some k, some l => some ((k, m) :: l)
    | _, _ => none

/-- The pages of a range that a front end reaches are marked as its accesses use them (11 R278). -/
def frontUse (s : State) (q va : Nat) (need : Need) (fuel n : Nat) : State := spanUse s (frontEnd s q) need va fuel n

/-- Bytes as a front end finds them, without the access itself. -/
def frontPeek (s : State) (q va n : Nat) : Option (List Byte) :=
  (frontSpan s q va .read (n / 65536 + 2) n).map fun l => (l.map fun x => latest s x.1 x.2).flatten

/-- The bytes at the places of a span, and the highest write stamp of their lines. -/
def readPlaces (s : State) (pts : BitVec 48) (l : List (Nat × Nat)) : List Byte × BitVec 48 × State :=
  l.foldl (fun st p =>
    let (bs, w, s) := agentRead st.2.2 none p.1 p.2 pts
    (st.1 ++ bs, smax st.2.1 w, s)) ([], 0, s)

/-- Bytes read by a front end with the highest stamp of their lines, or `none` (15 R427). -/
def frontRead (s : State) (q va n : Nat) : Option (List Byte × BitVec 48 × State) :=
  (frontSpan s q va .read (n / 65536 + 2) n).map fun l => readPlaces (frontUse s q va .read (n / 65536 + 2) n) (s.die (q / 64)).pts l

/-- The bytes put at the places of a span, with the highest stamp they took. -/
def putSpan (s : State) (pts : BitVec 48) : List (Nat × Nat) → List Byte → BitVec 48 × State
  | [], _ => (0, s)
  | (k, m) :: rest, bs =>
    let (w, s) := agentWrite s none pts k (bs.take m)
    let (w', s) := putSpan s pts rest (bs.drop m)
    (smax w w', s)

/-- Bytes written by a front end at the stamp of its die, or `none`. The die keeps the highest stamp that its writes took, which a later
release of it passes (15 R337, 11 R267). -/
def frontWrite (s : State) (q va : Nat) (bs : List Byte) : Option State :=
  let d := q / 64
  (frontSpan s q va .write (bs.length / 65536 + 2) bs.length).map fun l =>
    let (w, s) := putSpan (frontUse s q va .write (bs.length / 65536 + 2) bs.length) (s.die d).pts l bs
    s.modDie d fun x => { x with maxw := smax x.maxw w }

/-- The first byte of a range that a front end cannot write. -/
def frontHole (s : State) (q va : Nat) (need : Need) : Nat → Nat → Nat
  | 0, _ => va
  | fuel + 1, n =>
    let m := min n (65536 - va % 65536)
    match frontPlace s q va m need with
    | none => va
    | some _ => if n ≤ m then va else frontHole s q (va + m) need fuel (n - m)

/-- A queue fault record that was not written is counted (15 R332, R354). -/
def lostRecord (s : State) (q : Nat) : State :=
  s.modQueue q fun x => { x with lost := if x.lost = 0xFFFF then x.lost else x.lost + 1 }

/-- One attempt to write a queue fault record: full, or done (written, or counted as lost). -/
def queueRecordNow (s : State) (q : Nat) (rec_ : List Byte) : Ring :=
  let Q := s.queue q
  let base := Q.qfring.toNat / 32 * 32
  let entries := 2 ^ fld Q.qfring.toNat 0 5
  if Q.qfring = 0 ∨ base < 16 then .done (lostRecord s q)
  else
    match frontPlace s q (base - 16) 16 .write with
    | none => .done (lostRecord s q)
    | some word =>
      if entries ≤ ringUsed s word then .full
      else
        let wr := latest32 s word
        match (frontWrite s q (base + 32 * (wr.toNat % entries)) rec_).bind fun s => frontWrite s q (base - 16) (toBytes 4 (wr + 1).toNat) with
        | none => .done (lostRecord s q)
        | some s => .done s

/-- The queue fault ring has no room for a record (15 R354). -/
def queueRingFull (s : State) (q : Nat) : Bool :=
  let Q := s.queue q
  let base := Q.qfring.toNat / 32 * 32
  Q.qfring != 0 && decide (16 ≤ base) &&
    (match frontPlace s q (base - 16) 16 .write with
      | some word => decide (2 ^ fld Q.qfring.toNat 0 5 ≤ ringUsed s word)
      | none => false)

/-- A queue fault record written, or held when the ring is full or others are held already (15 R354). -/
def queueRecord (s : State) (q : Nat) (rec_ : List Byte) : State :=
  if (s.queue q).held ≠ [] then s.modQueue q fun x => { x with held := x.held ++ [wordsOf rec_] }
  else
    match queueRecordNow s q rec_ with
    | .done s => s
    | .full => s.modQueue q fun x => { x with held := x.held ++ [wordsOf rec_] }

/-- The 32 bytes of a queue fault record (15 R354). -/
def qfBytes (kind : Nat) (mcc : Bool) (cause slot core cluster : Nat) (ticket plot epc info : Word) (aux : Nat) : List Byte :=
  toBytes 32 (kind + (if mcc then 2 ^ 42 else 0) + cause % 64 * 2 ^ 43 + slot % 32 * 2 ^ 49 + core % 4 * 2 ^ 54
    + cluster % 256 * 2 ^ 56 + ticket.toNat * 2 ^ 64 + plot.toNat * 2 ^ 96 + epc.toNat * 2 ^ 128 + info.toNat * 2 ^ 160
    + aux % 2 ^ 64 * 2 ^ 192)

/-- The launch a furrow or stream works for. -/
def launchOf (s : State) (f : Furrow) : Launch :=
  if f.stream then s.launch (s.croft f.croft).launch else s.launch (s.plot f.plot).launch

/-- The plots of one croft (15 R343); each plot placed by acre is a croft (15 R345). -/
def plotsPerCroft (r : LaunchRec) : Nat :=
  let lv := (r.levels.map (·.toNat)).filter fun x => fld x 31 1 == 1
  if r.place = 1 then 1
  else if lv.any fun x => fld x 20 3 == 3 then lv.foldl (fun n x => if fld x 20 3 = 2 then n * fld x 0 20 else n) 1 else 1

/-- A queue fault record whose fields that its kind does not state are free (15 R354; log entry 21). -/
def queueNote (s : State) (q kind : Nat) (mcc : Bool) (cause slot core cluster : Option Nat) (ticket plot epc info : Option Word)
    (aux : Option Nat) : State :=
  let u (i : Nat) : Word := Config.unstated (s.tick + i)
  queueRecord { s with tick := s.tick + 12 } q
    (qfBytes kind mcc (cause.getD (u 0).toNat) (slot.getD (u 1).toNat) (core.getD (u 2).toNat) (cluster.getD (u 3).toNat) (ticket.getD (u 4))
      (plot.getD (u 5)) (epc.getD (u 6)) (info.getD (u 7)) (aux.getD (freeData (s.tick + 8))))

/-- A furrow's or stream's report to the launching queue (15 R354, 08 R134). -/
def reportRecord (s : State) (f : Furrow) (kind : Nat) (cause : Option (BitVec 6)) (epc info : Option Word) (aux : Option Nat) : State :=
  let l := launchOf s f
  queueNote s l.queue kind f.stream (cause.map (·.toNat)) (some f.slot) (some (if f.stream then 0 else f.core)) (some f.cluster) (some l.ticket)
    (some (if f.stream then 0xFFFFFFFF else .ofNat 32 (s.plot f.plot).index)) epc info aux

/-! ### Launches that are complete (15 R352) -/

/-- The crofts of a launch, in croft order. -/
def launchCrofts (s : State) (id : Nat) : List Croft :=
  ((s.crofts.map (·.2)).filter fun c => c.launch == id).insertionSort fun a b => a.index ≤ b.index
def croftPlots (s : State) (c : Croft) : List Plot := c.plots.filterMap fun p => tfind s.plots p

/-- Every effect of a launch is complete (15 R352). -/
def launchOver (s : State) (l : Launch) : Bool :=
  !l.signalled && (l.aborted || (l.divided && decide (l.crofts ≤ l.next))) && (launchCrofts s l.id).all fun c =>
    c.ended && (croftPlots s c).all fun p => p.inbound == 0

/-- A launch that has become complete takes its place among its queue's signals (15 R352). -/
def noteOver (s : State) (id : Nat) : State :=
  match tfind s.launches id with
  | none => s
  | some l =>
    if launchOver s l && !(s.queue l.queue).overs.contains id then s.modQueue l.queue fun Q => { Q with overs := Q.overs ++ [id] } else s

/-! ### Stopping a plot, taking an exception, returning from one -/

/-- No further group of a plot issues (05 R130, 06 R188). -/
def stopPlot (s : State) (p : Nat) : State :=
  let fs := (s.plot p).furrows
  let s := fs.foldl (fun s k => s.modFurrow k fun f => { f with stopped := true }) s
  { s with cur := if !s.cur.stream && s.cur.plot == p then { s.cur with stopped := true } else s.cur }

/-- A plot fault (05 R147, 06 R188, 15 R353): the plot of the working furrow stops and the fault is reported. A stream's fault stops the
stream alone (log entry 13). -/
def plotFault (s : State) (epc : Option Word) (cause : BitVec 6) (info : Word) (aux : Option Nat) : State :=
  let f := s.cur
  let s := reportRecord s f 1 (some cause) epc (some info) aux
  let s := if f.stream then { s with cur := { s.cur with stopped := true } }
    else (stopPlot s f.plot).modPlot f.plot fun p => { p with faulted := true }
  s.modLaunch (if f.stream then (s.croft f.croft).launch else (s.plot f.plot).launch) fun l => { l with faulted := true }

/-- The entry of a furrow with an identifier. -/
def Furrow.entry (f : Furrow) (id : Nat) : Entry := (f.entries.find? (·.id == id)).getD {}

def Furrow.modEntry (f : Furrow) (id : Nat) (g : Entry → Entry) : Furrow :=
  { f with entries := f.entries.map fun e => if e.id = id then g e else e }

/-- The word that names a packet and a slot (01 R30). -/
def epcOf (pkt : Word) (slot : Nat) : Word := (pkt <<< 2) ||| .ofNat 32 (slot % 4)

/-- The packet of a trap's table entry (01 R30, 05 R146). -/
def trapPacket (tvec : Word) (cause : BitVec 6) : Nat := (tvec.toNat + 48 * cause.toNat) / 12

/-- Whether a packet lies inside the code (05 R138, R139). -/
def insideCode (f : Furrow) (q : Nat) : Bool := decide (12 * q + 12 ≤ f.csize.toNat)

/-- A trap of the working furrow at a packet and slot, for its entry `id`, is taken (05 R146), or is a plot fault (05 R139, R147). What the
entry waits for by lower members it waits for still (02 R44). -/
def takeTrapAt (s : State) (id : Nat) (pkt : Word) (slot : Nat) (cause : BitVec 6) (info : Word) : State :=
  let f := s.cur
  let q := trapPacket f.tvec cause
  if f.rt || f.tvec == 0 || !insideCode f q then plotFault s (some (epcOf pkt slot)) cause info none
  else
    { s with cur := { f with epc := epcOf pkt slot, cause := .ofNat 32 cause.toNat, info := info, rt := true, handler := id }
        |>.modEntry id fun e => { e with pc := .ofNat 32 q, slot := 0 } }

/-- The member that runs traps: the group ends here (02 R44, 05 R146). -/
def raise (s : State) (cause : BitVec 6) (info : Word) : State :=
  let s := takeTrapAt s s.iss.entry s.iss.pkt s.iss.slot cause info
  { s with iss := { s.iss with trapped := true } }

/-- The return from an exception (05 R148): runtime mode ends and the trapping entry continues at the saved word, or after it. -/
def returnTo (s : State) (after : Bool) : State :=
  let pkt : Word := s.pre.epc >>> 2
  let slot := s.pre.epc.toNat % 4
  let next : Word × Nat := if after then (if slot = 2 then (pkt + 1, 0) else (pkt, slot + 1)) else (pkt, slot)
  { s with cur := { s.cur with rt := false }, iss := { s.iss with ctl := .goto next.1 next.2 } }

end Sys2Proof.Machine
end

