-- ==== Sys2Proof/Machine/Operands.lean ====
section
/-! DEFINITION. Register operands of a member of a group: the prefix, the active set, reads from the furrow as it stood before
the group, writes to the working furrow, and the checks made before a member takes effect (01 R8, R9, R13 to R18, R32 to R37). -/

namespace Sys2Proof.Machine

/-! ### Registers -/

/-- v0 reads as zero (01 R13). -/
def Furrow.vget (f : Furrow) (r t : Nat) : Word := if r = 0 then 0 else tget f.v (64 * r + t) 0
/-- s0 reads as zero (01 R14). -/
def Furrow.sget (f : Furrow) (r : Nat) : Word := if r = 0 then 0 else tget f.s r 0
/-- k0 reads as the mask of the entry (01 R17). -/
def Furrow.kget (f : Furrow) (id r : Nat) : Mask := if r = 0 then (f.entry id).mask else tget f.k r 0

/-- A write of a whole element clears its mark; v0 discards it (01 R13, R35). -/
def Furrow.vset (f : Furrow) (r t : Nat) (x : Word) : Furrow :=
  if r = 0 then f
  else { f with v := tset f.v (64 * r + t) 0 x, vMark := tset f.vMark (64 * r + t) .clean .clean }

def Furrow.sset (f : Furrow) (r : Nat) (x : Word) : Furrow :=
  if r = 0 then f else { f with s := tset f.s r 0 x, sMark := tset f.sMark r .clean .clean }

/-- A write of the bits in `cover`; the mark goes only when they are all of the furrow's (01 R17, R35). -/
def Furrow.kset (f : Furrow) (r : Nat) (cover x : Mask) : Furrow :=
  if r = 0 then f
  else
    let c := cover &&& f.full
    { f with k := tset f.k r 0 ((tget f.k r 0 &&& ~~~c) ||| (x &&& c)),
             kMark := if c = f.full then tset f.kMark r .clean .clean else f.kMark }

/-- A word delivered with its poisoned mark set; the element is not read as a value (06 R169). -/
def Furrow.vsetMarked (f : Furrow) (r t : Nat) (x : Word) (poisoned : Bool) : Furrow :=
  let g := f.vset r t x
  if r = 0 ∨ !poisoned then g else { g with vMark := tset g.vMark (64 * r + t) .clean .poisoned }

def Furrow.ssetMarked (f : Furrow) (r : Nat) (x : Word) (poisoned : Bool) : Furrow :=
  let g := f.sset r x
  if r = 0 ∨ !poisoned then g else { g with sMark := tset g.sMark r .clean .poisoned }

/-- The threads of a mask, ascending. -/
def threads (width : Nat) (m : Mask) : List Nat := (upto width).filter fun t => m.getLsbD t

/-! ### The prefix and the active set -/

/-- The fields of the attached prefix, all zero without one (02 R53). -/
def pfxOf (s : State) : Pfx :=
  match s.iss.pfx with
  | some (.pfx k r z f w n t x) => ⟨k, r, z == 1, f, w, n, t == 1, x⟩
  | _ => {}

/-- The mask of the issuing entry (01 R17). -/
def entryMask (s : State) : Mask := s.pre.kget s.iss.entry 0

/-- act(F) (01 R9). -/
def act (s : State) : Mask :=
  if (pfxOf s).k = 0 then entryMask s else entryMask s &&& s.pre.kget s.iss.entry (pfxOf s).k.toNat

/-- The threads that zero mode writes with zero (01 R9). -/
def zeroed (s : State) : Mask := if (pfxOf s).mz then entryMask s &&& ~~~act s else 0

/-- The immediate with an attached LIM's bits above its own `n` (02 R57), and `none` without a LIM. -/
def limOver (s : State) (n low : Nat) : Option Nat :=
  match s.iss.lim with
  | some (.lim i) => some (i.toNat * 2 ^ n + low)
  | _ => none

/-- A signed immediate of `n` bits, extended by a LIM when one is attached, as a 32-bit value (02 R57). -/
def imm32 (s : State) (n : Nat) (low : BitVec n) : Word :=
  match limOver s n low.toNat with
  | some x => .ofNat 32 x
  | none => low.signExtend 32

/-! ### Operands and their checks -/

/-- A register operand: its position for `info`, its file (0 vector, 1 scalar, 2 mask), base, how many registers the word reads, how many of
them it consumes, and the threads whose elements it consumes (01 R31 to R33). -/
structure Opd where
  pos : Nat
  file : Nat
  base : Nat
  reads : Nat := 1
  used : Nat := 1
  thr : Mask := 1
  /-- the threads by register, where they differ (`kenc`) -/
  per : List Mask := []
  em : Bool := false
  deriving DecidableEq, Repr

/-- A source or a destination read as one. -/
def Opd.v (pos : Nat) (r : BitVec 7) (n : Nat) (thr : Mask) : Opd := { pos, file := 0, base := r.toNat, reads := n, used := n, thr }
def Opd.s (pos : Nat) (r : BitVec 7) (n : Nat := 1) : Opd := { pos, file := 1, base := r.toNat, reads := n, used := n }
def Opd.k (pos : Nat) (r : BitVec 4) (used : Bool := true) : Opd :=
  { pos, file := 2, base := r.toNat, thr := if used then 1 else 0 }
/-- A destination that is only written. -/
def Opd.dv (r : BitVec 7) : Opd := { pos := 3, file := 0, base := r.toNat, reads := 0, used := 0, thr := 0 }
def Opd.ds (r : BitVec 7) : Opd := { pos := 3, file := 1, base := r.toNat, reads := 0, used := 0, thr := 0 }

/-- The execution mask of the prefix, consumed as a whole (01 R33). -/
def maskPrefixOpd (s : State) : List Opd :=
  let k := (pfxOf s).k
  if k = 0 then [] else [{ pos := 3, file := 2, base := k.toNat, em := true }]

/-- `info` of causes 0x03 and 0x04 (01 R31). -/
def opdInfo (o : Opd) (thr reg : Nat) : Word :=
  .ofNat 32 (thr % 64 * 2 ^ 18 + o.pos % 4 * 2 ^ 16 + (if o.em then 2 ^ 14 else 0) + o.file % 4 * 2 ^ 12 + reg % 128)

/-- An operand beyond the allocation (01 R15). -/
def Opd.beyond (f : Furrow) (o : Opd) : Bool :=
  (o.file == 0 && decide (f.vcount ≤ o.base)) || (o.file == 1 && decide (f.scount ≤ o.base))

def Opd.readsReg (o : Opd) (r : Nat) : Bool := r != 0 && decide (o.base ≤ r ∧ r < o.base + o.reads)
def Opd.consumes (o : Opd) (r t : Nat) : Bool :=
  r != 0 && decide (o.base ≤ r ∧ r < o.base + o.used) && (nth o.per (r - o.base) o.thr).getLsbD t

/-- The marked elements of a register file as (register, thread, mark). -/
def marksOf (f : Furrow) (file : Nat) : List (Nat × Nat × Mark) :=
  if file = 0 then f.vMark.map fun x => (x.1 / 64, x.1 % 64, x.2)
  else if file = 1 then f.sMark.map fun x => (x.1, 0, x.2)
  else f.kMark.map fun x => (x.1, 0, x.2)

/-- The earlier of two places in the order lowest thread, then lowest register (01 R34). -/
def earlier (a : Option (Nat × Nat)) (b : Nat × Nat) : Option (Nat × Nat) :=
  match a with
  | none => some b
  | some a => if b.1 < a.1 ∨ b.1 = a.1 ∧ b.2 < a.2 then some b else some a

/-- The first consumed element of the operands that is uncorrectable or poisoned: its operand, thread and register (01 R34). -/
def firstPoison (f : Furrow) : List Opd → Option (Opd × Nat × Nat)
  | [] => none
  | o :: os =>
    match ((marksOf f o.file).filter fun m => m.2.2 != .clean && o.consumes m.1 m.2.1).foldl
        (fun a m => earlier a (m.2.1, m.1)) none with
    | some (t, r) => some (o, t, r)
    | none => firstPoison f os

/-- An uncorrectable register element: an entry of its core's log (01 R37), and its RAS counter (17 R381); a stream's event is counted by
its cluster. -/
def logRegister (s : State) (cons : Bool) (file reg thr : Nat) : State :=
  let f := s.cur
  if f.stream then rasCount s (rasCluster f.cluster)
  else
    rasCount (logError s f.gcore (.ofNat 64 ((if cons then 2 ^ 47 else 0) + f.slot % 32 * 2 ^ 42 + thr % 64 * 2 ^ 36 + file % 4 * 2 ^ 34
      + reg % 128 * 2 ^ 27))) (rasCore f.gcore)

/-- Whether the register file reads a marked element for the operands: a pass with no active thread is skipped (01 R7, R32). -/
def isRead (a : Mask) (os : List Opd) (file r t : Nat) : Bool :=
  os.any fun o => o.file == file && o.readsReg r &&
    (file != 0 || (upto 16).any fun i => a.getLsbD (t / 16 * 16 + i))

/-- Uncorrectable elements that are read and not consumed become poisoned and are logged (01 R34). -/
def noteUnconsumed (s : State) (a : Mask) (os : List Opd) : State :=
  [0, 1, 2].foldl (fun s file =>
    ((marksOf s.pre file).filter fun m => m.2.2 == .uncorrectable && isRead a os file m.1 m.2.1
        && !os.any fun o => o.file == file && o.consumes m.1 m.2.1).foldl
      (fun s m =>
        let s := logRegister s false file m.1 m.2.1
        let key := if file = 0 then 64 * m.1 + m.2.1 else m.1
        let up (t : NMap Mark) : NMap Mark :=
          if tget t key .clean = .uncorrectable then tset t key .clean .poisoned else t
        { s with cur := if file = 0 then { s.cur with vMark := up s.cur.vMark }
            else if file = 1 then { s.cur with sMark := up s.cur.sMark } else { s.cur with kMark := up s.cur.kMark } }) s) s

/-- A member's checks in the order of 01 R18 before its effect `k`: privilege (with its `info`), registers beyond the allocation, register
poison. Operands stand in the order a, b, c, destination, tested register. -/
def guarded (s : State) (priv : Option Word) (os : List Opd) (k : State → State) : State :=
  match priv with
  | some info => raise s 0x02 info
  | none =>
    match os.find? (·.beyond s.pre) with
    | some o => raise s 0x03 (opdInfo o 0 o.base)
    | none =>
      let os := maskPrefixOpd s ++ os
      let s := noteUnconsumed s (act s) os
      match firstPoison s.pre os with
      | some (o, t, r) => raise (logRegister s true o.file r t) 0x04 (opdInfo o (if o.file = 0 then t else 0) r)
      | none => k s

/-! ### Scalar members -/

/-- A scalar register read as it stood before the group (02 R42). -/
def S (s : State) (r : BitVec 7) : Word := s.pre.sget r.toNat
def SN (s : State) (r i : Nat) : Word := s.pre.sget (r + i)
/-- The 64-bit value of a scalar pair. -/
def pairS (s : State) (r : BitVec 7) : Dword := s.pre.sget (r.toNat + 1) ++ s.pre.sget r.toNat
def setS (s : State) (r : BitVec 7) (x : Word) : State := { s with cur := s.cur.sset r.toNat x }

/-- S[d] := f(S[a], S[b]) (04 R97). -/
def scalar2 (s : State) (d a b : BitVec 7) (f : Word → Word → Word) : State :=
  guarded s none [.s 0 a, .s 1 b, .ds d] fun s => setS s d (f (S s a) (S s b))

/-- S[d] := f(S[a]). -/
def scalar1 (s : State) (d a : BitVec 7) (f : Word → Word) : State :=
  guarded s none [.s 0 a, .ds d] fun s => setS s d (f (S s a))

/-! ### Vector members -/

/-- What a thread's arithmetic carries besides its value: the generator, the flags raised and the rounding mode (01 R28, 03 R73). -/
structure Fx where
  rng : Word
  flags : Word := 0
  mode : Nat := 0
  deriving DecidableEq, Repr

/-- The rounding mode of the member: `pfx.rm`, with 6 read from `status.frm`, which a `wrsr` in a lower slot has set (01 R28, 02 R42). -/
def roundMode (s : State) : Nat :=
  let m := (pfxOf s).rm.toNat
  if m = 6 then s.cur.status.toNat % 8 else m

def fxOf (s : State) : Fx := { rng := s.cur.rng, mode := roundMode s }

/-- The furrow after a member, with the generator advanced and the flags ready to be ORed in (01 R28). -/
def putFx (s : State) (f : Furrow) (fx : Fx) : State :=
  { s with cur := { f with rng := fx.rng }, iss := { s.iss with raised := s.iss.raised ||| fx.flags } }

/-- Values of threads and of their elements computed in order: threads ascending, elements ascending within a thread (03 R75). -/
def eachElem (ts : List Nat) (n d : Nat) (g : Nat → Nat → Fx → Word × Fx) (f : Furrow) (fx : Fx) : Furrow × Fx :=
  ts.foldl (fun st t => (upto n).foldl (fun st i =>
    let (x, fx) := g t i st.2
    (st.1.vset (d + i) t x, fx)) st) (f, fx)

/-- Zero mode's writes to `n` registers (01 R9). -/
def zeroElems (s : State) (d n : Nat) : State :=
  { s with cur := (threads s.pre.width (zeroed s)).foldl (fun f t => (upto n).foldl (fun f i => f.vset (d + i) t 0) f) s.cur }

/-- A vector result: `g` gives element i of thread t for the active threads; zero mode writes the rest of the entry (01 R9). -/
def vectorResult (s : State) (d : BitVec 7) (n : Nat) (g : Nat → Nat → Fx → Word × Fx) : State :=
  let (f, fx) := eachElem (threads s.pre.width (act s)) n d.toNat g s.cur (fxOf s)
  zeroElems (putFx s f fx) d.toNat n

/-- A vector element of `pre`. -/
def V (s : State) (r : BitVec 7) (i t : Nat) : Word := s.pre.vget (r.toNat + i) t

/-- How an elementwise instruction takes its operands. -/
structure Form where
  /-- the second source: a register, or a constant -/
  b : Option (BitVec 7)
  const : Word := 0
  /-- it takes the prefix's fourth operand -/
  c : Bool := false
  /-- it reads its destination -/
  readD : Bool := false

/-- An elementwise vector instruction (04 R92, R101): V[d+i][t] := f(x, y, c, d) for the active threads. -/
def elementwise (s : State) (w : BitVec 2) (d a : BitVec 7) (fm : Form) (f : Word → Word → Word → Word → Fx → Word × Fx) : State :=
  let n := 2 ^ w.toNat
  let m := act s
  let c := (pfxOf s).c4
  let opds : List Opd := [.v 0 a n m]
    ++ (match fm.b with
        | some b => [.v 1 b n m]
        | none => [])
    ++ (if fm.c then [.v 2 c 1 m] else [])
    ++ [if fm.readD then .v 3 d n m else .dv d]
  guarded s none opds fun s =>
    vectorResult s d n fun t i fx =>
      f (V s a i t)
        (match fm.b with
          | some b => V s b i t
          | none => fm.const)
        (if fm.c then V s c 0 t else 0) (if fm.readD then V s d i t else 0) fx

/-- An integer function as an element function: no flag, no draw (04 R94). -/
def pure2 (f : Word → Word → Word) : Word → Word → Word → Word → Fx → Word × Fx := fun x y _ _ fx => (f x y, fx)

def vector2 (s : State) (w : BitVec 2) (d a b : BitVec 7) (f : Word → Word → Word) : State :=
  elementwise s w d a { b := some b } (pure2 f)

def vector1 (s : State) (w : BitVec 2) (d a : BitVec 7) (f : Word → Word) : State :=
  elementwise s w d a { b := none } (pure2 fun x _ => f x)

/-- A mask destination (01 R9, 04 R95): the bits of the active threads, zero for those that zero mode zeroes, the others kept. -/
def maskResult (s : State) (d : BitVec 4) (bits : Mask) : State :=
  { s with cur := s.cur.kset d.toNat (act s ||| zeroed s) (bits &&& act s) }

/-- The mask of the threads of a list for which `p` holds. -/
def maskOf (ts : List Nat) (p : Nat → Bool) : Mask :=
  ts.foldl (fun m t => if p t then m ||| (1 <<< t) else m) 0

/-- A compare (04 R108). -/
def compare2 (s : State) (d : BitVec 4) (a b : BitVec 7) (p : Word → Word → Bool) : State :=
  let m := act s
  guarded s none [.v 0 a 1 m, .v 1 b 1 m] fun s =>
    maskResult s d (maskOf (threads s.pre.width m) fun t => p (V s a 0 t) (V s b 0 t))

end Sys2Proof.Machine
end

