-- ==== Sys2Proof/Machine/Flags.lean ====
section
/-! DEFINITION. The sticky flags of `status` (01 R27, 03 R69) and where they are raised. -/

namespace Sys2Proof.Machine

def flagIv : Word := 0x010
def flagDz : Word := 0x020
def flagOf : Word := 0x040
def flagUf : Word := 0x080
def flagNx : Word := 0x100
def flagBk : Word := 0x200

/-- The bits of `status` that exist (01 R27). -/
def statusBits : Word := 0x000103F7

/-- What a `wrsr` of `status` stores: reserved bits as zero (00 R4), `status.frm` 6 and 7 as 0 (01 R28). -/
def statusStored (x : Word) : Word :=
  let y := x &&& statusBits
  if 6 ≤ y.toNat % 8 then y &&& ~~~7 else y

/-- Flags raised by an active thread (01 R28). -/
def Fx.raise (fx : Fx) (flags : Word) : Fx := { fx with flags := fx.flags ||| flags }

def flagIf (c : Bool) (flags : Word) : Word := if c then flags else 0

/-- The working furrow with the group's raised flags ORed into `status`, after any `wrsr` of the group (01 R28). -/
def orRaised (s : State) : State := { s with cur := { s.cur with status := s.cur.status ||| s.iss.raised } }

/-- One step of the stochastic generator (03 R73). -/
def rngStep (x : Word) : Word :=
  let x := x ^^^ (x <<< 13)
  let x := x ^^^ (x >>> 17)
  x ^^^ (x <<< 5)

/-- The draw of a result: one under `rsr`, none otherwise (03 R74). -/
def Fx.draw (fx : Fx) : Word × Fx :=
  if fx.mode = 5 then
    let r := rngStep fx.rng
    (r, { fx with rng := r })
  else (0, fx)

end Sys2Proof.Machine
end

