-- ==== Sys2Proof/Machine/Entries.lean ====
section
/-! DEFINITION. The split table: the choice of the entry that issues, splitting, fusing, leaving (01 R19 to R21, 05 R132, R140 to R143). -/

namespace Sys2Proof.Machine

def Furrow.hasEntry (f : Furrow) (id : Nat) : Bool := f.entries.any (·.id == id)

/-- The 128-bit layout of an entry (01 R19). -/
def Entry.record (e : Entry) : BitVec 128 :=
  .ofNat 128 (e.slot % 4 + e.parent % 128 * 2 ^ 16 + e.id % 128 * 2 ^ 23 + (if e.live then 1 else 2) * 2 ^ 30 + e.pc.toNat * 2 ^ 32
    + e.mask.toNat * 2 ^ 64)

/-- The fields of an entry as a record holds them. -/
def Entry.ofRecord (e : Entry) (r : Nat) : Entry :=
  { e with slot := fld r 0 2, parent := fld r 16 7, id := fld r 23 7, live := fld r 30 2 == 1, pc := .ofNat 32 (fld r 32 32),
           mask := .ofNat 64 (fld r 64 64) }

/-- The spill area holds the records of the entries that are not resident, each of 16 bytes, lowest address first (01 R19, R20). -/
def syncSpill (f : Furrow) : Furrow :=
  { f with spilled := ((f.entries.filter fun e => !e.resident).map fun e => toBytes 16 e.record.toNat).flatten }

/-- The record of an entry in the spill area. -/
def Furrow.spillRecord (f : Furrow) (id : Nat) : Option Nat :=
  ((upto (f.spilled.length / 16)).map fun i => ofBytes ((f.spilled.drop (16 * i)).take 16)).find? fun r => fld r 23 7 == id

/-- Entries of the spill area (01 R21). -/
def Furrow.spillCap (f : Furrow) : Nat := f.spill / 16

/-- The lowest identifiers that no entry holds (05 R140). -/
def Furrow.freeIds (f : Furrow) : List Nat := (upto (2 * f.width)).filter fun i => !f.hasEntry i

/-- The entry to spill when a ninth would be resident: the oldest-created dormant one, else the live one that issued least recently (01 R20). -/
def spillChoice (es : List Entry) (keep : List Nat) : Option Nat :=
  let res := es.filter fun e => e.resident && !keep.contains e.id
  let least (key : Entry → Nat) (l : List Entry) : Option Entry :=
    l.foldl (fun a e => match a with
      | none => some e
      | some b => if key e < key b then some e else some b) none
  match least (·.born) (res.filter (!·.live)) with
  | some e => some e.id
  | none => (least (·.issued) (res.filter (·.live))).map (·.id)

/-- Entries spilled until at most 8 are resident (01 R20). -/
def residency (f : Furrow) (keep : List Nat) : Nat → Furrow
  | 0 => f
  | n + 1 =>
    if (f.entries.filter (·.resident)).length ≤ 8 then f
    else
      match spillChoice f.entries keep with
      | none => f
      | some id => residency (f.modEntry id fun e => { e with resident := false }) keep n

/-- An entry brought back to the core from its record in the spill area (01 R20). -/
def makeResident (f : Furrow) (id : Nat) : Furrow :=
  if (f.entry id).resident then f
  else
    residency (f.modEntry id fun e =>
      { (match f.spillRecord id with
          | some r => e.ofRecord r
          | none => e) with resident := true }) [id] 2

/-- Siblings at one packet boundary fuse into their parent, and so on upward (05 R142). -/
def fuse (f : Furrow) (id : Nat) : Nat → Furrow
  | 0 => f
  | n + 1 =>
    match f.entries.find? (·.id == id) with
    | none => f
    | some x =>
      if !x.live || x.slot != 0 || x.parent == x.id then f
      else
        match f.entries.find? fun y => y.id != id && y.live && y.slot == 0 && y.parent == x.parent && y.pc == x.pc
            && y.parent != y.id with
        | none => f
        | some y =>
          let f := { f with
            entries := f.entries.filter fun e => e.id != x.id && e.id != y.id,
            handler := if f.handler = x.id ∨ f.handler = y.id then x.parent else f.handler }
          let f := (makeResident f x.parent).modEntry x.parent fun p =>
            { p with live := true, mask := x.mask ||| y.mask, pc := x.pc, slot := 0, waits := x.waits ++ y.waits, lag := 0 }
          fuse f x.parent n

/-- An entry continues at a packet and slot (05 R141, R142). -/
def continueAt (f : Furrow) (id : Nat) (pkt : Word) (slot : Nat) : Furrow :=
  let f := f.modEntry id fun e => { e with pc := pkt, slot := slot }
  if slot = 0 then fuse f id f.entries.length else f

/-- A split (05 R140): the taken threads at the target, the others at the next packet, the parent dormant. -/
def split (f : Furrow) (id : Nat) (taken : Mask) (tgt nxt : Word) : Furrow :=
  match f.freeIds with
  | a :: b :: _ =>
    let e := f.entry id
    let born := f.entries.foldl (fun n x => max n x.born) 0
    let f := f.modEntry id fun e => { e with live := false, slot := 0, waits := [] }
    let f := { f with entries := f.entries ++
      [{ id := a, parent := id, mask := taken, pc := tgt, born := born + 1, issued := e.issued, waits := e.waits },
       { id := b, parent := id, mask := e.mask &&& ~~~taken, pc := nxt, born := born + 2, issued := e.issued, waits := e.waits }] }
    fuse (residency f [a, b] 2) a f.entries.length
  | _ => f

/-- The threads leave an entry and every ancestor (05 R132 step 1). -/
def clearThreads (f : Furrow) (m : Mask) (id : Nat) : Nat → Furrow
  | 0 => f
  | n + 1 =>
    let p := (f.entry id).parent
    let f := f.modEntry id fun e => { e with mask := e.mask &&& ~~~m }
    if p = id then f else clearThreads f m p n

/-- An entry ends (05 R132). -/
def exitEntry (f : Furrow) (id : Nat) : Furrow :=
  let e := f.entry id
  let f := clearThreads f e.mask id f.entries.length
  let f := { f with entries := f.entries.filter (·.id != id), rt := false }
  if e.parent = id then f
  else
    let p := f.entry e.parent
    match f.entries.find? fun c => c.parent == p.id && c.id != p.id with
    | none => f
    | some c =>
      let f := { f with entries := f.entries.filter (·.id != p.id) }
      let f := f.modEntry c.id fun c => { c with parent := if p.parent = p.id then c.id else p.parent }
      fuse (syncSpill f) c.id f.entries.length

/-- A ready live entry: nothing to wait for, and in runtime mode the one in the handler (05 R143, R146). -/
def entryReady (f : Furrow) (e : Entry) : Bool :=
  e.live && e.waits.isEmpty && (!f.rt || f.handler == e.id)

/-- The ready entries in the order of the furrow's turns: ascending, cyclic, after the one that issued last (05 R143). -/
def turnOrder (f : Furrow) : List Entry :=
  let ready := f.entries.filter (entryReady f)
  let byId := (upto 128).filterMap fun i => ready.find? (·.id == i)
  (byId.filter fun e => f.last < e.id) ++ byId.filter fun e => e.id ≤ f.last

/-- The furrow's turns leave the entry that issued last once it waits (05 R141), at a fence in mid-packet too (DESIGN CHOICE, log entry 65). -/
def noteWait (f : Furrow) : Furrow := { f with keeps := f.keeps && (f.entry f.last).waits.isEmpty }

/-- A furrow back into the table, with its spill area as its entries leave it (01 R19 to R21). -/
def keepFurrow (s : State) (fk : Nat) (f : Furrow) : State := s.setFurrow fk (syncSpill f)

/-- Whether a live sibling stands at a smaller packet (05 R143). -/
def lagging (f : Furrow) (e : Entry) : Bool :=
  e.parent != e.id && f.entries.any fun y => y.id != e.id && y.live && y.parent == e.parent && y.pc.toNat < e.pc.toNat

/-- The entry of the turn, with the entries passed over by the lag rule counted (05 R141, R143). When every ready entry is passed over the
turn goes to none. A turn in which the choice does not come to an entry neither counts for its run nor ends it (log entry 65). -/
def pickEntry (f : Furrow) : List Entry → Furrow × Option Nat
  | [] => (f, none)
  | e :: es =>
    if lagging f e && e.lag < 64 then pickEntry (f.modEntry e.id fun e => { e with lag := e.lag + 1 }) es
    else (f.modEntry e.id fun e => { e with lag := 0 }, some e.id)

/-- The furrow's turn: the entry inside a packet goes on until it waits (05 R141); otherwise the choice of 05 R143 among the ready entries but
those in `skip`, whose next group waits at issue (06 R157). -/
def chooseEntry (f : Furrow) (skip : List Nat) : Furrow × Option Nat :=
  match f.entries.find? fun e => f.keeps && e.id == f.last && e.slot != 0 && entryReady f e && !skip.contains e.id with
  | some e => (f, some e.id)
  | none => pickEntry f ((turnOrder f).filter fun e => !skip.contains e.id)

end Sys2Proof.Machine
end

