-- ==== Sys2Proof/Machine/Resources.lean ====
section
/-! DEFINITION. What a core and a cluster have free, and the furrows admitted to them (01 R10 to R12, 06 R156 to R160, 08 R207). -/

namespace Sys2Proof.Machine

/-- The furrows resident on a core. -/
def coreFurrows (s : State) (core : Nat) : List (Nat × Furrow) :=
  s.furrows.filter fun x => x.2.valid && !x.2.stream && x.2.gcore == core

/-- The plots that hold allocations on a core. -/
def corePlots (s : State) (core : Nat) : List Plot :=
  (s.plots.map (·.2)).filter fun p => 4 * p.cluster + p.core == core && (p.phase == .placed || p.phase == .running)

def total (l : List Nat) : Nat := l.foldl (· + ·) 0

/-- The copy engine's queue takes the top 1 KiB of core scratchpad (09 R237). -/
def scratchBytes : Nat := 256 * 1024 - 1024

def freeSlots (s : State) (core : Nat) : List Nat :=
  (upto 32).filter fun i => !((coreFurrows s core).any fun x => x.2.slot == i)

/-- What a plot needs of a core. -/
structure PlotNeed where
  fpp : Nat
  width : Nat
  vcount : Nat
  scount : Nat
  pmem : Nat
  spill : Nat
  /-- lane-private bytes on each lane -/
  lane : Nat

/-- The need of a plot: that of its launch, with the furrows it was saved with when it was (15 R342, R356). -/
def plotNeed (s : State) (p : Plot) : PlotNeed :=
  let r := (s.launch p.launch).record
  { fpp := if p.savedFurrows = [] then r.fpp else p.savedFurrows.length, width := 16 * 2 ^ r.w, vcount := 8 * r.vc, scount := 8 * r.sc,
    pmem := r.pmem, spill := r.spill, lane := r.fpp * 2 ^ r.w * r.priv }

/-- What the plots placed on a core and not yet admitted will take (06 R156). -/
def placedNeed (s : State) (core : Nat) (g : PlotNeed → Nat) : Nat :=
  total (((corePlots s core).filter fun p => p.phase == .placed).map fun p => g (plotNeed s p))

def slotRoom (s : State) (core : Nat) : Nat := (freeSlots s core).length - placedNeed s core (·.fpp)
def freeVector (s : State) (core : Nat) : Nat :=
  65536 - total ((coreFurrows s core).map fun x => x.2.width * x.2.vcount) - placedNeed s core fun n => n.fpp * n.width * n.vcount
def freeScalar (s : State) (core : Nat) : Nat :=
  4096 - total ((coreFurrows s core).map fun x => x.2.scount) - placedNeed s core fun n => n.fpp * n.scount

/-- The plots whose scratchpad is held: also an ended one that a transfer is still bound for (09 R241). -/
def scratchPlots (s : State) (core : Nat) : List Plot :=
  (s.plots.map (·.2)).filter fun p => 4 * p.cluster + p.core == core &&
    (p.phase == .placed || p.phase == .running || (p.phase == .ended && p.inbound != 0))

/-- Scratchpad held on a core: plot allocations and the spill areas of furrows that have not all ended (06 R156). -/
def usedScratch (s : State) (core : Nat) : Nat := total ((scratchPlots s core).map fun p => p.scrSize + p.spillSize)

/-- Lane bytes a plot holds on each lane (06 R156). -/
def laneBytes (p : Plot) : Nat := p.fpp * (p.width / 16) * p.priv

/-- The lowest base at which a size fits between allocations (log entry 15). -/
def gapFor (limit size : Nat) (used : List (Nat × Nat)) : Option Nat :=
  let cands := 0 :: used.map fun u => u.1 + u.2
  let fits (b : Nat) : Bool := b + size ≤ limit && used.all fun u => b + size ≤ u.1 || u.1 + u.2 ≤ b || u.2 == 0
  (cands.filter fits).foldl (fun a b => match a with
    | none => some b
    | some c => some (min b c)) none

/-- A base for a croft's cluster memory, when it fits: a free choice of the two ends of every gap (08 R207, 15 R347; log entry 15). -/
def memGap (limit size x : Nat) (used : List (Nat × Nat)) : Option Nat :=
  if size = 0 then some 0
  else
    let cands := 0 :: (limit - size) :: (used.map fun u => u.1 + u.2) ++ used.map fun u => u.1 - size
    let fits (b : Nat) : Bool := b + size ≤ limit && used.all fun u => b + size ≤ u.1 || u.1 + u.2 ≤ b || u.2 == 0
    match cands.filter fits with
    | [] => none
    | bs => some (nth bs (x % bs.length) 0)

/-- The scratchpad and lane bases a plot would take on a core, when it fits (01 R12, 06 R156). -/
def fitsCore (s : State) (core : Nat) (n : PlotNeed) : Option (Nat × Nat) :=
  let ps := corePlots s core
  if n.fpp ≤ slotRoom s core ∧ n.fpp * n.width * n.vcount ≤ freeVector s core
      ∧ n.fpp * n.scount ≤ freeScalar s core ∧ usedScratch s core + n.pmem + n.fpp * n.spill ≤ scratchBytes then
    match gapFor scratchBytes n.pmem ((scratchPlots s core).map fun p => (p.scrBase, p.scrSize)),
        gapFor 8192 n.lane (ps.map fun p => (p.laneBase, laneBytes p)) with
    | some a, some b => some (a, b)
    | _, _ => none
  else none

/-- A furrow at admission (01 R10): everything zero, one live entry, the stamps at the core's horizon (11 R261). -/
def newFurrow (fidx width : Nat) (pc tvec : Word) (horizon : BitVec 48) : Furrow :=
  { valid := true, width, fidx,
    entries := [{ mask := .ofNat 64 (2 ^ width - 1), pc }],
    tvec, rng := 0x6A09E667 ^^^ .ofNat 32 fidx, pts := horizon, seen := horizon, maxw := horizon }

/-- The furrows of a plot that are resident. -/
def plotFurrows (s : State) (p : Nat) : List Furrow := (s.plot p).furrows.filterMap fun k => tfind s.furrows k

/-- The furrow that `spawn` makes from the issuing one, in a free slot of its core (01 R11, 06 R158). -/
def spawnOne (s : State) (entry : Word) : State :=
  let f := s.pre
  match freeSlots s f.gcore, (upto 32).find? fun i => !((plotFurrows s f.plot).any (·.fidx == i)) with
  | slot :: _, some fidx =>
    let g : Furrow := { newFurrow fidx f.width entry f.tvec (s.core f.gcore).horizon with
      vcount := f.vcount, scount := f.scount, plot := f.plot, croft := f.croft, cluster := f.cluster, core := f.core, slot,
      ctx := f.ctx, spill := f.spill, code := f.code, csize := f.csize, etab := f.etab, ecnt := f.ecnt }
    let g := [1, 2, 3, 4].foldl (fun g i => g.sset i (f.sget i)) g
    let key := furrowKey f.gcore slot
    (s.setFurrow key g).modPlot f.plot fun p => { p with furrows := p.furrows ++ [key], spillSize := p.spillSize + f.spill }
  | _, _ => s

/-- How many furrows `spawn` can make now: under 32 in the plot, and as many as fit (06 R158). -/
def spawnRoom (s : State) : Nat :=
  let f := s.pre
  let per (free need : Nat) : Nat := if need = 0 then 32 else free / need
  min (32 - (plotFurrows s f.plot).length)
    (min (slotRoom s f.gcore)
      (min (per (freeVector s f.gcore) (f.width * f.vcount))
        (min (per (freeScalar s f.gcore) f.scount) (per (scratchBytes - usedScratch s f.gcore) f.spill))))

/-- `spawnOne` repeated. -/
def spawnMany (s : State) (entry : Word) : Nat → State
  | 0 => s
  | n + 1 => spawnMany (spawnOne s entry) entry n

end Sys2Proof.Machine
end

