-- ==== Sys2Proof/Machine/Control.lean ====
section
/-! DEFINITION. The system group, branches, calls and loops, and divergence (05 R129 to R150, 06 R158, R159, R177; 02 R56). -/

namespace Sys2Proof.Machine

def setCtl (s : State) (c : Ctl) : State := { s with iss := { s.iss with ctl := c } }

/-! ### The system group -/

/-- No effect (02 R46, 05 R130). -/
def execNop (s : State) : Result := .next s

/-- The entry leaves the furrow after its group (05 R132). -/
def execExit (s : State) : Result := .next (setCtl s .exit)

/-- No effect but that words after the group do not issue (05 R130, 02 R45); which furrow issues next is free in every turn. -/
def execYield (s : State) : Result := .next (setCtl s .nextPacket)

/-- The software trap and the breakpoint (05 R130, R149). -/
def execTrap (i : BitVec 5) (s : State) : Result := .next (raise s 0x0E (i.setWidth 32))
def execBrkpt (i : BitVec 5) (s : State) : Result := .next (raise s 0x0F (i.setWidth 32))

/-- `info` of the privileged trap (05 R150). -/
def privInfo (op : Nat) (sr : BitVec 5) : Word := .ofNat 32 (op * 32 + sr.toNat)

/-- The permission trap of a transfer to a packet outside the code (05 R138). -/
def transfer (s : State) (q : Int) (k : State → State) : State :=
  if 0 ≤ q ∧ insideCode s.pre q.toNat then k s else raise s 0x06 (.ofInt 32 q)

/-- Runtime mode only; resumes at the saved word or after it (05 R148). A target outside the code traps at the `rte` (05 R138). -/
def execRte (i : BitVec 1) (s : State) : Result :=
  .next (guarded s (if s.pre.rt then none else some (privInfo 2 0)) [] fun s =>
    match (returnTo s (i == 1)).iss.ctl with
    | .goto pkt _ => transfer s pkt.toNat fun s => returnTo s (i == 1)
    | _ => s)

/-- The furrow's coordinate at a launch level (01 R25, 15 R343): levels of core and above count the plot's linear index, the lowest fastest.
A stream has the coordinates of its croft's first plot (08 R209; log entry 73). -/
def levelCoord (s : State) (f : Furrow) (i : Nat) : Word :=
  let r := (launchOf s f).record
  let lv (j : Nat) : Nat := (nth r.levels j 0).toNat
  let declared (j : Nat) : Bool := fld (lv j) 31 1 == 1
  let index := if f.stream then (s.croft f.croft).index * plotsPerCroft r else (s.plot f.plot).index
  if !declared i then 0
  else if fld (lv i) 20 3 = 0 then 0
  else if fld (lv i) 20 3 = 1 then .ofNat 32 (if f.stream then 0 else f.fidx)
  else
    let below := (upto i).foldl (fun n j => if declared j && 2 ≤ fld (lv j) 20 3 then n * fld (lv j) 0 20 else n) 1
    .ofNat 32 (index / below % max 1 (fld (lv i) 0 20))

/-- A uniform special register's value (01 R25, R26; 08 R209): `cycle` is read in `execRdsr`. -/
def specialReg (s : State) (n : Nat) : Word :=
  let f := s.pre
  match n with
  | 2 => if f.stream then 0 else .ofNat 32 f.fidx
  | 3 => .ofNat 32 f.width
  | 4 => if f.stream then 0xFFFFFFFF else .ofNat 32 (s.plot f.plot).index
  | 5 => .ofNat 32 (s.croft f.croft).index
  | 6 => if f.stream then 0 else .ofNat 32 f.core
  | 7 => .ofNat 32 f.cluster
  | 8 => .ofNat 32 (f.cluster / 64)
  | 9 => s.pkg.devno.setWidth 32
  | 10 => .ofNat 32 f.ctx
  | 20 => f.cyclh
  | 21 => f.status
  | 22 => (s.cluster f.cluster).budget
  | 23 => f.epc
  | 24 => f.cause
  | 25 => f.info
  | 26 => f.tvec
  | 27 => bool32' f.rt
  | 28 => f.rng
  | n => if 11 ≤ n ∧ n ≤ 18 then levelCoord s f (n - 11) else 0
where
  bool32' (b : Bool) : Word := if b then 1 else 0

/-- Registers of runtime mode (01 R25). -/
def runtimeReg (n : BitVec 5) : Bool := 23 ≤ n.toNat && n.toNat ≤ 27

/-- The cycle counter as it stands at this read (01 R26): the furrow's core's; a stream reads that of core 0 of its cluster (log entry 8). -/
def readCycle (s : State) : Dword × State := cycleNow s s.pre.gcore

/-- Reads a special register (05 R131); `lane` and `tidx` go to a vector register, and write nothing in a stream (05 R145). -/
def execRdsr (d : BitVec 7) (n : BitVec 5) (s : State) : Result :=
  .next
    (if n.toNat < 2 then
      if s.pre.stream then s
      else guarded s none [.dv d] fun s =>
        let f := (threads s.pre.width (entryMask s)).foldl
          (fun f t => f.vset d.toNat t (.ofNat 32 (if n = 0 then t % 16 else t))) s.cur
        { s with cur := f }
    else
      guarded s (if runtimeReg n && !s.pre.rt then some (privInfo 0 n) else none) [.ds d] fun s =>
        if n = 19 then
          let (c, s) := readCycle s
          setS { s with cur := { s.cur with cyclh := (c >>> 32).setWidth 32 } } d (c.setWidth 32)
        else setS s d (specialReg s n.toNat))

/-- What a `wrsr` leaves in the furrow (01 R25, R28 to R30; 05 R148, R149). -/
def writeSpecial (f : Furrow) (n : Nat) (x : Word) : Furrow :=
  match n with
  | 21 => { f with status := statusStored x }
  | 23 => { f with epc := if x.toNat % 4 = 3 then x &&& ~~~3 else x }
  | 24 => { f with cause := x &&& 0x3F }
  | 25 => { f with info := x }
  | 26 => { f with tvec := x - .ofNat 32 (x.toNat % 12) }
  | 28 => { f with rng := if x = 0 then 1 else x }
  | _ => f

def execWrsr (a : BitVec 7) (n : BitVec 5) (s : State) : Result :=
  .next (guarded s (if runtimeReg n && !s.pre.rt then some (privInfo 1 n) else none) [.s 0 a] fun s =>
    { s with cur := writeSpecial s.cur n.toNat (S s a) })

/-- The counter of a path as it stands at issue (05 R131). -/
def execRdcnt (d : BitVec 7) (p : BitVec 5) (s : State) : Result :=
  .next (guarded s none [.ds d] fun s => setS s d ((tget s.pre.ctr p.toNat 0).setWidth 32))

/-- The member waits at issue: the group has no effect yet (01 R24, 06 R157). -/
def stallWait (s : State) : State := { s with iss := { s.iss with stall := .wait } }

/-- The same, while the furrow's turn stays with the entry (05 R141, R143; log entry 65). -/
def stallHold (s : State) : State := { s with iss := { s.iss with stall := .hold } }

/-- The issuing entry waits once its group has issued: what the group's own members raise is waited for too (log entry 65). -/
def parkEntry (s : State) (w : Wait) : State := { s with iss := { s.iss with park := s.iss.park ++ [w] } }

def isService : Wait → Bool
  | .service _ => true
  | _ => false

/-- The words of a fault-ring record below `flt.va` or `svc.arg` (05 R133, 11 R279). -/
def ringHead (s : State) (f : Furrow) (pkt : Word) (kind extra : Nat) : List Word :=
  let low := kind + extra * 256 + (if f.stream then 2 ^ 42 else 0) + f.ctx % 64 * 2 ^ 43 + f.slot % 32 * 2 ^ 49
    + (if f.stream then 0 else f.core % 4) * 2 ^ 54 + f.cluster % 256 * 2 ^ 56
  [.ofNat 32 low, .ofNat 32 (low / 2 ^ 32), if f.stream then 0xFFFFFFFF else .ofNat 32 (s.plot f.plot).index, pkt]

/-- Asks the host for a service (05 R133): the record goes to the context's fault ring, the entry is suspended for the reply. -/
def execSysc (d a : BitVec 7) (n : BitVec 5) (s : State) : Result :=
  .next (guarded s none [.s 0 a 4, .ds d] fun s =>
    if (s.ctx s.pre.ctx).fring = 0 then raise s 0x06 (.ofNat 32 (2 ^ 31 + n.toNat))
    else if s.pre.entries.any (·.waits.any isService) then stallWait s
    else
      let rec_ := ringHead s s.pre s.iss.pkt 2 n.toNat ++ (upto 4).map (SN s a.toNat ·)
      parkEntry (s.modCtx s.pre.ctx fun c => { c with faults := c.faults ++ [rec_] }) (.service d))

/-- Stops the plot, or from a stream its whole croft, with the code S[a] (05 R130, R134). -/
def execHalt (a : BitVec 7) (s : State) : Result := .next (guarded s none [.s 0 a] fun s => setCtl s (.halt (S s a)))

/-- How many furrows a `spawn` makes (06 R158, 08 R209). -/
def spawnCount (s : State) (a : BitVec 7) : Nat := if s.pre.stream then 0 else min (S s a).toNat (spawnRoom s)

/-- s1 to s4, which a `spawn` copies (01 R11) and so consumes when it makes a furrow (R33); a poisoned one is named by `info.opd` 3 (DESIGN CHOICE,
log entry 66). -/
def spawnArgs (s : State) (a : BitVec 7) : Opd :=
  { pos := 3, file := 1, base := 1, reads := 4, used := if spawnCount s a = 0 then 0 else 4 }

/-- Adds furrows to the plot as far as they fit (06 R158, R159). -/
def execSpawn (d a : BitVec 7) (e : BitVec 5) (s : State) : Result :=
  .next (guarded s none [.s 0 a, .ds d, spawnArgs s a] fun s =>
    if s.pre.stream then setS s d 0
    else if s.pre.ecnt ≤ e.toNat then raise s 0x06 (e.setWidth 32)
    else
      let n := spawnCount s a
      setS (spawnMany s (nth (launchOf s s.pre).entryTable e.toNat 0) n) d (.ofNat 32 n))

/-! ### Branches (05 R135 to R138; 02 R58, R59) -/

/-- The target of a packet offset (02 R57, R59). -/
def branchTarget (s : State) (o : BitVec 14) : Int := s.iss.pkt.toNat + (imm32 s 14 o).toInt

def goto (s : State) (q : Int) : State := transfer s q fun s => setCtl s (.goto (.ofInt 32 q) 0)

/-- The conditions of `br` (02 R58). -/
def brHolds (k : Nat) (x : Word) : Bool :=
  match k with
  | 0 => true
  | 1 => x == 0
  | 2 => x != 0
  | 3 => x.toInt < 0
  | 4 => 0 ≤ x.toInt
  | 5 => 0 < x.toInt
  | _ => x.toInt ≤ 0

def execBr (k : BitVec 4) (r : BitVec 7) (o : BitVec 14) (s : State) : Result :=
  .next (guarded s none [.s 3 r] fun s => if brHolds k.toNat (S s r) then goto s (branchTarget s o) else s)

/-- A call links only when its transfer does not trap (05 R136, R138). -/
def callTo (s : State) (d : BitVec 7) (q : Int) : State :=
  transfer s q fun s => setS (setCtl s (.goto (.ofInt 32 q) 0)) d (s.iss.pkt + 1)

def execCall (r : BitVec 7) (o : BitVec 14) (s : State) : Result :=
  .next (guarded s none [.ds r] fun s => callTo s r (branchTarget s o))
def execCallr (d a : BitVec 7) (s : State) : Result :=
  .next (guarded s none [.s 0 a, .ds d] fun s => callTo s d (S s a).toNat)
def execJmp (a : BitVec 7) (s : State) : Result := .next (guarded s none [.s 0 a] fun s => goto s (S s a).toNat)

/-- S[n] falls by one, and the branch is taken while it is not zero (05 R137). -/
def execLoop (r : BitVec 7) (o : BitVec 14) (s : State) : Result :=
  .next (guarded s none [.s 3 r] fun s =>
    let x := S s r - 1
    if x = 0 then setS s r x
    else transfer s (branchTarget s o) fun s => setS (setCtl s (.goto (.ofInt 32 (branchTarget s o)) 0)) r x)

/-- `brk` that would divide the entry: a plot fault in runtime mode (05 R147), cause 0x0D without space (01 R21, 05 R150). -/
def trySplit (s : State) (taken : Mask) (q : Int) : State :=
  let used := s.pre.entries.length
  transfer s q fun s =>
    if s.pre.rt then
      { plotFault s (some (epcOf s.iss.pkt s.iss.slot)) 0x11 s.pre.epc none with iss := { s.iss with trapped := true } }
    else if 8 + s.pre.spillCap < used + 2 then raise s 0x0D (.ofNat 32 (s.pre.spillCap * 256 + used))
    else setCtl s (.split taken (.ofInt 32 q))

/-- The branch on a mask register (05 R140). -/
def execBrk (k : BitVec 4) (r : BitVec 4) (o : BitVec 14) (s : State) : Result :=
  .next (guarded s none [.k 3 r] fun s =>
    let m := entryMask s
    let kr := s.pre.kget s.iss.entry r.toNat
    let t := if k = 1 then m &&& ~~~kr else m &&& kr
    let q := branchTarget s o
    let dest (b : Bool) : State := if b then goto s q else setCtl s .nextPacket
    match k.toNat with
    | 2 => dest (t != 0)
    | 3 => dest (t == m)
    | 4 => dest (t == 0)
    | _ => if t = m then goto s q else if t = 0 then setCtl s .nextPacket else trySplit s t q)

/-! ### Attached words (02 R53 to R57) -/

/-- A PFX or LIM word modifies the word it attaches to. -/
def execPfx (k : BitVec 4) (r : BitVec 3) (z : BitVec 1) (f : BitVec 7) (w : BitVec 2) (n : BitVec 3) (t : BitVec 1) (x : BitVec 4)
    (s : State) : Result := .next { s with iss := { s.iss with pfx := some (.pfx k r z f w n t x) } }
def execLim (i : BitVec 25) (s : State) : Result := .next { s with iss := { s.iss with lim := some (.lim i) } }

/-- The trap of an illegal pattern or of an instruction the unit does not run: no member takes effect (02 R49, R64, R65). -/
def execIllegalPattern (cause : BitVec 6) (slot : BitVec 2) (word : BitVec 32) (s : State) : Result :=
  .next (raise { s with iss := { s.iss with slot := slot.toNat } } cause word)

end Sys2Proof.Machine
end

