-- ==== Sys2Proof/Machine/Access.lean ====
section
/-! DEFINITION. Memory accesses: forming and checking addresses, operations in flight and their counters, homes, L1 copies, and the
completion of loads, stores and atomics (06 R160 to R176, R185, R187; 11 R257 to R263; 01 R22 to R24). -/

namespace Sys2Proof.Machine

/-! ### Operations in flight -/

def State.op (s : State) (id : Nat) : Option Op := s.ops.find? (·.id == id)
def State.modOp (s : State) (id : Nat) (g : Op → Op) : State :=
  { s with ops := s.ops.map fun o => if o.id = id then g o else o }

/-- Whether an operation is complete: done, or gone. -/
def opDone (s : State) (id : Nat) : Bool :=
  match s.op id with
  | some o => o.done
  | none => true

/-- Whether what an entry waits for has come. -/
def waitOver (s : State) (f : Furrow) : Wait → Bool
  | .counters limits => (upto 6).all fun i => 63 ≤ nth limits i 63 || (tget f.ctr i 0).toNat ≤ nth limits i 63
  | .operation op => opDone s op
  | _ => false

/-- The entries of a furrow wait no longer for what has come (06 R177). -/
def settle (s : State) (k : Nat) : State :=
  s.modFurrow k fun f =>
    { f with entries := f.entries.map fun e => { e with waits := e.waits.filter fun w => !waitOver s f w } }

/-- Complete operations of a furrow on one path leave from the oldest on; with how many left (01 R23). -/
def retireOps (k p : Nat) : List Op → Bool → List Op × Nat
  | [], _ => ([], 0)
  | o :: os, stop =>
    if o.furrow = k ∧ o.path = some p ∧ !stop then
      if o.done then
        let r := retireOps k p os false
        (r.1, r.2 + 1)
      else
        let r := retireOps k p os true
        (o :: r.1, r.2)
    else
      let r := retireOps k p os stop
      (o :: r.1, r.2)

/-- An operation completes: its counter falls in issue order (01 R23). -/
def finishOp (s : State) (o : Op) : State :=
  let s := s.modOp o.id fun o => { o with done := true }
  match o.path with
  | none => settle { s with ops := s.ops.filter fun x => x.id != o.id } o.furrow
  | some p =>
    let (ops, n) := retireOps o.furrow p s.ops false
    let s := ({ s with ops } : State).modFurrow o.furrow fun f => { f with ctr := tset f.ctr p 0 (tget f.ctr p 0 - .ofNat 6 n) }
    settle s o.furrow

/-- A new operation of the issuing furrow, with its counter raised (01 R22). -/
def issueOp (s : State) (o : Op) : State :=
  let (id, s) := s.fresh
  let o := { o with id, furrow := s.iss.furrow, entry := s.iss.entry, pkt := s.iss.pkt, slot := s.iss.slot,
                    act := act s, zero := zeroed s, pts := s.cur.pts }
  let s := { s with ops := s.ops ++ [o] }
  match o.path with
  | some p => { s with cur := { s.cur with ctr := tset s.cur.ctr p 0 (tget s.cur.ctr p 0 + 1) } }
  | none => s

/-- The identifier that the next operation takes. -/
def nextOp (s : State) : Nat := s.nextId

/-- A counter that stands at 63 (01 R24). -/
def pathFull (s : State) (p : Nat) : Bool := tget s.cur.ctr p 0 == 63

def Op.isLoad (o : Op) : Bool := o.kind == .load
def Op.isAtomic (o : Op) : Bool := o.kind == .atomic
/-- Stores for a release: stores, barrier arrivals and messages (11 R267, 06 R182, 12 R283). -/
def Op.isStore (o : Op) : Bool := o.kind == .store || o.kind == .arrival || o.kind == .message
/-- A barrier arrival on its way to its home: its read half is a read (12 R283). -/
def Op.isArriving (o : Op) : Bool := o.kind == .arrival && !o.parked && !o.begun

/-- The furrow's operations that are not complete. -/
def pending (s : State) (k : Nat) : List Op := s.ops.filter fun o => o.furrow == k && !o.done

/-- Older operations that the release and the acquire part wait for (11 R267). -/
def releaseSet (s : State) (k : Nat) : List Nat :=
  ((pending s k).filter fun o => (o.isStore && !o.parked) || o.isAtomic).map (·.id)
def acquireSet (s : State) (k : Nat) : List Nat := 
  ((pending s k).filter fun o => o.isLoad || o.isAtomic || o.isArriving).map (·.id)

/-- A fence, an `lda`, or the acquire of a `waitw` or `barw` holds the furrow's later memory instructions (11 R267, R268, 12 R296). -/
def Op.holdsMemory (o : Op) : Bool :=
  match o.kind, o.instr with
  | .fence, _ => true
  | .load, .lda _ _ _ => true
  | .waitw, _ => o.accs.all (·.done)
  | .arrival, _ => o.path.isNone && o.begun && !o.parked
  | _, _ => false

def memoryHeld (s : State) : Bool := (pending s s.iss.furrow).any Op.holdsMemory

/-- The member waits at issue for a counter or behind a fence, or goes on. -/
def whenFree (s : State) (path : Option Nat) (k : State → State) : State :=
  if memoryHeld s then stallHold s
  else if (match path with
    | some p => pathFull s p
    | none => false) then stallWait s
  else k s

/-! ### Poison reported to a stream's waits and arrivals (08 R233) -/

/-- A matrix operation that a wait with threshold `n` covers is in flight: of those that `c.mx` counts, all but the youngest `n` (01 R23). -/
def coveredMatrix (s : State) (n : Nat) : Bool :=
  let os := s.ops.filter fun o => o.furrow == s.iss.furrow && o.kind == .matrix
  (os.take (os.length - n)).any fun o => !o.done

/-- The oldest record of an operation that a wait with threshold `n` waits on: at least `n` younger ones have been issued. -/
def poisonCovered (f : Furrow) (n : Nat) : Option (Nat × Word) := f.poisonTrap.find? fun x => decide (n ≤ x.1)

/-- Whether an operation in flight can still leave a record: `status.bte` is set, or was when it consumed poison (08 R233). -/
def poisonMayCome (s : State) : Bool :=
  s.pre.status.getLsbD 16 || (pending s s.iss.furrow).any fun o => o.kind == .matrix && o.begun && o.args.length == 2

/-- A wait or an arrival of a stream: it waits at issue for the operations it covers whose poison would trap, and traps for poison they consumed
with `status.bte` set, one record at a time. -/
def poisonGate (s : State) (n : Nat) (k : State → State) : State :=
  if s.pre.stream && decide (n < 63) then
    match poisonCovered s.cur n with
    | some x => raise { s with cur := { s.cur with poisonTrap := s.cur.poisonTrap.erase x } } 0x10 x.2
    | none => if poisonMayCome s && coveredMatrix s n then stallWait s else k s
  else k s

/-! ### Addresses -/

/-- Where a thread's access points: a generic address, or an offset in a space (06 R166). -/
inductive Spot where
  | generic (a : Nat)
  | offset (sp : Nat) (x : Int)
  deriving DecidableEq, Repr

structure Want where
  thr : Nat
  size : Nat
  spot : Spot
  deriving DecidableEq, Repr

def Spot.low (a : Spot) : Nat :=
  match a with
  | .generic a => a % 4096
  | .offset _ x => (x % 4096).toNat

/-- The generic address; a space's offset lies in its fixed window (06 R166, 11 R256). -/
def Spot.address : Spot → Option Nat
  | .generic a => some a
  | .offset sp x =>
    if 0 ≤ x ∧ x < 2 ^ 40 then some (0xFF * 2 ^ 48 + (sp - 1) * 2 ^ 40 + x.toNat) else none

/-- What the accesses of one instruction share. -/
structure Mode where
  need : Need
  /-- `info.sp`, `info.acc` and `flt.acc` (06 R168, 11 R279) -/
  sp : Nat := 0
  acc : Nat
  flt : BitVec 3
  /-- whether it may read a doorbell page, and whether a store there is ignored (17 R368) -/
  door : Bool := false
  deriving DecidableEq, Repr

def spotPlace (s : State) (m : Mode) (w : Want) : Place :=
  match w.spot.address with
  | some va => resolve s (agentOf s s.pre) (tlbOf s (agentOf s s.pre)) w.thr va w.size m.need
  | none => .fail 0x07

inductive Checked where
  | trap (cause : BitVec 6) (w : Want)
  | miss (w : Want)
  | ok (ps : List (Want × Place))
  deriving DecidableEq, Repr

/-- The checks of every thread's address: alignment, window bound, permission, then missing translations (06 R166, R167). -/
def checkWants (s : State) (m : Mode) (ws : List Want) : Checked :=
  match ws.find? fun w => w.spot.low % w.size != 0 with
  | some w => .trap 0x05 w
  | none =>
    let ps := ws.map fun w => (w, spotPlace s m w)
    match ps.find? fun p => p.2 == .fail 0x07 with
    | some p => .trap 0x07 p.1
    | none =>
      let refused : Place → Bool
        | .fail _ => true
        | .peer _ _ _ _ _ _ => true
        | .door _ _ _ _ _ _ => !m.door
        | _ => false
      match ps.find? fun p => refused p.2 with
      | some p => .trap 0x06 p.1
      | none =>
        match ps.find? fun p => p.2 == .miss with
        | some p => .miss p.1
        | none => .ok ps

/-- `info` of causes 0x05, 0x06, 0x07 and 0x09 (06 R168). -/
def accessInfo (m : Mode) (thr low : Nat) : Word := .ofNat 32 (thr % 64 * 2 ^ 18 + m.sp * 2 ^ 15 + m.acc * 2 ^ 12 + low % 4096)

/-- The checked accesses, or the trap or the replay of a miss (06 R167, 11 R279). -/
def access (s : State) (m : Mode) (ws : List Want) (k : State → List (Want × Place) → State) : State :=
  match checkWants s m ws with
  | .trap c w => raise s c (accessInfo m w.thr w.spot.low)
  | .miss w => { s with iss := { s.iss with stall := .miss w.thr (.ofNat 64 (w.spot.address.getD 0)) m.flt } }
  | .ok ps => k (ps.foldl (fun s p => usePlace s (agentOf s s.pre) m.need p.2) s) ps

/-- A doorbell page's registers as places. -/
def doorLoc (q off : Nat) : Nat := 2 ^ 57 + q * 65536 + off

/-- An access at a resolved place: a line enters the L1 when it has stamps and the page is cached there (06 R163, 11 R277). -/
def accOf (p : Want × Place) (data : List Byte) : Acc :=
  let a : Acc := { thr := p.1.thr, loc := 0, addr := .ofNat 64 (p.1.spot.address.getD 0), size := p.1.size, data }
  match p.2 with
  | .loc k pte _ _ _ => { a with loc := k, l1 := stamped k && fld pte 6 2 == 0 }
  | .door q off _ _ _ _ => { a with loc := doorLoc q off }
  | _ => a

/-- The transaction-table entries of an operation: a line each, none for lane-private and core scratchpad (06 R185). -/
def tableLines (as : List Acc) : Nat :=
  ((as.filter fun a => !(decide (2 ^ 53 ≤ a.loc) && decide (a.loc < 2 ^ 55))).map fun a => lineOf a.loc).dedup.length

/-- An access whose line's reply or completion stamp has not returned: a store's stamp comes back after it has performed, and a load's line
after its read when it fills the L1 (06 R185). -/
def tableHolds (s : State) (o : Op) (a : Acc) : Bool :=
  match o.kind with
  | .store => !a.returned
  | .load => !a.done || (s.core (s.furrow o.furrow).gcore).fills.any fun x => x.op == o.id && x.line == lineOf a.loc
  | .atomic => !a.done
  | .writeback | .prefetch => true
  | .arrival => o.path.isSome
  | _ => false

def tableUsed (s : State) (core : Nat) : Nat :=
  total ((s.ops.filter fun o => !o.done && (s.furrow o.furrow).gcore == core && !(s.furrow o.furrow).stream).map
    fun o => tableLines (o.accs.filter (tableHolds s o)))

/-- The member waits at issue while the table has too few free entries (06 R185). -/
def whenTable (s : State) (as : List Acc) (k : State → State) : State :=
  let used := tableUsed s s.pre.gcore
  if !s.pre.stream && decide (128 < used + tableLines as) && used != 0 then stallHold s else k s

def Acc.overlaps (a b : Acc) : Bool := decide (a.loc < b.loc + b.size) && decide (b.loc < a.loc + a.size)

/-- A held `stl` keeps later accesses to its bytes at issue (11 R268). -/
def stlHolds (s : State) (as : List Acc) : Bool :=
  (pending s s.iss.furrow).any fun o =>
    (match o.instr with
      | .stl _ _ _ => true
      | _ => false) && o.accs.any fun a => !a.done && as.any a.overlaps

/-- An operation with resolved accesses enters, after the waits of 06 R185 and 11 R268. -/
def enter (s : State) (o : Op) (k : State → State) : State :=
  if stlHolds s o.accs then stallHold s else whenTable s o.accs fun s => k (issueOp s o)

/-! ### Marks of memory words -/

/-- The marks of the words that `n` bytes at `k` touch, but of those that are not read there; an error not detected before is marked and
logged (06 R187), as marked only where the word's value goes to no register and to no consumer (01 R37). -/
def readMarksBut (s : State) (k n : Nat) (elsewhere kept : Nat → Bool) : List Bool × State :=
  ((upto ((k % 4 + n + 3) / 4)).map fun i => k / 4 + i).foldl (fun st w =>
    if elsewhere w then (st.1 ++ [false], st.2)
    else
      match tget st.2.memMark w .clean with
      | .clean => (st.1 ++ [false], st.2)
      | .poisoned => (st.1 ++ [true], st.2)
      | .uncorrectable =>
        (st.1 ++ [true], logMemory { st.2 with memMark := tset st.2.memMark w .clean .poisoned } (4 * w) (kept w))) ([], s)

/-- The marks of words that a register, an engine or another unit takes: each of these counts as a consumer in `rel.cons` (01 R37; log entry 66). -/
def readMarks (s : State) (k n : Nat) : List Bool × State := readMarksBut s k n (fun _ => false) fun _ => true

/-- The mark of the word of a read-modify-write (06 R176): when no reply is wanted, a poisoned word is logged each time, as marked only. -/
def atomicMark (s : State) (k : Nat) (reply : Bool) : Bool × State :=
  let known := tget s.memMark (k / 4) .clean == .poisoned
  let (ms, s) := readMarksBut s k 4 (fun _ => false) fun _ => reply
  (ms.any id, if known && !reply then logMemory s k false else s)

/-! ### Order of one furrow's accesses -/

/-- The operations of the furrow that are older than one. -/
def olderOps (s : State) (o : Op) : List Op := (s.ops.takeWhile fun x => x.id != o.id).filter fun x => x.furrow == o.furrow

/-- An access may perform when older accesses to its bytes have; a load passes older stores, whose bytes it takes (06 R172, 11 R260), and a
`waitw` holds nothing but its entry (11 R272). -/
def mayPerform (older : List Op) (load : Bool) (a : Acc) : Bool :=
  !older.any fun x => !(load && x.kind == .store) && x.kind != .waitw && x.accs.any fun b => !b.done && a.overlaps b

/-- The accesses of older stores that a load's source with write stamp `w` does not hold yet: those not performed, and those that
performed at the home after the copy was made (06 R172, 11 R260). -/
def unseen (older : List Op) (w : BitVec 48) : List Acc :=
  ((older.filter fun o => o.kind == .store && !o.done).map fun o =>
    o.accs.filter fun b => !b.done || (stamped b.loc && decide (w.toNat < b.stamp.toNat))).flatten

/-- The bytes of a load with those of such stores put over them, the youngest last. -/
def forwarded (own : List Acc) (k : Nat) (bs : List Byte) : List Byte :=
  own.foldl (fun bs b => bs.zipIdx.map fun x =>
    let i := k + x.2
    if b.loc ≤ i ∧ i < b.loc + b.size then nth b.data (i - b.loc) x.1 else x.1) bs

/-- A word that one of them stores whole: memory's mark of it is not read. -/
def Acc.covers (a : Acc) (w : Nat) : Bool := decide (a.loc ≤ 4 * w) && decide (4 * w + 4 ≤ a.loc + a.size)

/-- Whether word `j` of a load's access goes to a register: v0 and s0 drop it (06 R169). -/
def keepsWord (i : Instr) (j : Nat) : Bool :=
  match i with
  | .ld _ _ d _ _ | .ldu _ _ d _ _ => d.toNat + j != 0
  | .ldsw _ _ d _ _ | .lda d _ _ | .barq d _ _ => d != 0
  | _ => true

/-- A load's access with its data from bytes and marks of a source with write stamp `w`. -/
def loadData (s : State) (i : Instr) (older : List Op) (w : BitVec 48) (bs : List Byte) (a : Acc) : Acc × State :=
  let own := unseen older w
  let (ms, s) := readMarksBut s a.loc a.size (fun x => own.any (·.covers x)) fun x => keepsWord i (x - a.loc / 4)
  ({ a with data := forwarded own a.loc bs, marks := ms, done := true }, s)

/-- The banks that an access to a core's scratchpad needs (06 R161, R162). -/
def Acc.banks (a : Acc) : List Nat := (upto ((a.loc % 4 + a.size + 3) / 4)).map fun i => (a.loc / 4 + i) % 32

def inScratch (k : Nat) : Bool := decide (2 ^ 54 ≤ k) && decide (k < 2 ^ 55)

/-- An operation whose accesses have been sent to the banks: a store or an arrival is held until its release part is over (11 R268, 06 R182). -/
def Op.sent (s : State) (o : Op) : Bool :=
  !o.done && !o.refused &&
    (match o.kind with
      | .load | .atomic | .scopeset => true
      | .store => o.after.all (opDone s)
      | .arrival => o.isArriving && o.after.all (opDone s)
      | _ => false)

/-- No access that was issued before waits at a bank that this one needs: banks serve the accesses of a core in issue order (06 R162). -/
def bankFree (s : State) (o : Op) (a : Acc) : Bool :=
  !inScratch a.loc || !(s.ops.takeWhile fun x => x.id != o.id).any fun x =>
    x.sent s && x.accs.any fun b => !b.done && inScratch b.loc && (a.loc - 2 ^ 54) / 2 ^ 18 == (b.loc - 2 ^ 54) / 2 ^ 18 && a.banks.any b.banks.contains

/-! ### Doorbell pages -/

/-- A read of `qres` (15 R333). -/
def reserve (s : State) (q : Nat) : Dword × State :=
  let Q := s.queue q
  if Q.qstat ≠ 1 ∨ 2 ^ Q.lsz ≤ (Q.qtk - Q.qrd).toNat then (2 ^ 63, s)
  else (Q.qtk.setWidth 64, s.modQueue q fun Q => { Q with qtk := Q.qtk + 1 })

/-- A load's bytes from a doorbell page (15 R333, 17 R368). -/
def doorRead (s : State) (q off size : Nat) : List Byte × State :=
  if size = 8 ∧ off = 0 then
    let (x, s) := reserve s q
    (toBytes 8 x.toNat, s)
  else if off < 8 then (List.replicate size 0xFF, s)
  else if size = 8 ∧ off = 8 then (toBytes 8 (s.queue q).qrd.toNat, s)
  else if size = 8 ∧ off = 16 then (toBytes 8 ((s.queue q).qstat + (s.queue q).lost.toNat * 65536), s)
  else (List.replicate size 0, s)

/-! ### The L1 -/

def l1Find (s : State) (core line : Nat) : Option L1Line := (s.core core).l1.find? fun x => x.line == line

/-- A furrow's load that its L1 serves: an exclusive line in any case (11 R262), a copy while the program stamp has not passed its lease (R259),
counted from the first load of the furrow that it served as well (12 R297; log entry 67). -/
def l1Serves (s : State) (f : Furrow) (older : List Op) (a : Acc) : Option L1Line :=
  if a.l1 && !f.stream && mayPerform older true a && !(s.core f.gcore).fills.any (fun x => x.line == lineOf a.loc) then
    match l1Find s f.gcore (lineOf a.loc) with
    | some x =>
      let first := ((tfind x.first f.slot).getD f.pts).toNat + (s.die (homeDie a.loc)).lease
      if x.exclusive || decide (f.pts.toNat ≤ x.rts.toNat ∧ f.pts.toNat ≤ first) then some x else none
    | none => none
  else none

/-- What a served load leaves at the line: an exclusive one was read at the furrow's logical time (12 R292; log entry 67). -/
def L1Line.hit (x : L1Line) (f : Furrow) : L1Line :=
  if x.exclusive then { x with rts := smax x.rts f.pts }
  else if (tfind x.first f.slot).isSome then x else { x with first := tput x.first f.slot f.pts }

/-- The access of a load at an L1 copy. -/
def readCopy (s : State) (f : Furrow) (i : Instr) (older : List Op) (x : L1Line) (a : Acc) : Acc × State :=
  loadData (s.modCore f.gcore fun c => { c with l1 := c.l1.map fun y => if y.line = x.line then y.hit f else y }) i older x.wts
    ((x.data.drop (a.loc % 64)).take a.size) a

/-- Accesses of a new load that hit; an unneeded copy may have been evicted before, which the free value decides (06 R163). -/
def tryHits (s : State) (i : Instr) (older : List Op) : List Acc → List Acc × BitVec 48 × State
  | [] => ([], 0, s)
  | a :: as =>
    match l1Serves s s.cur older a with
    | none =>
      let (r, w, s) := tryHits s i older as
      (a :: r, w, s)
    | some x =>
      let (n, s) := s.draw
      if n % 2 = 1 ∧ !x.exclusive then
        let s := s.modCore s.cur.gcore fun c => { c with l1 := c.l1.filter fun y => y.line != x.line }
        let (r, w, s) := tryHits s i older as
        (a :: r, w, s)
      else
        let (b, s) := readCopy s s.cur i older x a
        let (r, w, s) := tryHits s i older as
        (b :: r, smax w x.wts, s)

/-- A line put into an L1, which holds 2,048 of them; a free choice leaves when it is full (06 R163, 11 R262). -/
def putLine (s : State) (core : Nat) (x : L1Line) : State :=
  let s := s.modCore core fun c => { c with l1 := c.l1.filter fun y => y.line != x.line }
  let l := (s.core core).l1
  let s := if l.length < 2048 then s
    else
      let (n, s) := s.draw
      match l[n % l.length]? with
      | some y => (fun s => s.modCore core fun c => { c with l1 := c.l1.filter fun z => z.line != y.line })
          (if y.exclusive then recallLine s y.line else s)
      | none => s
  s.modCore core fun c => { c with l1 := x :: c.l1 }

/-- Every 64th load served by the L1 raises the program stamp (11 R259). -/
def countHit (f : Furrow) (as : List Acc) : Furrow :=
  if as ≠ [] ∧ as.all fun a => a.done then
    { f with hits := f.hits + 1, pts := if f.hits = 63 then f.pts + 1 else f.pts }
  else f

/-- A load enters: what the L1 serves is read now, the rest at the homes. -/
def enterLoad (s : State) (o : Op) : State :=
  enter s o fun s =>
    let id := s.nextId - 1
    let older := (s.ops.filter fun x => x.furrow == s.iss.furrow && x.id != id)
    let (as, w, s) := tryHits s o.instr older o.accs
    let s := s.modOp id fun o => { o with accs := as, rmax := w }
    { s with cur := countHit s.cur as }

/-! ### Homes -/

/-- The copies of the issuing cluster's other cores, dropped by a store before it performs (11 R260). -/
def dropOthers (s : State) (f : Furrow) (line : Nat) : State :=
  dropCopies s (((upto 4).map (4 * f.cluster + ·)).filter fun c => f.stream || c != f.gcore) line

/-- A request's stores to one line performed for a furrow, in ascending thread order, with one stamp: at the home, or in its own L1 when that
holds the line exclusively (06 R162, R170; 11 R258, R260, R262). -/
def performStores (s : State) (f : Furrow) (pts : BitVec 48) (line : Nat) (as : List (Nat × List Byte)) : BitVec 48 × State :=
  match (s.line (64 * line)).owner, l1Find s f.gcore line with
  | some _, some x =>
    let w := smax pts (x.rts + 1)
    (w, as.foldl (fun s a =>
      let s' := s.modCore f.gcore fun c =>
        { c with l1 := c.l1.map fun y =>
            if y.line = line then { y with data := y.data.take (a.1 % 64) ++ a.2 ++ y.data.drop (a.1 % 64 + a.2.length), wts := w, rts := w } else y }
      touchWaiters s { s' with memMark := clearMarks s.memMark a.1 a.2.length } a.1 a.2.length) s)
  | _, _ =>
    let s := if stamped (64 * line) then dropOthers s f line else s
    let (w, s) := stampWrite s (64 * line) pts
    (w, as.foldl (fun s a => putBytes s a.1 a.2) s)

def performStore (s : State) (f : Furrow) (pts : BitVec 48) (k : Nat) (bs : List Byte) : BitVec 48 × State :=
  performStores s f pts (lineOf k) [(k, bs)]

/-- Whether a furrow's access may perform at a line now: no other core owns it (11 R263). -/
def lineFree (s : State) (f : Furrow) (line : Nat) : Bool :=
  match (tget s.lines line {}).owner with
  | none => true
  | some c => c == f.gcore && !f.stream

/-- The accesses of an operation at a line that may perform now. -/
def readyAt (s : State) (o : Op) (line : Nat) : List Acc :=
  let older := olderOps s o
  o.accs.filter fun a => !o.refused && !a.done && lineOf a.loc == line && mayPerform older (o.kind == .load) a && bankFree s o a

/-- A load's accesses at one line are read at the home (11 R258). -/
def readHome (s : State) (o : Op) (line : Nat) : State :=
  let older := olderOps s o
  let ready := readyAt s o line
  let (l, s) := if 2 ^ 57 ≤ 64 * line then (({} : Line), s) else stampRead s (64 * line) o.pts
  let s := if 2 ^ 57 ≤ 64 * line then s else dropOlder s (some (s.furrow o.furrow).cluster) line l.wts
  let (as, s) := o.accs.foldl (fun st a =>
    if ready.contains a then
      if 2 ^ 57 ≤ a.loc then
        let (bs, s) := doorRead st.2 ((a.loc - 2 ^ 57) / 65536) (a.loc % 65536) a.size
        (st.1 ++ [{ a with data := bs, done := true }], s)
      else
        let (a, s) := loadData st.2 o.instr older l.wts (readBytes st.2.mem a.loc a.size) a
        (st.1 ++ [a], s)
    else (st.1 ++ [a], st.2)) (([] : List Acc), s)
  let s := s.modOp o.id fun o => { o with accs := as, rmax := smax o.rmax l.wts, heard := smax o.heard (smax l.wts l.rts) }
  let core := (s.furrow o.furrow).gcore
  if ready.any (·.l1) ∧ !(s.furrow o.furrow).stream then
    s.modCore core fun c =>
      { c with fills := c.fills ++ [{ op := o.id, line, data := readBytes s.mem (64 * line) 64, wts := l.wts, rts := l.rts }] }
  else s

/-- A load may read at a home. -/
def readReady (s : State) (o : Op) (line : Nat) : Bool :=
  o.kind == .load && (tget s.lines line {}).owner.isNone && !(readyAt s o line).isEmpty

/-- Whether the request is a renewal: the core holds a copy (11 R259). -/
def holdsCopy (s : State) (o : Op) (line : Nat) : Bool :=
  (readyAt s o line).any (·.l1) && (l1Find s (s.furrow o.furrow).gcore line).isSome && !(s.furrow o.furrow).stream

/-- A renewal at the home (11 R258): the copy with the home's write stamp goes on, another is replaced by the data. -/
def execHomeRenewal (op line : Nat) (s : State) : Result :=
  match s.op op with
  | some o => .next (if readReady s o line && holdsCopy s o line then readHome s o line else s)
  | none => .next s

/-- The scope of an operation at device tier, when its release part moves the program stamp (11 R266, R267). -/
def releaseStamp (s : State) (o : Op) : State :=
  if o.device then
    s.modFurrow o.furrow fun f => { f with pts := smax f.pts (f.maxw + 1) }
  else s

/-- The store operations that perform line by line. -/
def storeReady (s : State) (o : Op) (line : Nat) : Bool :=
  o.kind == .store && o.after.all (opDone s) && lineFree s (s.furrow o.furrow) line && !(readyAt s o line).isEmpty

/-- A store with a release part (11 R268). -/
def releases (o : Op) : Bool :=
  match o.instr with
  | .stl _ _ _ => true
  | _ => false

/-- The accesses of a store at one line perform, in ascending thread order (06 R162, R170). -/
def storeHome (s : State) (o : Op) (line : Nat) : State :=
  let release := releases o && !o.begun
  let s := if release then releaseStamp s o else s
  let pts := if release then (s.furrow o.furrow).pts else o.pts
  let f := s.furrow o.furrow
  let ready := readyAt s o line
  let prior := (s.line (64 * line)).wts
  let (w, s) := performStores s f pts line (ready.map fun a => (a.loc, a.data))
  s.modOp o.id fun o =>
    { o with accs := o.accs.map fun a => if ready.contains a then { a with done := true, stamp := w, prior } else a, wmax := smax o.wmax w,
             pts, begun := true }

/-- A store at the home (11 R258, R260). -/
def execHomeStore (op line : Nat) (s : State) : Result :=
  match s.op op with
  | some o => .next (if storeReady s o line then storeHome s o line else s)
  | none => .next s

/-- The line goes from its owner back to the home (11 R263), or is evicted (R262). -/
def execRecall (line : Nat) (s : State) : Result := .next (recallLine s line)

/-- A fill is kept unless its line's copy was dropped or updated while it was pending (11 R260); an updated copy, which may lack what the
fill's loads have read, then goes as well (12 R291; log entry 67). -/
def execL1Fill (core line : Nat) (s : State) : Result :=
  match (s.core core).fills.find? fun x => x.line == line with
  | none => .next s
  | some x =>
    let rest := fun (c : Core) => c.fills.filter fun y => !(y.op == x.op && y.line == x.line)
    .next
      (let s := s.modCore core fun c => { c with fills := rest c, horizon := smax c.horizon (smax x.wts x.rts) }
      match l1Find s core line with
      | some y =>
        if y.exclusive then s
        else if x.dropped || decide (x.wts.toNat < y.wts.toNat) then
          s.modCore core fun c => { c with l1 := c.l1.filter fun z => z.line != line }
        else putLine s core { line, data := x.data, wts := x.wts, rts := x.rts }
      | none => if x.dropped then s else putLine s core { line, data := x.data, wts := x.wts, rts := x.rts })

/-! ### Completion -/

/-- The stamps that a completed operation hands to its furrow and its core's horizon (11 R257, R261). -/
def takeStamps (s : State) (o : Op) : State :=
  let s := s.modFurrow o.furrow fun f => { f with seen := smax f.seen o.rmax, maxw := smax f.maxw o.wmax }
  let f := s.furrow o.furrow
  if f.stream then s else s.modCore f.gcore fun c => { c with horizon := smax c.horizon (smax o.heard (smax o.rmax o.wmax)) }

/-- The number of an operation's kind in a stale report (11 R271). -/
def staleKind (o : Op) : Nat :=
  match o.kind, o.instr with
  | .fence, .rfence _ => 6
  | .fence, _ => 0
  | .atomic, _ => 1
  | .load, .lda _ _ _ => 2
  | .store, .stl _ _ _ => 3
  | .arrival, _ => 4
  | .waitw, _ => 5
  | .remote, _ => 6
  | _, _ => 0

/-- `info` of cause 0x08 (11 R271). -/
def staleInfo (pkt : Word) (kind : Nat) (gnew gold : BitVec 4) (idx : Nat) : Word :=
  .ofNat 32 (pkt.toNat % 2 ^ 18 * 2 ^ 14 + kind * 2 ^ 11 + gnew.toNat * 2 ^ 7 + gold.toNat * 2 ^ 3 + idx)

/-- A report held by the furrow, one for each scope entry (11 R271). -/
def staleReport (s : State) (o : Op) : State :=
  match o.stale with
  | none => s
  | some gnew =>
    s.modFurrow o.furrow fun f =>
      if f.stale.any (·.idx == o.scope) then
        { f with stale := f.stale.map fun r => if r.idx = o.scope then { r with gnew } else r }
      else { f with stale := f.stale ++ [{ idx := o.scope, kind := staleKind o, gold := o.gen, gnew, pkt := o.pkt }] }

/-- A load's value in its registers (06 R169). -/
def loadValue (i : Nat) (x : Acc) : Word × Bool :=
  (.ofNat 32 (ofBytes ((x.data.drop (4 * i)).take 4)), nth x.marks i false)

/-- A sub-word value, extended (06 R169, 03 R71): n8, i8, n16, i16. -/
def subValue (w : Nat) (bs : List Byte) : Word :=
  match w with
  | 0 => .ofNat 32 (ofBytes (bs.take 1))
  | 1 => (BitVec.ofNat 8 (ofBytes (bs.take 1))).signExtend 32
  | 2 => .ofNat 32 (ofBytes (bs.take 2))
  | _ => (BitVec.ofNat 16 (ofBytes (bs.take 2))).signExtend 32

/-- The access that a thread's element comes from: its own, or the one read of a uniform address (06 R169). -/
def Op.accOf (o : Op) (uniform : Bool) (t : Nat) : Option Acc := if uniform then o.accs.head? else o.accs.find? fun a => a.thr == t

/-- `n` registers from `d` written for the active threads from their accesses, and zero for the threads of zero mode (01 R9, 06 R169). -/
def deliver (f : Furrow) (o : Op) (uniform : Bool) (d n : Nat) (val : Nat → Acc → Word × Bool) : Furrow :=
  let f := (threads f.width o.act).foldl (fun f t =>
    match o.accOf uniform t with
    | none => f
    | some a => (upto n).foldl (fun f i => f.vsetMarked (d + i) t (val i a).1 (val i a).2) f) f
  (threads f.width o.zero).foldl (fun f t => (upto n).foldl (fun f i => f.vset (d + i) t 0) f) f

/-- One element taken from another furrow: v at 64 r + t, s at 8192 + r. -/
def copyElem (k : Nat) (g f : Furrow) : Furrow :=
  if k < 8192 then { f with v := tset f.v k 0 (tget g.v k 0), vMark := tset f.vMark k .clean (tget g.vMark k .clean) }
  else { f with s := tset f.s (k - 8192) 0 (tget g.s (k - 8192) 0), sMark := tset f.sMark (k - 8192) .clean (tget g.sMark (k - 8192) .clean) }

/-- A furrow `g` with results delivered, but for the elements that had theirs before: these keep what stands in `f` (06 R171). -/
def keepEarly (o : Op) (f g : Furrow) : Furrow := o.early.foldl (fun g k => copyElem k f g) g

/-- The registers a complete load writes. -/
def loadDeliver (f : Furrow) (o : Op) : Furrow :=
  let first : Acc := o.accs.headD { thr := 0, loc := 0 }
  match o.instr with
  | .ld sp w d _ _ => deliver f o (sp == 5 && o.accs.length == 1) d.toNat (2 ^ w.toNat) loadValue
  | .ldsw sp w d _ _ => deliver f o (sp == 5) d.toNat 1 fun _ a => (subValue w.toNat a.data, nth a.marks 0 false)
  | .lda d _ _ => deliver f o false d.toNat 1 loadValue
  | .ldu _ w d _ _ =>
    (upto (2 ^ w.toNat)).foldl (fun f i => f.ssetMarked (d.toNat + i) (loadValue i first).1 (loadValue i first).2) f
  | .barq d _ _ => f.ssetMarked d.toNat (loadValue 0 first).1 (loadValue 0 first).2
  | _ => f

def loadDone (s : State) (o : Op) : Bool :=
  o.kind == .load && !o.done && o.accs.all (·.done) && o.after.all (opDone s)
    && !(s.core (s.furrow o.furrow).gcore).fills.any fun x => x.op == o.id

/-- A load completes (06 R169); `lda` then performs its acquire part (11 R268). -/
def execLoadComplete (op : Nat) (s : State) : Result :=
  match s.op op with
  | none => .next s
  | some o =>
    .next
      (if loadDone s o then
        let s := takeStamps s o
        let s := s.modFurrow o.furrow fun f => keepEarly o f (loadDeliver f o)
        let s := match o.instr with
          | .lda _ _ _ => if o.device then s.modFurrow o.furrow fun f => { f with pts := smax f.pts f.seen } else s
          | _ => s
        finishOp (staleReport s o) o
      else s)

def storeDone (s : State) (o : Op) : Bool := o.kind == .store && !o.done && o.accs.all (·.done) && o.after.all (opDone s)

/-- A store's completion stamp comes back: it updates its core's copy unless that is newer, and a pending fill of the line is not kept
(11 R260). The copy lacks what others wrote before the store, if anything, so it holds every write up to the new stamp only if it did up to the
stamp that the store found (12 R291; log entry 67). -/
def updateCopy (s : State) (core : Nat) (a : Acc) : State :=
  s.modCore core fun c =>
    { c with l1 := c.l1.map fun y =>
               if y.line = lineOf a.loc ∧ !y.exclusive ∧ y.wts.toNat ≤ a.stamp.toNat then
                 { y with data := y.data.take (a.loc % 64) ++ a.data ++ y.data.drop (a.loc % 64 + a.data.length), wts := a.stamp,
                          base := if y.base = a.prior then a.stamp else y.base }
               else y,
             fills := c.fills.map fun y => if y.line = lineOf a.loc then { y with dropped := true } else y }

/-- A store to a line with stamps that has performed for a furrow of a core and whose stamp has not come back. -/
def returning (s : State) (core line : Nat) (o : Op) (a : Acc) : Bool :=
  let f := s.furrow o.furrow
  o.kind == .store && !f.stream && f.gcore == core && a.done && !a.returned && lineOf a.loc == line && stamped a.loc && decide (a.loc < 2 ^ 57)

/-- The stamps of a core's stores to a line come back up to one stamp, in the order in which they performed (11 R260; log entry 67). -/
def returnLine (s : State) (core line : Nat) (w : BitVec 48) : State :=
  let mine (o : Op) (a : Acc) : Bool := returning s core line o a && decide (a.stamp.toNat ≤ w.toNat)
  let as := (s.ops.map fun o => o.accs.filter (mine o)).flatten
  let s' := (as.insertionSort fun a b => a.stamp.toNat ≤ b.stamp.toNat).foldl (fun s a => updateCopy s core a) s
  { s' with ops := s.ops.map fun o => { o with accs := o.accs.map fun a => if mine o a then { a with returned := true } else a } }

/-- A store completes (06 R170, 11 R260 step 3). -/
def execStoreComplete (op : Nat) (s : State) : Result :=
  match s.op op with
  | none => .next s
  | some o =>
    .next
      (if storeDone s o then
        -- the release part of an `stl` that stores nothing (11 R268)
        let s := if releases o && !o.begun then releaseStamp s o else s
        let s := (o.accs.filter (!·.returned)).foldl (fun s a => returnLine s (s.furrow o.furrow).gcore (lineOf a.loc) a.stamp) s
        finishOp (staleReport (takeStamps s o) o) o
      else s)

end Sys2Proof.Machine
end

