-- ==== Sys2Proof/Machine/Digest.lean ====
section
/-! DEFINITION. SHA-256 and the verification of an HSS signature of two levels, which 17 R371 and R372 name and whose rules stand in FIPS 180-4
and in RFC 8554 (log entry 68). -/

namespace Sys2Proof.Machine

/-! ### SHA-256 (FIPS 180-4; PRESUMED, log entry 68) -/

/-- A number of `n` bytes, the most significant first. -/
def bigEndian (n x : Nat) : List Byte := (upto n).map fun i => .ofNat 8 (x / 2 ^ (8 * (n - 1 - i)))

def ofBigEndian (l : List Byte) : Nat := l.foldl (fun n b => n * 256 + b.toNat) 0

/-- The constants of the 64 rounds. -/
def shaConstants : List Word :=
  [0x428a2f98, 0x71374491, 0xb5c0fbcf, 0xe9b5dba5, 0x3956c25b, 0x59f111f1, 0x923f82a4, 0xab1c5ed5] ++
  [0xd807aa98, 0x12835b01, 0x243185be, 0x550c7dc3, 0x72be5d74, 0x80deb1fe, 0x9bdc06a7, 0xc19bf174] ++
  [0xe49b69c1, 0xefbe4786, 0x0fc19dc6, 0x240ca1cc, 0x2de92c6f, 0x4a7484aa, 0x5cb0a9dc, 0x76f988da] ++
  [0x983e5152, 0xa831c66d, 0xb00327c8, 0xbf597fc7, 0xc6e00bf3, 0xd5a79147, 0x06ca6351, 0x14292967] ++
  [0x27b70a85, 0x2e1b2138, 0x4d2c6dfc, 0x53380d13, 0x650a7354, 0x766a0abb, 0x81c2c92e, 0x92722c85] ++
  [0xa2bfe8a1, 0xa81a664b, 0xc24b8b70, 0xc76c51a3, 0xd192e819, 0xd6990624, 0xf40e3585, 0x106aa070] ++
  [0x19a4c116, 0x1e376c08, 0x2748774c, 0x34b0bcb5, 0x391c0cb3, 0x4ed8aa4a, 0x5b9cca4f, 0x682e6ff3] ++
  [0x748f82ee, 0x78a5636f, 0x84c87814, 0x8cc70208, 0x90befffa, 0xa4506ceb, 0xbef9a3f7, 0xc67178f2]

/-- The first value of the digest. -/
def shaStart : List Word := [0x6a09e667, 0xbb67ae85, 0x3c6ef372, 0xa54ff53a, 0x510e527f, 0x9b05688c, 0x1f83d9ab, 0x5be0cd19]

/-- The message padded to whole blocks of 64 bytes: a byte 0x80, zeros and its length in bits. -/
def shaPad (m : List Byte) : List Byte :=
  m ++ (0x80 :: List.replicate ((119 - m.length % 64) % 64) 0) ++ bigEndian 8 (8 * m.length)

/-- The next word of the schedule, from the sixteen before it. -/
def shaNext (l : List Word) : Word :=
  let x := nth l 1 0
  let y := nth l 14 0
  nth l 0 0 + (x.rotateRight 7 ^^^ x.rotateRight 18 ^^^ x >>> 3) + nth l 9 0 + (y.rotateRight 17 ^^^ y.rotateRight 19 ^^^ y >>> 10)

/-- One round, with its constant and the word of the schedule. -/
def shaRound (v : List Word) (k w : Word) : List Word :=
  match v with
  | [a, b, c, d, e, f, g, h] =>
    let t := h + (e.rotateRight 6 ^^^ e.rotateRight 11 ^^^ e.rotateRight 25) + ((e &&& f) ^^^ (~~~ e &&& g)) + k + w
    let u := (a.rotateRight 2 ^^^ a.rotateRight 13 ^^^ a.rotateRight 22) + ((a &&& b) ^^^ (a &&& c) ^^^ (b &&& c))
    [t + u, a, b, c, d + t, e, f, g]
  | _ => v

/-- The digest so far and a block of sixteen words; the schedule goes through a window of sixteen. -/
def shaBlock (v : List Word) (block : List Word) : List Word :=
  let r := shaConstants.foldl (fun (st : List Word × List Word) k =>
    (shaRound st.1 k (nth st.2 0 0), st.2.drop 1 ++ [shaNext st.2])) (v, block)
  (v.zip r.1).map fun p => p.1 + p.2

/-- Bytes taken sixteen words at a time. -/
def shaBlocks (m : List Byte) : List (List Word) :=
  (upto (m.length / 64)).map fun i => (upto 16).map fun j => .ofNat 32 (ofBigEndian ((m.drop (64 * i + 4 * j)).take 4))

/-- The digest's bytes. -/
def shaBytes (m : List Byte) : List Byte :=
  ((shaBlocks (shaPad m)).foldl shaBlock shaStart).flatMap fun w => bigEndian 4 w.toNat

/-- SHA-256 (17 R371, R372). -/
def sha256 (m : List Byte) : BitVec 256 := .ofNat 256 (ofBigEndian (shaBytes m))

/-! ### HSS of two levels: LMS_SHA256_M32_H15 with LMOTS_SHA256_N32_W4 (17 R371; RFC 8554; PRESUMED, log entry 68) -/

def part (l : List Byte) (i n : Nat) : List Byte := (l.drop i).take n

/-- The digits of a one-time signature: 64 of the message's digest and three of their checksum, four bits each. -/
def otsDigits (q : List Byte) : List Nat :=
  let digits (l : List Byte) : List Nat := l.flatMap fun b => [b.toNat / 16, b.toNat % 16]
  let d := digits q
  d ++ (digits (bigEndian 2 ((d.foldl (fun n x => n + (15 - x)) 0) * 16))).take 3

/-- One chain of a one-time signature, from step `j` on for `n` steps. -/
def otsChain (head : List Byte) (i : Nat) : Nat → Nat → List Byte → List Byte
  | 0, _, x => x
  | n + 1, j, x => otsChain head i n (j + 1) (shaBytes (head ++ bigEndian 2 i ++ bigEndian 1 j ++ x))

/-- The candidate of a one-time public key: the identifier and leaf, the randomizer, the 67 values and the message. -/
def otsCandidate (head c : List Byte) (y : List Byte) (m : List Byte) : List Byte :=
  let q := shaBytes (head ++ bigEndian 2 0x8181 ++ c ++ m)
  shaBytes (head ++ bigEndian 2 0x8080 ++ (otsDigits q).zipIdx.flatMap fun d => otsChain head d.2 (15 - d.1) d.1 (part y (32 * d.2) 32))

/-- The candidate of the tree's root from a node and the path above it. -/
def lmsRoot (id path : List Byte) : Nat → Nat → Nat → List Byte → List Byte
  | 0, _, _, x => x
  | n + 1, i, node, x =>
    let p := part path (32 * i) 32
    lmsRoot id path n (i + 1) (node / 2)
      (shaBytes (id ++ bigEndian 4 (node / 2) ++ bigEndian 2 0x8383 ++ if node % 2 = 1 then p ++ x else x ++ p))

/-- An LMS signature of 2,668 bytes verifies under a public key of 56: types 7 and 3, the identifier, the root. -/
def lmsVerifies (key m sig : List Byte) : Bool :=
  let id := part key 8 16
  let q := ofBigEndian (part sig 0 4)
  let head := id ++ bigEndian 4 q
  let k := otsCandidate head (part sig 8 32) (part sig 40 2144) m
  let leaf := shaBytes (id ++ bigEndian 4 (2 ^ 15 + q) ++ bigEndian 2 0x8282 ++ k)
  part key 0 8 == bigEndian 4 7 ++ bigEndian 4 3 && part sig 4 4 == bigEndian 4 3 && part sig 2184 4 == bigEndian 4 7 &&
    decide (q < 2 ^ 15) && lmsRoot id (part sig 2188 480) 15 0 (2 ^ 15 + q) leaf == part key 24 32

/-- An HSS signature of two levels verifies (17 R371): the root key signs the second key, and that signs the message. -/
def hssVerifies (key m sig : List Byte) : Bool :=
  let second := part sig 2672 56
  key.length == 60 && sig.length == 5396 && part key 0 4 == bigEndian 4 2 && part sig 0 4 == bigEndian 4 1 &&
    lmsVerifies (part key 4 56) second (part sig 4 2668) && lmsVerifies second m (part sig 2728 2668)

end Sys2Proof.Machine
end

