-- ==== Sys2Proof/Machine/Float.lean ====
section
/-! DEFINITION. Binary floating point: fp32, fp16 and bf16, computed exactly and rounded once (03 R66 to R75). A value that is
no dyadic number (a quotient, a root) comes as its leading bits and a sticky bit. -/

namespace Sys2Proof.Machine

/-- A format: exponent bits and fraction bits (03 R66). -/
structure Fmt where
  eb : Nat
  fb : Nat
  deriving DecidableEq, Repr

def fp32 : Fmt := ⟨8, 23⟩
def fp16 : Fmt := ⟨5, 10⟩
def bf16 : Fmt := ⟨8, 7⟩

def Fmt.bias (m : Fmt) : Nat := 2 ^ (m.eb - 1) - 1
def Fmt.ones (m : Fmt) : Nat := 2 ^ m.eb - 1
/-- The exponent of the smallest normal number. -/
def Fmt.emin (m : Fmt) : Int := 1 - (m.bias : Int)
def Fmt.canon (m : Fmt) : Nat := m.ones * 2 ^ m.fb + 2 ^ (m.fb - 1)
def Fmt.inf (m : Fmt) (neg : Bool) : Nat := (if neg then 2 ^ (m.eb + m.fb) else 0) + m.ones * 2 ^ m.fb
def Fmt.maxFinite (m : Fmt) (neg : Bool) : Nat := m.inf neg - 1

/-- What a bit pattern stands for; a finite value is (-1)^neg man 2^exp. -/
inductive FVal where
  | nan (signalling : Bool)
  | inf (neg : Bool)
  | fin (neg : Bool) (man : Nat) (exp : Int)
  deriving DecidableEq, Repr

/-- The value of a pattern (03 R66, R67). -/
def fdecode (m : Fmt) (x : Nat) : FVal :=
  let neg := x / 2 ^ (m.eb + m.fb) % 2 == 1
  let e := x / 2 ^ m.fb % 2 ^ m.eb
  let f := x % 2 ^ m.fb
  if e = m.ones then
    if f = 0 then .inf neg else .nan (f < 2 ^ (m.fb - 1))
  else if e = 0 then .fin neg f (m.emin - m.fb)
  else .fin neg (f + 2 ^ m.fb) ((e : Int) - m.bias - m.fb)

/-- The integer part and the fraction of man 2^-sh, the fraction in units of 2^-34 cut short, with whether anything lies below. -/
structure Split where
  int : Nat
  frac : Nat
  low : Bool
  deriving DecidableEq, Repr

def splitAt (man : Nat) (sh : Int) (sticky : Bool) : Split :=
  if sh ≤ 0 then ⟨man * 2 ^ sh.natAbs, 0, sticky⟩
  else
    let n := sh.natAbs
    let r := man % 2 ^ n
    ⟨man / 2 ^ n, r * 2 ^ 34 / 2 ^ n, sticky || r * 2 ^ 34 % 2 ^ n != 0⟩

def Split.inexact (p : Split) : Bool := p.frac != 0 || p.low

/-- Whether a mode delivers the neighbour farther from zero, `draw` being the generator's number under `rsr` (03 R72, R74). -/
def Split.up (p : Split) (mode : Nat) (neg : Bool) (even : Bool) (draw : Word) : Bool :=
  p.inexact &&
    match mode with
    | 0 => decide (2 ^ 33 < p.frac) || (p.frac == 2 ^ 33 && (p.low || !even))
    | 1 => false
    | 2 => neg
    | 3 => !neg
    | 4 => decide (2 ^ 33 ≤ p.frac)
    | _ => decide (draw.toNat < p.frac / 4)

/-- The number of bits of a natural number. -/
def bitLen (n : Nat) : Nat := if n = 0 then 0 else n.log2 + 1

/-- The value (-1)^neg (man + low) 2^exp rounded to a format, with its flags (03 R67, R69, R72, R74). -/
def froundWith (m : Fmt) (mode : Nat) (draw : Word) (neg : Bool) (man : Nat) (exp : Int) (sticky : Bool) : Nat × Word :=
  let sign := if neg then 2 ^ (m.eb + m.fb) else 0
  if man = 0 then (sign, 0)
  else
    let lead : Int := exp + bitLen man - 1
    let q : Int := max (lead - m.fb) (m.emin - m.fb)
    let p := splitAt man (q - exp) sticky
    let n := p.int + if p.up mode neg (p.int % 2 == 0) draw then 1 else 0
    let u := splitAt man (lead - m.fb - exp) sticky
    let un := u.int + if u.up mode neg (u.int % 2 == 0) draw then 1 else 0
    let tiny := decide (lead < m.emin) && !(lead == m.emin - 1 && decide (2 ^ (m.fb + 1) ≤ un))
    let top : Int := q + bitLen n - 1
    if n ≠ 0 ∧ (m.bias : Int) < top then
      (if mode = 0 ∨ mode = 4 ∨ mode = 5 ∨ (mode = 2 ∧ neg) ∨ (mode = 3 ∧ !neg) then m.inf neg else m.maxFinite neg,
        flagOf ||| flagNx)
    else
      let (n, q) := if 2 ^ (m.fb + 1) ≤ n then (n / 2, q + 1) else (n, q)
      (sign + (if n < 2 ^ m.fb then n else (q + m.fb + m.bias).toNat * 2 ^ m.fb + (n - 2 ^ m.fb)),
        flagIf p.inexact flagNx ||| flagIf (tiny && p.inexact) flagUf)

/-- The rounding of a delivered result, with its one draw under `rsr` (03 R74, R75). -/
def fround (m : Fmt) (neg : Bool) (man : Nat) (exp : Int) (sticky : Bool) (fx : Fx) : Nat × Fx :=
  let (r, fx) := fx.draw
  let (x, fl) := froundWith m fx.mode r neg man exp sticky
  (x, fx.raise fl)

/-- A result that needs no rounding: its flags, and its draw under `rsr` (03 R74). -/
def fconst (x : Nat) (flags : Word) (fx : Fx) : Nat × Fx := (x, (fx.draw.2).raise flags)

def FVal.isNan : FVal → Bool
  | .nan _ => true
  | _ => false
def FVal.isSnan : FVal → Bool
  | .nan s => s
  | _ => false

/-- The canonical NaN, with `iv` when an operand signals (03 R68, R69). -/
def fnan (m : Fmt) (ops : List FVal) (fx : Fx) : Nat × Fx := fconst m.canon (flagIf (ops.any (·.isSnan)) flagIv) fx

/-- The exact sum of two finite values: sign, magnitude, exponent; an exact zero takes the sign of 03 R67. -/
def fsumExact (mode : Nat) (na : Bool) (ma : Nat) (ea : Int) (nb : Bool) (mb : Nat) (eb : Int) : Bool × Nat × Int :=
  let e := min ea eb
  let a : Int := (if na then -1 else 1) * (ma * 2 ^ (ea - e).toNat : Nat)
  let b : Int := (if nb then -1 else 1) * (mb * 2 ^ (eb - e).toNat : Nat)
  let t := a + b
  if t = 0 then (if ma = 0 ∧ mb = 0 ∧ na = nb then na else mode == 2, 0, e)
  else (decide (t < 0), t.natAbs, e)

/-- The sum of two values of a format (04 R111). -/
def faddV (m : Fmt) (a b : FVal) (fx : Fx) : Nat × Fx :=
  match a, b with
  | .nan _, _ => fnan m [a, b] fx
  | _, .nan _ => fnan m [a, b] fx
  | .inf n, .inf n' => if n = n' then fconst (m.inf n) 0 fx else fconst m.canon flagIv fx
  | .inf n, _ => fconst (m.inf n) 0 fx
  | _, .inf n => fconst (m.inf n) 0 fx
  | .fin na ma ea, .fin nb mb eb =>
    let (n, t, e) := fsumExact fx.mode na ma ea nb mb eb
    fround m n t e false fx

/-- The product of two values (04 R111). -/
def fmulV (m : Fmt) (a b : FVal) (fx : Fx) : Nat × Fx :=
  match a, b with
  | .nan _, _ => fnan m [a, b] fx
  | _, .nan _ => fnan m [a, b] fx
  | .inf n, .inf n' => fconst (m.inf (n != n')) 0 fx
  | .inf n, .fin n' ma _ => if ma = 0 then fconst m.canon flagIv fx else fconst (m.inf (n != n')) 0 fx
  | .fin n ma _, .inf n' => if ma = 0 then fconst m.canon flagIv fx else fconst (m.inf (n != n')) 0 fx
  | .fin na ma ea, .fin nb mb eb => fround m (na != nb) (ma * mb) (ea + eb) false fx

/-- The fused product and sum (04 R111, 03 R69). -/
def fmaV (m : Fmt) (a b c : FVal) (fx : Fx) : Nat × Fx :=
  let zeroTimesInf := match a, b with
    | .inf _, .fin _ ma _ => ma == 0
    | .fin _ ma _, .inf _ => ma == 0
    | _, _ => false
  if zeroTimesInf then fconst m.canon flagIv fx
  else if a.isNan || b.isNan || c.isNan then fnan m [a, b, c] fx
  else
    match a, b, c with
    | .fin na ma ea, .fin nb mb eb, .fin nc mc ec =>
      let (n, t, e) := fsumExact fx.mode (na != nb) (ma * mb) (ea + eb) nc mc ec
      fround m n t e false fx
    | .fin _ _ _, .fin _ _ _, .inf n => fconst (m.inf n) 0 fx
    | _, _, _ =>
      let sgn : FVal → Bool
        | .inf n => n
        | .fin n _ _ => n
        | .nan _ => false
      let n := sgn a != sgn b
      match c with
      | .inf n' => if n = n' then fconst (m.inf n) 0 fx else fconst m.canon flagIv fx
      | _ => fconst (m.inf n) 0 fx

/-- Narrowing, widening, or re-rounding a value into a format (04 R119). -/
def fconvV (m : Fmt) (a : FVal) (fx : Fx) : Nat × Fx :=
  match a with
  | .nan _ => fnan m [a] fx
  | .inf n => fconst (m.inf n) 0 fx
  | .fin n man e => fround m n man e false fx

/-- An order of the values that are no NaN, with -0 below +0 (04 R113): a rank by sign and pattern. -/
def frank (x : Word) : Int :=
  let g : Int := (x.toNat % 2 ^ 31 : Nat)
  if x.getLsbD 31 then -g - 1 else g

/-- minimumNumber and maximumNumber (04 R113). -/
def fminMax (largest : Bool) (x y : Word) (fx : Fx) : Word × Fx :=
  let a := fdecode fp32 x.toNat
  let b := fdecode fp32 y.toNat
  let fx := fx.raise (flagIf (a.isSnan || b.isSnan) flagIv)
  if a.isNan && b.isNan then (.ofNat 32 fp32.canon, fx)
  else if a.isNan then (y, fx)
  else if b.isNan then (x, fx)
  else if largest then (if frank y ≤ frank x then x else y, fx)
  else (if frank x ≤ frank y then x else y, fx)

/-- The order of two values that are no NaN, zeros equal (04 R114). -/
def fordKey (x : Word) : Int := if x.toNat % 2 ^ 31 = 0 then 0 else frank x

inductive FRel where
  | eq
  | lt
  | le
  | un
  deriving DecidableEq, Repr

/-- A floating compare and the flags it raises (04 R114). -/
def fcompare (r : FRel) (x y : Word) : Bool × Word :=
  let a := fdecode fp32 x.toNat
  let b := fdecode fp32 y.toNat
  let nan := a.isNan || b.isNan
  let snan := a.isSnan || b.isSnan
  match r with
  | .eq => (!nan && fordKey x == fordKey y, flagIf snan flagIv)
  | .lt => (!nan && decide (fordKey x < fordKey y), flagIf nan flagIv)
  | .le => (!nan && decide (fordKey x ≤ fordKey y), flagIf nan flagIv)
  | .un => (nan, flagIf snan flagIv)

/-- `pfx.sat`: the rounded result clamped to +0.0 through +1.0 (04 R112). -/
def fsat (x : Nat) : Nat :=
  match fdecode fp32 x with
  | .nan _ => 0
  | .inf n => if n then 0 else 0x3F800000
  | .fin n man _ => if n || man == 0 then 0 else if 0x3F800000 ≤ x then 0x3F800000 else x

/-- An fp32 result as a register element, clamped when asked. -/
def asWord (sat : Bool) (r : Nat × Fx) : Word × Fx := (.ofNat 32 (if sat then fsat r.1 else r.1), r.2)

/-! ### Reciprocal and roots (04 R115, R116) -/

/-- The largest natural number whose square is at most `n`, built bit by bit from bit `k` - 1 downward. -/
def isqrtFrom (n : Nat) : Nat → Nat → Nat
  | 0, r => r
  | k + 1, r => if (r + 2 ^ k) * (r + 2 ^ k) ≤ n then isqrtFrom n k (r + 2 ^ k) else isqrtFrom n k r

def isqrt (n : Nat) : Nat := isqrtFrom n (bitLen n / 2 + 1) 0

/-- 1/x of a finite non-zero value: 66 or more leading bits and a sticky bit. -/
def recipBits (man : Nat) : Nat × Nat × Bool :=
  let k := bitLen man + 66
  (2 ^ k / man, k, 2 ^ k % man != 0)

def frcpV (a : FVal) (fx : Fx) : Nat × Fx :=
  match a with
  | .nan _ => fnan fp32 [a] fx
  | .inf n => fconst (if n then 0x80000000 else 0) 0 fx
  | .fin n man e =>
    if man = 0 then fconst (fp32.inf n) flagDz fx
    else
      let (q, k, st) := recipBits man
      fround fp32 n q (-e - k) st fx

/-- √(man 2^e) for an even or odd exponent: leading bits, exponent, sticky bit. -/
def sqrtBits (man : Nat) (e : Int) : Nat × Int × Bool :=
  let (m, e) := if e % 2 = 0 then (man, e) else (2 * man, e - 1)
  let m := m * 2 ^ 140
  let r := isqrt m
  (r, e / 2 - 70, r * r != m)

def fsqrtV (a : FVal) (fx : Fx) : Nat × Fx :=
  match a with
  | .nan _ => fnan fp32 [a] fx
  | .inf n => if n then fconst fp32.canon flagIv fx else fconst (fp32.inf false) 0 fx
  | .fin n man e =>
    if man = 0 then fconst (if n then 0x80000000 else 0) 0 fx
    else if n then fconst fp32.canon flagIv fx
    else
      let (r, e', st) := sqrtBits man e
      fround fp32 false r e' st fx

/-- 1/√(man 2^e): √(2^2k / man') with the exponent halved. -/
def rsqrtBits (man : Nat) (e : Int) : Nat × Int × Bool :=
  let (m, e) := if e % 2 = 0 then (man, e) else (2 * man, e - 1)
  let k := 2 * (bitLen m + 80)
  let r := isqrt (2 ^ k / m)
  (r, -(e / 2) - k / 2, r * r * m != 2 ^ k)

def frsqV (a : FVal) (fx : Fx) : Nat × Fx :=
  match a with
  | .nan _ => fnan fp32 [a] fx
  | .inf n => if n then fconst fp32.canon flagIv fx else fconst 0 0 fx
  | .fin n man e =>
    if man = 0 then fconst (fp32.inf n) flagDz fx
    else if n then fconst fp32.canon flagIv fx
    else
      let (r, e', st) := rsqrtBits man e
      fround fp32 false r e' st fx

/-- x 2^n rounded once (04 R111). -/
def fscalV (a : FVal) (n : Int) (fx : Fx) : Nat × Fx :=
  match a with
  | .nan _ => fnan fp32 [a] fx
  | .inf g => fconst (fp32.inf g) 0 fx
  | .fin g man e => fround fp32 g man (e + max (-512) (min 512 n)) false fx

/-! ### Integer conversions (04 R118) -/

/-- An integer rounded to fp32. -/
def cvtfV (signed : Bool) (x : Word) (fx : Fx) : Nat × Fx :=
  let v : Int := if signed then x.toInt else x.toNat
  fround fp32 (decide (v < 0)) v.natAbs 0 false fx

/-- A finite value rounded to an integer, with whether it was inexact. -/
def froundInt (neg : Bool) (man : Nat) (e : Int) (mode : Nat) (draw : Word) : Int × Bool :=
  let p := splitAt man (-e) false
  let n := p.int + if p.up mode neg (p.int % 2 == 0) draw then 1 else 0
  (if neg then -(n : Int) else n, p.inexact)

/-- fp32 to an integer type: the nearest bound and `iv` outside its range, 0 and `iv` for a NaN. -/
def cvtiV (signed : Bool) (a : FVal) (fx : Fx) : Nat × Fx :=
  let lo : Int := if signed then -2 ^ 31 else 0
  let hi : Int := if signed then 2 ^ 31 - 1 else 2 ^ 32 - 1
  let pat (v : Int) : Nat := (BitVec.ofInt 32 v).toNat
  let (r, fx) := fx.draw
  match a with
  | .nan _ => (0, fx.raise flagIv)
  | .inf n => (pat (if n then lo else hi), fx.raise flagIv)
  | .fin n man e =>
    let (v, inexact) := froundInt n man e fx.mode r
    if v < lo then (pat lo, fx.raise flagIv)
    else if hi < v then (pat hi, fx.raise flagIv)
    else (pat v, fx.raise (flagIf inexact flagNx))

/-- x rounded to an integral fp32 value, its sign kept. -/
def frndV (a : FVal) (fx : Fx) : Nat × Fx :=
  match a with
  | .nan _ => fnan fp32 [a] fx
  | .inf n => fconst (fp32.inf n) 0 fx
  | .fin n man e =>
    let (r, fx) := fx.draw
    let (v, inexact) := froundInt n man e fx.mode r
    ((froundWith fp32 0 0 n v.natAbs 0 false).1, fx.raise (flagIf inexact flagNx))

/-! ### Exponential, logarithm, sine, cosine, tangent (04 R115 to R117)

The exact value is computed in fixed point with 256 fraction bits, which settles between which two fp32 values it lies. Which value is
delivered, of the two that bracket it (`fexp2`, `flog2`) or of those within 2 ulp (the others), is the device's own choice, the same for
the same operand everywhere (log entries 9 and 10). -/

def fxBits : Nat := 256

/-- 2^f for f = `frac` / 2^160: the factors 2^(1/2), 2^(1/4) and so on for the bits of f, each rounded down. -/
def exp2From : Nat → Nat → Nat → Nat → Nat
  | 0, _, acc, _ => acc
  | k + 1, r, acc, frac =>
    if frac = 0 then acc
    else
      let r := isqrt (r * 2 ^ fxBits)
      if 2 ^ 160 ≤ 2 * frac then exp2From k r (acc * r / 2 ^ fxBits) (2 * frac - 2 ^ 160)
      else exp2From k r acc (2 * frac)

/-- The fraction bits of log2 m for m in [1, 2), by repeated squaring. -/
def log2From : Nat → Nat → Nat → Nat
  | 0, _, acc => acc
  | k + 1, m, acc =>
    let q := m * m / 2 ^ fxBits
    if 2 ^ (fxBits + 1) ≤ q then log2From k (q / 2) (2 * acc + 1) else log2From k q (2 * acc)

/-- The two fp32 values around a positive or negative inexact number, the one chosen with its flags. -/
def bracket (upper neg : Bool) (man : Nat) (exp : Int) : Nat × Word :=
  froundWith fp32 (if upper then 3 else 2) 0 neg man exp true

def fexp2V (x : Word) (fx : Fx) : Nat × Fx :=
  match fdecode fp32 x.toNat with
  | .nan s => fnan fp32 [.nan s] fx
  | .inf n => fconst (if n then 0 else fp32.inf false) 0 fx
  | .fin n man e =>
    let v : Int := (if n then -1 else 1) * (man : Int)
    if man = 0 then fconst 0x3F800000 0 fx
    else if !n && decide (128 ≤ man * 2 ^ e.toNat / 2 ^ (-e).toNat) then fconst (fp32.inf false) (flagOf ||| flagNx) fx
    else if n && decide (150 * 2 ^ (-e).toNat < man * 2 ^ e.toNat) then fconst 0 (flagUf ||| flagNx) fx
    else
      let num : Int := v * 2 ^ e.toNat
      let den : Nat := 2 ^ (-e).toNat
      let i := num.fdiv den
      let f := (num - i * den).toNat * 2 ^ 160 / den
      if f = 0 then
        let (y, fl) := froundWith fp32 (if Config.fexp2Upper x then 3 else 2) 0 false 1 i false
        fconst y fl fx
      else
        let (y, fl) := bracket (Config.fexp2Upper x) false (exp2From 160 (2 * 2 ^ fxBits) (2 ^ fxBits) f) (i - fxBits)
        fconst y fl fx

def flog2V (x : Word) (fx : Fx) : Nat × Fx :=
  match fdecode fp32 x.toNat with
  | .nan s => fnan fp32 [.nan s] fx
  | .inf n => if n then fconst fp32.canon flagIv fx else fconst (fp32.inf false) 0 fx
  | .fin n man e =>
    if man = 0 then fconst (fp32.inf true) flagDz fx
    else if n then fconst fp32.canon flagIv fx
    else
      let b := bitLen man - 1
      let i : Int := e + b
      if man = 2 ^ b then
        fconst (froundWith fp32 0 0 (decide (i < 0)) i.natAbs 0 false).1 0 fx
      else
        let l : Int := i * 2 ^ 120 + (log2From 120 (man * 2 ^ (fxBits - b)) 0 : Nat)
        -- the value lies between l and l + 1 in units of 2^-120
        let (y, fl) := if 0 ≤ l then bracket (Config.flog2Upper x) false l.toNat (-120)
          else bracket (Config.flog2Upper x) true (-(l + 1)).toNat (-120)
        fconst y fl fx

/-- arctan (1/n) in fixed point. -/
def atanInv (n : Nat) : Nat → Nat → Nat → Int
  | 0, _, _ => 0
  | k + 1, p, j => (p / j : Nat) - atanInv n k (p / (n * n)) (j + 2)

/-- 2π in fixed point, by Machin's formula. -/
def twoPi : Nat := (2 * (16 * atanInv 5 130 (2 ^ fxBits / 5) 1 - 4 * atanInv 239 40 (2 ^ fxBits / 239) 1)).toNat

/-- The alternating series of sine (from its first term r, j = 1) and cosine (from 1, j = 0). -/
def trigSeries (r2 : Int) : Nat → Int → Nat → Int
  | 0, _, _ => 0
  | k + 1, term, j => term + trigSeries r2 k (-(term * r2 / 2 ^ fxBits) / ((j + 1) * (j + 2))) (j + 2)

/-- The series of e^y from a term and its number. -/
def expSeries (y : Nat) : Nat → Nat → Nat → Nat
  | 0, _, _ => 0
  | k + 1, term, j => term + expSeries y k (term * y / 2 ^ fxBits / (j + 1)) (j + 1)

/-- One of the fp32 values within 2 ulp of the exact result, with `nx`, and `uf` when it is tiny: its magnitude lies at or just below the
fixed-point number (sine and tangent below x, cosine below 1), and is no fp32 value. -/
def within2 (choice : Nat) (v : Int) : Nat × Word :=
  let lower := (froundWith fp32 1 0 false (v.natAbs - 1) (-fxBits) true).1
  let c := choice % 4
  let c := if c = 3 ∧ (lower + 2) / 2 ^ 23 ≠ lower / 2 ^ 23 then 2 else c
  let y := lower + c - 1
  ((if v < 0 then 2 ^ 31 else 0) + y, flagNx ||| flagIf (decide (y < 2 ^ 23)) flagUf)

/-- A finite magnitude in fixed point. -/
def toFixed (man : Nat) (e : Int) : Nat := man * 2 ^ (e + fxBits).toNat

/-- Whether a finite magnitude is above 2^20. -/
def above20 (man : Nat) (e : Int) : Bool := decide (2 ^ 20 * 2 ^ (-e).toNat < man * 2 ^ e.toNat)

def fsinV (x : Word) (fx : Fx) : Nat × Fx :=
  match fdecode fp32 x.toNat with
  | .nan s => fnan fp32 [.nan s] fx
  | .inf _ => fconst fp32.canon flagIv fx
  | .fin n man e =>
    let sg := if n then 2 ^ 31 else 0
    if man = 0 then fconst sg 0 fx
    else if above20 man e then fconst sg flagNx fx
    else
      let r : Int := (toFixed man e % twoPi : Nat)
      let v := trigSeries (r * r / 2 ^ fxBits) 60 r 1
      let (y, fl) := within2 (Config.fsinChoice x) (if n then -v else v)
      fconst y fl fx

def fcosV (x : Word) (fx : Fx) : Nat × Fx :=
  match fdecode fp32 x.toNat with
  | .nan s => fnan fp32 [.nan s] fx
  | .inf _ => fconst fp32.canon flagIv fx
  | .fin _ man e =>
    if man = 0 then fconst 0x3F800000 0 fx
    else if above20 man e then fconst 0x3F800000 flagNx fx
    else
      let r : Int := (toFixed man e % twoPi : Nat)
      let (y, fl) := within2 (Config.fcosChoice x) (trigSeries (r * r / 2 ^ fxBits) 60 (2 ^ fxBits) 0)
      fconst y fl fx

def ftanhV (x : Word) (fx : Fx) : Nat × Fx :=
  match fdecode fp32 x.toNat with
  | .nan s => fnan fp32 [.nan s] fx
  | .inf n => fconst (if n then 0xBF800000 else 0x3F800000) 0 fx
  | .fin n man e =>
    let one := if n then 0xBF800000 else 0x3F800000
    let m := toFixed man e
    if m < 2 ^ (fxBits - 12) then fconst x.toNat 0 fx
    else if 9 * 2 ^ fxBits ≤ m then fconst one flagNx fx
    else
      let ey := expSeries (2 * m) 150 (2 ^ fxBits) 0
      let v : Int := ((ey - 2 ^ fxBits) * 2 ^ fxBits / (ey + 2 ^ fxBits) : Nat)
      let (y, fl) := within2 (Config.ftanhChoice x) (if n then -v else v)
      fconst y fl fx

end Sys2Proof.Machine
end

