-- ==== Sys2Proof/Machine/Scalar.lean ====
section
/-! DEFINITION. The integer functions of 04 R97, R98, R101 to R106, and the scalar instructions (04 R97 to R100). -/

namespace Sys2Proof.Machine

/-! ### Integer functions -/

/-- Shifts and rotation by a number read as n32 (04 R98). -/
def shiftLeft (a n : Word) : Word := if n.toNat < 32 then a <<< n.toNat else 0
def shiftRight (a n : Word) : Word := if n.toNat < 32 then a >>> n.toNat else 0
def shiftArith (a n : Word) : Word := if n.toNat < 32 then a.sshiftRight n.toNat else if a.msb then 0xFFFFFFFF else 0
def rotateLeft (a n : Word) : Word := a.rotateLeft (n.toNat % 32)

def mulHigh (a b : Word) : Word := .ofInt 32 (a.toInt * b.toInt / 2 ^ 32)
def mulHighN (a b : Word) : Word := .ofNat 32 (a.toNat * b.toNat / 2 ^ 32)

def minI (a b : Word) : Word := if a.toInt ≤ b.toInt then a else b
def maxI (a b : Word) : Word := if b.toInt ≤ a.toInt then a else b
def minN (a b : Word) : Word := if a.toNat ≤ b.toNat then a else b
def maxN (a b : Word) : Word := if b.toNat ≤ a.toNat then a else b

def bool32 (p : Bool) : Word := if p then 1 else 0

/-- Leading zeros, 32 for 0, and the number of set bits (04 R97). -/
def leadingZeros (a : Word) : Word := .ofNat 32 (32 - (if a = 0 then 0 else a.toNat.log2 + 1))
def bitCount (n : Nat) (x : Nat) : Nat := ((upto n).filter fun i => x.testBit i).length
def popCount (a : Word) : Word := .ofNat 32 (bitCount 32 a.toNat)

/-- Bit j moved to bit 31 - j (04 R101). -/
def reverseBits (a : Word) : Word := (upto 32).foldl (fun x j => if a.getLsbD j then x ||| (1 <<< (31 - j)) else x) 0

/-- An exact value clamped to a range (00, notation). -/
def clampInt (e lo hi : Int) : Int := max lo (min hi e)
def satI (e : Int) : Word := .ofInt 32 (clampInt e (-2 ^ 31) (2 ^ 31 - 1))
def satN (e : Int) : Word := .ofInt 32 (clampInt e 0 (2 ^ 32 - 1))

/-! ### Scalar instructions (04 R97 to R100) -/

def execSadd (d a b : BitVec 7) (s : State) : Result := .next (scalar2 s d a b (· + ·))
def execSsub (d a b : BitVec 7) (s : State) : Result := .next (scalar2 s d a b (· - ·))
def execSmul (d a b : BitVec 7) (s : State) : Result := .next (scalar2 s d a b (· * ·))
def execSmulh (d a b : BitVec 7) (s : State) : Result := .next (scalar2 s d a b mulHigh)
def execSand (d a b : BitVec 7) (s : State) : Result := .next (scalar2 s d a b (· &&& ·))
def execSor (d a b : BitVec 7) (s : State) : Result := .next (scalar2 s d a b (· ||| ·))
def execSxor (d a b : BitVec 7) (s : State) : Result := .next (scalar2 s d a b (· ^^^ ·))
def execSandn (d a b : BitVec 7) (s : State) : Result := .next (scalar2 s d a b fun x y => x &&& ~~~y)
def execSshl (d a b : BitVec 7) (s : State) : Result := .next (scalar2 s d a b shiftLeft)
def execSshr (d a b : BitVec 7) (s : State) : Result := .next (scalar2 s d a b shiftRight)
def execSsra (d a b : BitVec 7) (s : State) : Result := .next (scalar2 s d a b shiftArith)
def execSrot (d a b : BitVec 7) (s : State) : Result := .next (scalar2 s d a b rotateLeft)
def execSshli (d a : BitVec 7) (b : BitVec 5) (s : State) : Result :=
  .next (scalar1 s d a fun x => shiftLeft x (b.setWidth 32))
def execSshri (d a : BitVec 7) (b : BitVec 5) (s : State) : Result :=
  .next (scalar1 s d a fun x => shiftRight x (b.setWidth 32))
def execSsrai (d a : BitVec 7) (b : BitVec 5) (s : State) : Result :=
  .next (scalar1 s d a fun x => shiftArith x (b.setWidth 32))
def execSroti (d a : BitVec 7) (b : BitVec 5) (s : State) : Result :=
  .next (scalar1 s d a fun x => rotateLeft x (b.setWidth 32))
def execSmin (d a b : BitVec 7) (s : State) : Result := .next (scalar2 s d a b minI)
def execSmax (d a b : BitVec 7) (s : State) : Result := .next (scalar2 s d a b maxI)
def execSminn (d a b : BitVec 7) (s : State) : Result := .next (scalar2 s d a b minN)
def execSmaxn (d a b : BitVec 7) (s : State) : Result := .next (scalar2 s d a b maxN)
def execSseq (d a b : BitVec 7) (s : State) : Result := .next (scalar2 s d a b fun x y => bool32 (x == y))
def execSslt (d a b : BitVec 7) (s : State) : Result := .next (scalar2 s d a b fun x y => bool32 (x.slt y))
def execSsltn (d a b : BitVec 7) (s : State) : Result := .next (scalar2 s d a b fun x y => bool32 (x.ult y))
def execSsne (d a b : BitVec 7) (s : State) : Result := .next (scalar2 s d a b fun x y => bool32 (x != y))
def execSmov (d a : BitVec 7) (s : State) : Result := .next (scalar1 s d a id)

/-- The destination is read as the condition (04 R99). -/
def execSsel (d a b : BitVec 7) (s : State) : Result :=
  .next (guarded s none [.s 0 a, .s 1 b, .s 3 d] fun s => setS s d (if S s d ≠ 0 then S s a else S s b))

def execSclz (d a : BitVec 7) (s : State) : Result := .next (scalar1 s d a leadingZeros)
def execSpopc (d a : BitVec 7) (s : State) : Result := .next (scalar1 s d a popCount)
def execSaddi (d a : BitVec 7) (i : BitVec 11) (s : State) : Result := .next (scalar1 s d a (· + imm32 s 11 i))

/-- S[d] := a constant. -/
def scalarConst (s : State) (d : BitVec 7) (x : Word) : State := guarded s none [.ds d] fun s => setS s d x

def execSli (d : BitVec 7) (i : BitVec 18) (s : State) : Result := .next (scalarConst s d (imm32 s 18 i))
def execSlui (d : BitVec 7) (i : BitVec 18) (s : State) : Result := .next (scalarConst s d (i.setWidth 32 <<< 14))

end Sys2Proof.Machine
end

