-- ==== Sys2Proof/Machine/Vector.lean ====
section
/-! DEFINITION. The vector integer instructions, compares, select, moves and lane access (04 R101 to R110). -/

namespace Sys2Proof.Machine

/-! ### Arithmetic (04 R101 to R104) -/

/-- x + y + bit 0 of the fourth operand, exactly (04 R102). -/
def addCarry (x y c : Word) : Nat := x.toNat + y.toNat + c.toNat % 2

def execVadd (w : BitVec 2) (d a b : BitVec 7) (s : State) : Result :=
  .next (elementwise s w d a { b := some b, c := true } fun x y c _ fx => (.ofNat 32 (addCarry x y c), fx))
def execVsub (w : BitVec 2) (d a b : BitVec 7) (s : State) : Result := .next (vector2 s w d a b (· - ·))
def execVmul (w : BitVec 2) (d a b : BitVec 7) (s : State) : Result := .next (vector2 s w d a b (· * ·))
def execVmulh (w : BitVec 2) (d a b : BitVec 7) (s : State) : Result := .next (vector2 s w d a b mulHigh)
def execVmulhn (w : BitVec 2) (d a b : BitVec 7) (s : State) : Result := .next (vector2 s w d a b mulHighN)
def execVaddc (w : BitVec 2) (d a b : BitVec 7) (s : State) : Result :=
  .next (elementwise s w d a { b := some b, c := true } fun x y c _ fx => (.ofNat 32 (addCarry x y c / 2 ^ 32), fx))

/-- The exact sum or difference saturated to i32, or to n32 when `pfx.xop` is 1 (04 R103). -/
def satBy (s : State) (f : Int → Int → Int) (x y : Word) : Word :=
  if (pfxOf s).xop = 0 then satI (f x.toInt y.toInt) else satN (f x.toNat y.toNat)

def execVsadd (w : BitVec 2) (d a b : BitVec 7) (s : State) : Result := .next (vector2 s w d a b (satBy s (· + ·)))
def execVssub (w : BitVec 2) (d a b : BitVec 7) (s : State) : Result := .next (vector2 s w d a b (satBy s (· - ·)))
def execVand (w : BitVec 2) (d a b : BitVec 7) (s : State) : Result := .next (vector2 s w d a b (· &&& ·))
def execVor (w : BitVec 2) (d a b : BitVec 7) (s : State) : Result := .next (vector2 s w d a b (· ||| ·))
def execVxor (w : BitVec 2) (d a b : BitVec 7) (s : State) : Result := .next (vector2 s w d a b (· ^^^ ·))
def execVandn (w : BitVec 2) (d a b : BitVec 7) (s : State) : Result := .next (vector2 s w d a b fun x y => x &&& ~~~y)
def execVshl (w : BitVec 2) (d a b : BitVec 7) (s : State) : Result := .next (vector2 s w d a b shiftLeft)
def execVshr (w : BitVec 2) (d a b : BitVec 7) (s : State) : Result := .next (vector2 s w d a b shiftRight)
def execVsra (w : BitVec 2) (d a b : BitVec 7) (s : State) : Result := .next (vector2 s w d a b shiftArith)
def execVrot (w : BitVec 2) (d a b : BitVec 7) (s : State) : Result := .next (vector2 s w d a b rotateLeft)
def execVshli (w : BitVec 2) (d a : BitVec 7) (b : BitVec 5) (s : State) : Result :=
  .next (vector1 s w d a fun x => shiftLeft x (b.setWidth 32))
def execVshri (w : BitVec 2) (d a : BitVec 7) (b : BitVec 5) (s : State) : Result :=
  .next (vector1 s w d a fun x => shiftRight x (b.setWidth 32))
def execVsrai (w : BitVec 2) (d a : BitVec 7) (b : BitVec 5) (s : State) : Result :=
  .next (vector1 s w d a fun x => shiftArith x (b.setWidth 32))
def execVroti (w : BitVec 2) (d a : BitVec 7) (b : BitVec 5) (s : State) : Result :=
  .next (vector1 s w d a fun x => rotateLeft x (b.setWidth 32))
def execVmin (w : BitVec 2) (d a b : BitVec 7) (s : State) : Result := .next (vector2 s w d a b minI)
def execVmax (w : BitVec 2) (d a b : BitVec 7) (s : State) : Result := .next (vector2 s w d a b maxI)
def execVminn (w : BitVec 2) (d a b : BitVec 7) (s : State) : Result := .next (vector2 s w d a b minN)
def execVmaxn (w : BitVec 2) (d a b : BitVec 7) (s : State) : Result := .next (vector2 s w d a b maxN)
def execVclz (w : BitVec 2) (d a : BitVec 7) (s : State) : Result := .next (vector1 s w d a leadingZeros)
def execVpopc (w : BitVec 2) (d a : BitVec 7) (s : State) : Result := .next (vector1 s w d a popCount)
def execVbrev (w : BitVec 2) (d a : BitVec 7) (s : State) : Result := .next (vector1 s w d a reverseBits)

/-- |i32 x|, saturated when `pfx.sat` is set (04 R101). -/
def absI (sat : Bool) (x : Word) : Word := if sat then satI x.toInt.natAbs else .ofNat 32 x.toInt.natAbs

def execVabs (w : BitVec 2) (d a : BitVec 7) (s : State) : Result := .next (vector1 s w d a (absI (pfxOf s).sat))

/-! ### Bit fields and bytes (04 R105, R106) -/

def fieldPos (y : Word) : Nat := y.toNat % 32
def fieldLen (y : Word) : Nat := min (y.toNat / 256 % 64) (32 - fieldPos y)

def fieldN (x y : Word) : Word := (x >>> fieldPos y) &&& .ofNat 32 (2 ^ fieldLen y - 1)
def fieldI (x y : Word) : Word := .ofInt 32 (BitVec.ofNat (fieldLen y) (fieldN x y).toNat).toInt
def fieldInsert (x y d : Word) : Word :=
  let m : Word := .ofNat 32 (2 ^ fieldLen y - 1)
  (d &&& ~~~(m <<< fieldPos y)) ||| ((x &&& m) <<< fieldPos y)

def byteOf (x : Nat) (j : Nat) : Nat := x / 256 ^ j % 256

/-- Byte j of the result, picked by selector byte j from the eight bytes c:x (04 R106). -/
def permuteBytes (x y c : Word) : Word :=
  let z := c.toNat * 2 ^ 32 + x.toNat
  .ofNat 32 (ofBytes ((upto 4).map fun j =>
    let q := byteOf y.toNat j
    if 128 ≤ q then 0 else .ofNat 8 (byteOf z (q % 8))))

def execVbfe (w : BitVec 2) (d a b : BitVec 7) (s : State) : Result := .next (vector2 s w d a b fieldI)
def execVbfen (w : BitVec 2) (d a b : BitVec 7) (s : State) : Result := .next (vector2 s w d a b fieldN)
def execVbfi (w : BitVec 2) (d a b : BitVec 7) (s : State) : Result :=
  .next (elementwise s w d a { b := some b, readD := true } fun x y _ dv fx => (fieldInsert x y dv, fx))
def execVprmb (w : BitVec 2) (d a b : BitVec 7) (s : State) : Result :=
  .next (elementwise s w d a { b := some b, c := true } fun x y c _ fx => (permuteBytes x y c, fx))

/-! ### Accumulating instructions (04 R104) -/

def i8At (x : Word) (j : Nat) : Int := (BitVec.ofNat 8 (byteOf x.toNat j)).toInt
def n8At (x : Word) (j : Nat) : Int := (byteOf x.toNat j : Nat)
def sum4 (f : Nat → Int) : Int := f 0 + f 1 + f 2 + f 3

/-- The exact accumulated value delivered modulo 2^32, or saturated. -/
def accumulate (s : State) (signed : Bool) (w : BitVec 2) (d a b : BitVec 7) (e : Word → Word → Int) : State :=
  elementwise s w d a { b := some b, readD := true } fun x y _ dv fx =>
    let v := (if signed then dv.toInt else (dv.toNat : Int)) + e x y
    (if (pfxOf s).sat then (if signed then satI v else satN v) else .ofInt 32 v, fx)

def execVmad (w : BitVec 2) (d a b : BitVec 7) (s : State) : Result :=
  .next (accumulate s true w d a b fun x y => x.toInt * y.toInt)
def execVdot4 (w : BitVec 2) (d a b : BitVec 7) (s : State) : Result :=
  .next (accumulate s true w d a b fun x y => sum4 fun j => i8At x j * i8At y j)
def execVdot4n (w : BitVec 2) (d a b : BitVec 7) (s : State) : Result :=
  .next (accumulate s false w d a b fun x y => sum4 fun j => n8At x j * n8At y j)
def execVsad (w : BitVec 2) (d a b : BitVec 7) (s : State) : Result :=
  .next (accumulate s false w d a b fun x y => sum4 fun j => ((n8At x j - n8At y j).natAbs : Nat))

/-! ### Immediates (04 R107) -/

def execVaddi (d a : BitVec 7) (i : BitVec 11) (s : State) : Result :=
  .next (elementwise s 0 d a { b := none, const := imm32 s 11 i } (pure2 (· + ·)))
def execVli (d : BitVec 7) (i : BitVec 18) (s : State) : Result :=
  .next (guarded s none [.dv d] fun s => vectorResult s d 1 fun _ _ fx => (imm32 s 18 i, fx))

/-! ### Compares and select (04 R108, R109) -/

def execVceq (d : BitVec 4) (a b : BitVec 7) (s : State) : Result := .next (compare2 s d a b (· == ·))
def execVclt (d : BitVec 4) (a b : BitVec 7) (s : State) : Result := .next (compare2 s d a b fun x y => x.slt y)
def execVcltn (d : BitVec 4) (a b : BitVec 7) (s : State) : Result := .next (compare2 s d a b fun x y => x.ult y)
def execVcne (d : BitVec 4) (a b : BitVec 7) (s : State) : Result := .next (compare2 s d a b (· != ·))

/-- Copies bits; both sources and the selecting mask are consumed (04 R109). With no active thread nothing is (04 R95). -/
def execVsel (k : BitVec 4) (d a b : BitVec 7) (s : State) : Result :=
  let m := act s
  .next (guarded s none [.v 0 a 1 m, .v 1 b 1 m, .dv d, .k 3 k (m != 0)] fun s =>
    let sel := s.pre.kget s.iss.entry k.toNat
    vectorResult s d 1 fun t _ fx => (if sel.getLsbD t then V s a 0 t else V s b 0 t, fx))

/-! ### Moves and lane access (04 R110) -/

def execVmov (w : BitVec 2) (d a : BitVec 7) (s : State) : Result := .next (vector1 s w d a id)

/-- With no active thread the scalar source is not consumed (04 R95). -/
def execVmovs (d a : BitVec 7) (s : State) : Result :=
  .next (guarded s none [{ Opd.s 0 a with thr := if act s = 0 then 0 else 1 }, .dv d] fun s =>
    vectorResult s d 1 fun _ _ fx => (S s a, fx))

/-- Reads one thread's element, active or not; with no active thread S[d] stays. -/
def execVrdl (d a b : BitVec 7) (s : State) : Result :=
  let j := (S s b).toNat % 64
  let some_ := act s != 0
  .next (guarded s none
    [.v 0 a 1 (if some_ then 1 <<< j else 0), { Opd.s 1 b with thr := if some_ then 1 else 0 }, .ds d] fun s =>
      if some_ then setS s d (if j < s.pre.width then V s a 0 j else 0) else s)

def execVwrl (d a b : BitVec 7) (s : State) : Result :=
  let some_ : Mask := if act s = 0 then 0 else 1
  .next (guarded s none [{ Opd.s 0 a with thr := some_ }, { Opd.s 1 b with thr := some_ }, .dv d] fun s =>
    let j := (S s b).toNat % 64
    let s' := if j < s.pre.width ∧ (act s).getLsbD j then { s with cur := s.cur.vset d.toNat j (S s a) } else s
    zeroElems s' d.toNat 1)

end Sys2Proof.Machine
end

