-- ==== Sys2Proof/Machine/VectorFloat.lean ====
section
/-! DEFINITION. The floating-point instructions, special functions and conversions (04 R111 to R119). -/

namespace Sys2Proof.Machine

/-- The value of an fp32 operand, its sign flipped when bit `i` of `pfx.neg` is set (04 R112). -/
def fval (x : Word) : FVal := fdecode fp32 x.toNat
def negBy (s : State) (i : Nat) (x : Word) : Word := if (pfxOf s).neg.getLsbD i then x ^^^ 0x80000000 else x

/-- A two-source operation with negation before it and the clamp after it. -/
def floatArith (s : State) (w : BitVec 2) (d a b : BitVec 7) (readD : Bool) (f : FVal → FVal → FVal → Fx → Nat × Fx) : State :=
  elementwise s w d a { b := some b, readD } fun x y _ dv fx =>
    asWord (pfxOf s).sat (f (fval (negBy s 2 x)) (fval (negBy s 1 y)) (fval dv) fx)

/-- Minus a value. -/
def FVal.neg : FVal → FVal
  | .nan s => .nan s
  | .inf n => .inf (!n)
  | .fin n m e => .fin (!n) m e

def execFadd (w : BitVec 2) (d a b : BitVec 7) (s : State) : Result :=
  .next (floatArith s w d a b false fun x y _ => faddV fp32 x y)
def execFsub (w : BitVec 2) (d a b : BitVec 7) (s : State) : Result :=
  .next (floatArith s w d a b false fun x y _ => faddV fp32 x y.neg)
def execFmul (w : BitVec 2) (d a b : BitVec 7) (s : State) : Result :=
  .next (floatArith s w d a b false fun x y _ => fmulV fp32 x y)
def execFmac (w : BitVec 2) (d a b : BitVec 7) (s : State) : Result :=
  .next (floatArith s w d a b true fun x y z => fmaV fp32 x y z)
def execFmin (w : BitVec 2) (d a b : BitVec 7) (s : State) : Result :=
  .next (elementwise s w d a { b := some b } fun x y _ _ fx => fminMax false x y fx)
def execFmax (w : BitVec 2) (d a b : BitVec 7) (s : State) : Result :=
  .next (elementwise s w d a { b := some b } fun x y _ _ fx => fminMax true x y fx)
def execFcpys (w : BitVec 2) (d a b : BitVec 7) (s : State) : Result :=
  .next (vector2 s w d a b fun x y => (x &&& 0x7FFFFFFF) ||| (y &&& 0x80000000))
def execFscal (w : BitVec 2) (d a b : BitVec 7) (s : State) : Result :=
  .next (elementwise s w d a { b := some b } fun x y _ _ fx => asWord (pfxOf s).sat (fscalV (fval x) y.toInt fx))

/-- A compare, with the flags it raises for the active threads (04 R114). -/
def floatCompare (s : State) (d : BitVec 4) (a b : BitVec 7) (r : FRel) : State :=
  let m := act s
  guarded s none [.v 0 a 1 m, .v 1 b 1 m] fun s =>
    let ts := threads s.pre.width m
    let fl := ts.foldl (fun (fl : Word) t => fl ||| (fcompare r (V s a 0 t) (V s b 0 t)).2) 0
    maskResult { s with iss := { s.iss with raised := s.iss.raised ||| fl } } d
      (maskOf ts fun t => (fcompare r (V s a 0 t) (V s b 0 t)).1)

def execFceq (d : BitVec 4) (a b : BitVec 7) (s : State) : Result := .next (floatCompare s d a b .eq)
def execFclt (d : BitVec 4) (a b : BitVec 7) (s : State) : Result := .next (floatCompare s d a b .lt)
def execFcle (d : BitVec 4) (a b : BitVec 7) (s : State) : Result := .next (floatCompare s d a b .le)
def execFcun (d : BitVec 4) (a b : BitVec 7) (s : State) : Result := .next (floatCompare s d a b .un)

/-! ### Special functions (04 R115 to R117) -/

def special (s : State) (w : BitVec 2) (d a : BitVec 7) (f : Word → Fx → Nat × Fx) : State :=
  elementwise s w d a { b := none } fun x _ _ _ fx => asWord (pfxOf s).sat (f x fx)

def execFrcp (w : BitVec 2) (d a : BitVec 7) (s : State) : Result := .next (special s w d a fun x => frcpV (fval x))
def execFrsq (w : BitVec 2) (d a : BitVec 7) (s : State) : Result := .next (special s w d a fun x => frsqV (fval x))
def execFsqrt (w : BitVec 2) (d a : BitVec 7) (s : State) : Result := .next (special s w d a fun x => fsqrtV (fval x))
def execFexp2 (w : BitVec 2) (d a : BitVec 7) (s : State) : Result := .next (special s w d a fexp2V)
def execFlog2 (w : BitVec 2) (d a : BitVec 7) (s : State) : Result := .next (special s w d a flog2V)
def execFsin (w : BitVec 2) (d a : BitVec 7) (s : State) : Result := .next (special s w d a fsinV)
def execFcos (w : BitVec 2) (d a : BitVec 7) (s : State) : Result := .next (special s w d a fcosV)
def execFtanh (w : BitVec 2) (d a : BitVec 7) (s : State) : Result := .next (special s w d a ftanhV)

/-! ### Conversions (04 R118, R119) -/

def execCvtf (w : BitVec 2) (d a : BitVec 7) (b : BitVec 1) (s : State) : Result :=
  .next (elementwise s w d a { b := none } fun x _ _ _ fx => asWord false (cvtfV (b == 0) x fx))
def execCvti (w : BitVec 2) (d a : BitVec 7) (b : BitVec 1) (s : State) : Result :=
  .next (elementwise s w d a { b := none } fun x _ _ _ fx => asWord false (cvtiV (b == 0) (fval x) fx))
def execFrnd (w : BitVec 2) (d a : BitVec 7) (s : State) : Result :=
  .next (elementwise s w d a { b := none } fun x _ _ _ fx => asWord false (frndV (fval x) fx))

/-- The eight conversions between fp32 and the 16-bit formats (04 R119); codes 6 and 7 keep the low half of V[d]. -/
def convert16 (code : Nat) (x d : Word) (fx : Fx) : Word × Fx :=
  let lo := x.toNat % 65536
  let hi := x.toNat / 65536
  match code with
  | 0 => asWord false (fconvV fp16 (fval x) fx)
  | 1 => asWord false (fconvV bf16 (fval x) fx)
  | 2 => asWord false (fconvV fp32 (fdecode fp16 lo) fx)
  | 3 => asWord false (fconvV fp32 (fdecode bf16 lo) fx)
  | 4 => asWord false (fconvV fp32 (fdecode fp16 hi) fx)
  | 5 => asWord false (fconvV fp32 (fdecode bf16 hi) fx)
  | n =>
    let (h, fx) := fconvV (if n = 6 then fp16 else bf16) (fval x) fx
    (.ofNat 32 (h * 65536 + d.toNat % 65536), fx)

def execCvtn (w : BitVec 2) (d a : BitVec 7) (b : BitVec 3) (s : State) : Result :=
  .next (elementwise s w d a { b := none, readD := 6 ≤ b.toNat } fun x _ _ dv fx => convert16 b.toNat x dv fx)

end Sys2Proof.Machine
end

