-- ==== Sys2Proof/Machine/Memory.lean ====
section
/-! DEFINITION. Loads, stores, atomics and cache control (06 R164 to R176, R184; 11 R262, R263). -/

namespace Sys2Proof.Machine

/-- The access size of the sub-word forms (06 R165). -/
def subSize (load : Bool) (w : Nat) : Nat := if load then (if w < 2 then 1 else 2) else (if w = 0 then 1 else 2)

/-- The offset in bytes: the field, or the 31-bit value with a LIM, times the access size (02 R57, 06 R166). -/
def memOffset (s : State) (o : BitVec 6) (size : Nat) : Int :=
  (match limOver s 6 o.toNat with
    | some x => (BitVec.ofNat 31 x).toInt
    | none => o.toInt) * size

/-- A 64-bit address and an offset, modulo 2^64 (06 R166). -/
def addrPlus (a : Dword) (o : Int) : Nat := (a + .ofInt 64 o).toNat

/-- The pair of a thread's vector registers. -/
def pairV (s : State) (r t : Nat) : Dword := s.pre.vget (r + 1) t ++ s.pre.vget r t

/-- The accesses of a vector memory instruction (06 R166); a uniform load is read once (R169), as the lowest active thread reads it where its address
lies in the lane-private window (DESIGN CHOICE, log entry 84). -/
def wantsV (s : State) (sp : Nat) (a : BitVec 7) (o : Int) (size : Nat) (once : Bool) : List Want :=
  let ts := threads s.pre.width (act s)
  if sp = 5 then (if once then ts.take 1 else ts).map fun thr => { thr, size, spot := .generic (addrPlus (pairS s a) o) }
  else ts.map fun thr =>
    { thr, size, spot := if sp = 0 then .generic (addrPlus (pairV s a.toNat thr) o) else .offset sp ((V s a 0 thr).toNat + o) }

/-- The one access of a uniform instruction. -/
def wantU (s : State) (sp : Nat) (a : BitVec 7) (o : Int) (size : Nat) : Want :=
  { thr := 0, size, spot := if sp = 5 then .generic (addrPlus (pairS s a) o) else .offset sp ((S s a).toNat + o) }

/-- The address operand: a vector pair, a scalar pair, or a register (02 R62). A vector form with no active thread consumes none (01 R33). -/
def addrOpd (s : State) (uniform : Bool) (sp : Nat) (a : BitVec 7) : Opd :=
  if sp = 5 then { Opd.s 0 a 2 with thr := if uniform || act s != 0 then 1 else 0 } else if uniform then .s 0 a else if sp = 0 then .v 0 a 2 (act s) else .v 0 a 1 (act s)

def loadMode (sp : Nat) : Mode := { need := .read, sp, acc := 0, flt := 0, door := true }
def storeMode (sp : Nat) : Mode := { need := .write, sp, acc := 1, flt := 1, door := true }
def atomicMode : Mode := { need := .write, acc := 2, flt := 2 }

/-- The paths c.ld and c.st (01 R22). -/
def cLd : Nat := 0
def cSt : Nat := 1

/-- The accesses of an `ld` that reach a queue's doorbell page: each active thread's part is one of its own, in any space (15 R333; log
entry 32). -/
def doorParts (s : State) : List (Want × Place) → List (Want × Place)
  | [(w, .door q off pte leafAt base bits)] =>
    (threads s.pre.width (act s)).map fun thr => ({ w with thr }, .door q off pte leafAt base bits)
  | ps => ps

def execLd (sp : BitVec 3) (w : BitVec 2) (d a : BitVec 7) (o : BitVec 6) (s : State) : Result :=
  .next (guarded s none [addrOpd s false sp.toNat a, .dv d] fun s => whenFree s (some cLd) fun s =>
    let size := 4 * 2 ^ w.toNat
    access s (loadMode sp.toNat) (wantsV s sp.toNat a (memOffset s o size) size true) fun s ps =>
      enterLoad s { kind := .load, instr := .ld sp w d a o, path := some cLd, accs := (doorParts s ps).map (accOf · []) })

def execLdsw (sp : BitVec 3) (w : BitVec 2) (d a : BitVec 7) (o : BitVec 6) (s : State) : Result :=
  .next (guarded s none [addrOpd s false sp.toNat a, .dv d] fun s => whenFree s (some cLd) fun s =>
    let size := subSize true w.toNat
    access s (loadMode sp.toNat) (wantsV s sp.toNat a (memOffset s o size) size true) fun s ps =>
      enterLoad s { kind := .load, instr := .ldsw sp w d a o, path := some cLd, accs := ps.map (accOf · []) })

def execLdu (sp : BitVec 3) (w : BitVec 2) (d a : BitVec 7) (o : BitVec 6) (s : State) : Result :=
  .next (guarded s none [addrOpd s true sp.toNat a, .ds d] fun s => whenFree s (some cLd) fun s =>
    let size := 4 * 2 ^ w.toNat
    access s (loadMode sp.toNat) [wantU s sp.toNat a (memOffset s o size) size] fun s ps =>
      enterLoad s { kind := .load, instr := .ldu sp w d a o, path := some cLd, accs := ps.map (accOf · []) })

/-- The accesses of a store that reach memory: a store to a doorbell page is ignored (17 R368). -/
def storeAccs (ps : List (Want × Place)) (data : Nat → List Byte) : List Acc :=
  (ps.filter fun p => match p.2 with
    | .door _ _ _ _ _ _ => false
    | _ => true).map fun p => accOf p (data p.1.thr)

def execSt (sp : BitVec 3) (w : BitVec 2) (d a : BitVec 7) (o : BitVec 6) (s : State) : Result :=
  let n := 2 ^ w.toNat
  .next (guarded s none [addrOpd s false sp.toNat a, .v 3 d n (act s)] fun s => whenFree s (some cSt) fun s =>
    access s (storeMode sp.toNat) (wantsV s sp.toNat a (memOffset s o (4 * n)) (4 * n) false) fun s ps =>
      enter s { kind := .store, instr := .st sp w d a o, path := some cSt,
                accs := storeAccs ps fun t => bytesOf ((upto n).map fun i => V s d i t) } id)

def execStsw (sp : BitVec 3) (w : BitVec 1) (d a : BitVec 7) (o : BitVec 6) (s : State) : Result :=
  let size := subSize false w.toNat
  .next (guarded s none [addrOpd s false sp.toNat a, .v 3 d 1 (act s)] fun s => whenFree s (some cSt) fun s =>
    access s (storeMode sp.toNat) (wantsV s sp.toNat a (memOffset s o size) size false) fun s ps =>
      enter s { kind := .store, instr := .stsw sp w d a o, path := some cSt,
                accs := storeAccs ps fun t => toBytes size (V s d 0 t).toNat } id)

def execStu (sp : BitVec 3) (w : BitVec 2) (d a : BitVec 7) (o : BitVec 6) (s : State) : Result :=
  let n := 2 ^ w.toNat
  .next (guarded s none [addrOpd s true sp.toNat a, .s 3 d n] fun s => whenFree s (some cSt) fun s =>
    access s (storeMode sp.toNat) [wantU s sp.toNat a (memOffset s o (4 * n)) (4 * n)] fun s ps =>
      enter s { kind := .store, instr := .stu sp w d a o, path := some cSt,
                accs := storeAccs ps fun _ => bytesOf ((upto n).map fun i => SN s d.toNat i) } id)

/-! ### Scoped operations -/

/-- The copy of a scope entry on a furrow's cluster; entry 0 is the issuing core (11 R264). -/
def scopeOf (s : State) (f : Furrow) (n : Nat) : Scope :=
  if n = 0 then { map := 1 <<< f.cluster, obs := 1 }
  else
    match tget (s.cluster f.cluster).scopes (8 * f.ctx + n) none with
    | some x => x
    | none => tget (s.ctx f.ctx).scopes n {}

/-- Whether the entry acts at device tier (11 R266). -/
def deviceTier (s : State) (f : Furrow) (n : Nat) : Bool :=
  let x := scopeOf s f n
  n != 0 && !(x.map == 1 <<< f.cluster && !x.obs.getLsbD 3 && !x.obs.getLsbD 4)

/-- An operation that records its scope entry and its generation (11 R271). -/
def withScope (s : State) (n : Nat) (o : Op) : Op :=
  { o with scope := n, device := deviceTier s s.cur n, gen := (scopeOf s s.cur n).gen, version := scopeOf s s.cur n }

/-! ### Atomics -/

/-- What an atomic leaves in the word: from the old value and the operands (06 R173). -/
def atomicNew (i : Instr) (m y0 y1 : Word) : Word :=
  match i with
  | .atadd _ _ _ _ => m + y0
  | .atand _ _ _ _ => m &&& y0
  | .ator _ _ _ _ => m ||| y0
  | .atxor _ _ _ _ => m ^^^ y0
  | .atmin _ _ _ _ => minI m y0
  | .atmax _ _ _ _ => maxI m y0
  | .atminn _ _ _ _ => minN m y0
  | .atmaxn _ _ _ _ => maxN m y0
  | .atexch _ _ _ _ => y0
  | .atcas _ _ _ _ => if m = y0 then y1 else m
  | .atfadd _ _ _ _ => .ofNat 32 (faddV fp32 (fval m) (fval y0) { rng := 1 }).1
  | .atincw _ _ _ _ => if y0.toNat ≤ m.toNat then 0 else m + 1
  | _ => m

/-- An atomic enters: address pair v(2a), operand V[b], for compare-and-swap the pair (06 R173 to R175). -/
def atomic (s : State) (i : Instr) (scope : BitVec 3) (d : BitVec 7) (a : BitVec 6) (b : BitVec 7) (two : Bool) : State :=
  let r : BitVec 7 := .ofNat 7 (2 * a.toNat)
  let m := act s
  guarded s none [.v 0 r 2 m, .v 1 b (if two then 2 else 1) m, .dv d] fun s => whenFree s (some cLd) fun s =>
    access s atomicMode ((threads s.pre.width m).map fun thr => { thr, size := 4, spot := .generic (pairV s r.toNat thr).toNat }) fun s ps =>
      enter s (withScope s scope.toNat
        { kind := .atomic, instr := i, path := some cLd, accs := ps.map (accOf · []),
          targs := (threads s.pre.width m).foldl (fun t thr =>
            tset (tset t (8 * thr) 0 (V s b 0 thr)) (8 * thr + 1) 0 (if two then V s b 1 thr else 0)) [] }) id

def execAtadd (sc : BitVec 3) (d : BitVec 7) (a : BitVec 6) (b : BitVec 7) (s : State) : Result := .next (atomic s (.atadd sc d a b) sc d a b false)
def execAtand (sc : BitVec 3) (d : BitVec 7) (a : BitVec 6) (b : BitVec 7) (s : State) : Result := .next (atomic s (.atand sc d a b) sc d a b false)
def execAtor (sc : BitVec 3) (d : BitVec 7) (a : BitVec 6) (b : BitVec 7) (s : State) : Result := .next (atomic s (.ator sc d a b) sc d a b false)
def execAtxor (sc : BitVec 3) (d : BitVec 7) (a : BitVec 6) (b : BitVec 7) (s : State) : Result := .next (atomic s (.atxor sc d a b) sc d a b false)
def execAtmin (sc : BitVec 3) (d : BitVec 7) (a : BitVec 6) (b : BitVec 7) (s : State) : Result := .next (atomic s (.atmin sc d a b) sc d a b false)
def execAtmax (sc : BitVec 3) (d : BitVec 7) (a : BitVec 6) (b : BitVec 7) (s : State) : Result := .next (atomic s (.atmax sc d a b) sc d a b false)
def execAtminn (sc : BitVec 3) (d : BitVec 7) (a : BitVec 6) (b : BitVec 7) (s : State) : Result := .next (atomic s (.atminn sc d a b) sc d a b false)
def execAtmaxn (sc : BitVec 3) (d : BitVec 7) (a : BitVec 6) (b : BitVec 7) (s : State) : Result := .next (atomic s (.atmaxn sc d a b) sc d a b false)
def execAtexch (sc : BitVec 3) (d : BitVec 7) (a : BitVec 6) (b : BitVec 7) (s : State) : Result := .next (atomic s (.atexch sc d a b) sc d a b false)
def execAtcas (sc : BitVec 3) (d : BitVec 7) (a : BitVec 6) (b : BitVec 7) (s : State) : Result := .next (atomic s (.atcas sc d a b) sc d a b true)
def execAtfadd (sc : BitVec 3) (d : BitVec 7) (a : BitVec 6) (b : BitVec 7) (s : State) : Result := .next (atomic s (.atfadd sc d a b) sc d a b false)
def execAtincw (sc : BitVec 3) (d : BitVec 7) (a : BitVec 6) (b : BitVec 7) (s : State) : Result := .next (atomic s (.atincw sc d a b) sc d a b false)

/-- The destination of an atomic. -/
def atomicDest : Instr → Nat
  | .atadd _ d _ _ | .atand _ d _ _ | .ator _ d _ _ | .atxor _ d _ _ | .atmin _ d _ _ | .atmax _ d _ _
  | .atminn _ d _ _ | .atmaxn _ d _ _ | .atexch _ d _ _ | .atcas _ d _ _ | .atfadd _ d _ _ | .atincw _ d _ _ => d.toNat
  | _ => 0

/-- One thread's operation of an atomic; a poisoned word is left alone, and logged when no reply is wanted (06 R174, R176). -/
def atomicWord (s : State) (f : Furrow) (o : Op) (a : Acc) : Acc × BitVec 48 × State :=
  let (bad, s) := atomicMark s a.loc (atomicDest o.instr != 0)
  if bad then ({ a with data := [0, 0, 0, 0], marks := [true], done := true }, 0, s)
  else
    let old : List Byte := match (s.line a.loc).owner, l1Find s f.gcore (lineOf a.loc) with
      | some _, some x => (x.data.drop (a.loc % 64)).take 4
      | _, _ => readBytes s.mem a.loc 4
    let m : Word := .ofNat 32 (ofBytes old)
    let x := atomicNew o.instr m (tget o.targs (8 * a.thr) 0) (tget o.targs (8 * a.thr + 1) 0)
    let (w, s) := performStore s f o.pts a.loc (toBytes 4 x.toNat)
    ({ a with data := old, marks := [false], done := true }, w, s)

/-- The given accesses of an atomic perform, in ascending thread order (06 R174). -/
def atomicAt (s : State) (o : Op) (ready : List Acc) : State :=
  let f := s.furrow o.furrow
  let (as, w, s) := o.accs.foldl (fun st a =>
    if ready.contains a then
      let (b, w, s) := atomicWord st.2.2 f o a
      (st.1 ++ [b], smax st.2.1 w, s)
    else (st.1 ++ [a], st.2.1, st.2.2)) (([] : List Acc), (0 : BitVec 48), s)
  s.modOp o.id fun o => { o with accs := as, wmax := smax o.wmax w, rmax := smax o.rmax w }

/-- A line goes to the L1 exclusively (11 R262); the other copies of the cluster are dropped, as a store drops them (R260). -/
def takeLine (s : State) (f : Furrow) (line : Nat) : State :=
  if (tget s.lines line {}).owner.isSome then s
  else
    let s := dropOthers s f line
    let l := s.line (64 * line)
    let x : L1Line := { line, data := readBytes s.mem (64 * line) 64, wts := l.wts, rts := l.rts, exclusive := true }
    let s := (putLine s f.gcore x).modCore f.gcore fun c =>
      { c with fills := c.fills.map fun y => if y.line = line then { y with dropped := true } else y,
               horizon := smax c.horizon (smax l.wts l.rts) }
    { s with lines := tset s.lines line {} { l with owner := some f.gcore } }

/-- An exclusive line reaches the L1, or stands there, and the atomic's operations in it perform (11 R262, R263). -/
def grantReady (s : State) (o : Op) (line : Nat) : Bool :=
  o.kind == .atomic && stamped (64 * line) && lineFree s (s.furrow o.furrow) line && !(readyAt s o line).isEmpty

def execExclusiveGrant (op line : Nat) (s : State) : Result :=
  match s.op op with
  | some o =>
    .next (if grantReady s o line then
        let ready := readyAt s o line
        atomicAt (takeLine s (s.furrow o.furrow) line) o ready
      else s)
  | none => .next s

/-- Accesses at the banks of the core and the cluster (06 R175). -/
def bankReady (s : State) (o : Op) : List Acc :=
  let older := olderOps s o
  o.accs.filter fun a => !a.done && !stamped a.loc && mayPerform older false a && bankFree s o a

def atomicDone (s : State) (o : Op) : Bool :=
  o.kind == .atomic && !o.done && o.accs.all fun a => a.done || (bankReady s o).contains a

/-- An atomic completes: what is left performs at the banks, and the replies are written (06 R174, R175). -/
def execAtomicComplete (op : Nat) (s : State) : Result :=
  match s.op op with
  | none => .next s
  | some o =>
    .next
      (if atomicDone s o then
        let s := atomicAt s o (bankReady s o)
        let o := (s.op op).getD o
        let s := takeStamps s o
        let d := atomicDest o.instr
        let s := if d = 0 then s else s.modFurrow o.furrow fun f => keepEarly o f (deliver f o false d 1 loadValue)
        finishOp (staleReport s o) o
      else s)

/-! ### Cache control (06 R184) -/

/-- The hints of a `pref` whose translation is there: each marks its leaf as used (11 R278). -/
def hints (s : State) (a : BitVec 7) : List (Want × Place) :=
  ((threads s.pre.width (act s)).map fun thr =>
    let w : Want := { thr, size := 1, spot := .generic (pairV s a.toNat thr).toNat }
    (w, spotPlace s (loadMode 0) w)).filter fun p => match p.2 with
      | .loc _ _ _ _ _ => true
      | _ => false

/-- Hints that lines will be read: an entry of the transaction table each (06 R185), and no trap (R184). -/
def execPref (a : BitVec 7) (l : BitVec 1) (s : State) : Result :=
  .next (guarded s none [.v 0 a 2 (act s)] fun s =>
    let ps := hints s a
    whenTable s (ps.map (accOf · [])) fun s =>
      issueOp (ps.foldl (fun s p => usePlace s (agentOf s s.pre) .read p.2) s)
        { kind := .prefetch, instr := .pref a l, accs := ps.map (accOf · []) })

/-- One hinted line: a free value decides whether a copy goes to the L1, if the hint asks for that and the line may stand there. -/
def takeHint (s : State) (f : Furrow) (pts : BitVec 48) (l1 : Bool) (a : Acc) : State :=
  let line := lineOf a.loc
  let (n, s) := s.draw
  if l1 && a.l1 && !f.stream && n % 2 == 0 && (tget s.lines line {}).owner.isNone && (l1Find s f.gcore line).isNone
      && !(s.core f.gcore).fills.any (·.line == line) then
    let (x, s) := stampRead s a.loc pts
    let s := dropOlder s (some f.cluster) line x.wts
    (putLine s f.gcore { line, data := readBytes s.mem (64 * line) 64, wts := x.wts, rts := x.rts }).modCore f.gcore fun c =>
      { c with horizon := smax c.horizon (smax x.wts x.rts) }
  else s

/-- The hints of a `pref` are over. -/
def finishPrefetch (s : State) (o : Op) : State :=
  let l1 := match o.instr with
    | .pref _ l => l == 0
    | _ => false
  finishOp (o.accs.foldl (fun s a => takeHint s (s.furrow o.furrow) o.pts l1 a) s) o

def cacheMode : Mode := { need := .read, acc := 4, flt := 6 }

/-- Writes the line back to its memory; it completes when GDDR7 holds it, which `finishWriteback` notes (06 R184). -/
def execWbl (a : BitVec 7) (s : State) : Result :=
  .next (guarded s none [.s 0 a 2] fun s => whenFree s (some cSt) fun s =>
    access s cacheMode [{ thr := 0, size := 1, spot := .generic (pairS s a).toNat }] fun s ps =>
      enter s { kind := .writeback, instr := .wbl a, path := some cSt, accs := ps.map (accOf · []) } id)

/-- A line leaves a core's L1; an exclusive one goes home (06 R184, 11 R262). -/
def dropLine (s : State) (core line : Nat) : State :=
  let s := if (tget s.lines line {}).owner = some core then recallLine s line else s
  s.modCore core fun c =>
    { c with l1 := c.l1.filter fun x => x.line != line,
             fills := c.fills.map fun x => if x.line = line then { x with dropped := true } else x }

def execInvl (a : BitVec 7) (s : State) : Result :=
  .next (guarded s none [.s 0 a 2] fun s =>
    access s cacheMode [{ thr := 0, size := 1, spot := .generic (pairS s a).toNat }] fun s ps =>
      match ps with
      | (_, .loc k _ _ _ _) :: _ => if s.pre.stream then s else dropLine s s.pre.gcore (lineOf k)
      | _ => s)

def execInvlAll (s : State) : Result :=
  .next (guarded s none [] fun s =>
    let s := (s.core s.pre.gcore).l1.foldl (fun s x => dropLine s s.pre.gcore x.line) s
    s.modCore s.pre.gcore fun c => { c with fills := c.fills.map fun x => { x with dropped := true } })

/-- A `wbl` completes at the home once older stores to its line have performed (06 R184). -/
def writebackDone (s : State) (o : Op) : Bool :=
  o.kind == .writeback && !o.done && (o.accs.all fun a => mayPerform (olderOps s o) false { a with loc := a.loc / 64 * 64, size := 64 })

/-- A line of device memory is written back: GDDR7 holds its bytes as they are (06 R184, 17 R374). -/
def backLine (s : State) (line : Nat) : State :=
  if 64 * line < devLimit then { s with backed := tset s.backed line 0 (BitVec.allOnes 64) } else s

def finishWriteback (s : State) (o : Op) : State :=
  finishOp (o.accs.foldl (fun s a => backLine (recallLine s (lineOf a.loc)) (lineOf a.loc)) s) o

end Sys2Proof.Machine
end

