-- ==== Sys2Proof/Machine/Registers.lean ====
section
/-! DEFINITION. The registers that an instruction reads and writes, by which the groups of one furrow's entries wait for each other (02 R42, R47). -/

namespace Sys2Proof.Machine

/-- Spans of the vector, scalar, mask and special registers. -/
def spanV (r : BitVec 7) (n : Nat := 1) : Span := { file := 0, base := r.toNat, count := n }
def spanS (r : BitVec 7) (n : Nat := 1) : Span := { file := 1, base := r.toNat, count := n }
def spanK (r : BitVec 4) : Span := { file := 2, base := r.toNat }
def spanX (n : Nat) : Span := { file := 3, base := n }

/-- The registers of an address operand (06 R166). -/
def spanA (uniform : Bool) (sp : BitVec 3) (a : BitVec 7) : Span :=
  if sp = 5 then spanS a 2 else if uniform then spanS a else if sp = 0 then spanV a 2 else spanV a

/-- The registers that an instruction writes, be it when it issues or when its operation completes. -/
def regWrites : Instr → List Span
  | .rdsr d n => if n.toNat < 2 then [spanV d] else if n = 19 then [spanS d, spanX 20] else [spanS d]
  | .wrsr _ n => [spanX n.toNat]
  | .rdcnt d _ | .sysc d _ _ | .spawn d _ _ | .call d _ | .loop d _ | .callr d _ | .saddi d _ _ | .sli d _ | .slui d _ => [spanS d]
  | .sadd d _ _ | .ssub d _ _ | .smul d _ _ | .smulh d _ _ | .sand d _ _ | .sor d _ _ | .sxor d _ _ | .sandn d _ _ | .sshl d _ _
  | .sshr d _ _ | .ssra d _ _ | .srot d _ _ | .sshli d _ _ | .sshri d _ _ | .ssrai d _ _ | .sroti d _ _ | .smin d _ _ | .smax d _ _
  | .sminn d _ _ | .smaxn d _ _ | .sseq d _ _ | .sslt d _ _ | .ssltn d _ _ | .ssne d _ _ | .smov d _ | .ssel d _ _ | .sclz d _
  | .spopc d _ => [spanS d]
  | .vadd w d _ _ | .vsub w d _ _ | .vmul w d _ _ | .vmulh w d _ _ | .vmulhn w d _ _ | .vaddc w d _ _ | .vsadd w d _ _ | .vssub w d _ _
  | .vand w d _ _ | .vor w d _ _ | .vxor w d _ _ | .vandn w d _ _ | .vshl w d _ _ | .vshr w d _ _ | .vsra w d _ _ | .vrot w d _ _
  | .vshli w d _ _ | .vshri w d _ _ | .vsrai w d _ _ | .vroti w d _ _ | .vmin w d _ _ | .vmax w d _ _ | .vminn w d _ _ | .vmaxn w d _ _
  | .vclz w d _ | .vpopc w d _ | .vbrev w d _ | .vabs w d _ | .vbfe w d _ _ | .vbfen w d _ _ | .vbfi w d _ _ | .vprmb w d _ _
  | .vmad w d _ _ | .vdot4 w d _ _ | .vdot4n w d _ _ | .vsad w d _ _ | .vmov w d _ => [spanV d (2 ^ w.toNat)]
  | .fadd w d _ _ | .fsub w d _ _ | .fmul w d _ _ | .fmac w d _ _ | .fmin w d _ _ | .fmax w d _ _ | .fcpys w d _ _ | .fscal w d _ _
  | .frcp w d _ | .frsq w d _ | .fsqrt w d _ | .fexp2 w d _ | .flog2 w d _ | .fsin w d _ | .fcos w d _ | .ftanh w d _ | .cvtf w d _ _
  | .cvti w d _ _ | .frnd w d _ | .cvtn w d _ _ | .shfli w d _ _ | .shflu w d _ _ | .shfld w d _ _ | .shflx w d _ _ =>
    [spanV d (2 ^ w.toNat)]
  | .vaddi d _ _ | .vli d _ | .vsel _ d _ _ | .vmovs d _ | .vwrl d _ _ | .qpack d _ _ | .qscal d _ _ | .qretag d _ _ | .redor d _ => [spanV d]
  | .redadd _ d _ | .redmin _ d _ | .redmax _ d _ | .scanadd _ d _ | .scanmin _ d _ | .scanmax _ d _ | .scanaddx _ d _ => [spanV d]
  | .vrdl d _ _ | .kpopc d _ | .kffs d _ => [spanS d]
  | .ktos d _ => [spanS d 2]
  | .vceq d _ _ | .vclt d _ _ | .vcltn d _ _ | .vcne d _ _ | .fceq d _ _ | .fclt d _ _ | .fcle d _ _ | .fcun d _ _ | .kand d _ _
  | .kor d _ _ | .kxor d _ _ | .kandn d _ _ | .kfrs d _ => [spanK d]
  | .qunpk d _ | .kdec d _ _ => [spanV d 4]
  | .kenc d _ _ | .kpar d _ _ | .kchd d _ _ => [spanV d 2]
  | .mred k d _ _ | .mredf k d _ _ | .mredm k d _ _ => [spanK k, spanV d]
  | .ld _ w d _ _ => [spanV d (2 ^ w.toNat)]
  | .ldsw _ _ d _ _ | .lda d _ _ | .rld d _ _ _ | .ratom d _ _ _ => [spanV d]
  | .ldu _ w d _ _ => [spanS d (2 ^ w.toNat)]
  | .atadd _ d _ _ | .atand _ d _ _ | .ator _ d _ _ | .atxor _ d _ _ | .atmin _ d _ _ | .atmax _ d _ _ | .atminn _ d _ _ | .atmaxn _ d _ _
  | .atexch _ d _ _ | .atcas _ d _ _ | .atfadd _ d _ _ | .atincw _ d _ _ => [spanV d]
  | .bara d _ _ | .barq d _ _ | .scopeset d _ _ | .msg d _ | .mpost d _ | .mprobe d _ | .emit d _ | .kref d _ | .kmrg d _ | .kbal d _
  | .kacre d _ | .rst d _ _ _ | .xsend d _ _ _ | .rred d _ _ _ | .mest d _ => [spanS d]
  | .klook d _ | .knbr d _ | .kpin d _ | .trd d _ _ => [spanV d 8]
  | .kunpin d _ | .kcost d _ => [spanV d 2]
  | .kiter d _ | .kcut d _ _ => [spanS d 8]
  | .rpath d _ | .xpoll d _ => [spanS d 4]
  | _ => []

/-- The registers that an instruction reads. -/
def regReads : Instr → List Span
  | .rdsr _ n => if n = 21 then [spanX 21, { file := 4, base := 0 }] else [spanX n.toNat]
  | .wrsr a n => if n = 21 then [spanS a, { file := 4, base := 0 }] else [spanS a]
  | .sysc _ a _ => [spanS a 4]
  | .halt a | .jmp a | .waitp a _ => [spanS a]
  | .spawn _ a _ => [spanS a, { file := 1, base := 1, count := 4 }]
  | .br _ r _ | .loop r _ => [spanS r]
  | .brk _ k _ => [spanK k]
  | .sadd _ a b | .ssub _ a b | .smul _ a b | .smulh _ a b | .sand _ a b | .sor _ a b | .sxor _ a b | .sandn _ a b | .sshl _ a b
  | .sshr _ a b | .ssra _ a b | .srot _ a b | .smin _ a b | .smax _ a b | .sminn _ a b | .smaxn _ a b | .sseq _ a b | .sslt _ a b
  | .ssltn _ a b | .ssne _ a b => [spanS a, spanS b]
  | .ssel d a b => [spanS a, spanS b, spanS d]
  | .sshli _ a _ | .sshri _ a _ | .ssrai _ a _ | .sroti _ a _ | .saddi _ a _ => [spanS a]
  | .smov _ a | .sclz _ a | .spopc _ a | .callr _ a => [spanS a]
  | .vadd w _ a b | .vsub w _ a b | .vmul w _ a b | .vmulh w _ a b | .vmulhn w _ a b | .vaddc w _ a b | .vsadd w _ a b | .vssub w _ a b
  | .vand w _ a b | .vor w _ a b | .vxor w _ a b | .vandn w _ a b | .vshl w _ a b | .vshr w _ a b | .vsra w _ a b | .vrot w _ a b
  | .vmin w _ a b | .vmax w _ a b | .vminn w _ a b | .vmaxn w _ a b | .vbfe w _ a b | .vbfen w _ a b | .vprmb w _ a b
  | .fadd w _ a b | .fsub w _ a b | .fmul w _ a b | .fmin w _ a b | .fmax w _ a b | .fcpys w _ a b | .fscal w _ a b =>
    [spanV a (2 ^ w.toNat), spanV b (2 ^ w.toNat)]
  | .vbfi w d a b | .vmad w d a b | .vdot4 w d a b | .vdot4n w d a b | .vsad w d a b | .fmac w d a b =>
    [spanV a (2 ^ w.toNat), spanV b (2 ^ w.toNat), spanV d (2 ^ w.toNat)]
  | .cvtn w d a _ => [spanV a (2 ^ w.toNat), spanV d (2 ^ w.toNat)]
  | .vshli w _ a _ | .vshri w _ a _ | .vsrai w _ a _ | .vroti w _ a _ | .cvtf w _ a _ | .cvti w _ a _ => [spanV a (2 ^ w.toNat)]
  | .vclz w _ a | .vpopc w _ a | .vbrev w _ a | .vabs w _ a | .vmov w _ a | .frcp w _ a | .frsq w _ a | .fsqrt w _ a | .fexp2 w _ a
  | .flog2 w _ a | .fsin w _ a | .fcos w _ a | .ftanh w _ a | .frnd w _ a => [spanV a (2 ^ w.toNat)]
  | .shfli w _ a b => [spanV a (2 ^ w.toNat), spanV b]
  | .shflu w _ a _ | .shfld w _ a _ | .shflx w _ a _ => [spanV a (2 ^ w.toNat)]
  | .vaddi _ a _ | .qunpk _ a | .qretag _ a _ | .redor _ a => [spanV a]
  | .redadd _ _ a | .redmin _ _ a | .redmax _ _ a | .scanadd _ _ a | .scanmin _ _ a | .scanmax _ _ a | .scanaddx _ _ a => [spanV a]
  | .vceq _ a b | .vclt _ a b | .vcltn _ a b | .vcne _ a b | .fceq _ a b | .fclt _ a b | .fcle _ a b | .fcun _ a b | .qscal _ a b =>
    [spanV a, spanV b]
  | .vsel k _ a b => [spanV a, spanV b, spanK k]
  | .vmovs _ a => [spanS a]
  | .vrdl _ a b => [spanV a, spanS b]
  | .vwrl _ a b => [spanS a, spanS b]
  | .qpack _ a _ => [spanV a 4]
  | .kand _ a b | .kor _ a b | .kxor _ a b | .kandn _ a b => [spanK a, spanK b]
  | .kpopc _ a | .kffs _ a | .ktos _ a => [spanK a]
  | .kfrs _ a => [spanS a 2]
  | .mred _ _ a b | .mredf _ _ a b | .mredm _ _ a b => [spanV a, spanV b]
  | .kenc _ a b => [spanV a 4, spanV b]
  | .kdec _ a b | .kpar _ a b | .kchd _ a b => [spanV a 2, spanV b]
  | .ld sp _ _ a _ | .ldsw sp _ _ a _ => [spanA false sp a]
  | .st sp w d a _ => [spanA false sp a, spanV d (2 ^ w.toNat)]
  | .stsw sp _ d a _ => [spanA false sp a, spanV d]
  | .ldu sp _ _ a _ => [spanA true sp a]
  | .stu sp w d a _ => [spanA true sp a, spanS d (2 ^ w.toNat)]
  | .atadd _ _ a b | .atand _ _ a b | .ator _ _ a b | .atxor _ _ a b | .atmin _ _ a b | .atmax _ _ a b | .atminn _ _ a b | .atmaxn _ _ a b
  | .atexch _ _ a b | .atfadd _ _ a b | .atincw _ _ a b => [{ file := 0, base := 2 * a.toNat, count := 2 }, spanV b]
  | .atcas _ _ a b => [{ file := 0, base := 2 * a.toNat, count := 2 }, spanV b 2]
  | .lda _ a _ => [spanV a 2]
  | .stl d a _ => [spanV a 2, spanV d]
  | .barw a _ | .bara _ a _ | .barq _ a _ | .scopeset _ a _ | .scoperd a _ | .wbl a | .invl a => [spanS a 2]
  | .bari d a _ | .waitw d a _ _ => [spanS a 2, spanS d]
  | .pref a _ => [spanV a 2]
  | .cpy a => [spanS a 8]
  | .cpym d a => [spanS a 8, spanS d 4]
  | .msg d a => [spanS a 8, spanS d 2]
  | .mpost d a | .mprobe d a => [spanS a 4, spanS d]
  | .emit d a => [spanS a 8, spanS d]
  | .klook _ a | .knbr _ a | .kpin _ a | .kunpin _ a | .kcost _ a | .ratom _ a _ _ => [spanV a 4]
  | .kref _ a | .kmrg _ a | .kbal _ a | .kiter _ a => [spanS a 4]
  | .kcut _ a _ => [spanS a 2]
  | .kacre d a => [spanS a 2, spanS d]
  | .rld _ a _ _ => [spanV a 2]
  | .rst _ a _ _ | .xsend _ a _ _ | .rred _ a _ _ => [spanS a 8]
  | .xpoll _ a | .rpath _ a | .mlda _ a | .mst _ a => [spanS a]
  | .mma _ _ _ _ _ b => [spanS b]
  | .twr d _ _ => [spanV d 8]
  | _ => []

/-- Whether an instruction may raise sticky flags (03 R69, 04 R94): those that round, and those that only compare, look up or convert. -/
def raisesFlags (m : Member) : Bool :=
  ((pfxAccept m.word).map (·.rm)).getD false ||
    (match m.instr with
      | .fexp2 _ _ _ | .flog2 _ _ _ | .fsin _ _ _ | .fcos _ _ _ | .ftanh _ _ _
      | .fmin _ _ _ _ | .fmax _ _ _ _ | .fceq _ _ _ | .fclt _ _ _ | .fcle _ _ _ | .fcun _ _ _ | .qunpk _ _ | .redmin _ _ _ | .redmax _ _ _
      | .scanmin _ _ _ | .scanmax _ _ _ | .cvti _ _ _ _ | .frnd _ _ _ => true
      | _ => false)

/-- The registers that a member's prefix names (02 R53), with `status` for a dynamic rounding mode and `rng` for a stochastic one (02 R42). -/
def pfxReads (m : Member) : List Span :=
  match m.pfx with
  | some (.pfx k r _ f _ _ _ _) => spanK k :: spanV f :: (if r = 6 then [spanX 21, spanX 28] else if r = 5 then [spanX 28] else [])
  | _ => []

/-- What a member that issues must find written (02 R47). -/
def touches (m : Member) : List Span :=
  regReads m.instr ++ regWrites m.instr ++ pfxReads m ++ (if raisesFlags m then [spanX 21] else [])

/-- What a member that takes effect later keeps from the groups after it: a register that an operation with a counter writes is not interlocked. -/
def locksOf (m : Member) : List Span :=
  match m.instr with
  | .trd _ _ _ => []
  | i => regWrites i ++ (match m.pfx with
      | some (.pfx _ r _ _ _ _ _ _) => if r = 5 ∨ r = 6 then [spanX 28] else []
      | _ => [])

/-- Register 0 of the vector, scalar and mask files holds no value of its own. -/
def Span.meets (a b : Span) : Bool :=
  a.file == b.file && decide (a.base < b.base + b.count) && decide (b.base < a.base + a.count)
    && (decide (3 ≤ a.file) || (a.base != 0 && b.base != 0))

end Sys2Proof.Machine
end

