-- ==== Sys2Proof/Machine/Sync.lean ====
section
/-! DEFINITION. Fences, `lda`, `stl`, barriers, `waitw`, the scope table and the reads at homes (06 R179 to R183; 11 R264 to R272;
08 R228). -/

namespace Sys2Proof.Machine

/-! ### Counter waits (06 R177, R178) -/

/-- Waits for the counters named (06 R177). -/
def execWaitc (l t p m : BitVec 6) (s : State) : Result :=
  let limits := [l.toNat, t.toNat, p.toNat, m.toNat, 63, 63]
  .next (poisonGate s m.toNat fun s => parkEntry s (.counters limits))

/-- Waits for one counter to stand at or below n32(S[a]) (06 R178). -/
def execWaitp (a : BitVec 7) (p : BitVec 5) (s : State) : Result :=
  .next (guarded s none [.s 0 a] fun s => poisonGate s (if p = 3 then (S s a).toNat else 63) fun s =>
    parkEntry s (.counters ((upto 6).map fun i => if i = p.toNat then (S s a).toNat else 63)))

/-! ### Traps of operations in flight -/

/-- What an entry waits for names an operation. -/
def Wait.names (op : Nat) : Wait → Bool
  | .operation x => x == op
  | .parked x _ _ => x == op
  | .word x _ => x == op
  | _ => false

/-- The entry that waits for an operation; entries may have fused since it issued (05 R142). -/
def waiterOf (f : Furrow) (op : Nat) : Option Nat := (f.entries.find? fun e => e.waits.any (Wait.names op)).map (·.id)

/-- The entry waits for something else instead. -/
def rewait (f : Furrow) (op : Nat) (w : Wait) : Furrow :=
  { f with entries := f.entries.map fun e => { e with waits := e.waits.map fun x => if Wait.names op x then w else x } }

/-- The key of a held group. -/
def heldKey (furrow entry : Nat) : Nat := 128 * furrow + entry

/-- A table `t` with what changed from `a` to `b`. -/
def tredo {α : Type} [DecidableEq α] (d : α) (a b t : NMap α) : NMap α :=
  ((a ++ b).map (·.1)).foldl (fun t k => if tget a k d = tget b k d then t else tset t k d (tget b k d)) t

/-- A value with what changed from `a` to `b`. -/
def redone {α : Type} [DecidableEq α] (a b x : α) : α := if a = b then x else b

/-- A furrow with the registers of another (01 R13 to R18, R25). -/
def Furrow.registersOf (f g : Furrow) : Furrow :=
  { f with
    v := g.v, s := g.s, k := g.k, vMark := g.vMark, sMark := g.sMark, kMark := g.kMark, status := g.status, rng := g.rng, cyclh := g.cyclh,
    epc := g.epc, cause := g.cause, info := g.info, tvec := g.tvec }

/-- The scalar registers of some spans as a table `b` has them. -/
def takeSpans {α : Type} [DecidableEq α] (d : α) (locks : List Span) (b t : NMap α) : NMap α :=
  (locks.filter (·.file == 1)).foldl (fun t l => (upto l.count).foldl (fun t i => tset t (l.base + i) d (tget b (l.base + i) d)) t) t

/-- The reply of a `sysc` whose register a member above it writes goes nowhere (02 R43). -/
def Wait.covered (locks : List Span) : Wait → Wait
  | .service r => if locks.any (spanS r).meets then .service 0 else .service r
  | w => w

/-- The registers of a furrow with the effect of the members above an operation, which led from `a` to `b` and wrote `locks` (02 R44). The bits of
`status` change one by one, since other groups may raise sticky flags meanwhile; a reply that has come is overwritten (R43). -/
def redoAbove (locks : List Span) (a b f : Furrow) : Furrow :=
  { f with
    entries := f.entries.map fun e => { e with waits := e.waits.map (Wait.covered locks) },
    v := tredo 0 a.v b.v f.v, s := takeSpans 0 locks b.s (tredo 0 a.s b.s f.s), k := tredo 0 a.k b.k f.k,
    vMark := tredo .clean a.vMark b.vMark f.vMark, sMark := takeSpans .clean locks b.sMark (tredo .clean a.sMark b.sMark f.sMark),
    kMark := tredo .clean a.kMark b.kMark f.kMark,
    status := (f.status &&& ~~~(a.status ^^^ b.status)) ||| (b.status &&& (a.status ^^^ b.status)),
    rng := redone a.rng b.rng f.rng, cyclh := redone a.cyclh b.cyclh f.cyclh,
    epc := redone a.epc b.epc f.epc, cause := redone a.cause b.cause f.cause, info := redone a.info b.info f.info,
    tvec := redone a.tvec b.tvec f.tvec }

/-- An operation has completed without a trap: the members above it take effect (02 R42, R44; log entry 65). -/
def redoMembers (s : State) (o : Op) : State :=
  match o.above with
  | some (a, b) => s.modFurrow o.furrow (redoAbove o.locks a b)
  | none => s

/-- An operation leaves that its entry waits for, and the members above it take no effect (02 R44); the furrow stands in `cur`. -/
def dropOp (s : State) (o : Op) (id : Nat) : State :=
  let f := s.furrow o.furrow
  { s with
    ops := s.ops.filter fun x => x.id != o.id, held := terase s.held (heldKey o.furrow id),
    cur := { f with entries := f.entries.map fun e => { e with waits := e.waits.filter fun w => !Wait.names o.id w } } }

/-- A trap taken at an operation that its entry waits for (11 R271, 06 R181); in runtime mode it is a plot fault (05 R147). What sibling entries have
done meanwhile stands (DESIGN CHOICE, log entry 65). -/
def trapAtOp (s : State) (o : Op) (cause : BitVec 6) (info : Word) : State :=
  match waiterOf (s.furrow o.furrow) o.id with
  | none => s
  | some id =>
    let s := takeTrapAt (dropOp s o id) id o.pkt o.slot cause info
    keepFurrow s o.furrow s.cur

/-! ### Fences (11 R267) -/

/-- Which parts a fence has: release, acquire, horizon. -/
structure Parts where
  rel : Bool := false
  acq : Bool := false
  horizon : Bool := false

def fenceParts : Instr → Parts
  | .fenceAcq _ => { acq := true }
  | .fenceRel _ => { rel := true }
  | .fenceAr _ => { rel := true, acq := true }
  | .fenceSc _ => { rel := true, acq := true, horizon := true }
  | .rfence _ => { rel := true }
  | _ => { acq := true }

/-- An acquire part holds engine commands at issue (12 R296). -/
def Op.hasAcquire (o : Op) : Bool := o.kind != .fence || (fenceParts o.instr).acq

/-- Engine commands of an observer class wait at issue for an acquire part, and for a fence whose version names their class (12 R284, R288,
R296): 0 key units, 1 copy engines, 2 matrix engines, 3 remote operations. -/
def engineHeld (s : State) (cls : Nat) : Bool :=
  (pending s s.iss.furrow).any fun o => o.holdsMemory && (o.hasAcquire || o.version.obs.getLsbD cls)

/-- Tile transfers wait for a fence or an acquire whose version names the matrix engines (12 R284, R288). -/
def tileHeld (s : State) : Bool := (pending s s.iss.furrow).any fun o => o.holdsMemory && o.version.obs.getLsbD 2

/-- The stamps after the parts are done at device tier. -/
def fenceStamps (s : State) (p : Parts) (f : Furrow) : Furrow :=
  let f := if p.rel then { f with pts := smax f.pts (f.maxw + 1) } else f
  let f := if p.acq then { f with pts := smax f.pts f.seen } else f
  if p.horizon && !f.stream then { f with pts := smax f.pts (s.core f.gcore).horizon } else f

/-- A fence completes at once when nothing older is in flight, `more` with it; else the entry and the members above it wait. -/
def fenceAfter (s : State) (i : Instr) (sc : BitVec 3) (more : List Nat) : State :=
  let p := fenceParts i
  let k := s.iss.furrow
  let after := (if p.rel then releaseSet s k else []) ++ (if p.acq then acquireSet s k else []) ++ more
  if after = [] then
    if deviceTier s s.cur sc.toNat then { s with cur := fenceStamps s p s.cur } else s
  else
    let id := nextOp s
    let s := issueOp s (withScope s sc.toNat
      { kind := .fence, instr := i, after })
    parkEntry { s with iss := { s.iss with hold := true } } (.operation id)

def fence (s : State) (i : Instr) (sc : BitVec 3) : State := guarded s none [] fun s => fenceAfter s i sc []

def execFenceAcq (sc : BitVec 3) (s : State) : Result := .next (fence s (.fenceAcq sc) sc)
def execFenceRel (sc : BitVec 3) (s : State) : Result := .next (fence s (.fenceRel sc) sc)
def execFenceAr (sc : BitVec 3) (s : State) : Result := .next (fence s (.fenceAr sc) sc)
def execFenceSc (sc : BitVec 3) (s : State) : Result := .next (fence s (.fenceSc sc) sc)

/-- A remote fence reports a stale scope as the remote operations do (11 R271). -/
def isRfence : Instr → Bool
  | .rfence _ => true
  | _ => false

/-- A fence, or the acquire of a woken `barw` or a satisfied `waitw`, whose older operations are done. -/
def fenceDone (s : State) (o : Op) : Bool :=
  !o.done && o.after.all (opDone s) &&
    (match o.kind with
      | .fence => true
      | .waitw => !o.accs.isEmpty && o.accs.all (·.done)
      | .arrival => o.path.isNone && o.begun && !o.parked
      | _ => false)

/-- A stale report held while the furrow is in runtime mode (11 R271). An entry outside the handler stays at its operation, at which the report
traps once the mode has ended; the handler goes on, and so does an entry whose report is merged into one that is held (log entry 36). -/
def holdReport (s : State) (o : Op) : State :=
  let f := s.furrow o.furrow
  match waiterOf f o.id with
  | some id =>
    if f.handler = id ∨ f.stale.any (·.idx == o.scope) then finishOp (staleReport (redoMembers s o) o) o
    else
      let s := (staleReport s o).modFurrow o.furrow fun f =>
        { rewait f o.id (.report o.scope) with
          stale := f.stale.map fun r => if r.idx = o.scope then { r with place := some o.slot } else r }
      finishOp { s with held := terase s.held (heldKey o.furrow id) } o
  | none => finishOp (staleReport (redoMembers s o) o) o

/-- It completes; a stale scope traps at the operation itself, after runtime mode when the furrow is in it (11 R271). -/
def finishFence (s : State) (o : Op) : State :=
  let s := if o.device then s.modFurrow o.furrow (fenceStamps s (fenceParts o.instr)) else s
  match o.stale with
  | none => finishOp (redoMembers s o) o
  | some gnew =>
    if isRfence o.instr then finishOp (staleReport (redoMembers s o) o) o
    else if (s.furrow o.furrow).rt then holdReport s o
    else trapAtOp s o 0x08 (staleInfo o.pkt (staleKind o) gnew o.gen o.scope)

/-! ### lda and stl (11 R268) -/

def execLda (d a : BitVec 7) (sc : BitVec 3) (s : State) : Result :=
  let m := act s
  .next (guarded s none [.v 0 a 2 m, .dv d] fun s => whenFree s (some cLd) fun s =>
    access s (loadMode 0) ((threads s.pre.width m).map fun thr => { thr, size := 4, spot := .generic (pairV s a.toNat thr).toNat }) fun s ps =>
      enterLoad s (withScope s sc.toNat
        { kind := .load, instr := .lda d a sc, path := some cLd, accs := ps.map (accOf · []), after := acquireSet s s.iss.furrow }))

def execStl (d a : BitVec 7) (sc : BitVec 3) (s : State) : Result :=
  let m := act s
  .next (guarded s none [.v 0 a 2 m, .v 3 d 1 m] fun s => whenFree s (some cSt) fun s =>
    access s (storeMode 0) ((threads s.pre.width m).map fun thr => { thr, size := 4, spot := .generic (pairV s a.toNat thr).toNat }) fun s ps =>
      enter s (withScope s sc.toNat
        { kind := .store, instr := .stl d a sc, path := some cSt, after := releaseSet s s.iss.furrow,
          accs := storeAccs ps fun t => bytesOf [V s d 0 t] }) id)

/-! ### Barriers (06 R179 to R183) -/

def barrierMode (need : Need) : Mode := { need, acc := 3, flt := 5 }

/-- The older operations that an arrival waits for (06 R182, 08 R228). -/
def arrivalSet (s : State) (k : Nat) : List Nat :=
  releaseSet s k ++ ((pending s k).filter fun o => match o.kind, o.instr with
    | .tile, .twr _ _ _ => true
    | .matrix, _ => true
    | _, _ => false).map (·.id)

/-- The one access of a barrier instruction: its word of 8 bytes. -/
def barrierWant (s : State) (a : BitVec 7) : List Want := [{ thr := 0, size := 8, spot := .generic (pairS s a).toNat }]

/-- `barw` (06 R181, R182). The checks of its address come before the pending poison trap (08 R233; DESIGN CHOICE, log entry 38). -/
def execBarw (a : BitVec 7) (sc : BitVec 3) (s : State) : Result :=
  .next (guarded s none [.s 0 a 2] fun s => whenFree s none fun s =>
    access s (barrierMode .write) (barrierWant s a) fun s ps => poisonGate s 0 fun s =>
      let id := nextOp s
      let o : Op := { kind := .arrival, instr := .barw a sc, accs := ps.map (accOf · []), after := arrivalSet s s.iss.furrow }
      let s := issueOp s (withScope s sc.toNat o)
      parkEntry { s with iss := { s.iss with hold := true } } (.operation id))

def execBara (d a : BitVec 7) (sc : BitVec 3) (s : State) : Result :=
  .next (guarded s none [.s 0 a 2, .ds d] fun s => whenFree s (some cSt) fun s =>
    access s (barrierMode .write) (barrierWant s a) fun s ps => poisonGate s 0 fun s =>
      enter s (withScope s sc.toNat
        { kind := .arrival, instr := .bara d a sc, path := some cSt, accs := ps.map (accOf · []),
          after := arrivalSet s s.iss.furrow }) id)

def execBarq (d a : BitVec 7) (sc : BitVec 3) (s : State) : Result :=
  .next (guarded s none [.s 0 a 2, .ds d] fun s => whenFree s (some cLd) fun s =>
    access s (barrierMode .read) (barrierWant s a) fun s ps =>
      enterLoad s { kind := .load, instr := .barq d a sc, path := some cLd,
                    accs := ps.map fun p => { accOf p [] with size := 4 } })

/-- The whole word that `bari` writes (06 R179): the expected count and the mode from S[d]. -/
def barrierInit (x : Word) : Nat := x.toNat % 4096 + x.toNat / 2 ^ 25 % 2 * 2 ^ 25

def execBari (d a : BitVec 7) (sc : BitVec 3) (s : State) : Result :=
  .next (guarded s none [.s 0 a 2, .s 3 d] fun s => whenFree s (some cSt) fun s =>
    access s (barrierMode .write) (barrierWant s a) fun s ps =>
      enter s { kind := .store, instr := .bari d a sc, path := some cSt,
                accs := ps.map fun p => accOf p (toBytes 8 (barrierInit (S s d))) } id)

/-- An arrival applied to the word (06 R181, R183): `none` is cause 0x09. A stream has no `fidx`. -/
def arrive (w : Nat) (fidx : Option Nat) : Option Nat :=
  let exp := w % 4096
  let tracked := fld w 25 1 == 1
  let count (w : Nat) : Nat :=
    let arr := (fld w 12 12 + 1) % 4096
    if arr = exp then w % 4096 + (1 - fld w 24 1) * 2 ^ 24 + fld w 25 7 * 2 ^ 25
    else w % 4096 + arr * 4096 + fld w 24 40 * 2 ^ 24
  if exp = 0 then none
  else if tracked then
    match fidx with
    | none => none
    | some j => if fld w (32 + j) 1 = 1 then none else some (count (w + 2 ^ (32 + j)))
  else some (count w)

/-- An arrival may reach its home. -/
def arrivalReady (s : State) (o : Op) : Bool :=
  o.kind == .arrival && !o.done && !o.parked && !o.begun && !o.refused && o.after.all (opDone s) &&
    (match o.accs with
      | a :: _ =>
        (s.line a.loc).owner.isNone && mayPerform (olderOps s o) false a && bankFree s o a
      | [] => false)

/-- An arrival drops the copy of its word's line in its own core's L1 too, so that the furrow's later reads find it (12 R291; log entry 67). -/
def dropOwn (s : State) (f : Furrow) (k : Nat) : State :=
  if f.stream || !stamped k then s else dropCopies s [f.gcore] (lineOf k)

/-- The home applies an arrival (06 R181, R182); at a poisoned word it takes the bytes as they stand, and its write clears the marks (log entry 40). -/
def applyArrival (s : State) (o : Op) (a : Acc) : State :=
  let s := releaseStamp s o
  let f := s.furrow o.furrow
  let w := ofBytes (readBytes s.mem a.loc 8)
  let info := accessInfo (barrierMode .write) 0 a.addr.toNat
  match arrive w (if f.stream then none else some f.fidx), o.path with
  | none, none => trapAtOp s o 0x09 info
  | none, some _ =>
    finishOp (s.modFurrow o.furrow fun f => { f with late := f.late ++ [{ cause := 0x09, info }] }) o
  | some w', none =>
    let phase := fld w 24 1 == 1
    let s := s.modOp o.id fun o => { o with accs := [{ a with done := true }], parked := true }
    let s := s.modFurrow o.furrow fun f => rewait f o.id (.parked o.id a.loc phase)
    let old := (s.line a.loc).wts
    let (st, s) := performStore (dropOwn s f a.loc) f f.pts a.loc (toBytes 8 w')
    takeStamps s { o with wmax := st, rmax := old }
  | some w', some _ =>
    let old := (s.line a.loc).wts
    let (st, s) := performStore (dropOwn s f a.loc) f f.pts a.loc (toBytes 8 w')
    let s := takeStamps s { o with wmax := st, rmax := old }
    let s := match o.instr with
      | .bara d _ _ => s.modFurrow o.furrow fun f => f.sset d.toNat (.ofNat 32 (fld w 24 1))
      | _ => s
    finishOp (staleReport s o) o

def execBarrierArrival (op : Nat) (s : State) : Result :=
  match s.op op with
  | none => .next s
  | some o =>
    match o.accs with
    | a :: _ => .next (if arrivalReady s o then applyArrival s o a else s)
    | [] => .next s

/-- A waiter beyond the 64 that the home records for its word (06 R182, 11 R272). -/
def overflowWaiter (s : State) (o : Op) : Bool :=
  decide (64 ≤ ((s.ops.takeWhile fun x => x.id != o.id).filter fun x =>
    x.parked && x.kind == o.kind && x.accs.map (·.loc) == o.accs.map (·.loc)).length)

/-- The operation that an entry is parked for. -/
def parkedOp (s : State) (furrow entry : Nat) : Option (Op × Wait) :=
  ((s.furrow furrow).entry entry).waits.findSome? fun w =>
    match w with
    | .parked op _ _ => (s.op op).map (·, w)
    | .word op _ => (s.op op).map (·, w)
    | _ => none

/-- The acquire of a woken or satisfied wait begins (06 R182, 11 R272). A `barw` has read the arrival that changed the phase (12 R283). -/
def beginAcquire (s : State) (o : Op) : State :=
  let s := takeStamps s { o with wmax := 0 }
  let s := s.modOp o.id fun o => { o with parked := false, begun := true, after := acquireSet s o.furrow }
  s.modFurrow o.furrow fun f => rewait f o.id (.operation o.id)

def wakeReady (s : State) (o : Op) : Bool := o.kind == .arrival && o.parked && o.begun && !overflowWaiter s o

/-- A parked `barw` wakes (06 R182); copies in its cluster that may lack the arrival it has read go (12 R291; log entry 67). -/
def execBarrierWake (furrow entry : Nat) (s : State) : Result :=
  match parkedOp s furrow entry with
  | some (o, .parked _ loc _) =>
    .next (if wakeReady s o then beginAcquire (dropOlder s (some (s.furrow o.furrow).cluster) (lineOf loc) o.rmax) o else s)
  | _ => .next s

def rereadReady (s : State) (o : Op) (loc : Nat) (phase : Bool) : Bool :=
  o.kind == .arrival && o.parked && overflowWaiter s o && (s.line loc).owner.isNone && phaseAt s.mem loc != phase

def execBarrierReread (furrow entry : Nat) (s : State) : Result :=
  match parkedOp s furrow entry with
  | some (o, .parked _ loc phase) =>
    .next
      (if rereadReady s o loc phase then
        let (l, s) := stampRead s loc (s.furrow o.furrow).pts
        let s := dropOlder s (some (s.furrow o.furrow).cluster) (lineOf loc) l.wts
        beginAcquire s { o with rmax := l.wts, heard := smax o.heard l.rts }
      else s)
  | _ => .next s

/-! ### waitw (11 R272) -/

def waitwMode : Mode := { need := .read, acc := 0, flt := 4 }

def execWaitw (d a : BitVec 7) (q : BitVec 2) (sc : BitVec 3) (s : State) : Result :=
  .next (guarded s none [.s 0 a 2, .s 3 d] fun s => whenFree s none fun s =>
    access s waitwMode [{ thr := 0, size := 4, spot := .generic (pairS s a).toNat }] fun s ps =>
      let id := nextOp s
      let s := issueOp s (withScope s sc.toNat
        { kind := .waitw, instr := .waitw d a q sc, accs := ps.map (accOf · []), args := [S s d] })
      parkEntry { s with iss := { s.iss with hold := true } } (.operation id))

def waitwHolds (q : Nat) (m y : Word) : Bool :=
  match q with
  | 0 => m == y
  | 1 => m != y
  | _ => decide (y.toNat ≤ m.toNat)

/-- The word read at its home: the wait is over and its acquire begins, or the entry parks. Copies that are older than the
read go (12 R291, R292; log entry 67). -/
def waitwRead (s : State) (o : Op) (a : Acc) : State :=
  let (l, s) := stampRead s a.loc (s.furrow o.furrow).pts
  let s := dropOlder s (some (s.furrow o.furrow).cluster) (lineOf a.loc) l.wts
  let (_, s) := readMarks s a.loc 4
  let m := read32 s.mem a.loc
  let holds := match o.instr with
    | .waitw _ _ q _ => waitwHolds q.toNat m (o.args.headD 0)
    | _ => true
  let o := { o with heard := smax o.heard (smax l.wts l.rts) }
  if holds then
    let o := { o with accs := [{ a with done := true }], rmax := l.wts }
    beginAcquire (s.modOp o.id fun _ => o) o
  else
    let s := s.modOp o.id fun _ => { o with parked := true, begun := false }
    takeStamps (s.modFurrow o.furrow fun f => rewait f o.id (.word o.id a.loc)) { o with rmax := 0, wmax := 0 }

/-- The furrow's accesses to the word have performed: those issued before a `waitw`, and those that sibling entries issued while it waits, which
are `po`-before its final read (11 R272, 12 R285). -/
def waitwFree (s : State) (o : Op) : Bool :=
  (pending s o.furrow).all fun x => x.kind == .waitw || x.accs.all fun b => b.done || !o.accs.any b.overlaps

/-- The first read of a `waitw` at its home. -/
def waitwReady (s : State) (o : Op) (line : Nat) : Bool :=
  o.kind == .waitw && !o.parked && (tget s.lines line {}).owner.isNone && waitwFree s o && !(readyAt s o line).isEmpty

/-- A read at the home (11 R258, R272). -/
def execHomeRead (op line : Nat) (s : State) : Result :=
  match s.op op with
  | none => .next s
  | some o =>
    match o.accs with
    | a :: _ =>
      .next
        (if readReady s o line && !holdsCopy s o line then readHome s o line
        else if waitwReady s o line then waitwRead s o a else s)
    | [] => .next s

/-- A write to the word's line wakes the wait, which reads again. -/
def waitwTouched (s : State) (o : Op) : Bool :=
  o.kind == .waitw && o.parked && o.begun && waitwFree s o && o.accs.all fun a => (s.line a.loc).owner.isNone

def execWaitwWake (furrow entry : Nat) (s : State) : Result :=
  match parkedOp s furrow entry with
  | some (o, _) =>
    match o.accs with
    | a :: _ => .next (if waitwTouched s o && !overflowWaiter s o then waitwRead s o a else s)
    | [] => .next s
  | none => .next s

def execWaitwPoll (furrow entry : Nat) (s : State) : Result :=
  match parkedOp s furrow entry with
  | some (o, _) =>
    match o.accs with
    | a :: _ => .next (if waitwTouched s o && overflowWaiter s o then waitwRead s o a else s)
    | [] => .next s
  | none => .next s

/-! ### The scope table (11 R264, R269, R270) -/

/-- The 64 bytes of an entry's record (11 R264). -/
def scopeBytes (x : Scope) : List Byte :=
  toBytes 64 (x.map.toNat + x.obs.toNat * 2 ^ 256 + x.pgrp.toNat * 2 ^ 264 + x.gen.toNat * 2 ^ 272)

def execScopeset (d a : BitVec 7) (n : BitVec 3) (s : State) : Result :=
  .next (guarded s none [.s 0 a 2, .ds d] fun s => whenFree s (some cSt) fun s =>
    access s (loadMode 0) [{ thr := 0, size := 64, spot := .generic (pairS s a).toNat }] fun s ps =>
      enter s { kind := .scopeset, instr := .scopeset d a n, path := some cSt, scope := n.toNat, accs := ps.map (accOf · []) } id)

def execScoperd (a : BitVec 7) (n : BitVec 3) (s : State) : Result :=
  .next (guarded s none [.s 0 a 2] fun s => whenFree s (some cSt) fun s =>
    access s (storeMode 0) [{ thr := 0, size := 64, spot := .generic (pairS s a).toNat }] fun s ps =>
      enter s { kind := .store, instr := .scoperd a n, path := some cSt,
                accs := storeAccs ps fun _ => scopeBytes (scopeOf s s.cur n.toNat) } id)

/-- The context of an operation. -/
def opCtx (s : State) (o : Op) : Nat := (s.furrow o.furrow).ctx

/-- An earlier `scopeset` of the context on the entry is incomplete (11 R270). -/
def earlierScopeset (s : State) (o : Op) : Bool :=
  (s.ops.takeWhile fun x => x.id != o.id).any fun x =>
    x.kind == .scopeset && !x.done && x.scope == o.scope && opCtx s x == opCtx s o

def installReady (s : State) (o : Op) : Bool :=
  o.kind == .scopeset && !o.done && !o.refused && !earlierScopeset s o &&
    (match o.accs with
      | a :: _ => (s.line a.loc).owner.isNone && mayPerform (olderOps s o) true a && bankFree s o a
      | [] => false)

/-- The reserved bits of a scope record (11 R264). -/
def scopeReserved (r : Nat) : Bool := r / 2 ^ 276 != 0 || fld r 268 4 != 0 || fld r 261 3 != 0

/-- Scoped operations that a completed `scopeset` makes stale (11 R271). -/
def isScoped (o : Op) : Bool :=
  match o.kind, o.instr with
  | .fence, _ => true
  | .atomic, _ => true
  | .arrival, _ => true
  | .waitw, _ => true
  | .remote, _ => true
  | .load, .lda _ _ _ => true
  | .store, .stl _ _ _ => true
  | _, _ => false

/-- An entry written into a context's master table and every copy (11 R270). -/
def installScope (s : State) (ctx n : Nat) (x : Scope) : State :=
  let s := s.modCtx ctx fun c => { c with scopes := tput c.scopes n x }
  { s with clusters := s.clusters.map fun c =>
      (c.1, if (tget c.2.scopes (8 * ctx + n) none).isSome then { c.2 with scopes := tput c.2.scopes (8 * ctx + n) (some x) } else c.2) }

/-- Every scoped operation of the context on the entry that is not complete becomes stale. -/
def markStale (s : State) (ctx n : Nat) (gnew : BitVec 4) : State :=
  let mark (c : Nat) (x : Op) : Op := if isScoped x && !x.done && x.scope == n && c == ctx then { x with stale := some gnew } else x
  { s with ops := s.ops.map fun x => mark (opCtx s x) x,
           plots := s.plots.map fun p => (p.1, { p.2 with savedOps := p.2.savedOps.map (mark p.2.ctx) }),
           crofts := s.crofts.map fun c => (c.1, { c.2 with savedOps := c.2.savedOps.map (mark (s.launch c.2.launch).ctx) }) }

/-- The record read, checked and installed everywhere (11 R270). -/
def applyScope (s : State) (o : Op) (a : Acc) : State :=
  let older := olderOps s o
  let (l, s) := if 2 ^ 57 ≤ a.loc then (({} : Line), s) else stampRead s a.loc o.pts
  let s := if 2 ^ 57 ≤ a.loc then s else dropOlder s (some (s.furrow o.furrow).cluster) (lineOf a.loc) l.wts
  let r := ofBytes (if 2 ^ 57 ≤ a.loc then (doorRead s 0 (a.loc % 65536) 64).1
    else forwarded (unseen older l.wts) a.loc (readBytes s.mem a.loc 64))
  let d := match o.instr with
    | .scopeset d _ _ => d.toNat
    | _ => 0
  let answer (s : State) (x : Word) : State :=
    let s := takeStamps s { o with rmax := l.wts, heard := smax o.heard l.rts }
    finishOp (s.modFurrow o.furrow fun f => f.sset d x) o
  if scopeReserved r then answer s 0xFFFFFFFF
  else
    let ctx := opCtx s o
    let old := tget (s.ctx ctx).scopes o.scope {}
    let x : Scope := { map := .ofNat 256 r, obs := .ofNat 5 (fld r 256 5), pgrp := .ofNat 4 (fld r 264 4), gen := old.gen + 1 }
    answer (markStale (installScope s ctx o.scope x) ctx o.scope x.gen) (x.gen.setWidth 32)

def execScopeInstall (op : Nat) (s : State) : Result :=
  match s.op op with
  | none => .next s
  | some o =>
    match o.accs with
    | a :: _ => .next (if installReady s o then applyScope s o a else s)
    | [] => .next s

end Sys2Proof.Machine
end

