-- ==== Sys2Proof/Machine/Copy.lean ====
section
/-! DEFINITION. The copy engine (09 R234 to R250). -/

namespace Sys2Proof.Machine

def cCp : Nat := 2

/-! ### Issue (09 R235, R236) -/

/-- A remote fence holds the furrow's later key and remote instructions (18 R404). -/
def rfenceHeld (s : State) : Bool := (pending s s.iss.furrow).any fun o => isRfence o.instr

def queueCopy (s : State) (i : Instr) (a : BitVec 7) (targets : Option (List Word)) : State :=
  let core := s.pre.gcore
  if engineHeld s 1 then stallHold s
  else if pathFull s cCp || 32 ≤ (s.core core).copyq.length then stallWait s
  else
    let op := nextOp s
    let s := issueOp s { kind := .copy, instr := i, path := some cCp }
    s.modCore core fun c =>
      { c with copyq := c.copyq ++ [{ words := (upto 8).map (SN s a.toNat ·), targets, op, plot := s.pre.plot, core, slot := s.pre.slot,
                                      ctx := s.pre.ctx, pkt := s.iss.pkt }] }

def execCpy (a : BitVec 7) (s : State) : Result :=
  .next (guarded s none [.s 0 a 8] fun s => queueCopy s (.cpy a) a none)
def execCpym (d a : BitVec 7) (s : State) : Result :=
  .next (guarded s none [.s 0 a 8, .s 3 d 4] fun s => queueCopy s (.cpym d a) a (some ((upto 4).map (SN s d.toNat ·))))

/-! ### The command (09 R234) -/

/-- The 256-bit value of a command. -/
def CopyCmd.bits (c : CopyCmd) : Nat := ofBytes (bytesOf c.words)
def CopyCmd.kind (c : CopyCmd) : Nat := fld c.bits 192 4
def CopyCmd.keep (c : CopyCmd) : Bool := fld c.bits 196 1 == 1
def CopyCmd.wantsRecord (c : CopyCmd) : Bool := fld c.bits 197 1 == 1
def CopyCmd.tag (c : CopyCmd) : Nat := fld c.bits 208 16
def CopyCmd.len (c : CopyCmd) : Nat := fld c.bits 96 20
def CopyCmd.rows (c : CopyCmd) : Nat := fld c.bits 116 12 + 1
def CopyCmd.dadr (c : CopyCmd) : Nat := fld c.bits 32 64
def CopyCmd.sadr (c : CopyCmd) : Nat := fld c.bits 224 32 * 2 ^ 32 + fld c.bits 0 32
def CopyCmd.sstr (c : CopyCmd) : Nat := fld c.bits 128 32
def CopyCmd.dstr (c : CopyCmd) : Nat := fld c.bits 160 32

def CopyCmd.srcRow (c : CopyCmd) (r : Nat) : Nat := (c.sadr + r * c.sstr) % 2 ^ 64
def CopyCmd.dstRow (c : CopyCmd) (r : Nat) : Nat := (c.dadr + r * c.dstr) % 2 ^ 64

/-- A field that is reserved for the kind is not zero. -/
def CopyCmd.reserved (c : CopyCmd) : Bool :=
  let b := c.bits
  fld b 198 10 != 0 ||
    (if c.kind = 0 then false
    else if c.kind = 1 then fld b 224 32 != 0 || fld b 196 1 != 0 || fld b 128 32 != 0
    else fld b 208 16 != 0 || fld b 196 2 != 0 || fld b 128 64 != 0 || fld b 116 12 != 0)

/-- Where the engine's addresses are judged: the issuing plot's scratchpad, the engine's cluster, no lanes (09 R238). -/
def engineAgent (s : State) (c : CopyCmd) : Agent :=
  { ctx := c.ctx, die := c.core / 256, cluster := some (c.core / 4), core := c.core, plot := tfind s.plots c.plot, fidx := 2 ^ 32 }

def lanePrivate (va : Nat) : Bool := va / 2 ^ 40 == 0xFF00
def badAddress (va : Nat) : Bool := decide (2 ^ 56 ≤ va) || lanePrivate va
def inWindow (va : Nat) : Bool := va / 2 ^ 48 == 0xFF

/-- A destination of a `cpym` target word (09 R240): its plot, if any, and the base of its places with their limit. -/
structure Target where
  plot : Option Nat
  base : Nat
  add : Nat
  limit : Nat

inductive TargetWord where
  | unused
  | dest (t : Target)
  | refused

/-- A target plot is resident: one that comes back from a save area is not before its admission (15 R357). -/
def targetOf (s : State) (c : CopyCmd) (w : Word) : TargetWord :=
  let cluster := c.core / 4
  if w = 0xFFFFFFFF then .unused
  else if w.toNat < 2 ^ 31 then
    match (s.plots.map (·.2)).find? fun p => p.launch == (s.plot c.plot).launch && p.index == w.toNat && p.cluster == cluster
        && (p.phase == .running || (p.phase == .placed && p.savedBytes.isEmpty)) with
    | some p => .dest { plot := some p.id, base := scratchLoc (4 * p.cluster + p.core) p.scrBase, add := 0, limit := p.scrSize }
    | none => .refused
  else if fld w.toNat 22 9 = 0 then .dest { plot := none, base := clusterLoc cluster 0, add := fld w.toNat 0 22, limit := 0x400000 }
  else .refused

def targetsOf (s : State) (c : CopyCmd) : List TargetWord := (c.targets.getD []).map (targetOf s c)
def destsOf (ts : List TargetWord) : List Target := ts.filterMap fun t => match t with
  | .dest t => some t
  | _ => none

/-- Where a row of a target begins, as an offset in its limit. -/
def CopyCmd.targetOff (c : CopyCmd) (t : Target) (r : Nat) : Nat := t.add + c.dadr % 2 ^ 32 + r * c.dstr

def isPow2From16 (n : Nat) : Bool := (upto 9).any fun i => n == 2 ^ (i + 4)

/-- The checks before any byte moves: status and reason (09 R239). -/
def copyCheck (s : State) (c : CopyCmd) : Option (Nat × Nat) :=
  let rows := upto c.rows
  let ag := engineAgent s c
  let outside (va : Nat) : Bool := inWindow va && (match windowPlace s ag 0 va c.len with
    | .fail _ => true
    | _ => false)
  let multi := c.targets.isSome
  let ts := targetsOf s c
  let badTargets := ts.any (fun t => match t with
      | .refused => true
      | _ => false) || (destsOf ts).isEmpty
  if 3 ≤ c.kind || c.reserved then some (4, 8)
  else if c.kind = 2 then
    if !isPow2From16 c.len || c.dadr % 64 != 0 || c.sadr % 16 != 0 then some (4, 9)
    else if badAddress c.dadr || badAddress c.sadr || (multi && c.dadr / 2 ^ 32 != 0) then some (4, 10)
    else if multi && badTargets then some (4, 11)
    else none
  else if c.len = 0 then some (4, 9)
  else if (c.kind = 0 && rows.any fun r => badAddress (c.srcRow r))
      || (if multi then c.dadr / 2 ^ 32 != 0 else rows.any fun r => badAddress (c.dstRow r)) then some (4, 10)
  else if multi && badTargets then some (4, 11)
  else if (if multi then (destsOf ts).any fun t => rows.any fun r => decide (t.limit < c.targetOff t r + c.len)
      else rows.any fun r => outside (c.dstRow r)) then some (1, 6)
  else if c.kind = 0 && rows.any fun r => outside (c.srcRow r) then some (1, 7)
  else none

/-! ### Moving bytes (09 R239, R247, R249) -/

/-- A place the engine may use, or the status and reason of its failure; doorbell and peer pages are refused (09 R247, 17 R368),
and a row that runs into the lane-private window stops as without permission (log entry 77). -/
def enginePlace (s : State) (c : CopyCmd) (need : Need) (va n : Nat) : Except (Nat × Nat) (Nat × State) :=
  let ag := engineAgent s c
  let src := need == .read
  let p := resolve s ag (s.cluster (c.core / 4)).tlb 0 va n need
  match p with
  | .loc k _ _ _ _ => if lanePrivate va then .error (3, if src then 2 else 3) else .ok (k, usePlace s { ag with plot := none } need p)
  | .miss => .error (2, if src then 0 else 1)
  | _ => .error (3, if src then 2 else 3)

/-- The places of a range's bytes up to the first page that fails, with that failure; nothing is accessed yet, so nothing is marked. -/
def engineSpan (s : State) (c : CopyCmd) (need : Need) (va : Nat) : Nat → Nat → List (Nat × Nat) → List (Nat × Nat) × Option (Nat × Nat)
  | 0, _, l => (l, none)
  | _, 0, l => (l, none)
  | fuel + 1, n, l =>
    let m := min n (65536 - va % 65536)
    match enginePlace s c need va m with
    | .ok (k, _) => engineSpan s c need (va + m) fuel (n - m) (l ++ [(k, m)])
    | .error e => (l, some e)

def spanLen (l : List (Nat × Nat)) : Nat := total (l.map (·.2))

/-- Pieces of a span that each lie in one line, of the first `n` bytes. -/
def spanPieces : List (Nat × Nat) → Nat → List (Nat × Nat)
  | [], _ => []
  | (k, m) :: rest, n => linePieces k (min m n) ++ spanPieces rest (n - min m n)

/-- The bytes of the places, each with its poison, and the highest write stamp among them. -/
def readSpan (s : State) (cluster : Nat) (pts : BitVec 48) (l : List (Nat × Nat)) : List (Byte × Bool) × BitVec 48 × State :=
  l.foldl (fun st p =>
    let (bs, w, s) := agentRead st.2.2 (some cluster) p.1 p.2 pts
    let (ms, s) := readMarks s p.1 p.2
    (st.1 ++ bs.zipIdx.map (fun x => (x.1, nth ms ((p.1 + x.2) / 4 - p.1 / 4) false)), smax st.2.1 w, s)) ([], 0, s)

/-- Destination words that receive a poisoned byte are marked (09 R249); that host memory is the destination which keeps no marks is the model's
reading (DESIGN CHOICE, log entry 85). -/
def poisonWords (s : State) (k : Nat) (bs : List (Byte × Bool)) : State :=
  if hostBase ≤ k ∧ k < 2 ^ 53 then s
  else { s with memMark := bs.zipIdx.foldl (fun m x => if x.1.2 then tset m ((k + x.2) / 4) .clean .poisoned else m) s.memMark }

/-- Bytes written to the places, with the highest stamp (12 R295). -/
def writeSpan (s : State) (cluster : Nat) (pts : BitVec 48) : List (Nat × Nat) → List (Byte × Bool) → BitVec 48 × State
  | [], _ => (0, s)
  | (k, m) :: rest, bs =>
    let (w, s) := agentWrite s (some cluster) pts k ((bs.take m).map (·.1))
    let (w', s) := writeSpan (poisonWords s k (bs.take m)) cluster pts rest (bs.drop m)
    (smax w w', s)

/-- The bytes of a fill at a destination address: byte x mod 4 of the pattern at address x (09 R239). -/
def CopyCmd.pattern (c : CopyCmd) (x n : Nat) : List (Byte × Bool) := (upto n).map fun i => (.ofNat 8 (fld c.bits (8 * ((x + i) % 4)) 8), false)

/-- How far a command has come. -/
structure CopyStep where
  s : State
  count : Nat := 0
  stop : Option (Nat × Nat × Nat) := none
  pois : Bool := false
  maxw : BitVec 48 := 0
  seen : BitVec 48 := 0
  rows : List (Nat × List (Byte × Bool)) := []

/-- One row: its bytes up to the first that fails are read and then written to every destination (09 R239, R240, R247), and only the pages of
those bytes are accessed (11 R278). The first buffered row
of its address serves (log entry 75), and a source that fails is reported before a destination (log entry 76). -/
def copyRow (c : CopyCmd) (pts : BitVec 48) (x : CopyStep) (r : Nat) : CopyStep :=
  if x.stop.isSome then x
  else
    let s := x.s
    let cluster := c.core / 4
    let fuel := c.len / 65536 + 2
    let buffered := if c.kind = 0 && c.keep then
        (tget (s.cluster cluster).lineBuf (c.core % 4) []).find? fun y => y.1 == c.srcRow r && y.2.length == c.len
      else none
    if buffered.isSome && c.bufferError == some r then
      -- the line buffer fails while it serves the row; the address of the stop is not stated (09 R246, R250; log entry 64)
      { x with s := { s with tick := s.tick + 1 }, stop := some (6, 0, (Config.unstated s.tick).toNat) }
    else
      -- source
      let (src, sfail) : Option (List (Nat × Nat)) × Option (Nat × Nat) :=
        if buffered.isSome || c.kind == 1 then (none, none)
        else let (l, e) := engineSpan s c .read (c.srcRow r) fuel c.len []; (some l, e)
      -- destinations
      let (dests, dfail) : List (Nat × List (Nat × Nat)) × Option (Nat × Nat) :=
        match c.targets with
        | some _ =>
          ((destsOf (targetsOf s c)).map fun t => (c.targetOff t r, [(t.base + c.targetOff t r, c.len)]), none)
        | none =>
          let (l, e) := engineSpan s c .write (c.dstRow r) fuel c.len []
          ([(c.dstRow r, l)], e)
      let slen := (src.map spanLen).getD c.len
      let n := min slen (dests.foldl (fun n l => min n (spanLen l.2)) c.len)
      let ag := { engineAgent s c with plot := none }
      let (bytes, w, s) : List (Byte × Bool) × BitVec 48 × State :=
        match buffered, src with
        | some y, _ => (y.2, 0, s)
        | _, some l => readSpan (spanUse s ag .read (c.srcRow r) fuel n) cluster pts (spanPieces l n)
        | _, none => (List.replicate c.len (0, false), 0, s)
      let s := if c.targets.isSome then s else spanUse s ag .write (c.dstRow r) fuel n
      let (w', s) := dests.foldl (fun st l =>
        let (w, s) := writeSpan st.2 cluster pts (spanPieces l.2 n) (if c.kind = 1 then c.pattern l.1 n else bytes.take n)
        (smax st.1 w, s)) ((0 : BitVec 48), s)
      let stop : Option (Nat × Nat × Nat) :=
        if n = c.len then none
        else if slen = n then sfail.map fun e => (e.1, e.2, (c.srcRow r + n) % 2 ^ 64)
        else dfail.map fun e => (e.1, e.2, (c.dstRow r + n) % 2 ^ 64)
      let s := match stop with
        | some (2, fc, _) =>
          if fc = 0 then spanUse s ag .read (c.srcRow r + n) 1 1 else spanUse s ag .write (c.dstRow r + n) 1 1
        | _ => s
      { s, count := x.count + n, stop, pois := x.pois || (bytes.take n).any (·.2), maxw := smax x.maxw w', seen := smax x.seen w,
        rows := x.rows ++ [(c.srcRow r, bytes)] }

/-- The buffer after a command (09 R242); a `cpym` empties it whatever its kind (log entry 75). -/
def lineBufferAfter (c : CopyCmd) (done : Bool) (rows old : List (Nat × List (Byte × Bool))) : List (Nat × List (Byte × Bool)) :=
  if !done || c.targets.isSome then []
  else if c.kind ≠ 0 then old
  else if c.rows * c.len ≤ 32768 then rows else []

/-- The plot of a command no longer runs (09 R248). -/
def plotStopped (s : State) (p : Nat) : Bool := (s.plot p).faulted || (s.plot p).halted

/-- The command with its status, its bytes moved (09 R239), all in one step (log entry 58); a record of an aborted command or an engine error
has no address (log entry 74). -/
def startCopy (s : State) (c : CopyCmd) : CopyRun × State :=
  let cluster := c.core / 4
  let pts := ((s.op c.op).getD {}).pts
  let multi := c.targets.isSome
  let ended (s : State) (st fc : Nat) : CopyRun × State :=
    ({ cmd := c, status := st, fc },
      s.modCluster cluster fun x => { x with lineBuf := tset x.lineBuf (c.core % 4) [] [] })
  if plotStopped s c.plot then ended s 5 0
  else if c.engineError then ended s 6 0
  else
    match copyCheck s c with
    | some (st, fc) => ended s st fc
    | none =>
      if c.kind = 2 then
        ({ cmd := c, status := 0 }, if multi then s.modCluster cluster fun x => { x with lineBuf := tset x.lineBuf (c.core % 4) [] [] } else s)
      else
        let inbound := (destsOf (targetsOf s c)).filterMap (·.plot)
        let s := inbound.foldl (fun s p => s.modPlot p fun x => { x with inbound := x.inbound + 1 }) s
        let x := (upto c.rows).foldl (copyRow c pts) { s }
        let old := tget (x.s.cluster cluster).lineBuf (c.core % 4) []
        let s := x.s.modCluster cluster fun y =>
          { y with lineBuf := tset y.lineBuf (c.core % 4) [] (lineBufferAfter c x.stop.isNone x.rows old) }
        let e := x.stop.getD (0, 0, 0)
        ({ cmd := c, status := e.1, fc := e.2.1, addr := e.2.2, count := x.count, pois := x.pois, inbound, maxw := x.maxw, seen := x.seen }, s)

/-- The next queue in rotation with something to do (09 R237): the queues of the four cores, and that of the moved leaves (13 R322). -/
def nextQueue (s : State) (cluster : Nat) : Option Nat :=
  ((upto 5).map fun i => ((s.cluster cluster).lastQueue + 1 + i) % 5).find? fun q =>
    if q = 4 then (s.cluster cluster).moves.any fun m => !m.copied else !(s.core (4 * cluster + q)).copyq.isEmpty

/-- The command that is next. -/
def nextCopyQueue (s : State) (cluster : Nat) : Option (Nat × CopyCmd) :=
  (nextQueue s cluster).bind fun q => if q = 4 then none else ((s.core (4 * cluster + q)).copyq.head?).map (q, ·)

def copyStartReady (s : State) (cluster : Nat) : Bool := (s.cluster cluster).run.isNone && (nextCopyQueue s cluster).isSome
def copyMoveReady (s : State) (cluster : Nat) : Bool := (s.cluster cluster).run.isNone && nextQueue s cluster == some 4

/-- The engine takes a command, checks it and moves its bytes (09 R237, R239). -/
def execCopyCommandStart (cluster : Nat) (s : State) : Result :=
  .next
    (if copyStartReady s cluster then
      match nextCopyQueue s cluster with
      | some (q, c) =>
        let (run, s) := startCopy s c
        let s := s.modCore (4 * cluster + q) fun x => { x with copyq := x.copyq.drop 1 }
        s.modCluster cluster fun x => { x with run := some run, lastQueue := q }
      | none => s
    else s)

/-! ### The end of a command (09 R243 to R246) -/

/-- The 16 bytes of a record. -/
def recordBytes (r : CopyRun) : List Byte :=
  let c := r.cmd
  toBytes 16 (r.status + r.fc * 2 ^ 8 + r.addr % 2 ^ 24 * 2 ^ 16 + (if r.pois then 2 ^ 40 else 0) + c.core % 4 * 2 ^ 41
    + c.slot % 32 * 2 ^ 43 + c.tag * 2 ^ 48 + r.count % 2 ^ 32 * 2 ^ 64 + c.pkt.toNat * 2 ^ 96)

def recordDue (r : CopyRun) : Bool := (r.status != 0 || r.cmd.wantsRecord) && !(r.status == 0 && r.cmd.kind == 2)

/-- The record written, or counted as dropped, with the highest stamp of the writes and that of the ring word read (12 R295); `none` when the
plot has no ring or it cannot be written (09 R244, R245). -/
def writeRecord (s : State) (r : CopyRun) (pts : BitVec 48) : Option (BitVec 48 × BitVec 48 × State) :=
  match (s.plot r.cmd.plot).ring with
  | none => none
  | some (base, entries, word) =>
    match enginePlace s r.cmd .write word.toNat 16 with
    | .error _ => none
    | .ok (k, s) =>
      let (seen, s) := agentStamp s (some (r.cmd.core / 4)) k 16 pts
      let wr := latest32 s k
      if entries ≤ ringUsed s k then
        let drop := latest32 s (k + 4)
        let (w, s) := agentWrite s (some (r.cmd.core / 4)) pts k (toBytes 4 wr.toNat ++ toBytes 4 (drop + 1).toNat)
        some (w, seen, s)
      else
        match enginePlace s r.cmd .write (base.toNat + 16 * (wr.toNat % entries)) 16 with
        | .error _ => none
        | .ok (b, s) =>
          let (w, s) := agentWrite s (some (r.cmd.core / 4)) pts b (recordBytes r)
          let release := smax pts (smax w r.maxw + 1)
          let (w', s) := agentWrite s (some (r.cmd.core / 4)) release k
            (toBytes 4 (wr + 1).toNat ++ toBytes 4 (latest32 s (k + 4)).toNat)
          some (smax w w', seen, s)

/-- The plot fault of a record that cannot be delivered (09 R245). -/
def recordFault (s : State) (r : CopyRun) (o : Op) : State :=
  let s := { s with cur := s.furrow o.furrow }
  plotFault s none 0 (.ofNat 32 r.count) (some (ofBytes ((recordBytes r).take 8)))

/-- A command ends (09 R243 to R245); a dropped one whose plot's ring cannot be written leaves nothing (09 R248; log entry 78). -/
def endCopy (s : State) (cluster : Nat) (r : CopyRun) : State :=
  let o := (s.op r.cmd.op).getD {}
  let s := r.inbound.foldl (fun s p => noteOver (s.modPlot p fun x => { x with inbound := x.inbound - 1 }) (s.plot p).launch) s
  let s := if r.status = 0 ∧ r.cmd.kind = 2 then
      s.modPlot r.cmd.plot fun p => { p with ring := some (.ofNat 64 r.cmd.dadr, r.cmd.len, .ofNat 64 r.cmd.sadr) }
    else s
  let (w, seen, s) : BitVec 48 × BitVec 48 × State := if recordDue r then
      match writeRecord s r o.pts with
      | some x => x
      | none => (0, 0, if r.status = 5 then s else recordFault s r o)
    else (0, 0, s)
  let s := s.modCluster cluster fun x => { x with run := none }
  match s.op r.cmd.op with
  | some o => finishOp (takeStamps s { o with wmax := smax r.maxw w, rmax := smax r.seen seen }) o
  | none => s

/-- A command ends: record, ring word, and the issuer's counter (09 R243). -/
def execCopyCommandEnd (cluster : Nat) (s : State) : Result :=
  match (s.cluster cluster).run with
  | some r => .next (endCopy s cluster r)
  | none => .next s

end Sys2Proof.Machine
end

