-- ==== Sys2Proof/Machine/Keys.lean ====
section
/-! DEFINITION. Keys and the key arithmetic instructions (13 R299 to R303). -/

namespace Sys2Proof.Machine

/-- "none" (13 R299). -/
def noKey : Nat := 2 ^ 64 - 1

def keyLevel (k : Nat) : Nat := k % 32
/-- The digit of level `l` of a key of dimension `d`. -/
def keyDigit (d k l : Nat) : Nat := fld k (64 - d * l) d

/-- Well-formed for `d` (13 R299). -/
def keyWf (d k : Nat) : Bool :=
  let l := keyLevel k
  decide (k < 2 ^ 64) && decide (d * l ≤ 59) && fld k 5 (59 - d * l) == 0

/-- The last value of the range of a key's descendants (13 R300). -/
def keyEnd (d k : Nat) : Nat :=
  let low := 2 ^ (64 - d * keyLevel k)
  k / low * low + low - 1

/-- The key of level `l` with the coordinates `c` (13 R300, R303). -/
def keyEncode (d l : Nat) (c : Nat → Nat) : Nat :=
  (upto l).foldl (fun k i =>
    let digit := (upto d).foldl (fun x j => x + fld (c j) (l - (i + 1)) 1 * 2 ^ j) 0
    k + digit * 2 ^ (64 - d * (i + 1))) l

/-- Coordinate `j` of a key (13 R303). -/
def keyCoord (d k j : Nat) : Nat :=
  let l := keyLevel k
  (upto l).foldl (fun x i => x + fld (keyDigit d k (i + 1)) j 1 * 2 ^ (l - (i + 1))) 0

def keyParent (d k : Nat) : Nat :=
  let l := keyLevel k
  if l = 0 then noKey else k - keyDigit d k l * 2 ^ (64 - d * l) - 1

def keyChild (d k i : Nat) : Nat :=
  let l := keyLevel k
  if 2 ^ d ≤ i ∨ l = 31 ∨ 59 < d * (l + 1) then noKey else k + i * 2 ^ (64 - d * (l + 1)) + 1

/-- The neighbour across a face, or none on the boundary (13 R301). -/
def keyNeighbour (d k face : Nat) : Option Nat :=
  let l := keyLevel k
  let axis := face / 2
  let x := keyCoord d k axis
  if face % 2 = 0 then
    if x = 0 then none else some (keyEncode d l fun j => if j = axis then x - 1 else keyCoord d k j)
  else if x + 1 = 2 ^ l then none
  else some (keyEncode d l fun j => if j = axis then x + 1 else keyCoord d k j)

/-- The face children of a node seen across a face, by ascending digit (13 R301). -/
def faceChildren (d k face : Nat) : List Nat :=
  ((upto (2 ^ d)).filter fun i => fld i (face / 2) 1 == (if face % 2 = 1 then 0 else 1)).map (keyChild d k)

/-! ### The instructions (13 R302, R303) -/

/-- `info` of cause 0x0B (13 R310). -/
def keyInfo (thr why : Nat) : Word := .ofNat 32 (thr % 64 * 2 ^ 18 + why)

def ctlLevel (c : Word) : Nat := c.toNat % 32
def ctlDims (c : Word) : Nat := fld c.toNat 8 2 + 1
def ctlChild (c : Word) : Nat := fld c.toNat 16 4

/-- The key in a thread's vector pair. -/
def keyAt (s : State) (a : BitVec 7) (t : Nat) : Nat := (V s a 0 t).toNat + (V s a 1 t).toNat * 2 ^ 32

/-- Half `i` of a 64-bit value. -/
def halfOf (x i : Nat) : Word := .ofNat 32 (x / 2 ^ (32 * i))

/-- A key instruction on a key operand: every active thread's key is well-formed, or cause 0x0B (13 R303). -/
def keyUnary (s : State) (d a b : BitVec 7) (n : Nat) (f : Nat → Nat → Word → Nat → Word) : State :=
  let m := act s
  guarded s none [.v 0 a 2 m, .v 1 b 1 m, .dv d] fun s =>
    match (threads s.pre.width m).find? fun t => !keyWf (ctlDims (V s b 0 t)) (keyAt s a t) with
    | some t => raise s 0x0B (keyInfo t 1)
    | none => vectorResult s d n fun t i fx => (f (ctlDims (V s b 0 t)) (keyAt s a t) (V s b 0 t) i, fx)

def execKenc (d a b : BitVec 7) (s : State) : Result :=
  let m := act s
  let withDims (j : Nat) : Mask := maskOf (threads s.pre.width m) fun t => decide (j < ctlDims (V s b 0 t))
  .next (guarded s none
    [{ pos := 0, file := 0, base := a.toNat, reads := 4, used := 4, thr := m, per := (upto 4).map withDims }, .v 1 b 1 m, .dv d] fun s =>
    vectorResult s d 2 fun t i fx =>
      let c := V s b 0 t
      (halfOf (if 59 < ctlDims c * ctlLevel c then noKey else keyEncode (ctlDims c) (ctlLevel c) fun j => (V s a j t).toNat) i, fx))

def execKdec (d a b : BitVec 7) (s : State) : Result :=
  .next (keyUnary s d a b 4 fun dims k _ i => if i < dims then .ofNat 32 (keyCoord dims k i) else 0)
def execKpar (d a b : BitVec 7) (s : State) : Result :=
  .next (keyUnary s d a b 2 fun dims k _ i => halfOf (keyParent dims k) i)
def execKchd (d a b : BitVec 7) (s : State) : Result :=
  .next (keyUnary s d a b 2 fun dims k c i => halfOf (keyChild dims k (ctlChild c)) i)

end Sys2Proof.Machine
end

