-- ==== Sys2Proof/Machine/KeyUnit.lean ====
section
/-! DEFINITION. Acres in memory, the key-unit instructions, rebalancing and transplant (13 R304 to R328). -/

namespace Sys2Proof.Machine

def cKy : Nat := 4

/-! ### The acre's memory -/

/-- The key unit at work: its context and acre, and the operation it serves, or the cluster and the program stamp of an agent whose operation is
complete. -/
structure KUnit where
  ctx : Nat
  no : Nat
  acre : Acre
  op : Nat
  done : Option (Nat × BitVec 48) := none

def KUnit.agent (u : KUnit) (cluster : Nat) : Agent := { ctx := u.ctx, die := cluster / 64, cluster := some cluster, core := 4 * cluster }

/-- The places of a range for an agent; none when some page cannot be reached. -/
def agentSpan (s : State) (ag : Agent) (need : Need) (va : Nat) : Nat → Nat → Option (List (Nat × Nat))
  | 0, _ => some []
  | _, 0 => some []
  | fuel + 1, n =>
    let m := min n (65536 - va % 65536)
    match resolve s ag (tlbOf s ag) 0 va m need, agentSpan s ag need (va + m) fuel (n - m) with
    | .loc k _ _ _ _, some l => some ((k, m) :: l)
    | _, _ => none

def unitRead (s : State) (u : KUnit) (cluster va n : Nat) : Option (List Byte) :=
  (agentSpan s (u.agent cluster) .read va (n / 65536 + 2) n).map fun l => (l.map fun p => latest s p.1 p.2).flatten

/-- The cluster of the agent that a key unit works for: that of the furrow whose operation it serves, else its own. -/
def KUnit.issuer (s : State) (u : KUnit) (cluster : Nat) : Nat :=
  match s.op u.op with
  | some o => (s.furrow o.furrow).cluster
  | none => (u.done.map (·.1)).getD cluster

/-- The program stamp that the agent had at issue. -/
def KUnit.pts (s : State) (u : KUnit) : BitVec 48 :=
  match s.op u.op with
  | some o => o.pts
  | none => (u.done.map (·.2)).getD 0

/-- A range that a key unit reads for the operation leaves its mark on the pages and the lines, and their stamps with the operation (11 R278,
12 R295). -/
def unitMark (s : State) (u : KUnit) (cluster va n : Nat) : State :=
  match agentSpan s (u.agent cluster) .read va (n / 65536 + 2) n with
  | none => s
  | some l => l.foldl (fun s p =>
      let (w, s) := agentStamp s (some (u.issuer s cluster)) p.1 p.2 (u.pts s)
      s.modOp u.op fun o => { o with rmax := smax o.rmax w }) (spanUse s (u.agent cluster) .read va (n / 65536 + 2) n)

def unitMarks (s : State) (u : KUnit) (l : List (Nat × Nat × Nat)) : State := l.foldl (fun s p => unitMark s u p.1 p.2.1 p.2.2) s

/-- A write of a key unit at its home, with the stamp kept for the operation; copies of the issuing cluster are dropped first (13 R325, 12 R295). -/
def unitWrite (s : State) (u : KUnit) (cluster va : Nat) (bs : List Byte) : Option State :=
  (agentSpan s (u.agent cluster) .write va (bs.length / 65536 + 2) bs.length).map fun l =>
    let s := spanUse s (u.agent cluster) .write va (bs.length / 65536 + 2) bs.length
    let (w, s) := writeSpan s (u.issuer s cluster) (u.pts s) (spanPieces l bs.length) (bs.map (·, false))
    s.modOp u.op fun o => { o with wmax := smax o.wmax w }

/-! The status word (13 R307). -/

structure Ast where
  gen : Nat
  cur : Nat
  bal : Nat
  err : Bool
  lcnt : Nat
  pcnt : Nat
  last : Nat
  dcnt : Nat
  left : Nat
  moved : Nat
  deriving DecidableEq, Repr

def astOf (x : Nat) : Ast :=
  { gen := fld x 0 16, cur := fld x 16 1, bal := fld x 17 2, err := fld x 19 1 == 1, lcnt := fld x 32 16, pcnt := fld x 48 16,
    last := fld x 64 8, dcnt := fld x 80 16, left := fld x 96 32, moved := fld x 128 32 }

/-- The whole status word: its reserved bits are 0 (13 R307). -/
def Ast.bytes (a : Ast) : List Byte :=
  toBytes 64 (a.gen + a.cur * 2 ^ 16 + a.bal * 2 ^ 17 + (if a.err then 2 ^ 19 else 0) + a.lcnt * 2 ^ 32 + a.pcnt * 2 ^ 48
    + a.last * 2 ^ 64 + a.dcnt * 2 ^ 80 + a.left * 2 ^ 96 + a.moved * 2 ^ 128)

def readAst (s : State) (u : KUnit) (cluster : Nat) : Option Ast :=
  (unitRead s u cluster u.acre.cost.toNat 20).map fun bs => astOf (ofBytes bs)
def writeAst (s : State) (u : KUnit) (cluster : Nat) (a : Ast) : Option State := unitWrite s u cluster u.acre.cost.toNat a.bytes

/-! Stake tables (13 R307, R308). -/

/-- A stake: its key and its owner. -/
abbrev Stake := Nat × Nat

def stakesOf : List Byte → Nat → List Stake
  | _, 0 => []
  | bs, n + 1 => (ofBytes (bs.take 8), ofBytes ((bs.drop 8).take 2)) :: stakesOf (bs.drop 16) n

/-- Table A or B, or the device table. -/
def localBase (u : KUnit) (which : Nat) : Nat := u.acre.cost.toNat + (if which = 0 then 4096 else 8192)
def readStakes (s : State) (u : KUnit) (cluster base n : Nat) : Option (List Stake) :=
  (unitRead s u cluster base (16 * n)).map fun bs => stakesOf bs n

def stakeOwner (t : List Stake) (k : Nat) : Nat := ((t.filter fun x => x.1 ≤ k).getLast?.map (·.2)).getD 0

/-- The local table of a generation: the current one, or the one before it while it drains (13 R312, R323). -/
def tableOf (s : State) (u : KUnit) (cluster : Nat) (a : Ast) (g : Nat) : Option (List Stake) :=
  if g = a.gen ∨ u.acre.lastCount = 0 then readStakes s u cluster (localBase u a.cur) a.lcnt
  else readStakes s u cluster (localBase u (1 - a.cur)) u.acre.lastCount

/-! Directories (13 R306). -/

structure Dir where
  key : Nat
  blk : Nat
  cost : Nat := 0
  pin : Nat := 0
  st : Nat := 0
  mv : Bool := false
  dest : Nat := 0
  deriving DecidableEq, Repr

def dirOf (x : Nat) : Dir :=
  { key := fld x 0 64, blk := fld x 64 64, cost := fld x 128 32, pin := fld x 160 16, st := fld x 176 3, mv := fld x 179 1 == 1,
    dest := fld x 192 8 }
def Dir.bytes (e : Dir) : List Byte :=
  toBytes 32 (e.key + e.blk * 2 ^ 64 + e.cost * 2 ^ 128 + e.pin * 2 ^ 160 + e.st * 2 ^ 176 + (if e.mv then 2 ^ 179 else 0) + e.dest * 2 ^ 192)

def dirBase (u : KUnit) (cluster : Nat) : Nat := u.acre.dir.toNat + cluster * (64 + 32 * u.acre.nent)

def entriesOf : List Byte → Nat → List Dir
  | _, 0 => []
  | bs, n + 1 => dirOf (ofBytes (bs.take 32)) :: entriesOf (bs.drop 32) n

def ascending : List Nat → Bool
  | a :: b :: l => decide (a < b) && ascending (b :: l)
  | _ => true

/-- A cluster's directory; none is an acre error (13 R328). -/
def readDir (s : State) (u : KUnit) (cluster : Nat) : Option (List Dir) :=
  match unitRead s u cluster (dirBase u cluster) 4 with
  | none => none
  | some h =>
    match unitRead s u cluster (dirBase u cluster + 64) (32 * ofBytes h) with
    | none => none
    | some bs =>
      let es := entriesOf bs (ofBytes h)
      if ascending (es.map (·.key)) && es.all (fun e => decide (e.st < 4) && keyWf u.acre.dims e.key) then some es else none

/-- The entries of `new` that differ from what stands there are written from index `i` on. -/
def writeEntries (s : State) (u : KUnit) (cluster : Nat) (old : List Dir) : List Dir → Nat → Option State
  | [], _ => some s
  | e :: es, i =>
    if old[i]? = some e then writeEntries s u cluster old es (i + 1)
    else
      match unitWrite s u cluster (dirBase u cluster + 64 + 32 * i) e.bytes with
      | some s => writeEntries s u cluster old es (i + 1)
      | none => none

/-- The range of a cluster's directory. -/
def dirRange (s : State) (u : KUnit) (cluster : Nat) : Nat × Nat × Nat := (cluster, dirBase u cluster, 64 + 32 * ((readDir s u cluster).getD []).length)

/-- The cluster whose directory a unit cannot read or write; `home` when all can be. -/
def badDir (s : State) (u : KUnit) (home : Nat) : Nat :=
  ((upto 256).find? fun c =>
    let r := dirRange s u c
    (readDir s u c).isNone || (agentSpan s (u.agent c) .write r.2.1 (r.2.2 / 65536 + 2) r.2.2).isNone).getD home

/-- A directory written: its changed entries, and its count. -/
def writeDir (s : State) (u : KUnit) (cluster : Nat) (old new : List Dir) : Option State :=
  match writeEntries s u cluster old new 0 with
  | none => none
  | some s => if old.length = new.length then some s else unitWrite s u cluster (dirBase u cluster) (toBytes 4 new.length)

def insertDir (e : Dir) : List Dir → List Dir
  | [] => [e]
  | x :: l => if e.key < x.key then e :: x :: l else x :: insertDir e l

/-- The entry with a key changed. -/
def modDir (es : List Dir) (k : Nat) (g : Dir → Dir) : List Dir := es.map fun e => if e.key = k then g e else e

/-! The pool (13 R305). -/

def poolBit (s : State) (u : KUnit) (cluster j : Nat) : Option Bool :=
  (unitRead s u cluster (u.acre.pool.toNat + j / 8) 1).map fun b => (ofBytes b).testBit (j % 8)

/-- The lowest `n` free blocks from `j` on; fewer when the pool has fewer. -/
def freeBlocks (s : State) (u : KUnit) (cluster : Nat) : Nat → Nat → Nat → Option (List Nat)
  | 0, _, _ => some []
  | _, 0, _ => some []
  | fuel + 1, n + 1, j =>
    match poolBit s u cluster j with
    | none => none
    | some true => freeBlocks s u cluster fuel (n + 1) (j + 1)
    | some false => (freeBlocks s u cluster fuel n (j + 1)).map (j :: ·)

def lowestFree (s : State) (u : KUnit) (cluster n : Nat) : Option (List Nat) := freeBlocks s u cluster u.acre.nblk n 0

/-- The lowest `n` free blocks, with the map's bytes read up to the last of them (13 R305, 12 R295). -/
def takeFree (s : State) (u : KUnit) (cluster n : Nat) : Option (List Nat × State) :=
  (lowestFree s u cluster n).map fun bs =>
    let last := if bs.length < n then u.acre.nblk - 1 else bs.getLast?.getD 0
    (bs, if n = 0 then s else unitMark s u cluster u.acre.pool.toNat (last / 8 + 1))

def setPoolBit (s : State) (u : KUnit) (cluster j : Nat) (used : Bool) : Option State :=
  let va := u.acre.pool.toNat + j / 8
  match unitRead s u cluster va 1 with
  | none => none
  | some b =>
    let x := ofBytes b
    let bit := 2 ^ (j % 8)
    unitWrite (unitMark s u cluster va 1) u cluster va (toBytes 1 (if used then x ||| bit else if x.testBit (j % 8) then x - bit else x))

def setPoolBits (s : State) (u : KUnit) (cluster : Nat) (used : Bool) : List Nat → Option State
  | [] => some s
  | j :: js =>
    match setPoolBit s u cluster j used with
    | some s => setPoolBits s u cluster used js
    | none => none

def blockAddr (u : KUnit) (j : Nat) : Nat := u.acre.pool.toNat + j * 2 ^ u.acre.lsz
def blockNo (u : KUnit) (a : Nat) : Nat := (a - u.acre.pool.toNat) / 2 ^ u.acre.lsz

/-! ### Finding a key (13 R312) -/

/-- An answer before it is put into result words; `none` fields are words the manual leaves unstated. -/
structure Ans where
  code : Nat
  gen : Nat
  fwd : Bool := false
  deep : Bool := false
  owner : Option Nat := none
  key : Option Nat := none
  blk : Option Nat := none
  pin : Option Nat := none
  cost : Option Nat := none
  /-- the cluster and the entry that answered -/
  entry : Option (Nat × Dir) := none
  deriving DecidableEq, Repr

def ownerWord (s : State) (cluster : Nat) : Nat := s.pkg.devno.toNat + cluster * 2 ^ 16

/-- What cluster `o` answers from its directory and the stakes of the request's generation; `fwd` once it was forwarded. -/
def findAt (s : State) (u : KUnit) (t : List Stake) (g : Nat) (fwd : Bool) (o k : Nat) : Option (Ans ⊕ Nat) :=
  match readDir s u o with
  | none => none
  | some es =>
    let d := u.acre.dims
    match es.find? fun e => e.st != 2 && decide (e.key ≤ k) && decide (k ≤ keyEnd d e.key) with
    | some e =>
      if e.st = 3 then (if fwd then none else some (.inr e.dest))
      else
        let a : Ans := { code := 0, gen := g, fwd, key := some e.key, blk := some e.blk, pin := some e.pin, cost := some e.cost,
                         entry := some (o, e) }
        if e.st = 1 then some (.inl { a with code := 3, owner := some (ownerWord s e.dest) })
        else some (.inl { a with code := if fwd then 3 else if e.key = k then 0 else 1, owner := some (ownerWord s o) })
    | none =>
      match es.find? fun f => f.st != 2 && decide (k < f.key) && decide (f.key ≤ keyEnd d k) with
      | some f =>
        some (.inl { code := 2, gen := g, fwd, owner := some (ownerWord s (if f.st = 1 ∨ f.st = 3 then f.dest else o)),
                     key := some f.key, blk := some (if f.st = 3 then 0 else f.blk), pin := some f.pin, cost := some f.cost })
      | none =>
        match t.find? fun x => decide (k < x.1) && decide (x.1 ≤ keyEnd d k) with
        | some x =>
          some (.inl { code := 2, gen := g, fwd, owner := some (ownerWord s x.2), key := some x.1, blk := some 0, cost := some 0 })
        | none => none

/-- The whole route of a key, with the cluster that answered; none is an acre error. -/
def findKey (s : State) (u : KUnit) (home g k : Nat) : Option (Ans × Nat) :=
  match readAst s u home with
  | none => none
  | some a =>
    match readStakes s u home (u.acre.cost.toNat + 16384) a.dcnt, tableOf s u home a g with
    | some dev, some t =>
      if stakeOwner dev k ≠ s.pkg.devno.toNat then
        some ({ code := 4, gen := g, owner := some (stakeOwner dev k + 2 ^ 31), key := some k, blk := some 0, cost := some 0 }, home)
      else
        let o := stakeOwner t k
        match findAt s u t g false o k with
        | none => none
        | some (.inl x) => some (x, o)
        | some (.inr o') =>
          match findAt s u t g true o' k with
          | some (.inl x) => some (x, o')
          | _ => none
    | _, _ => none

/-- The answer of `knbr` and its count (13 R313). -/
def neighbour (s : State) (u : KUnit) (home g k face index : Nat) : Option (Ans × Option Nat) :=
  let d := u.acre.dims
  match keyNeighbour d k face with
  | none => some ({ code := 5, gen := g, owner := some 0, key := some k, blk := some 0, cost := some 0 }, some 0)
  | some n =>
    match findKey s u home g n with
    | none => none
    | some (a, o) =>
      if a.code = 4 then some (a, some 0)
      else if a.code = 2 then
        let count := 2 ^ (d - 1)
        if count ≤ index then some ({ code := 14, gen := g, fwd := a.fwd, blk := some 0, cost := some 0 }, some count)
        else
          let c := nth (faceChildren d n face) index noKey
          match readAst s u home with
          | none => none
          | some ast =>
            match tableOf s u home ast g, readDir s u o with
            | some t, some es =>
              let r : Ans := { code := 2, gen := g, fwd := a.fwd, key := some c, owner := some (ownerWord s o), blk := some 0, cost := some 0 }
              match es.find? fun e => e.st != 2 && e.key == c with
              | some e =>
                some ({ r with blk := some (if e.st = 3 then 0 else e.blk), cost := some e.cost,
                               owner := some (ownerWord s (if e.st = 1 ∨ e.st = 3 then e.dest else o)) }, some count)
              | none =>
                let below := es.any fun e => e.st != 2 && decide (c < e.key) && decide (e.key ≤ keyEnd d c)
                if !below ∧ stakeOwner t c ≠ o then some ({ r with owner := some (ownerWord s (stakeOwner t c)) }, some count)
                else some ({ r with deep := true }, some count)
            | _, _ => none
      else if 1 ≤ index then some ({ code := 14, gen := g, fwd := a.fwd, blk := some 0, cost := some 0 }, some 1)
      else some (a, some 1)

/-! ### Moves (13 R322) -/

/-- The operation of the `kbal` in flight on an acre. -/
def balanceOp (s : State) (ctx no : Nat) : Nat :=
  ((s.ops.find? fun o => o.begun && !o.done && o.scope == no && opCtx s o == ctx && (match o.instr with
    | .kbal _ _ => true
    | _ => false)).map (·.id)).getD 0

/-- An unpinned marked entry starts leaving: a move joins the old owner's copies. -/
def startMove (s : State) (u : KUnit) (o : Nat) (k : Nat) : Option State :=
  match readDir s u o with
  | none => none
  | some es =>
    match es.find? fun e => e.key == k && e.mv && e.st == 0 with
    | none => some s
    | some e =>
      match readDir s u e.dest with
      | none => none
      | some ns =>
        let new := ((ns.find? fun x => x.key == k && x.st == 2).map (·.blk)).getD 0
        (writeDir (unitMarks s u [dirRange s u o, dirRange s u e.dest]) u o es (modDir es k fun e => { e with st := 1 })).map fun s =>
          s.modCluster o fun c => { c with moves := c.moves ++
            [{ ctx := u.ctx, acre := u.no, origin := o, key := .ofNat 64 k, old := .ofNat 64 e.blk, new := .ofNat 64 new, dest := e.dest, op := balanceOp s u.ctx u.no }] }

/-! ### Issue (13 R309, R310, R325) -/

def acreAt (s : State) (ctx no : Nat) : Option Acre := tget (s.ctx ctx).acres no none

/-- The first failing check of a request on a key (13 R310). -/
def keyCheck (s : State) (no k : Nat) (face : Option Nat) (reserved : Bool) : Option Nat :=
  match acreAt s s.pre.ctx no with
  | none => some 0
  | some a =>
    if !keyWf a.dims k then some 1
    else if a.maxl < keyLevel k then some 2
    else if (match face with
      | some f => decide (2 * a.dims ≤ f)
      | none => false) then some 3
    else if reserved then some 4
    else none

/-- The generation installed for an acre, as the issuing cluster's unit has it. -/
def installedGen (s : State) (ctx no cluster : Nat) : Nat :=
  match acreAt s ctx no with
  | some acre => ((readAst s { ctx, no, acre, op := 0 } cluster).map (·.gen)).getD 0
  | none => 0

/-- A key operation enters: releases wait for older stores, acquires for older loads (13 R325). -/
def enterKey (s : State) (i : Instr) (no : Nat) (release acquire : Bool) (args : List Word) (targs : NMap Word)
    (seen : BitVec 48 := 0) : State :=
  if engineHeld s 0 || rfenceHeld s then stallHold s
  else if pathFull s cKy then stallWait s
  else
    issueOp s { kind := .key, instr := i, path := some cKy, scope := no, args, targs, rmax := seen,
                gen16 := .ofNat 16 (installedGen s s.pre.ctx no s.pre.cluster), device := true,
                after := (if release then releaseSet s s.iss.furrow else []) ++ if acquire then acquireSet s s.iss.furrow else [] }

/-- A vector key instruction (13 R310): `face` tells that bits 10:8 of the third word are one, `amount` that the fourth is consumed.
Word 4 of a thread's request is the generation its own acre has at the issuing cluster (13 R312). -/
def keyVector (s : State) (i : Instr) (d a : BitVec 7) (face amount release acquire : Bool) : State :=
  let m := act s
  let ts := threads s.pre.width m
  let why (t : Nat) : Option Nat :=
    let q := V s a 2 t
    keyCheck s (fld q.toNat 0 8) (keyAt s a t) (if face then some (fld q.toNat 8 3) else none)
      (decide (2 ^ 11 ≤ q.toNat))
  guarded s none [{ pos := 0, file := 0, base := a.toNat, reads := 4, used := if amount then 4 else 3, thr := m }, .dv d] fun s =>
    match ts.find? fun t => (why t).isSome with
    | some t => raise s 0x0B (keyInfo t ((why t).getD 0))
    | none =>
      let no := match ts with
        | t :: _ => fld (V s a 2 t).toNat 0 8
        | [] => 0
      enterKey s i no release acquire []
        (ts.foldl (fun x t => tset ((upto 4).foldl (fun x j => tset x (8 * t + j) 0 (V s a j t)) x) (8 * t + 4) 0
          (.ofNat 32 (installedGen s s.pre.ctx (fld (V s a 2 t).toNat 0 8) s.pre.cluster))) [])

def execKlook (d a : BitVec 7) (s : State) : Result := .next (keyVector s (.klook d a) d a false false false true)
def execKnbr (d a : BitVec 7) (s : State) : Result := .next (keyVector s (.knbr d a) d a true true false true)
def execKpin (d a : BitVec 7) (s : State) : Result := .next (keyVector s (.kpin d a) d a false false false true)
def execKunpin (d a : BitVec 7) (s : State) : Result := .next (keyVector s (.kunpin d a) d a false false true false)
def execKcost (d a : BitVec 7) (s : State) : Result := .next (keyVector s (.kcost d a) d a false true false false)

/-- A scalar request on a key. -/
def keyScalar (s : State) (i : Instr) (d a : BitVec 7) : State :=
  guarded s none [{ pos := 0, file := 1, base := a.toNat, reads := 4, used := 3 }, .ds d] fun s =>
    let k := (S s a).toNat + (SN s a.toNat 1).toNat * 2 ^ 32
    let q := (SN s a.toNat 2).toNat
    match keyCheck s (fld q 0 8) k none (decide (2 ^ 8 ≤ q)) with
    | some w => raise s 0x0B (keyInfo 0 w)
    | none => enterKey s i (fld q 0 8) true false ((upto 4).map (SN s a.toNat ·)) []

def execKref (d a : BitVec 7) (s : State) : Result := .next (keyScalar s (.kref d a) d a)
def execKmrg (d a : BitVec 7) (s : State) : Result := .next (keyScalar s (.kmrg d a) d a)

/-- A scalar request whose operand in memory is read at issue as a load: it waits for the furrow's older atomics there, and takes the
bytes of its older stores (13 R319, R320, 06 R172). -/
def enterReading (s : State) (i : Instr) (no : Nat) (x : Acc) : State :=
  let older := pending s s.iss.furrow
  if 2 ^ 57 ≤ x.loc then enterKey s i no true false (wordsOf (doorRead s 0 (x.loc % 65536) x.size).1) []
  else if !mayPerform older true x then stallHold s
  else
    let (bs, w, s') := agentRead s (some s.pre.cluster) x.loc x.size s.cur.pts
    enterKey s' i no true false (wordsOf (forwarded (unseen older w) x.loc bs)) [] w

def execKbal (d a : BitVec 7) (s : State) : Result :=
  .next (guarded s none [{ pos := 0, file := 1, base := a.toNat, reads := 4, used := 3 }, .ds d] fun s =>
    let q := (SN s a.toNat 2).toNat
    match acreAt s s.pre.ctx (fld q 0 8) with
    | none => raise s 0x0B (keyInfo 0 0)
    | some _ =>
      if 2 ^ 8 ≤ q then raise s 0x0B (keyInfo 0 4)
      else
        access s (loadMode 0) [{ thr := 0, size := 32, spot := .generic (pairS s a).toNat }] fun s ps =>
          match ps.map (accOf · []) with
          | x :: _ => enterReading s (.kbal d a) (fld q 0 8) x
          | [] => s)

def execKiter (d a : BitVec 7) (s : State) : Result :=
  .next (guarded s none [{ pos := 0, file := 1, base := a.toNat, reads := 4, used := 3 }, .ds d] fun s =>
    match acreAt s s.pre.ctx (fld (S s a).toNat 0 8) with
    | none => raise s 0x0B (keyInfo 0 0)
    | some _ => enterKey s (.kiter d a) (fld (S s a).toNat 0 8) false true ((upto 3).map (SN s a.toNat ·)) [])

def execKcut (d a : BitVec 7) (n : BitVec 2) (s : State) : Result :=
  .next (guarded s none [.s 0 a 2, .ds d] fun s =>
    match acreAt s s.pre.ctx (fld (S s a).toNat 0 8) with
    | none => raise s 0x0B (keyInfo 0 0)
    | some _ => enterKey s (.kcut d a n) (fld (S s a).toNat 0 8) false false ((upto 2).map (SN s a.toNat ·)) [])

def execKacre (d a : BitVec 7) (s : State) : Result :=
  .next (guarded s none [.s 0 a 2, .s 3 d] fun s =>
    if 2 ^ 8 ≤ (S s d).toNat then raise s 0x0B (keyInfo 0 4)
    else
      access s (loadMode 0) [{ thr := 0, size := 64, spot := .generic (pairS s a).toNat }] fun s ps =>
        match ps.map (accOf · []) with
        | x :: _ => enterReading s (.kacre d a) (S s d).toNat x
        | [] => s)

/-! ### Results -/

def Ans.status (a : Ans) : Nat := a.code + (if a.fwd then 2 ^ 8 else 0) + (if a.deep then 2 ^ 9 else 0) + a.gen % 2 ^ 16 * 2 ^ 16

/-- Words of a result; those the manual leaves unstated are free (log entry 16). -/
def resultWords (tick : Nat) (l : List (Option Nat)) : List Word :=
  l.zipIdx.map fun x => match x.1 with
    | some n => .ofNat 32 n
    | none => Config.unstated (tick + x.2)

/-- The octet of `klook`, `knbr` and `kpin` (13 R311). -/
def Ans.octet (a : Ans) (tick : Nat) (word6 : Option Nat) : List Word :=
  resultWords tick [some a.status, a.owner, a.key.map (· % 2 ^ 32), a.key.map (· / 2 ^ 32), a.blk.map (· % 2 ^ 32), a.blk.map (· / 2 ^ 32),
    word6, a.cost]

/-- A thread's result words kept until the operation completes. -/
def putResults (s : State) (o : Op) (thr : Nat) (ws : List Word) : State :=
  ({ s with tick := s.tick + 8 } : State).modOp o.id fun o =>
    { o with results := ws.zipIdx.foldl (fun r x => tput r (8 * thr + x.2) x.1) o.results }

/-- An acre error (13 R328): noted, reported and counted. -/
def acreError (s : State) (u : KUnit) (cluster : Nat) : State :=
  let s := s.modCtx u.ctx fun c => { c with acres := tput c.acres u.no (some { u.acre with err := true }) }
  let s := hostEventOpen s 3 cluster
  let s := rasCount s (rasCluster cluster)
  match readAst s u cluster with
  | some a => (writeAst s u cluster { a with err := true }).getD s
  | none => s

/-- How many result words a form has. -/
def keyWords : Instr → Nat
  | .klook _ _ | .knbr _ _ | .kpin _ _ | .kiter _ _ | .kcut _ _ _ => 8
  | .kunpin _ _ | .kcost _ _ => 2
  | _ => 1

/-- A scalar form is one thread. -/
def keyScalarForm : Instr → Bool
  | .klook _ _ | .knbr _ _ | .kpin _ _ | .kunpin _ _ | .kcost _ _ => false
  | _ => true

def keyThreads (s : State) (o : Op) : List Nat :=
  if keyScalarForm o.instr then [0] else threads (s.furrow o.furrow).width o.act
/-- The threads of a key operation that have no answer yet. -/
def unanswered (s : State) (o : Op) : List Nat := (keyThreads s o).filter fun t => (tfind o.results (8 * t)).isNone

def unitOf (s : State) (o : Op) (no : Nat) : Option KUnit :=
  (acreAt s (opCtx s o) no).map fun acre => { ctx := opCtx s o, no, acre, op := o.id }

/-! ### The vector forms (13 R313, R314) -/

def targ (o : Op) (t j : Nat) : Word := tget o.targs (8 * t + j) 0
/-- The acre of a thread's request, and the generation the request carries (13 R312). -/
def keyAcre (o : Op) (t : Nat) : Nat := if keyScalarForm o.instr then o.scope else fld (targ o t 2).toNat 0 8
def keyGen (o : Op) (t : Nat) : Nat := if keyScalarForm o.instr then o.gen16.toNat else (targ o t 4).toNat

/-- The words of an acre error: an octet of R311 names no block and knows no cost (log entry 16). -/
def errorWords (s : State) (o : Op) (t : Nat) : List Word :=
  let st := 16 + keyGen o t * 2 ^ 16
  match o.instr with
  | .klook _ _ | .knbr _ _ | .kpin _ _ => resultWords s.tick [some st, none, none, none, some 0, some 0, none, some 0]
  | i => resultWords s.tick (some st :: List.replicate (keyWords i - 1) none)

def targKey (o : Op) (t : Nat) : Nat := (targ o t 0).toNat + (targ o t 1).toNat * 2 ^ 32

/-- What a thread's request does: its words, or it is held at a leaving entry (13 R324); none is an acre error. -/
def answerThread (s : State) (o : Op) (u : KUnit) (t : Nat) : Option (Option (List Word) × State) :=
  let home := (s.furrow o.furrow).cluster
  let g := keyGen o t
  let k := targKey o t
  match o.instr with
  | .knbr _ _ =>
    (neighbour s u home g k (fld (targ o t 2).toNat 8 3) (targ o t 3).toNat).map fun r => (some (r.1.octet s.tick r.2), s)
  | .klook _ _ => (findKey s u home g k).map fun r => (some (r.1.octet s.tick r.1.pin), s)
  | .kpin _ _ =>
    match findKey s u home g k with
    | none => none
    | some (a, _) =>
      match a.entry with
      | some (c, e) =>
        if e.key ≠ k then some (some (a.octet s.tick a.pin), s)
        else if e.st = 1 then some (none, s)
        else if e.pin = 65535 then some (some ({ a with code := 6 }.octet s.tick a.pin), s)
        else
          match readDir s u c with
          | none => none
          | some es =>
            (writeDir s u c es (modDir es k fun e => { e with pin := e.pin + 1 })).map fun s =>
              (some (a.octet s.tick (some (e.pin + 1))),
                s.modPlot (s.furrow o.furrow).plot fun p => { p with pins := p.pins + 1 })
      | none => some (some (a.octet s.tick a.pin), s)
  | .kcost _ _ =>
    match findKey s u home g k with
    | none => none
    | some (a, _) =>
      match a.entry with
      | some (c, e) =>
        if e.key ≠ k then some (some (resultWords s.tick [some a.status, none]), s)
        else if e.st = 1 then some (none, s)
        else
          match readDir s u c with
          | none => none
          | some es =>
            let cost := min 0xFFFFFFFF (e.cost + (targ o t 3).toNat)
            (writeDir s u c es (modDir es k fun e => { e with cost })).map fun s =>
              (some (resultWords s.tick [some a.status, some cost]), s)
      | none => some (some (resultWords s.tick [some a.status, none]), s)
  | _ =>
    match findKey s u home g k with
    | none => none
    | some (a, _) =>
      match a.entry with
      | some (c, e) =>
        if e.key ≠ k then some (some (resultWords s.tick [some a.status, none]), s)
        else if e.pin = 0 then some (some (resultWords s.tick [some { a with code := 13 }.status, none]), s)
        else
          match readDir s u c with
          | none => none
          | some es =>
            match writeDir s u c es (modDir es k fun e => { e with pin := e.pin - 1 }) with
            | none => none
            | some s =>
              let s := s.modPlot (s.furrow o.furrow).plot fun p => { p with pins := if p.pins = 0 then 0 else p.pins - 1 }
              (if e.pin = 1 ∧ e.mv ∧ e.st = 0 then startMove s u c k else some s).map fun s =>
                (some (resultWords s.tick [some a.status, some (e.pin - 1)]), s)
      | none => some (some (resultWords s.tick [some a.status, none]), s)

/-! ### The scalar forms (13 R315 to R319) -/

/-- A status word for a scalar form, with the generation of its route. -/
def statusOf (code g : Nat) : Option Nat := some (code + g % 2 ^ 16 * 2 ^ 16)

/-- A stake strictly inside a key's range (13 R308, R316). -/
def stakeInside (d k : Nat) (t : List Stake) : Bool := t.any fun x => decide (k < x.1) && decide (x.1 ≤ keyEnd d k)

def answerKref (s : State) (o : Op) (u : KUnit) : Option (Nat × State) :=
  let I := (s.furrow o.furrow).cluster
  let k := (o.args.headD 0).toNat + (nth o.args 1 0).toNat * 2 ^ 32
  let d := u.acre.dims
  match readDir s u I with
  | none => none
  | some es =>
    match es.find? fun e => e.key == k with
    | none =>
      some (if es.any fun e => decide (e.key ≤ k ∧ k ≤ keyEnd d e.key) || decide (k ≤ e.key ∧ e.key ≤ keyEnd d k) then 7 else 9, s)
    | some e =>
      if e.st ≠ 0 ∨ e.mv then some (3, s)
      else if 0 < e.pin then some (8, s)
      else if keyLevel k = u.acre.maxl then some (10, s)
      else if u.acre.nent < es.length + 2 ^ d - 1 then some (11, s)
      else
        match takeFree s u I (2 ^ d - 1) with
        | none => none
        | some (bs, s) =>
          if bs.length < 2 ^ d - 1 then some (11, s)
          else
            let child (i : Nat) : Dir :=
              { key := keyChild d k i, blk := if i = 0 then e.blk else blockAddr u (nth bs (i - 1) 0),
                cost := e.cost / 2 ^ d + if i = 0 then e.cost % 2 ^ d else 0 }
            let new := (upto (2 ^ d)).foldl (fun l i => insertDir (child i) l) (es.filter fun x => x.key != k)
            match setPoolBits s u I true bs with
            | none => none
            | some s => (writeDir s u I es new).map (0, ·)

def answerKmrg (s : State) (o : Op) (u : KUnit) : Option (Nat × State) :=
  let I := (s.furrow o.furrow).cluster
  let k := (o.args.headD 0).toNat + (nth o.args 1 0).toNat * 2 ^ 32
  let d := u.acre.dims
  match readDir s u I, readAst s u I with
  | some es, some a =>
    match readStakes s u I (localBase u a.cur) a.lcnt, readStakes s u I (localBase u (1 - a.cur)) a.pcnt,
        readStakes s u I (u.acre.cost.toNat + 16384) a.dcnt with
    | some cur, some pend, some dev =>
      let cs := (upto (2 ^ d)).map (keyChild d k)
      let found := cs.map fun c => es.find? fun e => e.key == c
      if (es.any fun e => e.key == k) || keyLevel k == u.acre.maxl then some (7, s)
      else
        match (cs.zip found).find? fun x => x.2.isNone with
        | some (c, _) => some (if stakeOwner cur c ≠ I then 9 else 7, s)
        | none =>
          let kids := found.filterMap id
          if kids.any fun e => e.st != 0 || e.mv then some (3, s)
          else if kids.any fun e => 0 < e.pin then some (8, s)
          else if stakeInside d k cur || stakeInside d k pend || stakeInside d k dev then some (12, s)
          else
            let p : Dir := { key := k, blk := (kids.headD { key := 0, blk := 0 }).blk, cost := min 0xFFFFFFFF (total (kids.map (·.cost))) }
            match setPoolBits s u I false ((kids.drop 1).map fun e => blockNo u e.blk) with
            | none => none
            | some s => (writeDir s u I es (insertDir p (es.filter fun e => !cs.contains e.key))).map (0, ·)
    | _, _, _ => none
  | _, _ => none

def answerKiter (s : State) (o : Op) (u : KUnit) : Option (List Word) :=
  let I := (s.furrow o.furrow).cluster
  let cursor := (nth o.args 1 0).toNat + (nth o.args 2 0).toNat * 2 ^ 32
  (readDir s u I).map fun es =>
    match es.find? fun e => (e.st == 0 || e.st == 1) && decide (cursor ≤ e.key) with
    | some e =>
      ({ code := if e.st = 1 then 3 else 0, gen := o.gen16.toNat, owner := some (ownerWord s (if e.st = 1 then e.dest else I)),
         key := some e.key, blk := some e.blk, cost := some e.cost } : Ans).octet s.tick (some e.pin)
    | none => resultWords s.tick (statusOf 14 o.gen16.toNat :: List.replicate 7 (some 0))

def answerKcut (s : State) (o : Op) (u : KUnit) (n : Nat) : Option (List Word) :=
  let I := (s.furrow o.furrow).cluster
  let i := (nth o.args 1 0).toNat
  match readAst s u I with
  | none => none
  | some a =>
    let (base, count, gen) := if n = 0 then (localBase u a.cur, a.lcnt, a.gen)
      else if n = 1 then (localBase u (1 - a.cur), a.pcnt, (a.gen + 1) % 2 ^ 16)
      else (u.acre.cost.toNat + 16384, a.dcnt, a.gen)
    (readStakes s u I base count).map fun t =>
      match t[i]? with
      | some x =>
        resultWords s.tick [statusOf 0 o.gen16.toNat,
          some (if n = 2 then x.2 + (if x.2 = s.pkg.devno.toNat then 0 else 2 ^ 31) else ownerWord s x.2),
          some (x.1 % 2 ^ 32), some (x.1 / 2 ^ 32), some count, some gen, some 0, some 0]
      | none => resultWords s.tick [statusOf 14 o.gen16.toNat, none, none, none, some count, some gen, some 0, some 0]

/-- An acre descriptor as an acre, when it is valid (13 R304). -/
def acreOf (x : Nat) : Option Acre :=
  let a : Acre := { dir := .ofNat 64 x, pool := .ofNat 64 (x / 2 ^ 64), cost := .ofNat 64 (x / 2 ^ 128), nblk := fld x 192 32,
                    nent := fld x 224 16, dims := fld x 240 3, maxl := fld x 248 8, lsz := fld x 256 5 }
  if x / 2 ^ 261 = 0 ∧ fld x 243 5 = 0 ∧ 6 ≤ a.lsz ∧ a.lsz ≤ 20 ∧ 1 ≤ a.dims ∧ a.dims ≤ 4 ∧ a.maxl ≤ min 31 (59 / a.dims)
      ∧ 16 ≤ a.nent ∧ 1 ≤ a.nblk ∧ a.cost.toNat % 4096 = 0 ∧ a.pool.toNat % 2 ^ a.lsz = 0 ∧ a.dir.toNat % 64 = 0 then some a
  else none

/-- A table's entries are ordered, begin at key 0, and are well-formed (13 R308). -/
def tableWf (d : Nat) (t : List Stake) : Bool :=
  (t.head?.map (·.1)) == some 0 && t.all (fun x => keyWf d x.1) &&
    (t.zip (t.drop 1)).all fun x => decide (x.1.1 ≤ x.2.1)

/-- What is left of a balance on an acre ends: its moves go, and the `kbal` in flight ends with an acre error (13 R328). -/
def endBalance (s : State) (ctx no : Nat) : State :=
  let s := { s with clusters := s.clusters.map fun c => (c.1, { c.2 with moves := c.2.moves.filter fun m => !(m.ctx == ctx && m.acre == no) }) }
  match s.op (balanceOp s ctx no) with
  | some o => if (unanswered s o).isEmpty then s else putResults s o 0 (errorWords s o 0)
  | none => s

/-- The installation of `kacre` (13 R319): its code, the generation of an acre installed (log entry 63), and the state. -/
def answerKacre (s : State) (o : Op) : Nat × Option Nat × State :=
  let I := (s.furrow o.furrow).cluster
  let ctx := opCtx s o
  let x := ofBytes (bytesOf o.args)
  let busy := match unitOf s o o.scope with
    | some u => match readAst s u I with
      | some a => a.bal != 0 && !u.acre.err
      | none => false
    | none => false
  if busy then (6, none, s)
  else if fld x 240 3 = 0 then (0, none, (endBalance s ctx o.scope).modCtx ctx fun c => { c with acres := tset c.acres o.scope none none })
  else
    match acreOf x with
    | none => (15, none, s)
    | some acre =>
      let u : KUnit := { ctx, no := o.scope, acre, op := o.id }
      match readAst s u I with
      | none => (15, none, s)
      | some a =>
        match readStakes s u I (localBase u a.cur) a.lcnt, readStakes s u I (acre.cost.toNat + 16384) a.dcnt with
        | some t, some dev =>
          let s := unitMarks s u [(I, acre.cost.toNat, 64), (I, localBase u a.cur, 16 * a.lcnt), (I, acre.cost.toNat + 16384, 16 * a.dcnt)]
          if 1 ≤ a.lcnt ∧ a.lcnt ≤ 256 ∧ 1 ≤ a.dcnt ∧ a.dcnt ≤ 4096 ∧ tableWf acre.dims t ∧ tableWf acre.dims dev
              ∧ t.all (fun y => decide (y.2 ≤ 255)) then
            match writeAst s u I { a with moved := 0, left := 0, last := 0, pcnt := 0, err := false, bal := 0 } with
            | some s => (0, some a.gen, (endBalance s ctx o.scope).modCtx ctx fun c => { c with acres := tput c.acres o.scope (some acre) })
            | none => (15, none, s)
          else (15, none, s)
        | _, _ => (15, none, s)

/-! ### kbal (13 R320, R321, R323) -/

/-- Every entry of the device's directories, with its cluster, in key order; none is an acre error. -/
def allLeaves (s : State) (u : KUnit) : Option (List (Nat × Dir)) :=
  ((upto 256).foldl (fun (acc : Option (List (Nat × Dir))) c =>
    match acc, readDir s u c with
    | some l, some es => some (l ++ es.map (c, ·))
    | _, _ => none) (some [])).map fun l =>
      l.insertionSort fun x y => x.2.key ≤ y.2.key

/-- The stakes of a balance: leaves with their weights, participants (13 R320). -/
def balance (ls : List (Nat × Dir)) (ps : List Nat) : List Stake :=
  let w := ls.map fun x => x.2.cost + 1
  let T := total w
  let n := ls.length
  let W (k : Nat) : Nat := total (w.take k)
  (upto ps.length).map fun p =>
    if p = 0 then (0, nth ps 0 0)
    else
      let i := min n (((upto (n + 1)).find? fun i => decide (1 ≤ i) && decide (p * T ≤ ps.length * W (i - 1))).getD n)
      ((nth ls (i - 1) (0, { key := 0, blk := 0 })).2.key, nth ps p 0)

def stakeBytes (t : List Stake) : List Byte := (t.map fun x => toBytes 16 (x.1 + x.2 * 2 ^ 64)).flatten

/-- Directories of all clusters changed by `g`; none is an acre error. -/
def eachDir (s : State) (u : KUnit) (g : Nat → List Dir → List Dir) : Option State :=
  (upto 256).foldl (fun s c => match s with
    | none => none
    | some s => match readDir s u c with
      | none => none
      | some es => writeDir s u c es (g c es)) (some s)

/-- The commit (13 R323): the pending table becomes current, and the `kbal` is done. -/
def commitBal (s : State) (u : KUnit) (a : Ast) : Option State :=
  let o := (s.op u.op).getD {}
  let moved := (nth o.args 8 0).toNat
  (writeAst s u (s.furrow o.furrow).cluster
    { a with cur := 1 - a.cur, gen := (a.gen + 1) % 2 ^ 16, lcnt := a.pcnt, pcnt := 0, moved, last := 0, bal := 2, left := 0 }).map fun s =>
    putResults (s.modCtx u.ctx fun c => { c with acres := tput c.acres u.no (some { u.acre with lastCount := a.lcnt, agent := some ((s.furrow o.furrow).cluster, o.pts) }) }) o 0 (resultWords s.tick [statusOf 0 o.gen16.toNat])

/-- A balance is published: marked and arriving entries, and the first moves (13 R321). -/
def publishBal (s : State) (u : KUnit) (a : Ast) (t : List Stake) (moving : List (Nat × Dir × Nat)) (blocks : List Nat) : Option State :=
  let I := (s.furrow ((s.op u.op).getD {}).furrow).cluster
  match unitWrite s u I (localBase u (1 - a.cur)) (stakeBytes t) with
  | none => none
  | some s =>
    let a := { a with pcnt := t.length, left := moving.length, bal := 1 }
    match writeAst s u I a, setPoolBits s u I true blocks with
    | some _, some _ =>
      match (writeAst s u I a).bind fun s => setPoolBits s u I true blocks with
      | none => none
      | some s =>
        let s := s.modOp u.op fun o => { o with args := o.args.take 8 ++ [.ofNat 32 moving.length], begun := true }
        let withBlk := moving.zip blocks
        let change (c : Nat) (es : List Dir) : List Dir :=
          withBlk.foldl (fun es m =>
            let es := if m.1.1 = c then modDir es m.1.2.1.key fun e => { e with mv := true, dest := m.1.2.2 } else es
            if m.1.2.2 = c then insertDir { key := m.1.2.1.key, blk := blockAddr u m.2, st := 2 } es else es) es
        match eachDir s u change with
        | none => none
        | some s =>
          if moving = [] then commitBal s u a
          else
            moving.foldl (fun s m => match s with
              | none => none
              | some s => if m.2.1.pin = 0 then startMove s u m.1 m.2.1.key else some s) (some s)
    | _, _ => none

/-- The `kbal` request (13 R320): a code that ends it, or none when it goes on until its commit. -/
def answerKbal (s : State) (o : Op) (u : KUnit) : Option (Option Nat × State) :=
  let f := s.furrow o.furrow
  let plot := s.plot f.plot
  let l := s.launch plot.launch
  match readAst s u f.cluster with
  | none => none
  | some a =>
    let ps := (upto 256).filter fun c => (ofBytes (bytesOf (o.args.take 8))).testBit c
    if a.bal ≠ 0 ∨ plot.pins ≠ 0 ∨ (l.record.place = 1 ∧ l.record.acre = u.no) then some (some 6, s)
    else if ps = [] then some (some 15, s)
    else
      match allLeaves s u with
      | none => none
      | some ls =>
        match eachDir s u fun _ es => es.map fun e => { e with cost := 0 } with
        | none => none
        | some s =>
          let finish (s : State) (code : Nat) : Option (Option Nat × State) :=
            (writeAst s u f.cluster { a with last := code }).map (some code, ·)
          if ls = [] then finish s 0
          else
            let t := balance ls ps
            let moving := (ls.map fun x => (x.1, x.2, stakeOwner t x.2.key)).filter fun x => x.2.2 != x.1
            let crowded := (upto 256).any fun c =>
              decide (u.acre.nent < (ls.filter fun x => x.1 == c).length + (moving.filter fun m => m.2.2 == c).length)
            match takeFree s u f.cluster moving.length with
            | none => none
            | some (blocks, s) =>
              if crowded ∨ blocks.length < moving.length then finish s 11
              else (publishBal s u a t moving blocks).map (none, ·)

/-! ### Requests at the units (13 R312, R325) -/

def keyReleases : Instr → Bool
  | .kunpin _ _ | .kref _ _ | .kmrg _ _ | .kbal _ _ | .kacre _ _ => true
  | _ => false
def keyAcquires : Instr → Bool
  | .klook _ _ | .knbr _ _ | .kpin _ _ | .kiter _ _ => true
  | _ => false

/-- The key that a thread's request routes: the neighbour for `knbr` (13 R312, R313). -/
def routedKey (o : Op) (u : KUnit) (t : Nat) : Nat :=
  match o.instr with
  | .knbr _ _ => (keyNeighbour u.acre.dims (targKey o t) (fld (targ o t 2).toNat 8 3)).getD 0
  | _ => targKey o t

/-- The cluster whose key unit finds a request's acre error (13 R328): the issuer's for the status and the tables, the owner's for its directory. -/
def errorUnit (s : State) (o : Op) (u : KUnit) (t : Nat) : Nat :=
  let home := (s.furrow o.furrow).cluster
  match o.instr with
  | .kbal _ _ => badDir s u home
  | .kref _ _ | .kmrg _ _ | .kiter _ _ | .kcut _ _ _ | .kacre _ _ => home
  | _ =>
    match readAst s u home with
    | none => home
    | some a =>
      match readStakes s u home (u.acre.cost.toNat + 16384) a.dcnt, tableOf s u home a (keyGen o t) with
      | some dev, some tb =>
        let k := routedKey o u t
        if stakeOwner dev k ≠ s.pkg.devno.toNat then home
        else
          match findAt s u tb (keyGen o t) false (stakeOwner tb k) k with
          | some (.inr o') => o'
          | _ => stakeOwner tb k
      | _, _ => home

/-- The ranges that the key units read for a thread's request, each with the cluster of the unit (13 R312 to R320, 12 R295). -/
def keyReads (s : State) (o : Op) (u : KUnit) (t : Nat) : List (Nat × Nat × Nat) :=
  let home := (s.furrow o.furrow).cluster
  match readAst s u home with
  | none => []
  | some a =>
    let dir := dirRange s u
    let status := (home, u.acre.cost.toNat, 64)
    let device := (home, u.acre.cost.toNat + 16384, 16 * a.dcnt)
    let current := (home, localBase u a.cur, 16 * a.lcnt)
    match o.instr with
    | .kref _ _ | .kiter _ _ => [status, dir home]
    | .kmrg _ _ => [status, device, current, (home, localBase u (1 - a.cur), 16 * a.pcnt), dir home]
    | .kcut _ _ n => [status, if n = 0 then current else if n = 1 then (home, localBase u (1 - a.cur), 16 * a.pcnt) else device]
    | .kbal _ _ => status :: (upto 256).map dir
    | _ =>
      let g := keyGen o t
      let table := if g = a.gen ∨ u.acre.lastCount = 0 then current else (home, localBase u (1 - a.cur), 16 * u.acre.lastCount)
      let k := routedKey o u t
      let owner := stakeOwner ((tableOf s u home a g).getD []) k
      let answering := ((findKey s u home g k).map (·.2)).getD owner
      [status, device, table] ++ (if owner = answering then [dir owner] else [dir owner, dir answering])

/-- A range that a key unit has not read before, by its leaf's accessed bit (11 R278). -/
def unitUnmarked (s : State) (u : KUnit) (r : Nat × Nat × Nat) : Bool := spanUnmarked s (u.agent r.1) r.2.1 (r.2.2 / 65536 + 2) r.2.2

/-- One thread's request is carried out as far as it can be: some state when it made progress. -/
def keyStep (s : State) (o : Op) (t : Nat) : Option State :=
  let s := if keyReleases o.instr then
      let s := releaseStamp s o
      s.modOp o.id fun x => { x with pts := (s.furrow o.furrow).pts }
    else s
  let no := keyAcre o t
  match o.instr with
  | .kacre _ _ =>
    let (code, gen, s) := answerKacre s o
    some (putResults s o 0 [.ofNat 32 (code + gen.getD (Config.unstated s.tick).toNat % 2 ^ 16 * 2 ^ 16)])
  | i =>
    match unitOf s o no with
    | none => some (putResults s o t (errorWords s o t))
    | some u =>
      let reads := keyReads s o u t
      let failed := fun (s : State) => putResults (acreError (unitMarks s u reads) u (errorUnit s o u t)) o t (errorWords s o t)
      if u.acre.err then some (putResults s o t (errorWords s o t))
      else
        let code (r : Option (Nat × State)) : Option State := match r with
          | none => some (failed s)
          | some (c, s) => some (putResults s o 0 (resultWords s.tick [statusOf c o.gen16.toNat]))
        let words (r : Option (List Word)) : Option State := match r with
          | none => some (failed s)
          | some ws => some (putResults (unitMarks s u reads) o 0 ws)
        match i with
        | .kref _ _ => code (answerKref (unitMarks s u reads) o u)
        | .kmrg _ _ => code (answerKmrg (unitMarks s u reads) o u)
        | .kiter _ _ => words (answerKiter s o u)
        | .kcut _ _ n => words (answerKcut s o u n.toNat)
        | .kbal _ _ =>
          if o.begun then none
          else
            match answerKbal (unitMarks s u reads) o u with
            | none => some (failed s)
            | some (some c, s) => some (putResults s o 0 (resultWords s.tick [statusOf c o.gen16.toNat]))
            | some (none, s) => some s
        | _ =>
          match answerThread (unitMarks s u reads) o u t with
          | none => some (failed s)
          -- held at its unit, which has read what it looks at
          | some (none, _) => if reads.any (unitUnmarked s u) then some (unitMarks s u reads) else none
          | some (some ws, s) => some (putResults s o t ws)

/-- The highest write stamp of the lines of the blocks an answer returned (13 R325). -/
def blockStamp (s : State) (u : KUnit) (cluster a : Nat) : BitVec 48 :=
  let n := 2 ^ u.acre.lsz
  match agentSpan s (u.agent cluster) .read a (n / 65536 + 2) n with
  | none => 0
  | some l => (spanPieces l n).foldl (fun w p => smax w (s.line p.1).wts) 0

/-- The result registers of a key operation (13 R309, R311). -/
def keyDeliver (f : Furrow) (o : Op) : Furrow :=
  let word (t j : Nat) : Word := tget o.results (8 * t + j) 0
  let vec (d n : Nat) : Furrow :=
    let f := (threads f.width o.act).foldl (fun f t => (upto n).foldl (fun f j => f.vset (d + j) t (word t j)) f) f
    (threads f.width o.zero).foldl (fun f t => (upto n).foldl (fun f j => f.vset (d + j) t 0) f) f
  let sca (d n : Nat) : Furrow := (upto n).foldl (fun f j => f.sset (d + j) (word 0 j)) f
  match o.instr with
  | .klook d _ | .knbr d _ | .kpin d _ => vec d.toNat 8
  | .kunpin d _ | .kcost d _ => vec d.toNat 2
  | .kiter d _ | .kcut d _ _ => sca d.toNat 8
  | .kref d _ | .kmrg d _ | .kbal d _ | .kacre d _ => sca d.toNat 1
  | _ => f

/-- All answers are there: results, stamps and the acquire part (13 R325). -/
def finishKey (s : State) (o : Op) : State :=
  let cluster := (s.furrow o.furrow).cluster
  let seen := if keyAcquires o.instr then
      (keyThreads s o).foldl (fun w t =>
        match unitOf s o (keyAcre o t) with
        | none => w
        | some u =>
          let a := (tget o.results (8 * t + 4) 0).toNat + (tget o.results (8 * t + 5) 0).toNat * 2 ^ 32
          if a = 0 then w else smax w (blockStamp s u cluster a)) (0 : BitVec 48)
    else 0
  let s := takeStamps s { o with rmax := smax o.rmax seen }
  let s := if keyAcquires o.instr then s.modFurrow o.furrow fun f => { f with pts := smax f.pts f.seen } else s
  finishOp (s.modFurrow o.furrow fun f => keepEarly o f (keyDeliver f o)) o

/-- The first thread without an answer that is not held, with the state it leads to. -/
def keyProgress (s : State) (o : Op) : Option State :=
  if keyReleases o.instr && !o.after.all (opDone s) then none
  else (unanswered s o).findSome? fun t => keyStep s o t

def keyFinished (s : State) (o : Op) : Bool := (unanswered s o).isEmpty && o.after.all (opDone s)

def keyReady (s : State) (o : Op) : Bool := o.kind == .key && !o.done && (keyFinished s o || (keyProgress s o).isSome)

/-- A key request reaches its unit and is answered, or the whole instruction completes (13 R312). -/
def execKeyRequest (op : Nat) (s : State) : Result :=
  match s.op op with
  | none => .next s
  | some o =>
    .next
      (if o.kind != .key || o.done then s
      else if keyFinished s o then finishKey s o
      else
        match keyProgress s o with
        | none => s
        | some s =>
          match s.op op with
          | some o => if keyFinished s o then finishKey s o else s
          | none => s)

/-! ### Moves and the end of a balance (13 R322, R323) -/

def unitAt (s : State) (ctx no op : Nat) : Option KUnit := (acreAt s ctx no).map fun acre => { ctx, no, acre, op }

/-- The `kbal` in flight on an acre ends with an acre error (13 R328). -/
def failBal (s : State) (u : KUnit) (cluster : Nat) : State :=
  endBalance (acreError s u cluster) u.ctx u.no

/-- The old owner's copy engine carries a leaf's payload (13 R322 step 2). -/
def copyMove (s : State) (cluster : Nat) : State :=
  match (s.cluster cluster).moves.find? fun m => !m.copied with
  | none => s
  | some m =>
    match unitAt s m.ctx m.acre m.op with
    | none => s.modCluster cluster fun c => { c with moves := c.moves.filter fun x => x != m }
    | some u =>
      if u.acre.err then s.modCluster cluster fun c => { c with moves := c.moves.filter fun x => x != m } else
      let n := 2 ^ u.acre.lsz
      let pts := ((s.op m.op).getD {}).pts
      match agentSpan s (u.agent cluster) .read m.old.toNat (n / 65536 + 2) n, agentSpan s (u.agent cluster) .write m.new.toNat (n / 65536 + 2) n with
      | some a, some b =>
        let s := spanUse s (u.agent cluster) .read m.old.toNat (n / 65536 + 2) n
        let s := spanUse s (u.agent cluster) .write m.new.toNat (n / 65536 + 2) n
        let (bs, r, s) := readSpan s (u.issuer s cluster) pts (spanPieces a n)
        let (w, s) := writeSpan s (u.issuer s cluster) pts (spanPieces b n) bs
        let s := s.modOp m.op fun o => { o with wmax := smax o.wmax w, rmax := smax o.rmax r }
        s.modCluster cluster fun c => { c with lastQueue := 4, moves := c.moves.map fun x => if x = m then { x with copied := true } else x }
      | _, _ => failBal s u cluster

/-- A copied leaf is handed over (13 R322 step 3); the last one commits (R323). -/
def handOver (s : State) (cluster : Nat) (m : Move) (u : KUnit) : Option State :=
  let k := m.key.toNat
  match readDir s u m.dest, readDir s u cluster with
  | some ns, some os =>
    let s := unitMarks s u [dirRange s u m.dest, dirRange s u cluster, (cluster, u.acre.cost.toNat, 64)]
    match writeDir s u m.dest ns (modDir ns k fun e => if e.st = 2 then { e with st := 0, cost := 0, pin := 0 } else e) with
    | none => none
    | some s =>
      match writeDir s u cluster os (modDir os k fun e => { e with st := 3 }) with
      | none => none
      | some s =>
        match setPoolBit s u cluster (blockNo u m.old.toNat) false with
        | none => none
        | some s =>
          match readAst s u cluster with
          | none => none
          | some a =>
            let a := { a with left := a.left - 1 }
            match writeAst s u cluster a with
            | none => none
            | some s => if a.left = 0 then commitBal s u a else some s
  | _, _ => none

def execLeafHandover (ctx acre cluster : Nat) (key : BitVec 64) (s : State) : Result :=
  match (s.cluster cluster).moves.find? fun m => m.ctx == ctx && m.acre == acre && m.key == key && m.copied with
  | none => .next s
  | some m =>
    let s1 := s.modCluster cluster fun c => { c with moves := c.moves.filter fun x => x != m }
    match unitAt s1 ctx acre m.op with
    | none => .next s1
    | some u =>
      if u.acre.err then .next s1 else
      match handOver s1 cluster m u with
      | some s => .next s
      | none => .next (failBal s1 u cluster)

/-- Requests of an older generation that a unit still holds. -/
def oldRequests (s : State) (ctx no : Nat) (g : Nat) : Bool :=
  s.ops.any fun o => o.kind == .key && !o.done && opCtx s o == ctx &&
    (unanswered s o).any fun t => keyAcre o t == no && keyGen o t != g

def drainReady (s : State) (ctx no : Nat) : Bool :=
  match unitAt s ctx no 0 with
  | some u =>
    match readAst s u 0 with
    | some a => !u.acre.err && a.bal == 2 && !oldRequests s ctx no a.gen
    | none => false
  | none => false

/-- The forward entries are removed and the acre is idle again (13 R323 step 4): accesses for the agent of the `kbal`, whose operation is complete
(12 R295). -/
def execKbalDrain (ctx acre : Nat) (s : State) : Result :=
  match unitAt s ctx acre 0 with
  | none => .next s
  | some u =>
    .next
      (if !drainReady s ctx acre then s
      else
        let u := { u with done := u.acre.agent }
        let s := unitMarks s u ((upto 256).map (dirRange s u))
        match (eachDir s u fun _ es => es.filter fun e => e.st != 3).bind fun s =>
            (readAst s u 0).bind fun a => writeAst s u 0 { a with bal := 0 } with
        | some s => s
        | none => acreError s u (badDir s u 0))

end Sys2Proof.Machine
end

