-- ==== Sys2Proof/Machine/Launch.lean ====
section
/-! DEFINITION. The launch record, its checks, its dispatch with the scope entries of its levels, completion signals, and sheaves
(15 R342 to R352, R427). -/

namespace Sys2Proof.Machine

/-! ### The front end's ordered accesses -/

/-- Bytes read as an acquire at device tier (15 R334, R337). -/
def frontAcquire (s : State) (q va n : Nat) : Option (List Byte × State) :=
  (frontRead s q va n).map fun r => (r.1, r.2.2.modDie (q / 64) fun d => { d with pts := smax d.pts r.2.1 })

/-- Bytes written as a release at device tier, after every write that has the stamp `maxw` or a lower one, and after the front end's own
(15 R337, R352, 11 R267). -/
def frontRelease (s : State) (q va : Nat) (bs : List Byte) (maxw : BitVec 48) : Option State :=
  frontWrite (s.modDie (q / 64) fun d => { d with pts := smax d.pts (smax maxw d.maxw + 1) }) q va bs

/-- A range read when it has any bytes. -/
def frontReadSome (s : State) (q va n : Nat) : Option (List Byte × State) :=
  if n = 0 then some ([], s) else (frontRead s q va n).map fun r => (r.1, r.2.2)

/-! ### The record (15 R342, R343) -/

def launchRecOf (x : Nat) : LaunchRec :=
  { code := .ofNat 64 (fld x 0 64), etab := .ofNat 64 (fld x 64 64), csize := .ofNat 32 (fld x 128 32), tvec := .ofNat 32 (fld x 160 32),
    ecnt := fld x 192 6, w := fld x 198 2, vc := fld x 200 5, sc := fld x 205 5, priv := fld x 224 32, pmem := fld x 256 32,
    spill := fld x 288 32, cmem := fld x 320 32, plots := fld x 352 32, fpp := fld x 384 6, place := fld x 390 2, cores := fld x 392 1 == 1,
    prio := fld x 393 3, acre := fld x 396 8, rpp := fld x 404 16, arg := .ofNat 64 (fld x 448 64), sig := .ofNat 64 (fld x 512 64),
    sval := .ofNat 32 (fld x 576 32), sscope := fld x 608 3, mcode := .ofNat 64 (fld x 640 64), metab := .ofNat 64 (fld x 704 64),
    mcsize := .ofNat 32 (fld x 768 32), mtvec := .ofNat 32 (fld x 800 32), msc := fld x 832 5, graph := .ofNat 64 (fld x 896 64),
    nodes := fld x 960 16, levels := (upto 8).map fun i => .ofNat 32 (fld x (992 + 32 * i) 32) }

/-- A reserved bit of the record is set. -/
def recordReserved (x : Nat) : Bool :=
  x / 2 ^ 1248 != 0 || fld x 976 16 != 0 || fld x 837 59 != 0 || fld x 611 29 != 0 || fld x 420 28 != 0 || fld x 210 14 != 0

/-- A declared level word (15 R343). -/
structure LevelWord where
  ext : Nat
  dom : Nat
  slot : Nat
  obs : Nat
  deriving DecidableEq, Repr

/-- The declared levels, in level order. -/
def declaredLevels (r : LaunchRec) : List LevelWord :=
  ((r.levels.map (·.toNat)).filter fun x => fld x 31 1 == 1).map fun x =>
    { ext := fld x 0 20, dom := fld x 20 3, slot := fld x 23 3, obs := fld x 26 5 }

def product (l : List Nat) : Nat := l.foldl (· * ·) 1

/-- How many crofts a launch has. -/
def croftCount (r : LaunchRec) : Nat := (r.plots + plotsPerCroft r - 1) / plotsPerCroft r

/-- The crofts of one unit of a level: what the levels from cluster up to below it multiply to (15 R343). -/
def unitCrofts (r : LaunchRec) (dom : Nat) : Nat :=
  let lv := declaredLevels r
  let low := if lv.any (·.dom == 3) then 3 else 2
  product ((lv.filter fun x => decide (low ≤ x.dom ∧ x.dom < dom)).map (·.ext))

/-! ### The checks (15 R344) -/

def recordRanges (r : LaunchRec) : Bool :=
  r.code.toNat % 64 == 0 && r.etab.toNat % 4 == 0 && r.tvec.toNat % 12 == 0 && decide (1 ≤ r.ecnt ∧ r.ecnt ≤ 32 ∧ r.w < 3
    ∧ 2 ≤ r.vc ∧ r.vc ≤ 16 ∧ 2 ≤ r.sc ∧ r.sc ≤ 16) && r.priv % 4 == 0 && r.pmem % 4 == 0 && r.spill % 16 == 0
    && decide (r.spill ≤ 2048) && r.cmem % 64 == 0 && decide (r.cmem ≤ 0x400000 ∧ 1 ≤ r.plots ∧ 1 ≤ r.fpp ∧ r.fpp ≤ 32 ∧ r.place < 2)
    && (r.place == 0 || decide (1 ≤ r.rpp)) && r.sig.toNat % 8 == 0 && r.mcode.toNat % 64 == 0
    && (r.mcode == 0 || (decide (2 ≤ r.msc ∧ r.msc ≤ 16) && r.mtvec.toNat % 12 == 0))
    && r.graph.toNat % 64 == 0 && decide (r.nodes ≤ 4096) && (declaredLevels r).all fun x => decide (1 ≤ x.ext)

def rising : List Nat → Bool
  | a :: b :: l => decide (a < b) && rising (b :: l)
  | _ => true

def levelRules (r : LaunchRec) : Bool :=
  let lv := declaredLevels r
  let up := (lv.filter fun x => decide (2 ≤ x.dom)).map (·.ext)
  rising (lv.map (·.dom)) && (lv.all fun x => (x.dom != 0 || x.ext == 16 * 2 ^ r.w) && (x.dom != 1 || x.ext == r.fpp))
    && (up == [] || product up == r.plots)

def slotRules (r : LaunchRec) : Bool :=
  let lv := declaredLevels r
  let slots := (lv.filter fun x => x.slot != 0).map (·.slot)
  (lv.all fun x => (x.slot == 0 || decide (3 ≤ x.dom)) && (x.dom != 7 || x.slot != 0)) && slots.length == slots.dedup.length

/-- How many of something of size `need` an empty store of size `cap` holds, at most `most`. -/
def holds (cap need most : Nat) : Nat := if need = 0 then most else min most (cap / need)

/-- Plots of the record that an empty core holds (06 R156). -/
def plotsPerCore (r : LaunchRec) : Nat :=
  let W := 16 * 2 ^ r.w
  holds 8192 (r.fpp * 2 ^ r.w * r.priv)
    (holds scratchBytes (r.pmem + r.fpp * r.spill) (holds 4096 (r.fpp * 8 * r.sc) (holds 65536 (r.fpp * W * 8 * r.vc) (holds 32 r.fpp 32))))

/-- Crofts of the record that an empty cluster holds (08 R207, 15 R345). -/
def croftsPerCluster (r : LaunchRec) : Nat :=
  let k := 4 * plotsPerCore r / plotsPerCroft r
  let k := holds 0x400000 r.cmem k
  if r.mcode = 0 then k else min k 4

/-- Crofts that the whole device holds, with the units of cluster group and die kept together (15 R343, R345). -/
def croftsPerDevice (r : LaunchRec) : Nat :=
  let has (d : Nat) : Bool := (declaredLevels r).any (·.dom == d)
  let whole (cap dom : Nat) : Nat := if has dom then cap / max 1 (unitCrofts r dom) * unitCrofts r dom else cap
  4 * whole (8 * whole (8 * croftsPerCluster r) 4) 5

/-- The code of the first failing check from 2 on, 0 when none fails. -/
def recordCode (s : State) (ctx : Nat) (r : LaunchRec) : Nat :=
  if !recordRanges r then 2
  else if !levelRules r then 3
  else if !slotRules r then 4
  else if r.place = 1 ∧ (acreAt s ctx r.acre).isNone then 5
  else if croftsPerCluster r = 0 then 6
  else if r.cores ∧ croftsPerDevice r < croftCount r then 7
  else if (r.graph = 0) ≠ (r.nodes = 0) then 8
  else 0

/-- What reading and checking a record gives: the code, the record when it could be read, the entry table and the stream's entry. -/
structure CheckedRecord where
  code : Nat
  rec_ : Option LaunchRec := none
  table : List Word := []
  stream : Word := 0

def checkRecord (s : State) (q addr : Nat) (sheaf : Bool) : CheckedRecord × State :=
  if addr % 64 ≠ 0 then ({ code := 1 }, s)
  else
    match frontAcquire s q addr 256 with
    | none => ({ code := 1 }, s)
    | some (bs, s) =>
      let x := ofBytes bs
      let r := launchRecOf x
      if recordReserved x then ({ code := 1, rec_ := some r }, s)
      else
        match frontReadSome s q r.etab.toNat (4 * r.ecnt) with
        | none => ({ code := 1, rec_ := some r }, s)
        | some (t, s) =>
          match frontReadSome s q r.metab.toNat (if r.mcode = 0 then 0 else 4) with
          | none => ({ code := 1, rec_ := some r }, s)
          | some (m, s) =>
            let code := if sheaf ∧ recordRanges r ∧ r.plots ≠ 1 then 2 else recordCode s (s.queue q).ctx r
            ({ code, rec_ := some r, table := wordsOf t, stream := (wordsOf m).headD 0 }, s)

/-! ### Signals (15 R352) -/

/-- The completion signal of a record, or a record of kind 11 when its word cannot be written. -/
def writeSignal (s : State) (q : Nat) (r : LaunchRec) (addr : Dword) (ticket : Word) (status : Nat) (maxw : BitVec 48) : State :=
  if r.sig = 0 then s
  else
    match frontRelease s q r.sig.toNat (toBytes 8 (r.sval.toNat + 2 ^ 32 * status)) maxw with
    | some s => s
    | none => queueNote s q 11 false none none none none (some ticket) none none (some (.ofNat 32 status)) (some addr.toNat)

/-! ### Level scopes (15 R346) -/

/-- The clusters of the unit of a domain that a cluster stands in. -/
def unitMap (dom cluster : Nat) : BitVec 256 :=
  match dom with
  | 3 => 1 <<< cluster
  | 4 => (255 : BitVec 256) <<< (cluster / 8 * 8)
  | 5 => (BitVec.ofNat 256 (2 ^ 64 - 1)) <<< (cluster / 64 * 64)
  | _ => BitVec.ofNat 256 (2 ^ 256 - 1)

/-- An entry as a cluster's copy holds it. -/
def copyOf (x : Scope) (cluster : Nat) : Scope :=
  match x.level with
  | some d => { x with map := unitMap d cluster }
  | none => x

def defaultObs (dom : Nat) : Nat := if dom = 3 ∨ dom = 4 then 7 else if dom = 7 then 9 else 1

/-- A level's entry installed in the master and in every copy, as a completed `scopeset`. -/
def installLevel (s : State) (ctx : Nat) (l : LevelWord) : State :=
  if l.slot = 0 then s
  else
    let old := tget (s.ctx ctx).scopes l.slot {}
    let x : Scope := { map := unitMap 6 0, obs := .ofNat 5 (if l.obs = 0 then defaultObs l.dom else l.obs), gen := old.gen + 1, level := some l.dom }
    let s := s.modCtx ctx fun c => { c with scopes := tput c.scopes l.slot x }
    markStale { s with clusters := s.clusters.map fun c =>
      (c.1, if (tget c.2.scopes (8 * ctx + l.slot) none).isSome then { c.2 with scopes := tput c.2.scopes (8 * ctx + l.slot) (some (copyOf x c.1)) }
        else c.2) } ctx l.slot x.gen

/-- A cluster's copy of the context's table, loaded before the first group of the context's first plot or stream there (11 R264). -/
def loadScopes (s : State) (ctx cluster : Nat) : State :=
  s.modCluster cluster fun c => { c with scopes := [1, 2, 3, 4, 5, 6, 7].foldl (fun t n =>
    if (tget t (8 * ctx + n) none).isSome then t else tput t (8 * ctx + n) (some (copyOf (tget (s.ctx ctx).scopes n {}) cluster))) c.scopes }

/-! ### Dispatch (15 R344) -/

/-- A checked record becomes a launch, or is refused with a record of kind 3 and the signal: the code. A launch of a queue under destruction
loses all of its plots at once (15 R359). -/
def dispatch (s : State) (q : Nat) (addr : Dword) (ticket : Word) (sheaf : Option SheafRef) : Nat × State :=
  let (c, s) := checkRecord s q addr.toNat sheaf.isSome
  match c.code, c.rec_ with
  | 0, some r =>
    let (id, s) := s.fresh
    let gone := (s.queue q).qstat == 2
    let l : Launch :=
      { id, queue := q, ticket, ctx := (s.queue q).ctx, addr, record := r, crofts := croftCount r, entryTable := c.table,
        streamEntry := c.stream, divided := r.place == 0, sheaf, aborted := gone, next := if gone then croftCount r else 0 }
    (0, noteOver ((declaredLevels r).foldl (fun s x => installLevel s l.ctx x) { s with launches := tput s.launches id l }) id)
  | code, r =>
    let s := queueNote s q 3 false none none none none (some ticket) none none (some (.ofNat 32 code)) (some addr.toNat)
    (code, match r with
      | some r => writeSignal s q r addr ticket 3 0
      | none => s)

/-! ### Sheaves (15 R349 to R351) -/

structure Node where
  lr : Dword
  buf : Dword
  timer : Nat
  size : Nat

def nodeOf (x : Nat) : Node :=
  { lr := .ofNat 64 (fld x 256 64), buf := .ofNat 64 (fld x 192 64), timer := fld x 160 32, size := fld x 128 8 }

def readNode (s : State) (q at_ : Nat) : Option Node := (frontPeek s q at_ 64).map fun bs => nodeOf (ofBytes bs)

/-- The gathering state of a node, none of it while bits 127:0 of its entry are 0, as software writes them (15 R349). -/
def nodeState (s : State) (q at_ : Nat) : NodeState :=
  match frontPeek s q at_ 16 with
  | some bs => if ofBytes bs = 0 then {} else tget (s.ctx (s.queue q).ctx).nodes at_ {}
  | none => tget (s.ctx (s.queue q).ctx).nodes at_ {}

/-- A node's state is kept. What stands for it in bits 127:0 of the entry, whose layout the manual does not give, is a free value that is 0
only for a node that gathers nothing (15 R349; log entry 41). -/
def setNode (s : State) (q at_ : Nat) (n : NodeState) : State :=
  let s := s.modCtx (s.queue q).ctx fun c => { c with nodes := tput c.nodes at_ n }
  let bits := if n = {} then 0 else freeData s.tick % (2 ^ 128 - 1) + 1
  (frontWrite { s with tick := s.tick + 4 } q at_ (toBytes 16 bits)).getD s

/-- The sheaf in the filling buffer is launched, and the other buffer becomes the filling one (15 R351). -/
def launchNow (s : State) (q at_ : Nat) (n : Node) (ticket : Word) : State :=
  let st := nodeState s q at_
  let s := setNode s q at_ { st with fill := 0, buffer := 1 - st.buffer, busy := st.buffer :: st.busy, pending := false }
  let ref : SheafRef := { node := at_, buffer := st.buffer, count := st.fill, address := n.buf + .ofNat 64 (2048 * st.buffer) }
  match dispatch s q n.lr ticket (some ref) with
  | (0, s) => s
  | (_, s) =>
    let st' := nodeState s q at_
    setNode s q at_ { st' with busy := st'.busy.filter (· != st.buffer) }

/-- A sheaf is due. While the other buffer's launch is open the free value decides whether it is launched now or when that launch is over:
15 R350 speaks of a full buffer beside an open launch, R351 of a launch at once. -/
def launchSheaf (s : State) (q at_ : Nat) (n : Node) (ticket : Word) : State :=
  let st := nodeState s q at_
  if st.fill = 0 ∨ st.busy.contains st.buffer ∨ st.pending then s
  else if st.busy = [] then launchNow s q at_ n ticket
  else
    let (k, s) := s.draw
    if k % 2 = 1 then launchNow s q at_ n ticket else setNode s q at_ { st with pending := true }

/-- The launch of a sheaf is over: its buffer may be used again, and a sheaf that waited for it is launched. -/
def releaseSheaf (s : State) (q : Nat) (r : SheafRef) (ticket : Word) : State :=
  let st := nodeState s q r.node
  let st := { st with busy := st.busy.filter (· != r.buffer) }
  let s := setNode s q r.node st
  if st.pending then
    match readNode s q r.node with
    | some n => launchNow s q r.node n ticket
    | none => s
  else s

/-- What came of an offer: taken, refused with a status, or refused with a status that the manual does not give. -/
def offerRecord (s : State) (l : Launch) (n : Nat) (bs : List Byte) (pts : BitVec 48) : Option Word × State :=
  if l.record.graph = 0 ∨ l.record.nodes ≤ n then (some 2, s)
  else
    let at_ := l.record.graph.toNat + 64 * n
    match readNode s l.queue at_ with
    | none => (none, s)
    | some nd =>
      let st := nodeState s l.queue at_
      if st.busy.contains st.buffer ∨ st.pending ∨ 64 ≤ st.fill then (some 1, s)
      else
        let s1 := s.modDie (l.queue / 64) fun d => { d with pts := smax d.pts pts }
        match frontWrite s1 l.queue (nd.buf.toNat + 2048 * st.buffer + 32 * st.fill) bs with
        | none => (none, s)
        | some s =>
          let s := setNode s l.queue at_ { st with fill := st.fill + 1, launch := l.id }
          (some 0, if nd.size ≤ st.fill + 1 ∨ st.fill + 1 = 64 then launchSheaf s l.queue at_ nd l.ticket else s)

/-- A node whose timer is set and whose sheaf has begun: its cycles may have passed at any step (log entry 8). -/
def timerReady (s : State) (l : Launch) (n : Nat) : Bool :=
  let at_ := l.record.graph.toNat + 64 * n
  let st := nodeState s l.queue at_
  (s.queue l.queue).qstat != 0 && l.record.graph != 0 && decide (n < l.record.nodes) && st.launch == l.id && st.fill != 0 && !st.busy.contains st.buffer && !st.pending &&
    (match readNode s l.queue at_ with
      | some nd => nd.timer != 0
      | none => false)

/-- A node's timer expires: its sheaf is launched (15 R351). -/
def execSheafTimerExpire (launch node : Nat) (s : State) : Result :=
  match tfind s.launches launch with
  | none => .next s
  | some l =>
    .next
      (if timerReady s l node then
        match readNode s l.queue (l.record.graph.toNat + 64 * node) with
        | some nd => launchSheaf s l.queue (l.record.graph.toNat + 64 * node) nd l.ticket
        | none => s
      else s)

end Sys2Proof.Machine
end

