-- ==== Sys2Proof/Machine/Drill.lean ====
section
/-! DEFINITION. Queues: reservation, the check of a drill program at enable, packets, and the drill's operations on the queue `dq`
(15 R331 to R341, R427). -/

namespace Sys2Proof.Machine

/-! ### The check of a program (15 R339) -/

/-- A word of a program as the check sees it. -/
structure DrillWord where
  op : Nat
  a : Nat
  b : Nat
  imm : Nat

def drillWord (w : Word) : DrillWord :=
  { op := fld w.toNat 26 6, a := fld w.toNat 21 5, b := fld w.toNat 16 5, imm := fld w.toNat 0 16 }

def DrillWord.branches (w : DrillWord) : Bool := decide (14 ≤ w.op ∧ w.op ≤ 16)
def DrillWord.len (w : DrillWord) : Nat := w.imm / 256
def DrillWord.count (w : DrillWord) : Nat := w.imm % 256

/-- The word at index `i` of a program of `n` words is legal by itself; a branch or a loop body may end at the program's end. -/
def wordLegal (n i : Nat) (word : Word) : Bool :=
  let w := drillWord word
  (match decodeDrill word with
    | .ok _ => true
    | .error _ => false) && decide (w.a ≤ 15 ∧ w.b ≤ 15)
    && (!(decide (2 ≤ w.op ∧ w.op ≤ 5)) || decide (w.imm / 4096 % 8 ≤ 5))
    && (w.op != 21 || w.imm % 4 != 3)
    && (!w.branches || decide (1 ≤ w.imm ∧ i + 1 + w.imm ≤ n))
    && (w.op != 17 || decide (1 ≤ w.count ∧ 1 ≤ w.len ∧ i + 1 + w.len ≤ n))

/-- The loops of a program: where their word stands and where their body ends. -/
def programLoops (p : List Word) : List (Nat × Nat) :=
  (p.zipIdx.filter fun x => (drillWord x.1).op == 17).map fun x => (x.2, x.2 + 1 + (drillWord x.1).len)

/-- A branch stays within the bodies it stands in; loops are at most three deep. -/
def wordNested (loops : List (Nat × Nat)) (i : Nat) (word : Word) : Bool :=
  let w := drillWord word
  let around := loops.filter fun l => decide (l.1 < i ∧ i < l.2)
  (!w.branches || around.all fun l => decide (i + 1 + w.imm ≤ l.2)) && (w.op != 17 || decide (around.length < 3))

/-- The longest count of words with which a word is reached, and the counts after the words run in the last iteration. -/
structure Reach where
  arr : NMap Nat := []
  most : NMap Nat := []

def Reach.arrive (r : Reach) (i c : Nat) : Reach := { r with arr := tput r.arr i (max (tget r.arr i 0) c) }

/-- What a path carries beyond word `stop` out of a loop's body that ran from the count `c` on: the body of a loop in it reaches past its own
end, and the outer loop is over there (log entry 69). -/
def Reach.escape (r b : Reach) (stop c : Nat) : Reach :=
  b.arr.foldl (fun r x => if stop < x.1 then r.arrive x.1 (c + x.2) else r) r

/-- The paths of a program from word `i` to `e`; `rec_` notes the counts (15 R339). The body of a loop runs its iterations, and once more
from each word that a branch from before the loop reaches. -/
def paths (p : List Word) (rec_ : Bool) : Nat → Nat → Nat → Reach → Reach
  | 0, _, _, r => r
  | fuel + 1, i, e, r =>
    if e ≤ i then r
    else
      match tfind r.arr i with
      | none => paths p rec_ fuel (i + 1) e r
      | some c =>
        let w := drillWord (nth p i 0)
        let r := if rec_ then { r with most := tput r.most i (max (tget r.most i 0) (c + 1)) } else r
        if w.op = 17 then
          let stop := i + 1 + w.len
          let body := paths p false fuel (i + 1) stop { arr := [(i + 1, 0)] }
          let start := c + 1 + (match tfind body.arr stop with
            | none => 0
            | some b => (w.count - 1) * b)
          let r := if rec_ then { r with most := (paths p true fuel (i + 1) stop { arr := [(i + 1, start)], most := r.most }).most } else r
          let r := (match tfind body.arr stop with
            | none => r
            | some b => r.arrive stop (start + b)).escape body stop start
          paths p rec_ fuel (i + 1) e r
        else
          let r := if w.branches then r.arrive (i + 1 + w.imm) (c + 1) else r
          let r := if w.op = 23 ∨ w.op = 25 then r else r.arrive (i + 1) (c + 1)
          paths p rec_ fuel (i + 1) e r

/-- The index of the first word that fails the check; none for a program that passes. -/
def programFault (p : List Word) : Option Nat :=
  let n := p.length
  let loops := programLoops p
  match p.zipIdx.find? fun x => !(wordLegal n x.2 x.1 && wordNested loops x.2 x.1) with
  | some x => some x.2
  | none => ((paths p true (n + 1) 0 n { arr := [(0, 0)] }).most.find? fun x => decide (512 < x.2)).map (·.1)

/-- The words of a program as far as they can be read, one after another. -/
def programWords (s : State) (q at_ : Nat) : Nat → List Word × State
  | 0 => ([], s)
  | n + 1 =>
    match frontRead s q at_ 4 with
    | some (bs, _, s) =>
      let (ws, s) := programWords s q (at_ + 4) n
      (.ofNat 32 (ofBytes bs) :: ws, s)
    | none => ([], s)

/-- The fields of `qcfg` (15 R332). -/
def setConfig (Q : Queue) (cfg : Word) : Queue :=
  { Q with lsz := fld cfg.toNat 0 4, pri := fld cfg.toNat 4 3, ctx := fld cfg.toNat 7 6 }

/-- Whether the device lets a queue be enabled: not before `bootst` reads 5 (17 R370). -/
def booted (s : State) : Bool := s.pkg.power && s.pkg.bootst == 5

/-- A write of `qcfg` (15 R332, R339). -/
def execQueueEnable (queue : Nat) (cfg : BitVec 32) (s : State) : Result :=
  .next
    (if (s.queue queue).en ∨ 256 ≤ queue then s
    else
      let s := s.modQueue queue fun Q => setConfig Q cfg
      let Q := s.queue queue
      if fld cfg.toNat 13 1 = 0 ∨ Q.lsz < 4 ∨ 12 < Q.lsz ∨ !booted s then s
      else
        let fail := fun (s : State) (i : Nat) =>
          queueNote (s.modQueue queue fun Q => { Q with qstat := 5 }) queue 6 false none none none none none none none (some (.ofNat 32 i)) (some i)
        if Q.qplen < 1 ∨ 1024 < Q.qplen then fail s 0
        else
          let (p, s) := programWords s queue (Q.qprog.toNat / 4 * 4) Q.qplen
          if p.length < Q.qplen then fail s p.length
          else
            match programFault p with
            | some i => fail s i
            | none =>
              s.modQueue queue fun Q =>
                { Q with en := true, qstat := 1, qtk := 0, qrd := 0, lost := 0, g := [], program := p, inPacket := false, pc := 0, loops := [],
                         levels := [], saved := 0, refusedSaves := [], drillStopped := false, overs := [] })

/-- A read of `qres` by the host (15 R333): the answer goes to the host, the reservation stays. -/
def execQresRead (queue : Nat) (s : State) : Result := .next (reserve s queue).2

/-! ### Packets (15 R334, R335) -/

def Queue.slotOf (Q : Queue) (t : Word) : Nat := t.toNat % 2 ^ Q.lsz

/-- The byte of the commit bitmap that holds the bit of `qrd`. -/
def Queue.bitByte (Q : Queue) : Nat := Q.qbmap.toNat / 64 * 64 + Q.slotOf Q.qrd / 8

/-- The commit bit of the next ticket; none when it cannot be read. -/
def commitBit (s : State) (q : Nat) : Option Bool :=
  (frontPeek s q (s.queue q).bitByte 1).map fun bs => (ofBytes bs).testBit ((s.queue q).slotOf (s.queue q).qrd % 8)

/-- The bit cannot be read or cleared: the queue stops (15 R427). -/
def stickQueue (s : State) (q : Nat) : State :=
  let t := (s.queue q).qrd
  queueNote (s.modQueue q fun Q => { Q with qstat := 5, inPacket := false, levels := [], loops := [] }) q 4 false none none none none (some t)
    none none none none

/-- The drill of a queue may run: enabled, running, not held by a full fault ring (15 R354). -/
def drillMay (s : State) (q : Nat) : Bool :=
  let Q := s.queue q
  Q.en && Q.qstat == 1 && !Q.drillStopped && Q.held == [] && !queueRingFull s q

/-- A packet begins (15 R336): g1 is its address and g2 its ticket or index. -/
def beginPacket (Q : Queue) (addr : Dword) (number : Nat) : Queue :=
  { Q with inPacket := true, pc := 0, pkt := addr, loops := [], g := tset (tset Q.g 1 0 addr) 2 0 (.ofNat 64 number) }

/-- The drill takes the next ring packet (15 R334). -/
def execDrillPacketStart (queue : Nat) (s : State) : Result :=
  .next
    (if !drillMay s queue || (s.queue queue).inPacket then s
    else
      let Q := s.queue queue
      match frontAcquire s queue Q.bitByte 1 with
      | none => stickQueue s queue
      | some (bs, s') =>
        if (ofBytes bs).testBit (Q.slotOf Q.qrd % 8) then
          s'.modQueue queue fun Q => beginPacket Q (.ofNat 64 (Q.qbase.toNat / 64 * 64 + 64 * Q.slotOf Q.qrd)) Q.qrd.toNat
        else s')

/-- The ring packet is finished: its bit is cleared and `qrd` rises (15 R334). -/
def retirePacket (s : State) (q : Nat) : State :=
  let Q := s.queue q
  let clear (bs : List Byte) : Option State := frontWrite s q Q.bitByte [bs.headD 0 &&& ~~~((1 : Byte) <<< (Q.slotOf Q.qrd % 8))]
  match (frontPeek s q Q.bitByte 1).bind clear with
  | none => stickQueue s q
  | some s => s.modQueue q fun Q => { Q with inPacket := false, pc := 0, loops := [], levels := [], qrd := Q.qrd + 1 }

/-- The caller's registers and place come back when an indirect buffer ends (15 R340). -/
def popLevel (Q : Queue) (l : Level) (rest : List Level) : Queue :=
  { Q with levels := rest, pc := l.pc, loops := l.loops, pkt := l.pkt, g := tset (tset Q.g 1 0 l.g1) 2 0 l.g2 }

/-- The loops that end at a word: the next iteration, or out of the loop (15 R337). A loop whose end was passed is over (log entry 69). -/
def runLoops (g : NMap Dword) (pc : Nat) : List (Nat × Nat × Nat × Nat × Nat) → NMap Dword × Nat × List (Nat × Nat × Nat × Nat × Nat)
  | [] => (g, pc, [])
  | (first, stop, r, n, i) :: rest =>
    if stop < pc then runLoops g pc rest
    else if pc = stop then
      if i + 1 < n then ((if r = 0 then g else tset g r 0 (.ofNat 64 (i + 1))), first, (first, stop, r, n, i + 1) :: rest)
      else runLoops g pc rest
    else (g, pc, (first, stop, r, n, i) :: rest)

/-- A packet ends: the next one of its buffer, the caller, or the next ticket (15 R337, R340). With how many callers may end with it. -/
def endPacket (s : State) (q : Nat) : Nat → State
  | 0 => s
  | fuel + 1 =>
    match (s.queue q).levels with
    | [] => retirePacket s q
    | l :: rest =>
      if 1 < l.left then
        s.modQueue q fun Q => beginPacket { Q with levels := { l with left := l.left - 1, index := l.index + 1 } :: rest } (Q.pkt + 64) (l.index + 1)
      else
        let s := s.modQueue q fun Q =>
          let Q := popLevel Q l rest
          let (g, pc, loops) := runLoops Q.g Q.pc Q.loops
          { Q with g, pc, loops }
        if (s.queue q).program.length ≤ (s.queue q).pc then endPacket s q fuel else s

/-- The drill goes on at a word (15 R337). -/
def drillTo (s : State) (pc : Nat) : State :=
  let s := s.modQueue s.dq fun Q =>
    let (g, pc, loops) := runLoops Q.g pc Q.loops
    { Q with g, pc, loops }
  if (s.queue s.dq).program.length ≤ (s.queue s.dq).pc then endPacket s s.dq 6 else s

def drillNextWord (s : State) : State := drillTo s ((s.queue s.dq).pc + 1)

/-- g[a]; g0 reads as zero and discards writes (15 R336). -/
def G (s : State) (a : BitVec 5) : Dword := if a = 0 then 0 else tget (s.queue s.dq).g a.toNat 0
def setG (s : State) (a : BitVec 5) (x : Dword) : State :=
  if a = 0 then s else s.modQueue s.dq fun Q => { Q with g := tset Q.g a.toNat 0 x }

/-- A drill word that writes g[a] and goes on. -/
def drillSet (s : State) (a : BitVec 5) (x : Dword) : State := drillNextWord (setG s a x)

/-- A window fault or a refused depth: a record, and the rest of the ring packet is abandoned (15 R340). -/
def drillFault (s : State) (kind : Nat) : State :=
  let Q := s.queue s.dq
  retirePacket (queueNote s s.dq kind false none none none none (some Q.qrd) none none none (some Q.pc)) s.dq

/-! ### The operations (15 R337) -/

def execDrillLi (a : BitVec 5) (i : BitVec 16) (s : State) : Result := .next (drillSet s a (i.signExtend 64))
def execDrillLih (a : BitVec 5) (i : BitVec 16) (s : State) : Result := .next (drillSet s a ((G s a <<< 16) ||| i.setWidth 64))

/-- The address of an access of `size` bytes that lies inside its region (15 R338). -/
def regionAddress (s : State) (b : BitVec 5) (region off size : Nat) : Option Nat :=
  let Q := s.queue s.dq
  let r : Nat × Nat := match region with
    | 0 => (Q.pkt.toNat, 64)
    | 1 => (Q.qbase.toNat / 64 * 64, 64 * 2 ^ Q.lsz)
    | r => ((tget Q.qwin (r - 2) 0).toNat / 64 * 64, (tget Q.qwlen (r - 2) 0).toNat)
  let o := ((G s b).toNat + 4 * off) % 2 ^ 64
  let x := (r.1 + o) % 2 ^ 64
  if region ≤ 5 ∧ o + size ≤ r.2 ∧ (size = 4 ∨ x % 8 = 0) then some x else none

def drillLoad (s : State) (a b : BitVec 5) (region off size : Nat) : State :=
  match (regionAddress s b region off size).bind fun x => frontAcquire s s.dq x size with
  | some (bs, s) => drillSet s a (.ofNat 64 (ofBytes bs))
  | none => drillFault s 4

def drillStore (s : State) (a b : BitVec 5) (region off size : Nat) : State :=
  match (regionAddress s b region off size).bind fun x => frontWrite s s.dq x (toBytes size (G s a).toNat) with
  | some s => drillNextWord s
  | none => drillFault s 4

def execDrillLdw (a b : BitVec 5) (g : BitVec 3) (o : BitVec 12) (s : State) : Result := .next (drillLoad s a b g.toNat o.toNat 4)
def execDrillLdd (a b : BitVec 5) (g : BitVec 3) (o : BitVec 12) (s : State) : Result := .next (drillLoad s a b g.toNat o.toNat 8)
def execDrillStw (a b : BitVec 5) (g : BitVec 3) (o : BitVec 12) (s : State) : Result := .next (drillStore s a b g.toNat o.toNat 4)
def execDrillStd (a b : BitVec 5) (g : BitVec 3) (o : BitVec 12) (s : State) : Result := .next (drillStore s a b g.toNat o.toNat 8)

def execDrillAdd (a b : BitVec 5) (s : State) : Result := .next (drillSet s a (G s a + G s b))
def execDrillSub (a b : BitVec 5) (s : State) : Result := .next (drillSet s a (G s a - G s b))
def execDrillAnd (a b : BitVec 5) (s : State) : Result := .next (drillSet s a (G s a &&& G s b))
def execDrillOr (a b : BitVec 5) (s : State) : Result := .next (drillSet s a (G s a ||| G s b))
def execDrillXor (a b : BitVec 5) (s : State) : Result := .next (drillSet s a (G s a ^^^ G s b))
def execDrillShl (a : BitVec 5) (n : BitVec 6) (s : State) : Result := .next (drillSet s a (G s a <<< n.toNat))
def execDrillShr (a : BitVec 5) (n : BitVec 6) (s : State) : Result := .next (drillSet s a (G s a >>> n.toNat))
def execDrillAddi (a : BitVec 5) (i : BitVec 16) (s : State) : Result := .next (drillSet s a (G s a + i.signExtend 64))

/-- A branch skips the next words when the relation holds. -/
def drillBranch (s : State) (c : Bool) (i : BitVec 16) : State := drillTo s ((s.queue s.dq).pc + 1 + (if c then i.toNat else 0))

def execDrillBeq (a b : BitVec 5) (i : BitVec 16) (s : State) : Result := .next (drillBranch s (G s a == G s b) i)
def execDrillBne (a b : BitVec 5) (i : BitVec 16) (s : State) : Result := .next (drillBranch s (G s a != G s b) i)
def execDrillBltu (a b : BitVec 5) (i : BitVec 16) (s : State) : Result := .next (drillBranch s (decide ((G s a).toNat < (G s b).toNat)) i)

def execDrillLoop (a : BitVec 5) (l n : BitVec 8) (s : State) : Result :=
  .next (drillNextWord ((setG s a 0).modQueue s.dq fun Q =>
    { Q with loops := (Q.pc + 1, Q.pc + 1 + l.toNat, a.toNat, n.toNat, 0) :: Q.loops }))

/-- The launch record at g[a] is dispatched; g[b] is the code (15 R344). -/
def execDrillLaunch (a b : BitVec 5) (s : State) : Result :=
  let (code, s) := dispatch s s.dq (G s a) (s.queue s.dq).qrd none
  .next (drillSet s b (.ofNat 64 code))

/-- A node's sheaf is flushed (15 R351); a node table that cannot be read is left alone. -/
def execDrillNode (a : BitVec 5) (i : BitVec 16) (s : State) : Result :=
  let at_ := (G s a).toNat + 64 * i.toNat
  .next (drillNextWord (match readNode s s.dq at_ with
    | some nd => launchSheaf s s.dq at_ nd (s.queue s.dq).qrd
    | none => s))

def execDrillSignal (a b : BitVec 5) (s : State) : Result :=
  .next
    (if (G s a).toNat % 8 ≠ 0 then drillFault s 4
    else
      match frontRelease s s.dq (G s a).toNat (toBytes 8 (G s b).toNat) (s.die (s.dq / 64)).pts with
      | some s => drillNextWord s
      | none => drillFault s 4)

/-- Whether a value meets a `waitsig` condition. -/
def sigHolds (c : Nat) (m y : Dword) : Bool :=
  match c with
  | 0 => m == y
  | 1 => m != y
  | _ => decide (y.toNat ≤ m.toNat)

/-- Reads the word as an acquire and goes on when the condition holds; the drill waits otherwise, and the read has been made (11 R278). -/
def execDrillWaitsig (a b : BitVec 5) (c : BitVec 2) (s : State) : Result :=
  .next
    (if (G s a).toNat % 8 ≠ 0 then drillFault s 4
    else
      match frontAcquire s s.dq (G s a).toNat 8 with
      | some (bs, s') => if sigHolds c.toNat (.ofNat 64 (ofBytes bs)) (G s b) then drillNextWord s' else s'
      | none => drillFault s 4)

/-- Runs the packets of a buffer at one depth more (15 R340). -/
def execDrillIndirect (a b : BitVec 5) (s : State) : Result :=
  let Q := s.queue s.dq
  .next
    (if 4 ≤ Q.levels.length then drillFault s 5
    else if (G s b).toNat < 1 ∨ 65535 < (G s b).toNat ∨ (G s a).toNat % 64 ≠ 0 then drillFault s 4
    else
      let l : Level := { left := (G s b).toNat, index := 0, g1 := G s 1, g2 := G s 2, pkt := Q.pkt, pc := Q.pc + 1, loops := Q.loops }
      let addr := G s a
      s.modQueue s.dq fun Q => beginPacket { Q with levels := l :: Q.levels } addr 0)

/-- Ends the buffer, or outside one the packet. -/
def execDrillRet (s : State) : Result :=
  .next (match (s.queue s.dq).levels with
    | [] => endPacket s s.dq 6
    | l :: rest => endPacket (s.modQueue s.dq fun Q => { Q with levels := { l with left := 1 } :: rest }) s.dq 6)

/-- The launches that the drill dispatched and that have not written their signal. -/
def openLaunches (s : State) (q : Nat) : Bool := s.launches.any fun x => x.2.queue == q && x.2.sheaf.isNone && !x.2.signalled

def execDrillFence (s : State) : Result := .next (if openLaunches s s.dq then s else drillNextWord s)
def execDrillNext (s : State) : Result := .next (endPacket s s.dq 6)

/-! ### The turn of a front end (15 R335) -/

/-- The word that a queue's drill stands at. -/
def drillInstr (s : State) (q : Nat) : Instr :=
  match decodeDrill (nth (s.queue q).program (s.queue q).pc 0x64000000) with
  | .ok i => i
  | .error _ => .drillNext

/-- A front end that looks at a word would set the accessed bit of its leaf. -/
def frontUnmarked (s : State) (q va n : Nat) : Bool := spanUnmarked s (frontEnd s q) va (n / 65536 + 2) n

/-- The drill of a queue stands at a wait that is not over, and has looked at its word. -/
def drillWaits (s : State) (q : Nat) : Bool :=
  let s := { s with dq := q }
  match drillInstr s q with
  | .drillWaitsig a b c =>
    (G s a).toNat % 8 == 0 &&
      (match frontPeek s q (G s a).toNat 8 with
        | some bs => !sigHolds c.toNat (.ofNat 64 (ofBytes bs)) (G s b) && !frontUnmarked s q (G s a).toNat 8
        | none => false)
  | .drillFence => openLaunches s q
  | _ => false

/-- The drill of a queue has something to do. -/
def drillReady (s : State) (q : Nat) : Bool :=
  drillMay s q && (if (s.queue q).inPacket then !drillWaits s q else commitBit s q != some false || frontUnmarked s q (s.queue q).bitByte 1)

/-- The front end takes up a queue: its drill runs a word, or begins a packet (15 R335). -/
def takeQueue (s : State) (q : Nat) : State := { s.modDie (q / 64) fun d => { d with lastDrill := q } with dq := q }

/-- The queue whose drill a front end runs: the one in a packet until it ends or waits, else by priority and rotation. -/
def drillChoice (s : State) (die : Nat) : Option Nat :=
  let last := (s.die die).lastDrill
  if (s.queue last).inPacket && last / 64 == die && drillReady s last then some last
  else
    let qs := (s.queues.map (·.1)).filter fun q => decide (q / 64 = die) && drillReady s q
    let top := qs.foldl (fun n q => max n (s.queue q).pri) 0
    let best := qs.filter fun q => (s.queue q).pri == top
    ((best.filter fun q => decide (last < q)) ++ best).head?

end Sys2Proof.Machine
end

