-- ==== Sys2Proof/Machine/Place.lean ====
section
/-! DEFINITION. Placing crofts and plots, admitting them, and what happens as furrows, plots, crofts and launches end
(15 R345 to R353; 06 R156, R188; 05 R132; 08 R207, R208; 13 R327). -/

namespace Sys2Proof.Machine

/-! ### Division by acre (13 R327) -/

/-- The acre of a launch placed by acre. -/
def launchUnit (s : State) (l : Launch) : Option KUnit := unitAt s l.ctx l.record.acre 0

/-- The keys of the leaves of a plot. -/
def plotLeaves (l : Launch) (j : Nat) : List Dword := (l.leaves.drop (j * l.record.rpp)).take l.record.rpp

/-- The pins of leaves raised, or lowered; a leaf whose last pin goes may move at once (13 R322, R327). -/
def pinLeaves (s : State) (u : KUnit) (keys : List Dword) (up : Bool) : Option State :=
  keys.foldl (fun s k => s.bind fun s => (allLeaves s u).bind fun ls =>
    match ls.find? fun x => x.2.key == k.toNat && x.2.st ≤ 1 with
    | none => some s
    | some x =>
      (readDir s u x.1).bind fun es =>
        (writeDir s u x.1 es (modDir es k.toNat fun e => { e with pin := if up then e.pin + 1 else e.pin - 1 })).bind fun s =>
          if !up ∧ x.2.pin = 1 ∧ x.2.mv ∧ x.2.st = 0 then startMove s u x.1 k.toNat else some s) (some s)

/-- The leaves that a launch takes, in key order (13 R327). -/
def takenLeaves (l : Launch) (ls : List (Nat × Dir)) : List (Nat × Dir) := ls.take (l.record.plots * l.record.rpp)

/-- The leaves of the device divided among the plots, and pinned, once no balance is under way; a leaf with 65,535 pins is waited for (log
entry 42). What cannot be read is an acre error that is found once (13 R328). -/
def divideReady (s : State) (l : Launch) : Bool :=
  !l.divided && !l.aborted &&
    (match launchUnit s l with
      | some u => (match readAst s u (l.queue / 64 * 64), allLeaves s u with
        | some a, some ls => a.bal == 0 && (takenLeaves l ls).all fun x => decide (x.2.pin < 65535)
        | _, _ => !u.acre.err)
      | none => false)

/-- The division. A directory that cannot be read is an acre error, and the launch waits; leaves whose entries cannot be written are one and keep
no pins (13 R328). -/
def divide (s : State) (l : Launch) : State :=
  match launchUnit s l with
  | none => s
  | some u =>
    let front := l.queue / 64 * 64
    match readAst s u front, allLeaves s u with
    | some _, some ls =>
      let s := unitMarks s u ((front, u.acre.cost.toNat, 64) :: (upto 256).map (dirRange s u))
      let keys := (takenLeaves l ls).map fun x => BitVec.ofNat 64 x.2.key
      let n := (keys.length + l.record.rpp - 1) / l.record.rpp
      let s := s.modLaunch l.id fun x => { x with divided := true, leaves := keys, crofts := n }
      noteOver (match pinLeaves s u keys true with
        | some s => s.modLaunch l.id fun x => { x with pinned := true }
        | none => acreError s u (badDir s u front)) l.id
    | none, _ => acreError s u front
    | _, none => acreError s u (badDir s u front)

/-- Placement pins of a launch are lowered (13 R327). -/
def unpinLeaves (s : State) (l : Launch) (keys : List Dword) : State :=
  if !l.pinned || keys.isEmpty then s
  else
    match launchUnit s l with
    | none => s
    | some u => (pinLeaves s u keys false).getD (acreError s u (badDir s u (l.queue / 64 * 64)))

/-- The placement pins of a plot are lowered when it ends (13 R327). -/
def unpinPlot (s : State) (p : Plot) : State := unpinLeaves s (s.launch p.launch) p.placedLeaves

/-! ### Placement (15 R345) -/

/-- A croft stands on a cluster: it holds its memory there until its plots and its stream are saved or ended (15 R356). -/
def Croft.seated (c : Croft) : Bool := c.savedMem.isNone || c.stream.isSome
def Croft.onCluster (c : Croft) (cluster : Nat) : Bool := c.cluster == cluster && !c.ended && c.seated

def clusterCrofts (s : State) (cluster : Nat) : List Croft := (s.crofts.map (·.2)).filter (·.onCluster cluster)

/-- The stream slot that a croft would take (08 R207). -/
def freeStream (s : State) (cluster : Nat) : Option Nat :=
  ((upto 4).map (streamKey cluster ·)).find? fun k => !(s.crofts.any fun c => c.2.stream == some k)

/-- A plot takes the lowest-numbered core of a cluster on which it fits. -/
def seatPlot (s : State) (cluster : Nat) (p : Plot) : Option State :=
  (upto 4).findSome? fun core => (fitsCore s (4 * cluster + core) (plotNeed s p)).map fun b =>
    let n := plotNeed s p
    { s with plots := tput s.plots p.id { p with cluster, core, phase := .placed, scrBase := b.1, scrSize := n.pmem,
                                                  spillSize := n.fpp * n.spill, laneBase := b.2 } }

def seatPlots (s : State) (cluster : Nat) : List Plot → Option State
  | [] => some s
  | p :: ps => (seatPlot s cluster p).bind fun s => seatPlots s cluster ps

/-- The furrow of a stream at its place (08 R209, 11 R261). -/
def placeStream (f : Furrow) (c : Croft) (key : Nat) : Furrow := { f with cluster := c.cluster, core := 0, slot := key % 4, croft := c.id }

/-- The key of a held group of a saved plot's furrow, and of a croft's saved stream. -/
def savedKey (plot fidx entry : Nat) : Nat := 2 ^ 40 + 4096 * plot + 128 * fidx + entry
def savedStreamKey (croft entry : Nat) : Nat := 2 ^ 60 + 128 * croft + entry

/-- The held groups of a furrow moved from one range of keys to another. -/
def moveHeld (s : State) (width : Nat) (from_ to_ : Nat → Nat) : State :=
  (upto (2 * width)).foldl (fun s i =>
    match tfind s.held (from_ i) with
    | some h => { s with held := tput (terase s.held (from_ i)) (to_ i) { h with iss := { h.iss with furrow := to_ 0 / 128 } } }
    | none => s) s

/-- A saved operation is back: its word at the place its address now leads to, a barrier's waiter with its phase read again (15 R357). -/
def restoreOp (s : State) (key : Nat) (f : Furrow) (o : Op) : Op :=
  let ag := agentOf s f
  let move (a : Acc) : Acc := match resolve s ag (tlbOf s ag) a.thr a.addr.toNat a.size .read with
    | .loc k _ _ _ _ => { a with loc := k }
    | _ => a
  { o with furrow := key, accs := o.accs.map move }

/-- The waits of a restored furrow name the places of its operations, and a waiter whose phase has changed, or a `waitw`, has something to
look at. -/
def restoreParked (s : State) (key : Nat) (o : Op) : State :=
  match o.accs with
  | a :: _ =>
    let parkedAt (w : Wait) : Option Bool := match w with
      | .parked op _ ph => if op = o.id then some ph else none
      | _ => none
    let phase := ((s.furrow key).entries.findSome? fun e => e.waits.findSome? parkedAt).getD false
    let s := s.modFurrow key fun f => { f with entries := f.entries.map fun e => { e with waits := e.waits.map fun w => match w with
      | .parked op loc ph => if op = o.id then .parked op a.loc ph else .parked op loc ph
      | .word op loc => if op = o.id then .word op a.loc else .word op loc
      | w => w } }
    -- the read that finds another phase returns its write's stamp (06 R182, 12 R283)
    let woken := o.kind != .waitw && phaseNow s a.loc != phase
    { s with ops := s.ops ++ [{ o with begun := o.kind == .waitw || woken, rmax := if woken then lineStamp s a.loc else o.rmax }] }
  | [] => { s with ops := s.ops ++ [o] }

/-- A furrow's stamps at a core (11 R261). -/
def raiseStamps (f : Furrow) (h : BitVec 48) : Furrow := { f with pts := smax f.pts h, seen := smax f.seen h, maxw := smax f.maxw h }

/-- A saved stream at its new slot; what was suspended on a translation is issued again. -/
def restoreStream (s : State) (c : Croft) : State :=
  match c.savedStream, c.stream with
  | some f, some key =>
    let f := placeStream { f with entries := f.entries.map fun e => { e with waits := e.waits.filter fun w => match w with
      | .replay _ _ => false
      | _ => true } } c key
    let s := s.setFurrow key f
    let s := c.savedOps.foldl (fun s o => restoreParked s key (restoreOp s key f o)) s
    let s := moveHeld s 1 (savedStreamKey c.id ·) (128 * key + ·)
    s.modCroft c.id fun c => { c with savedStream := none, savedOps := [] }
  | _, _ => s

/-- A saved range of memory: its bytes and the numbers of its poisoned words. -/
def takeBytes (s : State) (k n : Nat) : List Byte × List Nat :=
  (readBytes s.mem k n, (upto (n / 4)).filter fun i => tget s.memMark (k / 4 + i) .clean != .clean)

def putSaved (s : State) (k : Nat) (x : List Byte × List Nat) : State :=
  let s := putBytes s k x.1
  { s with memMark := x.2.foldl (fun m i => tset m (k / 4 + i) .clean .poisoned) s.memMark }

/-- A croft and plots of it on a cluster, when all fit there (08 R207). One that stands alone there has its memory from offset 0 on
(10, "Run alone on its cluster"); the place is a free choice otherwise (log entry 15). -/
def seatCroft (s : State) (c : Croft) (cluster : Nat) (ps : List Plot) : Option State :=
  let l := s.launch c.launch
  let r := l.record
  let wants := c.stream.isSome || c.savedStream.isSome
  let used := (clusterCrofts s cluster).map fun x => (x.cmemBase, x.cmemSize)
  let free := if used = [] then 0 else Config.cmemBase s.tick c.id
  match memGap 0x400000 r.cmem free used, freeStream s cluster with
  | some base, slot =>
    if wants ∧ slot.isNone then none
    else
      let s := match c.savedMem with
        | some bs => putSaved s (clusterLoc cluster base) bs
        | none => s
      let c := { c with cluster, cmemBase := base, cmemSize := r.cmem, savedMem := none, stream := if wants then slot else none }
      seatPlots (restoreStream (loadScopes { s with crofts := tput s.crofts c.id c } l.ctx cluster) c) cluster ps
  | none, _ => none

/-- The owner cluster of a plot's first leaf (13 R327). -/
def leafOwner (s : State) (l : Launch) (p : Plot) : List Nat :=
  match launchUnit s l, p.placedLeaves with
  | some u, k :: _ => ((allLeaves s u).getD []).filterMap fun x => if x.2.key = k.toNat ∧ x.2.st ≤ 1 then some x.1 else none
  | _, _ => []

/-- Crofts with a saved plot or stream to be placed again (15 R357). -/
def savedCrofts (s : State) (id : Nat) : List Croft :=
  (launchCrofts s id).filter fun c => !c.ended && ((croftPlots s c).any (fun p => p.phase == .saved) || c.savedStream.isSome)

/-- How many crofts of a launch wait for a place. -/
def croftsWaiting (s : State) (l : Launch) : Nat := (savedCrofts s l.id).length + (l.crofts - l.next)

/-- A launch with crofts to place, whose queue still places plots: the one that runs, or one stopped at a ticket (15 R355, R427). One whose
leaves are not divided yet waits as well (13 R327, 15 R345). -/
def launchWaits (s : State) (l : Launch) : Bool :=
  let Q := s.queue l.queue
  !l.aborted && (!l.divided || decide (0 < croftsWaiting s l)) && (Q.qstat == 1 || Q.qstat == 5)

/-- The launches that wait on a die, the earliest of each queue, the higher priority first and then the earlier (15 R345). -/
def placementOrder (s : State) (die : Nat) : List Launch :=
  let ls := (s.launches.map (·.2)).filter fun l => decide (l.queue / 64 = die) && launchWaits s l
  let heads := ls.filter fun l => !ls.any fun x => x.queue == l.queue && decide (x.id < l.id)
  heads.insertionSort fun a b => a.record.prio > b.record.prio ∨ a.record.prio = b.record.prio ∧ a.id ≤ b.id

/-- A co-resident launch at the head of a die's order keeps plots of equal or lower priority off the die (15 R348). -/
def dieKept (s : State) (die : Nat) (l : Launch) : Bool :=
  match placementOrder s die with
  | h :: _ => h.record.cores && h.id != l.id && decide (l.record.prio ≤ h.record.prio)
  | [] => false

/-- The clusters that a croft may go to, in order (15 R345). -/
def croftClusters (s : State) (l : Launch) (c : Croft) (ps : List Plot) : List Nat :=
  let placed := (launchCrofts s l.id).filter fun x => x.id != c.id && (x.ended || x.seated)
  let together (dom size cluster : Nat) : Bool :=
    !((declaredLevels l.record).any (·.dom == dom)) || placed.all fun x =>
      x.index / max 1 (unitCrofts l.record dom) != c.index / max 1 (unitCrofts l.record dom) || x.cluster / size == cluster / size
  (if l.record.place = 1 then (match ps with
    | p :: _ => leafOwner s l p
    | [] => [])
  else ((upto 256).map fun k => (l.queue / 64 * 64 + k) % 256).filter fun k => together 4 8 k && together 5 64 k).filter fun k =>
    !dieKept s (k / 64) l

/-- The next croft of a launch with its plots, none of them placed yet. -/
def newCroft (s : State) (l : Launch) : Croft × List Plot × State :=
  let ppc := plotsPerCroft l.record
  let (cid, s) := s.fresh
  let idx := (upto (min ppc (l.record.plots - l.next * ppc))).map (l.next * ppc + ·)
  let ps : List Plot := idx.map fun j =>
    { id := s.nextId + (j - l.next * ppc), launch := l.id, index := j, croft := cid, ctx := l.ctx, phase := .saved, priv := l.record.priv,
      width := 16 * 2 ^ l.record.w, fpp := l.record.fpp, placedLeaves := if l.record.place = 1 then plotLeaves l j else [] }
  let s := { s with nextId := s.nextId + idx.length, plots := ps.foldl (fun (t : NMap Plot) (p : Plot) => tput t p.id p) s.plots }
  let c : Croft := { id := cid, launch := l.id, index := l.next, plots := ps.map (·.id), stream := if l.record.mcode = 0 then none else some 0 }
  (c, ps, s.modLaunch l.id fun l => { l with next := l.next + 1 })

/-- The next croft of a launch placed, when it fits somewhere. -/
def placeOne (s : State) (l : Launch) : Option State :=
  match savedCrofts s l.id with
  | c :: _ =>
    let ps := (croftPlots s c).filter fun p => p.phase == .saved
    if c.seated then
      if dieKept s (c.cluster / 64) l then none
      else seatPlots (s.modCroft c.id fun c => { c with savedMem := none }) c.cluster ps
    else (croftClusters s l c ps).findSome? fun k => seatCroft s c k ps
  | [] =>
    if l.next < l.crofts then
      let (c, ps, s) := newCroft s l
      (croftClusters s l c ps).findSome? fun k => seatCroft s c k ps
    else none

/-- Every croft of a co-resident launch placed in one step (15 R348). -/
def placeAll (s : State) (id : Nat) : Nat → Option State
  | 0 => some s
  | n + 1 => (placeOne s (s.launch id)).bind fun s => placeAll s id n

def tryPlace (s : State) (l : Launch) : Option State :=
  if !l.divided then none
  else if l.record.cores then placeAll s l.id (croftsWaiting s l) else placeOne s l

/-- The first launch of the order that fits. -/
def placeable (s : State) (ls : List Launch) : Option Launch := ls.find? fun l => (tryPlace s l).isSome

/-- The front end places a croft, or a co-resident launch whole (15 R345, R348). -/
def execPlotPlace (launch : Nat) (s : State) : Result :=
  .next
    (match tfind s.launches launch with
    | none => s
    | some l =>
      match placeable s (placementOrder s (l.queue / 64)) with
      | some x => if x.id = l.id then (tryPlace s l).getD s else s
      | none => s)

/-! ### Admission (06 R156, 08 R208, 15 R347) -/

/-- The registers a furrow or stream is given (15 R347). -/
def launchArgs (l : Launch) (c : Croft) (index : Nat) : List Word :=
  let r := l.record
  let low (x : Dword) : Word := x.setWidth 32
  let high (x : Dword) : Word := (x >>> 32).setWidth 32
  let tail : List Word := match l.sheaf with
    | some f => [.ofNat 32 f.count, low f.address, high f.address]
    | none =>
      if r.place = 1 then
        let ks := plotLeaves l index
        [.ofNat 32 ks.length, low (ks.headD 0), high (ks.headD 0)]
      else [0, 0, 0]
  [low r.arg, high r.arg, if r.cmem = 0 then 0 else .ofNat 32 c.cmemBase] ++ tail

def giveArgs (f : Furrow) (args : List Word) : Furrow := args.zipIdx.foldl (fun f x => f.sset (x.2 + 1) x.1) f

/-- A croft's stream starts (08 R208, R209). -/
def startStream (s : State) (l : Launch) (c : Croft) (key : Nat) (index : Nat) : State :=
  let r := l.record
  let f : Furrow := { newFurrow 0 1 l.streamEntry r.mtvec 0 with
    stream := true, vcount := 0, scount := 8 * r.msc, ctx := l.ctx, code := r.mcode, csize := r.mcsize, etab := r.metab }
  s.setFurrow key (giveArgs (placeStream f c key) (launchArgs l c index))

/-- The furrows of a plot on its core. -/
def admitFurrow (s : State) (p : Plot) (f : Furrow) : State :=
  let core := 4 * p.cluster + p.core
  let slot := (freeSlots s core).headD 0
  let key := furrowKey core slot
  let f := raiseStamps { f with cluster := p.cluster, core := p.core, slot, plot := p.id, croft := p.croft } (s.core core).horizon
  (s.setFurrow key { f with stopped := p.faulted || p.halted }).modPlot p.id fun p => { p with furrows := p.furrows ++ [key] }

/-- A furrow of a launch as it is admitted (01 R10, 15 R347). -/
def launchFurrow (s : State) (l : Launch) (p : Plot) (i : Nat) : Furrow :=
  let r := l.record
  giveArgs { newFurrow i (16 * 2 ^ r.w) (l.entryTable.headD 0) r.tvec 0 with
    vcount := 8 * r.vc, scount := 8 * r.sc, ctx := l.ctx, spill := r.spill, code := r.code, csize := r.csize, etab := r.etab, ecnt := r.ecnt }
    (launchArgs l (s.croft p.croft) p.index)

/-- The bytes of a plot's scratchpad and of its lane-private area in each slice, put back. -/
def restoreMemory (s : State) (p : Plot) : State :=
  let core := 4 * p.cluster + p.core
  p.savedBytes.zipIdx.foldl (fun s x =>
    putSaved s (if x.2 = 0 then scratchLoc core p.scrBase else laneLoc core (x.2 - 1) p.laneBase) x.1) s

/-- A saved plot's furrows with their operations and held groups. -/
def restoreFurrow (s : State) (p : Plot) (f : Furrow) : State :=
  let s := admitFurrow s p f
  let key := ((s.plot p.id).furrows.getLast?).getD 0
  let s := (p.savedOps.filter fun o => o.furrow == f.fidx).foldl (fun s o => restoreParked s key (restoreOp s key (s.furrow key) o)) s
  moveHeld s f.width (savedKey p.id f.fidx ·) (128 * key + ·)

end Sys2Proof.Machine
end

