-- ==== Sys2Proof/Machine/Message.lean ====
section
/-! DEFINITION. Cluster messages and `emit` (11 R273 to R276; 15 R349, R350). -/

namespace Sys2Proof.Machine

/-- A receive that a message of this source and tag matches (11 R274). -/
def Posted.takes (x : Posted) (source : Nat) (tag : Word) : Bool := x.source.all (· == source) && (tag ^^^ x.tag) &&& x.tmask == 0

/-- The buffer of a matched message: its bytes, then the status word, as a release at device tier (11 R274). The copies of the sending cluster
are dropped, as a store of the sender drops them (R260). Answers the highest stamp. -/
def writeMessage (s : State) (x : Posted) (m : Msg) : BitVec 48 × State :=
  let (w, s) := agentWrite s (some m.source) m.pts x.loc (bytesOf m.payload ++ toBytes 4 m.tag.toNat ++ toBytes 4 m.source)
  agentWrite s (some m.source) (smax m.pts (w + 1)) (x.loc + 40) (toBytes 4 1)

/-- The first queued message that a receive matches, taken out of the queue. -/
def takeQueued (s : State) (cluster : Nat) (x : Posted) : Option (Msg × State) :=
  ((s.cluster cluster).overflow.find? fun m => x.takes m.source m.tag).map fun m =>
    (m, s.modCluster cluster fun c => { c with overflow := c.overflow.erase m })

/-- The cause 0x0C of 11 R273, or the member goes on. -/
def messageCheck (s : State) (info : Nat) (bad : Bool) (k : State → State) : State := if bad then raise s 0x0C (.ofNat 32 info) else k s

def Opd.sx (pos r n : Nat) : Opd := { pos, file := 1, base := r, reads := n, used := n }

def execMsg (d a : BitVec 7) (s : State) : Result :=
  .next (guarded s none [.s 0 a 8, .s 3 d 2] fun s => whenFree s (some cSt) fun s =>
    let target := SN s d.toNat 1
    messageCheck s 1 (decide (256 ≤ target.toNat)) fun s =>
      issueOp s { kind := .message, instr := .msg d a, path := some cSt, after := releaseSet s s.iss.furrow, device := true,
                  version := { map := (1 <<< s.pre.cluster) ||| (1 <<< target.toNat), obs := 1 },
                  args := (upto 8).map (SN s a.toNat ·) ++ [S s d, target] })

/-- The place of a receive's buffer: cluster memory of the issuing cluster, or a die scratchpad (11 R273). -/
def bufferPlace (s : State) (f : Furrow) (va : Nat) : Option Nat :=
  let row := va % 2 ^ 48 / 2 ^ 40
  if va / 2 ^ 48 = 0xFF ∧ (row = 2 ∨ row = 3 ∨ row = 4 ∨ (row = 8 ∧ va % 2 ^ 40 / 2 ^ 24 = f.cluster)) then
    match windowPlace s (agentOf s f) 0 va 64 with
    | .loc k _ _ _ _ => some k
    | _ => none
  else none

/-- A furrow's receive: source, tag and mask. -/
def postedOf (f : Furrow) (src tag mask : Word) : Posted :=
  { slot := 0, loc := 0, tag, tmask := mask, source := if src.getLsbD 8 then none else some (src.toNat % 256), plot := f.plot, ctx := f.ctx }

def execMpost (d a : BitVec 7) (s : State) : Result :=
  .next (guarded s none [.s 0 a 4, .s 3 d] fun s => whenFree s (some cLd) fun s =>
    let va := (pairS s a).toNat
    messageCheck s 1 (decide (512 ≤ (S s d).toNat)) fun s => messageCheck s 2 (va % 64 != 0) fun s =>
      match bufferPlace s s.pre va with
      | none => raise s 0x0C 3
      | some k =>
        issueOp s { kind := .post, instr := .mpost d a, path := some cLd, accs := [{ thr := 0, loc := k, addr := .ofNat 64 va, size := 64 }],
                    args := [S s d, SN s a.toNat 2, SN s a.toNat 3] })

/-- S[a] and S[a+1] are read and not used. -/
def execMprobe (d a : BitVec 7) (s : State) : Result :=
  .next (guarded s none [{ Opd.s 0 a 4 with used := 0 }, Opd.sx 0 (a.toNat + 2) 2, .s 3 d] fun s => whenFree s (some cLd) fun s =>
    messageCheck s 1 (decide (512 ≤ (S s d).toNat)) fun s =>
      issueOp s { kind := .probe, instr := .mprobe d a, path := some cLd, args := [S s d, SN s a.toNat 2, SN s a.toNat 3] })

/-- A scalar result of a complete operation. -/
def answerOp (s : State) (o : Op) (r : Nat) (x : Word) : State := finishOp (s.modFurrow o.furrow fun f => f.sset r x) o

/-- The target of a message. -/
def Op.target (o : Op) : Nat := (nth o.args 9 0).toNat % 256

/-- Messages of one furrow to one cluster arrive in issue order (11 R274). -/
def messageReady (s : State) (o : Op) : Bool :=
  o.kind == .message && !o.done && o.after.all (opDone s)
    && !(olderOps s o).any fun x => x.kind == .message && !x.done && x.target == o.target

/-- A message reaches its cluster (11 R274). -/
def arriveMessage (s : State) (o : Op) : State :=
  let s := releaseStamp s o
  let f := s.furrow o.furrow
  let m : Msg := { source := f.cluster, tag := nth o.args 8 0, payload := o.args.take 8, pts := f.pts }
  let d := match o.instr with
    | .msg d _ => d.toNat + 1
    | _ => 0
  let c := s.cluster o.target
  match c.posted.find? fun x => x.takes m.source m.tag with
  | some x =>
    let (w, s) := writeMessage (s.modCluster o.target fun c => { c with posted := c.posted.erase x }) x m
    answerOp (takeStamps s { o with wmax := w }) o d 0
  | none =>
    if c.overflow.length < 64 then answerOp (s.modCluster o.target fun c => { c with overflow := c.overflow ++ [m] }) o d 1
    else answerOp (hostEventOpen (rasCount s (rasCluster o.target)) 1 o.target) o d 2

def execMessageArrival (op : Nat) (s : State) : Result :=
  match s.op op with
  | some o => .next (if messageReady s o then arriveMessage s o else s)
  | none => .next s

/-- The unit takes a furrow's receives and probes in issue order. -/
def postReady (s : State) (o : Op) : Bool :=
  (o.kind == .post || o.kind == .probe) && !o.done
    && !(olderOps s o).any fun x => (x.kind == .post || x.kind == .probe) && !x.done

/-- A receive is served from the queue, posted in a free slot that the free value picks, or refused; a probe counts (11 R275). -/
def finishPost (s : State) (o : Op) : State :=
  let f := s.furrow o.furrow
  let x := postedOf f (nth o.args 0 0) (nth o.args 1 0) (nth o.args 2 0)
  match o.instr, o.accs with
  | .mpost d _, a :: _ =>
    let x := { x with loc := a.loc, addr := a.addr }
    match takeQueued s f.cluster x with
    | some (m, s) => answerOp (writeMessage s x m).2 o d.toNat 64
    | none =>
      let free := (upto 64).filter fun i => !(s.cluster f.cluster).posted.any (·.slot == i)
      if free = [] then answerOp s o d.toNat 0xFFFFFFFF
      else
        let (n, s) := s.draw
        let slot := nth free (n % free.length) 0
        answerOp (s.modCluster f.cluster fun c => { c with posted := c.posted ++ [{ x with slot }] }) o d.toNat (.ofNat 32 slot)
  | .mprobe d _, _ => answerOp s o d.toNat (.ofNat 32 ((s.cluster f.cluster).overflow.filter fun m => x.takes m.source m.tag).length)
  | _, _ => s

/-- A saved receive posted again at a resume, after the overflow queue has been searched (11 R275). -/
def repost (s : State) (f : Furrow) (x : Posted) : State :=
  let x := { x with loc := (bufferPlace s f x.addr.toNat).getD x.loc }
  match takeQueued s f.cluster x with
  | some (m, s) => (writeMessage s x m).2
  | none => s.modCluster f.cluster fun c => { c with posted := c.posted ++ [x] }

/-! ### emit (11 R276) -/

def execEmit (d a : BitVec 7) (s : State) : Result :=
  .next (guarded s none [.s 0 a 8, .s 3 d] fun s => whenFree s (some cSt) fun s =>
    issueOp s { kind := .emit, instr := .emit d a, path := some cSt, after := releaseSet s s.iss.furrow, device := true,
                args := (upto 8).map (SN s a.toNat ·) ++ [S s d] })

/-- Records of one furrow are offered in issue order (15 R350). -/
def emitReady (s : State) (o : Op) : Bool :=
  o.kind == .emit && !o.done && o.after.all (opDone s) && !(olderOps s o).any fun x => x.kind == .emit && !x.done

/-- The front end takes the record or refuses it (15 R350). -/
def execSheafRecordOffer (op : Nat) (s : State) : Result :=
  match s.op op with
  | none => .next s
  | some o =>
    .next
      (if emitReady s o then
        let s := releaseStamp s o
        let f := s.furrow o.furrow
        let (r, s) := offerRecord s (launchOf s f) ((nth o.args 8 0).toNat % 2 ^ 16) (bytesOf (o.args.take 8)) f.pts
        let d := match o.instr with
          | .emit d _ => d.toNat
          | _ => 0
        answerOp { s with tick := s.tick + 1 } o d (r.getD (Config.unstated s.tick))
      else s)

end Sys2Proof.Machine
end

