-- ==== Sys2Proof/Machine/Running.lean ====
section
/-! DEFINITION. Admission of plots, the end of furrows, plots, crofts and launches, pre-emption, resumption and destruction of a queue
(06 R156, 08 R208, 05 R132; 15 R352 to R359). -/

namespace Sys2Proof.Machine

/-! ### Admission -/

/-- A plot that was placed is admitted: its furrows, or those it was saved with, and its croft's stream (06 R156, 08 R208, 15 R357). -/
def admitPlot (s : State) (p : Plot) : State :=
  let l := s.launch p.launch
  let s :=
    if p.savedFurrows = [] then (upto p.fpp).foldl (fun s i => admitFurrow s p (launchFurrow s l p i)) s
    else
      let s := p.savedFurrows.foldl (fun s f => restoreFurrow s p f) (restoreMemory s p)
      p.savedPosts.foldl (fun s x => repost s { cluster := p.cluster, ctx := p.ctx } x) s
  let s := s.modPlot p.id fun p => { p with phase := .running, savedFurrows := [], savedBytes := [], savedPosts := [], savedOps := [] }
  let c := s.croft p.croft
  match c.stream with
  | some key => if (tfind s.furrows key).isNone then startStream s l c key p.index else s
  | none => s

def execPlotAdmit (plot : Nat) (s : State) : Result :=
  match tfind s.plots plot with
  | some p => .next (if p.phase = .placed then admitPlot s p else s)
  | none => .next s

/-! ### The end of furrows, plots, crofts and launches -/

/-- A croft has no stream that could go on. The slot and the tiles of one that has ended stay with the croft (08 R208, R212). -/
def streamOver (s : State) (c : Croft) : Bool :=
  (match c.stream with
    | some k => !(s.furrow k).valid
    | none => true) &&
  (match c.savedStream with
    | some f => !f.valid
    | none => true)

/-- The stream's slot and tiles are given up. -/
def dropStream (s : State) (c : Croft) : State :=
  match c.stream with
  | some k => { s with furrows := terase s.furrows k }
  | none => s

/-- A croft ends when its stream and all of its plots have ended (08 R208). -/
def endCroft (s : State) (c : Nat) : State :=
  let x := s.croft c
  if streamOver s x && (croftPlots s x).all fun p => p.phase == .ended then
    noteOver ((dropStream s x).modCroft c fun x => { x with ended := true, savedMem := none, stream := none, savedStream := none }) x.launch
  else s

/-- The croft's memory is saved with the last of its plots that is saved, and its place is freed once no stream of it stands on the cluster
(15 R356); a croft of which only the stream is saved has its memory saved with it (log entry 43). The tiles of a stream that has ended go with
it. -/
def saveCroft (s : State) (id : Nat) : State :=
  let c := s.croft id
  let r := (s.launch c.launch).record
  let streamDone := match c.stream with
    | some k => !(s.furrow k).valid
    | none => true
  if (croftPlots s c).all (fun p => p.phase == .saved || p.phase == .ended) &&
      ((croftPlots s c).any (fun p => p.phase == .saved) || c.savedStream.isSome) then
    let old := match c.stream with
      | some k => tfind s.furrows k
      | none => c.savedStream
    let bytes := match c.savedMem with
      | some bs => bs
      | none => takeBytes s (clusterLoc c.cluster c.cmemBase) r.cmem
    if streamDone then (dropStream s c).modCroft id fun x => { x with savedMem := some bytes, stream := none, savedStream := old }
    else s.modCroft id fun x => { x with savedMem := some bytes }
  else s

/-- A plot ends: its allocations go, its receives are withdrawn, its placement pins are lowered (05 R132, 11 R275, 13 R327). -/
def endPlot (s : State) (p : Plot) : State :=
  let s := s.modCluster p.cluster fun c => { c with posted := c.posted.filter fun x => x.plot != p.id }
  let s := unpinPlot s p
  let clear (p : Plot) : Plot :=
    { p with phase := .ended, furrows := [], savedFurrows := [], savedBytes := [], savedPosts := [], savedOps := [], ring := none }
  endCroft (s.modPlot p.id clear) p.croft

/-- What a furrow that is stopped or has ended leaves in flight: only waits, which have nothing left to do. -/
def idleOps (s : State) (k : Nat) : Bool := (s.ops.filter fun o => o.furrow == k).all fun o => o.parked || o.kind == .waitw

/-- A furrow's slot and registers return when it has ended and its counters stand at 0 (05 R132). -/
def releaseReady (s : State) (k : Nat) : Bool :=
  match tfind s.furrows k with
  | some f => f.valid && (f.entries.isEmpty || f.stopped) && f.ctr.isEmpty && idleOps s k
  | none => false

/-- Reports that can no longer be raised are counted by the cluster (11 R271, 05 R428). -/
def countReports (s : State) (f : Furrow) : State := (upto (f.stale.length + f.late.length)).foldl (fun s _ => rasCount s (rasCluster f.cluster)) s

/-- A furrow leaves its core or cluster with everything it held there. -/
def removeFurrow (s : State) (k : Nat) (f : Furrow) : State :=
  { s with furrows := terase s.furrows k, ops := s.ops.filter fun o => o.furrow != k,
           held := (upto (2 * f.width)).foldl (fun h i => terase h (heldKey k i)) s.held }

def execFurrowRelease (furrow : Nat) (s : State) : Result :=
  .next
    (if releaseReady s furrow then
      let f := s.furrow furrow
      let lid := if f.stream then (s.croft f.croft).launch else (s.plot f.plot).launch
      let s := removeFurrow (countReports s f) furrow f
      let s := s.modLaunch lid fun l => { l with maxw := smax l.maxw f.maxw }
      if f.stream then
        let left := { f with valid := false, entries := [], stale := [], late := [], mqueue := [] }
        saveCroft (endCroft (s.setFurrow furrow left) f.croft) f.croft
      else
        let s := s.modPlot f.plot fun p => { p with furrows := p.furrows.filter (· != furrow) }
        if (s.plot f.plot).furrows = [] then endPlot s (s.plot f.plot) else s
    else s)

def launchStatus (l : Launch) : Nat := if l.aborted then 1 else if l.faulted then 2 else if l.halted then 4 else 0

/-- A launch may write its signal: it is complete, and those of its queue that completed before it have written theirs (15 R352). -/
def signalReady (s : State) (l : Launch) : Bool := launchOver s l && (s.queue l.queue).overs.head? == some l.id

/-- The completion signal (15 R352). -/
def execLaunchSignal (launch : Nat) (s : State) : Result :=
  match tfind s.launches launch with
  | none => .next s
  | some l =>
    .next
      (if signalReady s l then
        let s := writeSignal s l.queue l.record l.addr l.ticket (launchStatus l) l.maxw
        let s := s.modQueue l.queue fun Q => { Q with overs := Q.overs.drop 1 }
        let s := s.modLaunch launch fun l => { l with signalled := true }
        match l.sheaf with
        | some r => releaseSheaf s l.queue r l.ticket
        | none => s
      else s)

/-! ### Pre-emption (15 R355, R356) -/

/-- The launches of a queue that have not written their signal. -/
def queueLaunches (s : State) (q : Nat) : List Launch := (s.launches.map (·.2)).filter fun l => l.queue == q && !l.signalled

def execQctlPreempt (queue : Nat) (s : State) : Result :=
  .next (if (s.queue queue).qstat = 1 then s.modQueue queue fun Q => { Q with qstat := 3, drillStopped := true } else s)

/-- Every live entry of a furrow is parked at `barw`, outside runtime mode, and nothing else is in flight (15 R355). -/
def furrowParked (s : State) (k : Nat) : Bool :=
  match tfind s.furrows k with
  | none => false
  | some f =>
    !f.rt && !f.stopped && f.ctr.isEmpty && (s.ops.filter fun o => o.furrow == k).all (·.parked) && f.entries.any (·.live) &&
      f.entries.all fun e => !e.live || (!e.waits.isEmpty && e.waits.all fun w => match w with
        | .parked _ _ _ => true
        | _ => false)

/-- A plot at its boundary. -/
def atBoundary (s : State) (p : Plot) : Bool :=
  p.phase == .running && p.inbound == 0 && !p.furrows.isEmpty && p.furrows.all (furrowParked s)

/-- The bytes that a furrow's registers and entries take at least. -/
def furrowBytes (f : Furrow) : Nat := 4 * (f.width * f.vcount + f.scount) + 2 * f.width + 16 * f.entries.length

/-- The length of a save record: room for the state, and a free number of further lines that the manual does not state. -/
def saveLength (s : State) (content : Nat) : Nat := 64 + (content + 63) / 64 * 64 + 64 * ((Config.unstated s.tick).toNat % 4096)

/-- The header of a save record (15 R356). -/
def saveHeader (len : Nat) (pins index : Word) (lr : Dword) (cluster core fur kind : Nat) : List Byte :=
  toBytes 64 (kind * 2 ^ 8 + fur % 64 * 2 ^ 16 + core % 4 * 2 ^ 22 + cluster % 256 * 2 ^ 24 + lr.toNat * 2 ^ 32 + index.toNat * 2 ^ 96
    + pins.toNat * 2 ^ 128 + len % 2 ^ 32 * 2 ^ 160)

/-- A save refused: it is noted and reported (15 R356). -/
def refuseSave (s : State) (q mark : Nat) (mcc : Bool) (slot : Option Nat) (core cluster : Nat) (ticket plot : Word) (info : Nat)
    (aux : Option Nat) : State :=
  queueNote (s.modQueue q fun Q => { Q with refusedSaves := Q.refusedSaves ++ [mark] }) q 7 mcc none slot (some core) (some cluster)
    (some ticket) (some plot) none (some (.ofNat 32 info)) aux

/-- The record written at the save area's end, its body unstated; none with the refusal otherwise. -/
def writeSave (s : State) (q mark content : Nat) (header : Nat → List Byte) (mcc : Bool) (slot : Option Nat) (core cluster : Nat)
    (ticket plot : Word) : Bool × State :=
  let refuse (s : State) (info : Nat) (aux : Option Nat) : State := refuseSave s q mark mcc slot core cluster ticket plot info aux
  let Q := s.queue q
  let len := saveLength s content
  let s := { s with tick := s.tick + 1 }
  let room := Q.qslen.toNat * 1024 - Q.saved
  let at_ := Q.qsave.toNat / 4096 * 4096 + Q.saved
  if room < len then (false, refuse s ((len - room + 1023) / 1024) none)
  else
    let body := bytesOf ((upto ((len - 64) / 4)).map fun i => Config.unstated (s.tick + i))
    match frontWrite { s with tick := s.tick + (len - 64) / 4 } q at_ (header len ++ body) with
    | none => (false, refuse s 0 (some (frontHole s q at_ .write (len / 65536 + 2) len)))
    | some s => (true, s.modQueue q fun Q => { Q with saved := Q.saved + len })

/-- Whether a save would empty the croft. -/
def emptiesCroft (s : State) (c : Croft) (plot : Option Nat) : Bool :=
  (croftPlots s c).all fun p => some p.id == plot || p.phase == .saved || p.phase == .ended

/-- A plot's furrows, memories, receives and waiting operations are kept, and its core resources are freed. -/
def takePlot (s : State) (p : Plot) : State :=
  let core := 4 * p.cluster + p.core
  let fs := p.furrows.filterMap fun k => (tfind s.furrows k).map (k, ·)
  let bytes := takeBytes s (scratchLoc core p.scrBase) p.scrSize
    :: (upto 16).map fun lane => takeBytes s (laneLoc core lane p.laneBase) (laneBytes p)
  let posts := (s.cluster p.cluster).posted.filter fun x => x.plot == p.id
  let ops := fs.flatMap fun x => (s.ops.filter fun o => o.furrow == x.1).map fun o => { o with furrow := x.2.fidx }
  let s := s.modCluster p.cluster fun c => { c with posted := c.posted.filter fun x => x.plot != p.id }
  let s := fs.foldl (fun s x =>
    removeFurrow (moveHeld s x.2.width (heldKey x.1 ·) (savedKey p.id x.2.fidx ·)) x.1 x.2) s
  s.modPlot p.id fun p =>
    { p with phase := .saved, furrows := [], savedFurrows := fs.map (·.2), savedBytes := bytes, savedPosts := posts, savedOps := ops }

def saveReady (s : State) (p : Plot) : Bool :=
  let q := (s.launch p.launch).queue
  (s.queue q).qstat == 3 && atBoundary s p && !(s.queue q).refusedSaves.contains p.id

/-- A plot at its boundary is saved, or its save is refused (15 R356). -/
def execPlotSave (plot : Nat) (s : State) : Result :=
  match tfind s.plots plot with
  | none => .next s
  | some p =>
    .next
      (if saveReady s p then
        let l := s.launch p.launch
        let c := s.croft p.croft
        let content := total ((plotFurrows s plot).map furrowBytes) + p.scrSize + 16 * laneBytes p
          + (if emptiesCroft s c (some plot) then l.record.cmem else 0)
        match writeSave s l.queue plot content
            (fun len => saveHeader len p.pins (.ofNat 32 p.index) l.addr p.cluster p.core p.furrows.length 0)
            false none p.core p.cluster l.ticket (.ofNat 32 p.index) with
        | (true, s) => saveCroft (takePlot s p) p.croft
        | (false, s) => s
      else s)

/-- The mark of a croft's stream among the refused saves. -/
def streamMark (croft : Nat) : Nat := 2 ^ 60 + croft

/-- A stream that may be saved: its plots have ended or been saved, its six counters are 0, and it stands between groups, be it in a handler
or at a wait (15 R355). -/
def streamSaveReady (s : State) (k : Nat) : Bool :=
  match tfind s.furrows k with
  | none => false
  | some f =>
    let c := s.croft f.croft
    let q := (s.launch c.launch).queue
    f.stream && (s.queue q).qstat == 3 && !f.stopped && !f.entries.isEmpty && f.ctr.isEmpty
      && (s.ops.filter fun o => o.furrow == k).all (fun o => o.parked || o.kind == .waitw)
      && (croftPlots s c).all (fun p => p.phase == .ended || p.phase == .saved) && !(s.queue q).refusedSaves.contains (streamMark c.id)
      && f.entries.all fun e => e.waits.all fun w => match w with
        | .operation _ => false
        | .walk _ _ _ _ => false
        | _ => true

/-- The bytes that a stream's state takes at least (08 R209). -/
def streamBytes (f : Furrow) : Nat := 4 * f.scount + 16 * 8192 + 16 * 4096 + 2 * 8192 + 128

def execStreamSave (furrow : Nat) (s : State) : Result :=
  .next
    (if streamSaveReady s furrow then
      let f := s.furrow furrow
      let c := s.croft f.croft
      let l := s.launch c.launch
      match writeSave s l.queue (streamMark c.id) (streamBytes f + if c.savedMem.isNone then l.record.cmem else 0)
          (fun len => saveHeader len 0 0xFFFFFFFF l.addr f.cluster 0 1 1)
          true (some f.slot) 0 f.cluster l.ticket 0xFFFFFFFF with
      | (true, s) =>
        let ops := s.ops.filter fun o => o.furrow == furrow
        let s := removeFurrow (moveHeld s 1 (heldKey furrow ·) (savedStreamKey c.id ·)) furrow f
        saveCroft (s.modCroft c.id fun c => { c with stream := none, savedStream := some f, savedOps := ops }) c.id
      | (false, s) => s
    else s)

/-- All that can be saved is saved (15 R355 step 5). -/
def preemptOver (s : State) (q : Nat) : Bool :=
  let Q := s.queue q
  Q.qstat == 3 && (queueLaunches s q).all fun l => (launchCrofts s l.id).all fun c =>
    ((croftPlots s c).all fun p => p.phase == .saved || p.phase == .ended || Q.refusedSaves.contains p.id) &&
      (c.stream.isNone || Q.refusedSaves.contains (streamMark c.id)
        || (croftPlots s c).any fun p => p.phase == .running || p.phase == .placed)

def finishPreempt (s : State) (q : Nat) : State :=
  if preemptOver s q then
    queueNote (s.modQueue q fun Q => { Q with qstat := 4 }) q 8 false none none none none none none none none none
  else s

/-- A queue resumes: its saved crofts wait for a place again, the drill goes on (15 R357). -/
def execQctlResume (queue : Nat) (s : State) : Result :=
  .next
    (if (s.queue queue).qstat = 4 then
      queueNote (s.modQueue queue fun Q => { Q with qstat := 1, drillStopped := false, refusedSaves := [], saved := 0 }) queue
        9 false none none none none none none none none none
    else s)

/-! ### Destruction (15 R359) -/

/-- A launch of a queue that is destroyed loses its unplaced and its saved plots. -/
def dropUnplaced (s : State) (l : Launch) : State :=
  -- plots by acre that were never created give up their placement pins too (13 R327)
  let s := if l.record.place = 1 then unpinLeaves s l (l.leaves.drop (l.next * l.record.rpp)) else s
  let lost := !l.divided || decide (l.next < l.crofts) || (savedCrofts s l.id) != []
  let s := (savedCrofts s l.id).foldl (fun s c =>
    let s := s.modCroft c.id fun c => { c with savedStream := none, savedOps := [] }
    ((croftPlots s c).filter fun p => p.phase == .saved).foldl endPlot (endCroft s c.id)) s
  if lost then noteOver (s.modLaunch l.id fun l => { l with aborted := true, next := l.crofts }) l.id else s

def execQctlDestroy (queue : Nat) (s : State) : Result :=
  .next
    (if (s.queue queue).qstat = 2 ∨ 256 ≤ queue then s
    else
      let s := s.modQueue queue fun Q =>
        { Q with qstat := 2, drillStopped := true, inPacket := false, loops := [], levels := [] }
      (queueLaunches s queue).foldl dropUnplaced s)

/-- Every signal and every record is written: the queue is idle once the last record has its room in the ring (15 R359 step 4). -/
def destroyOver (s : State) (q : Nat) : Bool :=
  (s.queue q).qstat == 2 && (queueLaunches s q).isEmpty && (s.queue q).held.isEmpty && !queueRingFull s q

def finishDestroy (s : State) (q : Nat) : State :=
  if destroyOver s q then
    (queueNote s q 10 false none none none none none none none none none).modQueue q fun Q => { Q with qstat := 0, en := false }
  else s

/-! ### Held records (15 R354) -/

/-- The first held record when the ring has room for it. -/
def ringSpace (s : State) (q : Nat) : Option State :=
  match (s.queue q).held with
  | [] => none
  | r :: rest =>
    match queueRecordNow s q (bytesOf r) with
    | .full => none
    | .done s => some (s.modQueue q fun Q => { Q with held := rest })

def execQueueFaultRingSpace (queue : Nat) (s : State) : Result := .next ((ringSpace s queue).getD s)

end Sys2Proof.Machine
end

