-- ==== Sys2Proof/Machine/Homes.lean ====
section
/-! DEFINITION. The end of page-table walks, fault rings and the context registers that act, the rebase of stamps, retired slices and the
partition of the stacked SRAM (11 R253, R254, R261, R278 to R281; 05 R133). -/

namespace Sys2Proof.Machine

/-! ### Walks and replays -/

/-- What an access of `flt.acc` asks of a leaf; 7 stands for the local source of a remote put, whose record says 1 (18 R396). -/
def needOf (acc : Nat) : Need := if acc = 1 ∨ acc = 2 then .write else if acc = 3 then .exec else .read

/-- The entry that waits for a walk of an address. -/
def walker (f : Furrow) (va : Dword) (acc : BitVec 3) : Option (Nat × Nat × Word) :=
  f.entries.findSome? fun e => e.waits.findSome? fun w => match w with
    | .walk a c thr pkt => if a = va ∧ c = acc then some (e.id, thr, pkt) else none
    | _ => none

/-- The walk is over for an entry, which waits for something else or issues the instruction again. -/
def endWalk (f : Furrow) (id : Nat) (va : Dword) (acc : BitVec 3) (next : List Wait) : Furrow :=
  f.modEntry id fun e => { e with waits := (e.waits.filter fun w => match w with
    | .walk a c _ _ => !(a == va && c == acc)
    | _ => true) ++ next }

/-- A walk ends (11 R278, R279): the access goes on with the leaf marked, a malformed or refusing entry traps as it is tried again, or the
miss goes to the fault ring. -/
def execPageWalkComplete (furrow : Nat) (va : BitVec 56) (access : BitVec 3) (s : State) : Result :=
  let f := s.furrow furrow
  let a : Dword := va.setWidth 64
  .next
    (match walker f a access with
    | none => s
    | some (id, thr, pkt) =>
      let ag := agentOf s f
      let p := resolve s ag (tlbOf s ag) thr a.toNat 1 (needOf access.toNat)
      match p with
      | .miss =>
        let s := walkReads s ag.die ag.ctx a.toNat
        let rec_ := ringHead s f pkt 1 (if access = 7 then 1 else access.toNat) ++ [.ofNat 32 thr, 0, a.setWidth 32, (a >>> 32).setWidth 32]
        let s := s.modCtx f.ctx fun c => { c with faults := c.faults ++ [rec_] }
        s.modFurrow furrow fun f => endWalk f id a access [.replay a access]
      | .fail _ => (walkReads s ag.die ag.ctx a.toNat).modFurrow furrow fun f => endWalk f id a access []
      | p => (usePlace s ag (needOf access.toNat) p).modFurrow furrow fun f => endWalk f id a access [])

/-- The context's first waiting record, written when its ring has room (11 R279). -/
def faultSpace (s : State) (ctx : Nat) : Option State :=
  let c := s.ctx ctx
  match c.faults with
  | [] => none
  | r :: rest =>
    if c.fring = 0 then none
    else
      match ringPut s (c.fring.toNat / 32 * 32) c.fringw.toNat (2 ^ fld c.fring.toNat 0 5) (bytesOf r) 0 with
      | .full => none
      | .done s => some (s.modCtx ctx fun c => { c with faults := rest })

def execFaultRecordWrite (ctx : Nat) (s : State) : Result := .next ((faultSpace s ctx).getD s)

/-- Furrows of a context changed. -/
def eachFurrow (s : State) (ctx : Nat) (g : Furrow → Furrow) : State :=
  { s with furrows := s.furrows.map fun x => (x.1, if x.2.ctx = ctx then g x.2 else x.2) }

/-- Every suspended instruction of the context is issued again (11 R279, R280). -/
def execFresume (ctx : Nat) (s : State) : Result :=
  .next (eachFurrow s ctx fun f => { f with entries := f.entries.map fun e =>
    { e with waits := e.waits.filter fun w => match w with
      | .replay _ _ => false
      | _ => true } })

/-- The reply of a service request reaches its entry (05 R133, 11 R280). -/
def reply (f : Furrow) (x : Word) : Furrow :=
  match f.entries.findSome? fun e => e.waits.findSome? fun w => match w with
      | .service r => some r
      | _ => none with
  | none => f
  | some r => { f.sset r.toNat x with entries := f.entries.map fun e => { e with waits := e.waits.filter fun w => !isService w } }

/-- The reply of a service call (05 R134); where no furrow stands at the slot it names, that of a saved stream, it is dropped (log entry 43). -/
def execSvcrep (ctx : Nat) (value : BitVec 64) (s : State) : Result :=
  let v := value.toNat
  let cluster := fld v 24 8
  let key := if fld v 16 1 = 1 then streamKey cluster (fld v 17 5) else furrowKey (4 * cluster + fld v 22 2) (fld v 17 5)
  .next (match tfind s.furrows key with
    | some f => if f.ctx = ctx ∧ f.stream = (fld v 16 1 == 1) then s.setFurrow key (reply f (.ofNat 32 (v / 2 ^ 32))) else s
    | none => s)

/-- A cached translation that an invalidation drops (11 R278, R280); codes 4 to 15, which the manual leaves open, drop none (DESIGN CHOICE, log entry
83). -/
def invalidated (ctx v : Nat) (e : TlbEntry) : Bool :=
  let bits := match fld v 0 4 with
    | 0 => 16
    | 1 => 26
    | _ => 36
  let base := fld v 16 40 * 65536 / 2 ^ bits * 2 ^ bits
  e.ctx == ctx && (fld v 0 4 == 3 || (decide (fld v 0 4 < 3) && decide (e.base < base + 2 ^ bits) && decide (base < e.base + 2 ^ e.bits)))

/-- The range leaves every TLB and every walk cache of the package (11 R278, R280). -/
def execTlbinv (ctx : Nat) (value : BitVec 64) (s : State) : Result :=
  let keep (l : List TlbEntry) : List TlbEntry := l.filter fun e => !invalidated ctx value.toNat e
  let keepWalks (l : List WalkEntry) : List WalkEntry :=
    l.filter fun e => !invalidated ctx value.toNat { ctx := e.ctx, base := e.pre * 2 ^ (e.sh + 10), bits := e.sh + 10, pte := 0 }
  .next { s with cores := s.cores.map fun c => (c.1, { c.2 with tlb := keep c.2.tlb }),
                 dies := s.dies.map fun d => (d.1, { d.2 with walks := keepWalks d.2.walks }),
                 clusters := s.clusters.map fun c => (c.1, { c.2 with tlb := keep c.2.tlb }) }

/-! ### The rebase (11 R261) -/

/-- Some home's next stamp may pass 2^47. -/
def rebaseDue (s : State) : Bool := s.lines.any fun l => decide (2 ^ 47 ≤ l.2.rts.toNat + 2 ^ 20 + 1)

/-- No access is in flight. -/
def accessesOver (s : State) : Bool := s.ops.all (fun o => o.done || o.parked) && s.clusters.all fun c => c.2.run.isNone

/-- Every exclusive line goes home and every copy is dropped. -/
def dropAllCopies (s : State) : State :=
  let s := (s.lines.filter fun l => l.2.owner.isSome).foldl (fun s l => recallLine s l.1) s
  { s with cores := s.cores.map fun c => (c.1, { c.2 with l1 := [], fills := c.2.fills.map fun x => { x with dropped := true } }) }

def Furrow.rebased (f : Furrow) : Furrow := { f with pts := 0, seen := 0, maxw := 0 }
def Op.rebased (o : Op) : Op := { o with pts := 0, wmax := 0, rmax := 0, heard := 0, accs := o.accs.map fun a => { a with stamp := 0 } }

/-- Every stamp of the package becomes 0 (11 R261). -/
def execStampRebase (s : State) : Result :=
  .next
    (if rebaseDue s && accessesOver s then
      let s := dropAllCopies s
      { s with
        lines := [],
        furrows := s.furrows.map fun f => (f.1, f.2.rebased),
        ops := s.ops.map Op.rebased,
        plots := s.plots.map fun p =>
          (p.1, { p.2 with savedFurrows := p.2.savedFurrows.map Furrow.rebased, savedOps := p.2.savedOps.map Op.rebased }),
        crofts := s.crofts.map fun c =>
          (c.1, { c.2 with savedStream := c.2.savedStream.map Furrow.rebased, savedOps := c.2.savedOps.map Op.rebased }),
        launches := s.launches.map fun l => (l.1, { l.2 with maxw := 0 }),
        cores := s.cores.map fun c => (c.1, { c.2 with horizon := 0 }),
        clusters := s.clusters.map fun c => (c.1, { c.2 with overflow := c.2.overflow.map fun m => { m with pts := 0 } }),
        dies := s.dies.map fun d => (d.1, { d.2 with pts := 0, maxw := 0, floors := [] }),
        held := s.held.map fun h => (h.1, { h.2 with pre := h.2.pre.rebased }),
        fab := { s.fab with ordered := [], xfers := s.fab.xfers.map fun x => { x with maxw := 0, pts := 0 } } }
    else s)

/-! ### Retired slices (11 R254, R281) -/

/-- The slice of a bucket. -/
def sliceOf (d : Die) (bucket : Nat) : Nat := ((tget d.buckets bucket none).getD (bucket % 64))

/-- The nearest live slice below or above, modulo 64. -/
def nearest (live : Nat → Bool) (slice : Nat) (up : Bool) : Nat :=
  (((upto 63).map fun i => (if up then slice + 1 + i else slice + 63 - i) % 64).find? live).getD slice

/-- The buckets of a slice, each to a new slice in turn below and above. -/
def reassign (d : Die) (slice : Nat) : Die :=
  let live (x : Nat) : Bool := x != slice && !d.retired.contains x
  let mine := (upto 4096).filter fun b => sliceOf d b == slice
  { d with retired := d.retired ++ [slice],
           buckets := mine.zipIdx.foldl (fun t x => tput t x.1 (some (nearest live slice (x.2 % 2 == 1)))) d.buckets }

/-- A line of a slice. -/
def lineInSlice (s : State) (die slice line : Nat) : Bool :=
  let k := 64 * line
  decide (k < 2 ^ 53) && homeDie k == die && sliceOf (s.die die) (bucketOf k) == slice

/-- The lines of device memory that the model knows: stamped at their homes, or with bytes that are not zero. -/
def deviceLines (s : State) : List Nat :=
  ((s.lines.map (·.1)) ++ s.mem.map fun c => lineOf c.1).dedup.filter fun l => decide (64 * l < devLimit)

/-- The L2 writes lines back (11 R253, R281). -/
def backLines (s : State) (p : Nat → Bool) : State := ((deviceLines s).filter p).foldl backLine s

/-- A slice is retired (11 R281): it writes its lines back and hands its buckets and its highest stamp on; the ninth of a die is only reported. Requests on their
way to it are refused. -/
def retireSlice (s : State) (die slice : Nat) : State :=
  if 8 ≤ (s.die die).retired.length then hostEventOpen s 2 die
  else
    let mine := (upto 4096).filter fun b => sliceOf (s.die die) b == slice
    let top := (s.lines.filter fun l => lineInSlice s die slice l.1).foldl (fun w l => smax w (smax l.2.wts l.2.rts))
      (mine.foldl (fun w b => smax w (tget (s.die die).floors b 0)) 0)
    let s := backLines s (lineInSlice s die slice)
    let lines := s.lines.map fun l => if lineInSlice s die slice l.1 then (l.1, { l.2 with wts := top, rts := top }) else l
    let ops := s.ops.map fun o =>
      if !o.done && o.accs.any fun a => !a.done && lineInSlice s die slice (lineOf a.loc) then { o with refused := true } else o
    let s := ({ s with lines, ops } : State).modDie die fun d =>
      { reassign d slice with floors := mine.foldl (fun t b => tset t b 0 top) d.floors }
    hostEventOpen s 2 die

/-- A slice's corrected errors pass the threshold (11 R281). -/
def execL2SliceRetire (die slice : Nat) (s : State) : Result :=
  .next
    (if 4 ≤ die ∨ 64 ≤ slice ∨ (s.die die).retired.contains slice then s
    else retireSlice (s.modDie die fun d => { d with sliceErrors := tput d.sliceErrors slice (d.sliceThreshold.toNat + 1) }) die slice)

/-- A refused request is sent again (11 R281). -/
def execRetireResend (op : Nat) (s : State) : Result := .next (s.modOp op fun o => { o with refused := false })

/-! ### The partition (11 R253) -/

/-- A plot is resident on a die. -/
def dieBusy (s : State) (die : Nat) : Bool :=
  s.plots.any fun p => p.2.cluster / 64 == die && (p.2.phase == .placed || p.2.phase == .running)

/-- A write of `dpart`: the change begins, and `dpart.busy` reads 1 until it is applied. -/
def execDpartWrite (die : Nat) (value : BitVec 32) (s : State) : Result :=
  let code := fld value.toNat 0 4
  .next
    (if 4 ≤ die ∨ 8 < code ∨ dieBusy s die ∨ (s.die die).busy then s
    else s.modDie die fun d => { d with busy := true, dnext := code })

/-- The change is applied: the L2 is written back and emptied, and every byte of the die scratchpad reads zero. -/
def applyPartition (s : State) (die : Nat) : State :=
  let inside (k : Nat) : Bool := decide (dieLoc die 0 ≤ k ∧ k < dieLoc (die + 1) 0)
  let s := backLines (dropAllCopies s) fun l => homeDie (64 * l) == die
  ({ s with mem := s.mem.filter fun c => !inside c.1, memMark := s.memMark.filter fun c => !inside (4 * c.1) } : State).modDie die
    fun d => { d with dpart := d.dnext, busy := false }

end Sys2Proof.Machine
end

