-- ==== Sys2Proof/Machine/Package.lean ====
section
/-! DEFINITION. Registers that only store, resets and boot, the signing state, power and temperature, bridges, RAS counters, and the host's
memory requests (17 R362 to R382; 18 R391, R399). The offsets of registers inside a block are the model's (log entry 17). -/

namespace Sys2Proof.Machine

/-! ### Register writes (17 R368) -/

def isPow (lo hi n : Nat) : Bool := decide (lo ≤ n ∧ n ≤ hi)

/-- A field written with a value out of its range `lo` to `hi`: which value of the range it then holds the manual does not state
(log entry 20). -/
def inRange (s : State) (lo hi v : Nat) : Nat × State :=
  if lo ≤ v ∧ v ≤ hi then (v, s) else (lo + s.draw.1 % (hi - lo + 1), s.draw.2)

/-- A ring's register: its base and the log2 of its entry count; zero is no ring. -/
def ringValue (s : State) (lo hi v : Nat) : Dword × State :=
  if v = 0 then (0, s) else (.ofNat 64 (v / 32 * 32 + (inRange s lo hi (v % 32)).1), (inRange s lo hi (v % 32)).2)

/-- Bits of a register replaced: `n` bits from `lo`. -/
def putBits (old : BitVec 256) (lo n : Nat) (v : Nat) : BitVec 256 :=
  .ofNat 256 (old.toNat - fld old.toNat lo n * 2 ^ lo + v % 2 ^ n * 2 ^ lo)

/-- A slot table entry within its ranges (18 R391). -/
def slotLegal (x : Nat) : Bool :=
  decide (2 ≤ fld x 20 5) && decide (fld x 20 5 ≤ 20) && decide (20 ≤ fld x 0 9) && decide (fld x 0 9 ≤ 500)

/-- A written entry is out of range, in use or not (18 R391). -/
def slotsBad (f : Fabric) : Bool := f.sltWritten.any fun i => !slotLegal (tget f.slt i 0).toNat

/-- A quarter of an entry is written; the first holds the fields with ranges, and a value out of range there is counted (18 R391; log entry
57). Bits 47:25 and 19:9 of an entry are reserved. -/
def writeSlot (f : Fabric) (i q v : Nat) : Fabric :=
  let v := if q = 0 then fld v 0 9 + fld v 20 5 * 2 ^ 20 + fld v 48 16 * 2 ^ 48 else v
  let x := putBits (tget f.slt i 0) (q * 64) 64 v
  let f := { f with slt := tset f.slt i 0 x }
  if q ≠ 0 then f
  else { f with sltWritten := if f.sltWritten.contains i then f.sltWritten else i :: f.sltWritten,
                miscounts := if slotLegal x.toNat then f.miscounts else f.miscounts + 1 }

/-- A package register (17 R368, R376, R382; 18 R399); the bits of an input window that R399 does not list are kept (log entry 71). -/
def writePackage (s : State) (o : Nat) (v : Nat) : State :=
  let p := s.pkg
  let f := s.fab
  let pk (p : Pkg) : State := { s with pkg := p }
  let fb (f : Fabric) : State := { s with fab := f }
  if o = 0x18 then pk { p with pwrcap := max 500 (min 5000 (v % 2 ^ 13)) }
  else if o = 0x20 then let (x, s) := ringValue s 4 12 v
    { s with pkg := { p with evring := x } }
  else if o = 0x28 then pk { p with evringw := .ofNat 64 v }
  else if o = 0x30 then fb { f with sltcnt := min 64 (v % 2 ^ 7) }
  else if o = 0x38 then fb { f with peertab := .ofNat 64 (fld v 5 47 * 32) }
  else if o = 0x40 then let (x, s) := inRange s 0 32 (v % 2 ^ 6)
    { s with fab := { f with relaysz := x } }
  else if o = 0x48 then
    let y := v % 2 ^ 9
    let (x, s) := inRange s 0 64 (if y % 4 = 0 then y / 4 else 128)
    { s with fab := { f with seedmax := 4 * x } }
  else if o = 0x50 then let (x, s) := inRange s 1 4096 (v % 2 ^ 13)
    { s with fab := { f with seedpool := x } }
  else if o = 0x58 then let (x, s) := inRange s 12 20 (v % 2 ^ 5)
    { s with fab := { f with grantsz := x } }
  else if o = 0x60 then fb { f with xexp := max 1 (v % 2 ^ 20) }
  else if o = 0x68 then fb { f with ageq := max 1 (v % 2 ^ 16) }
  else if o = 0x70 then fb { f with wlthr := .ofNat 32 v }
  else if 0x80 ≤ o ∧ o < 0xB0 then pk { p with rasThreshold := tset p.rasThreshold (rasBridge ((o - 0x80) / 8)) 0 (.ofNat 32 v) }
  else if 0x100 ≤ o ∧ o < 0x180 then fb { f with inwin := tset f.inwin ((o - 0x100) / 8) 0 (.ofNat 64 v) }
  else if 0x180 ≤ o ∧ o < 0x200 then fb { f with inwl := tset f.inwl ((o - 0x180) / 8) 0 (.ofNat 32 v) }
  else if 0x400 ≤ o ∧ o < 0x400 + 8 * 76 then fb { f with bdp := tput f.bdp ((o - 0x400) / 8) (some (.ofNat 32 v)) }
  else if 0x1000 ≤ o ∧ o < 0x1800 then
    fb (writeSlot f ((o - 0x1000) / 32) ((o - 0x1000) % 32 / 8) v)
  else s

/-- A die's register (11 R257, R281). -/
def writeDie (s : State) (die o v : Nat) : State :=
  if o = 8 then let (x, s) := inRange s 1 (2 ^ 20) v
    s.modDie die fun d => { d with lease := x }
  else if o = 0x10 then s.modDie die fun d => { d with sliceThreshold := .ofNat 32 v }
  else if o = 0x20 then { s with pkg := { s.pkg with rasThreshold := tset s.pkg.rasThreshold (rasDie die) 0 (.ofNat 32 v) } }
  else if 0x100 ≤ o ∧ o < 0x160 then
    { s with pkg := { s.pkg with rasThreshold := tset s.pkg.rasThreshold (rasChannel (12 * die + (o - 0x100) / 8)) 0 (.ofNat 32 v) } }
  else s

/-- A cluster's register (17 R376). -/
def writeCluster (s : State) (c o v : Nat) : State :=
  if o = 0 then s.modCluster c fun x => { x with cbrate := v % 2 ^ 20 }
  else if o = 8 then s.modCluster c fun x => { x with cbceil := .ofNat 32 v }
  else if o = 0x18 then { s with pkg := { s.pkg with rasThreshold := tset s.pkg.rasThreshold (rasCluster c) 0 (.ofNat 32 v) } }
  else s

/-- A context's register (11 R280, 18 R399). -/
def writeCtx (s : State) (c o v : Nat) : State :=
  if o = 0 then s.modCtx c fun x => { x with ptbase := .ofNat 64 (fld v 13 39 * 8192) }
  else if o = 8 then let (r, s) := ringValue s 6 16 v
    s.modCtx c fun x => { x with fring := r }
  else if o = 0x10 then s.modCtx c fun x => { x with fringw := .ofNat 64 v }
  else if o = 0x30 then s.modCtx c fun x => { x with pgbase := .ofNat 64 (fld v 13 39 * 8192) }
  else if o = 0x38 then s.modCtx c fun x => { x with rtmo := max 1 (v % 2 ^ 20) }
  else if o = 0x40 then s.modCtx c fun x => { x with xsave := .ofNat 64 (fld v 12 40 * 4096) }
  else if o = 0x48 then s.modCtx c fun x => { x with xslen := .ofNat 32 v }
  else s

/-- A queue's register; a write to an enabled queue is ignored (15 R332). -/
def writeQueue (s : State) (q o v : Nat) : State :=
  if (s.queue q).en then s
  else if o = 0 then s.modQueue q fun x => { x with qbase := .ofNat 64 (v / 64 * 64) }
  else if o = 0x10 then s.modQueue q fun x => { x with qbmap := .ofNat 64 (v / 64 * 64) }
  else if o = 0x18 then s.modQueue q fun x => { x with qprog := .ofNat 64 (v / 4 * 4) }
  else if o = 0x20 then s.modQueue q fun x => { x with qplen := v % 2 ^ 11 }
  else if 0x28 ≤ o ∧ o < 0x48 then s.modQueue q fun x => { x with qwin := tset x.qwin ((o - 0x28) / 8) 0 (.ofNat 64 (v / 64 * 64)) }
  else if 0x48 ≤ o ∧ o < 0x68 then s.modQueue q fun x => { x with qwlen := tset x.qwlen ((o - 0x48) / 8) 0 (.ofNat 32 v) }
  else if o = 0x68 then let (r, s) := ringValue s 4 12 v
    s.modQueue q fun x => { x with qfring := r }
  else if o = 0x70 then s.modQueue q fun x => { x with qsave := .ofNat 64 (v / 4096 * 4096) }
  else if o = 0x78 then s.modQueue q fun x => { x with qslen := .ofNat 32 v }
  else s

/-- Power is on and no thermal hold keeps the module in reset (17 R379). -/
def alive (s : State) : Bool := s.pkg.power && !s.pkg.thermalHold

/-- A 64-bit write to a register of BAR0 that only stores; any other offset is ignored (17 R368). -/
def execRegisterWrite (offset : Nat) (value : BitVec 64) (s : State) : Result :=
  let v := value.toNat
  .next
    (if offset % 8 ≠ 0 ∨ !alive s then s
    else if offset < 0x100000 then writePackage s offset v
    else if offset < 0x140000 then writeDie s ((offset - 0x100000) / 0x10000) (offset % 0x10000) v
    else if offset < 0x200000 then s
    else if offset < 0x300000 then writeCluster s ((offset - 0x200000) / 0x1000) (offset % 0x1000) v
    else if offset < 0x400000 then s
    else if offset < 0x800000 then
      if offset % 0x1000 = 8 then
        { s with pkg := { s.pkg with rasThreshold := tset s.pkg.rasThreshold (rasCore ((offset - 0x400000) / 0x1000)) 0 (.ofNat 32 v) } }
      else s
    else if offset < 0x1000000 then s
    else if offset < 0x1040000 then writeCtx s ((offset - 0x1000000) / 0x1000) (offset % 0x1000) v
    else if offset < 0x2000000 then s
    else if offset < 0x3000000 then writeQueue s ((offset - 0x2000000) / 0x10000) (offset % 0x10000) v
    else s)

/-! ### The host's reads of BAR0 (17 R368) -/

def readPackage (s : State) (o : Nat) : Dword :=
  let f := s.fab
  if o = 0 then s.pkg.bootst.setWidth 64
  else if o = 8 then s.pkg.devno.setWidth 64
  else if o = 0x18 then .ofNat 64 s.pkg.pwrcap
  else if o = 0x20 then s.pkg.evring
  else if o = 0x28 then s.pkg.evringw
  else if o = 0x30 then .ofNat 64 f.sltcnt
  else if o = 0x38 then f.peertab
  else if o = 0x40 then .ofNat 64 f.relaysz
  else if o = 0x48 then .ofNat 64 f.seedmax
  else if o = 0x50 then .ofNat 64 f.seedpool
  else if o = 0x58 then .ofNat 64 f.grantsz
  else if o = 0x60 then .ofNat 64 f.xexp
  else if o = 0x68 then .ofNat 64 f.ageq
  else if o = 0x70 then f.wlthr.setWidth 64
  else if 0x80 ≤ o ∧ o < 0xB0 then (tget s.pkg.rasThreshold (rasBridge ((o - 0x80) / 8)) 0).setWidth 64
  else if 0xB0 ≤ o ∧ o < 0xE0 then (tget s.pkg.ras (rasBridge ((o - 0xB0) / 8)) 0).setWidth 64
  else if 0x100 ≤ o ∧ o < 0x180 then tget f.inwin ((o - 0x100) / 8) 0
  else if 0x180 ≤ o ∧ o < 0x200 then (tget f.inwl ((o - 0x180) / 8) 0).setWidth 64
  else if 0x400 ≤ o ∧ o < 0x400 + 8 * 76 then ((tget f.bdp ((o - 0x400) / 8) none).getD (if (o - 0x400) / 8 < 12 then 0x00200000 else 0x00040000)).setWidth 64
  else if 0x1000 ≤ o ∧ o < 0x1800 then .ofNat 64 (fld (tget f.slt ((o - 0x1000) / 32) 0).toNat ((o - 0x1000) % 32 / 8 * 64) 64)
  else 0

/-- The bytes of L2 that a die has lost with its retired slices (11 R253, R281). -/
def lostCapacity (d : Die) : Nat := d.retired.length * ((16 - d.dpart) * 0x4000000 / 64)

def readDie (s : State) (die o : Nat) : Dword :=
  let d := s.die die
  if o = 0 then .ofNat 64 (d.dpart + if d.busy then 16 else 0)
  else if o = 8 then .ofNat 64 d.lease
  else if o = 0x10 then d.sliceThreshold.setWidth 64
  else if o = 0x18 then (tget s.pkg.ras (rasDie die) 0).setWidth 64
  else if o = 0x20 then (tget s.pkg.rasThreshold (rasDie die) 0).setWidth 64
  else if o = 0x28 then .ofNat 64 (lostCapacity d)
  else if 0x100 ≤ o ∧ o < 0x160 then (tget s.pkg.rasThreshold (rasChannel (12 * die + (o - 0x100) / 8)) 0).setWidth 64
  else if 0x160 ≤ o ∧ o < 0x1C0 then (tget s.pkg.ras (rasChannel (12 * die + (o - 0x160) / 8)) 0).setWidth 64
  else if 0x1000 ≤ o ∧ o < 0x9000 then .ofNat 64 (sliceOf d ((o - 0x1000) / 8))
  else 0

def readCluster (s : State) (c o : Nat) : Dword :=
  if o = 0 then .ofNat 64 (s.cluster c).cbrate
  else if o = 8 then (s.cluster c).cbceil.setWidth 64
  else if o = 0x10 then (tget s.pkg.ras (rasCluster c) 0).setWidth 64
  else if o = 0x18 then (tget s.pkg.rasThreshold (rasCluster c) 0).setWidth 64
  else 0

/-- A core's RAS registers and its error log (01 R37). -/
def readCore (s : State) (c o : Nat) : Dword :=
  if o = 0 then (tget s.pkg.ras (rasCore c) 0).setWidth 64
  else if o = 8 then (tget s.pkg.rasThreshold (rasCore c) 0).setWidth 64
  else if 0x10 ≤ o ∧ o < 0x50 then nth (s.core c).rel ((o - 0x10) / 8) 0
  else if o = 0x50 then (s.core c).relOver.setWidth 64
  else 0

def readCtx (s : State) (c o : Nat) : Dword :=
  let x := s.ctx c
  if o = 0 then x.ptbase
  else if o = 8 then x.fring
  else if o = 0x10 then x.fringw
  else if o = 0x30 then x.pgbase
  else if o = 0x38 then .ofNat 64 x.rtmo
  else if o = 0x40 then x.xsave
  else if o = 0x48 then x.xslen.setWidth 64
  else if o = 0x58 then .ofNat 64 x.xstat
  else 0

def readQueue (s : State) (q o : Nat) : Dword :=
  let x := s.queue q
  if o = 0 then x.qbase
  else if o = 8 then .ofNat 64 (x.lsz + x.pri * 2 ^ 4 + x.ctx * 2 ^ 7 + if x.en then 2 ^ 13 else 0)
  else if o = 0x10 then x.qbmap
  else if o = 0x18 then x.qprog
  else if o = 0x20 then .ofNat 64 x.qplen
  else if 0x28 ≤ o ∧ o < 0x48 then tget x.qwin ((o - 0x28) / 8) 0
  else if 0x48 ≤ o ∧ o < 0x68 then (tget x.qwlen ((o - 0x48) / 8) 0).setWidth 64
  else if o = 0x68 then x.qfring
  else if o = 0x70 then x.qsave
  else if o = 0x78 then x.qslen.setWidth 64
  else if o = 0x88 then x.qrd.setWidth 64
  else if o = 0x90 then .ofNat 64 (x.qstat + x.lost.toNat * 65536)
  else 0

/-- What an aligned 64-bit read of BAR0 by the host gives; a read of `qres` reserves (execQresRead). -/
def hostRead (s : State) (offset : Nat) : Dword :=
  if offset % 8 ≠ 0 ∨ !alive s then 0
  else if offset < 0x100000 then readPackage s offset
  else if offset < 0x140000 then readDie s ((offset - 0x100000) / 0x10000) (offset % 0x10000)
  else if 0x200000 ≤ offset ∧ offset < 0x300000 then readCluster s ((offset - 0x200000) / 0x1000) (offset % 0x1000)
  else if 0x400000 ≤ offset ∧ offset < 0x800000 then readCore s ((offset - 0x400000) / 0x1000) (offset % 0x1000)
  else if 0x1000000 ≤ offset ∧ offset < 0x1040000 then readCtx s ((offset - 0x1000000) / 0x1000) (offset % 0x1000)
  else if 0x2000000 ≤ offset ∧ offset < 0x3000000 then
    if offset % 0x10000 = 0x80 then (reserve s ((offset - 0x2000000) / 0x10000)).1
    else readQueue s ((offset - 0x2000000) / 0x10000) (offset % 0x10000)
  else if 0x3000000 ≤ offset ∧ offset < 0x4000000 then
    .ofNat 64 (ofBytes (doorRead s ((offset - 0x3000000) / 0x10000) (offset % 0x10000) 8).1)
  else 0

/-- Where `qres` stands among the registers: in a queue's block and on its doorbell page. -/
def atQres (offset : Nat) : Bool :=
  (decide (0x2000000 ≤ offset ∧ offset < 0x3000000) && decide (0x80 ≤ offset % 0x10000 ∧ offset % 0x10000 < 0x88))
    || (decide (0x3000000 ≤ offset ∧ offset < 0x4000000) && decide (offset % 0x10000 < 8))

/-- A host read of any size: one that is not an aligned 64-bit read gives zero, or all ones at `qres`, and reserves nothing (15 R333, 17 R368). -/
def hostReadBytes (s : State) (offset size : Nat) : List Byte :=
  if size = 8 ∧ offset % 8 = 0 then toBytes 8 (hostRead s offset).toNat
  else List.replicate size (if alive s && atQres offset then 0xFF else 0)

/-- No context is active: no queue is enabled and no launch is open (17 R369). -/
def noContext (s : State) : Bool := s.queues.all (fun q => !q.2.en) && s.launches.all fun l => l.2.signalled

def execDevnoWrite (value : BitVec 64) (s : State) : Result :=
  .next (if alive s && noContext s then { s with pkg := { s.pkg with devno := value.setWidth 16 } } else s)

/-- A RAS counter is cleared and its record may be written again (17 R381). -/
def execRasCounterClear (unit : Nat) (s : State) : Result :=
  .next { s with pkg := { s.pkg with ras := tset s.pkg.ras unit 0 0, rasReported := tset s.pkg.rasReported unit false false } }

/-! ### Resets (17 R370 to R375) -/

/-- What survives every reset: inputs in line, the free values drawn, the host's memory, the temperatures. -/
def bare (s : State) : State :=
  { agenda := s.agenda, upsets := s.upsets, tick := s.tick, mem := s.mem.filter fun c => decide (hostBase ≤ c.1 ∧ c.1 < 2 ^ 53),
    dies := (upto 4).foldl (fun t d => tput t d { celsius := (s.die d).celsius, hot := (s.die d).hot }) [] }

/-- Krypidy's persistent state: the security version and the signing index, whose reserved block's rest is discarded (17 R371, R373). -/
def flashOf (p : Pkg) : Pkg := { security := p.security, signNext := p.signReserved, signReserved := p.signReserved }

/-- The failures that the hardware shows and no check of the image: flash, its write, the trainings, the self-test (17 R370). -/
def hardFail (code : Nat) : Bool := code == 1 || (decide (6 ≤ code) && decide (code ≤ 11))

/-- A cold reset begins the boot (17 R370) with the firmware that stands in flash. What fails in the hardware is an input: its code, 0 for none
(log entry 68). -/
def execColdReset (fail : BitVec 8) (signed : SignedManifest) (components : List Component) (s : State) : Result :=
  let b : Boot := { fail := if hardFail fail.toNat then fail.toNat else 0, image := { signed with components } }
  .next
    (if s.pkg.thermalHold then s
    else { bare s with pkg := { flashOf s.pkg with bootst := 1, slots := s.pkg.slots, boot := some b } })

/-- A component's SHA-256 is the one that the manifest gives for it (17 R371). -/
def componentsFit (x : Image) : Bool := (upto 5).all fun i => nth x.digests i 0 == sha256 (nth x.components i [])

/-- The verification of the manifest (17 R371), as a failure code; of several failures the one with the lowest code (log entry 68). -/
def verifyCode (fail security : Nat) (x : Image) : Nat :=
  if fail = 1 ∨ x.key.length ≠ 60 ∨ x.signature.length ≠ 5396 then 1
  else if sha256 x.key ≠ Config.rootDigest then 2
  else if !hssVerifies x.key x.manifest x.signature then 3
  else if !componentsFit x then 4
  else if x.version < security then 5
  else if fail = 6 then 6
  else 0

/-- The failure code of a step of the boot, 0 for none (17 R370). -/
def bootCode (step security : Nat) (b : Boot) : Nat :=
  if step = 1 then (if b.fail = 11 then 11 else 0)
  else if step = 2 then verifyCode b.fail security b.image
  else if step = 4 ∧ 7 ≤ b.fail ∧ b.fail ≤ 10 then b.fail
  else 0

/-- The measurement slots: the manifest and the five components (17 R372). -/
def measured (x : Image) : List (BitVec 256) := sha256 x.manifest :: (upto 5).map fun i => sha256 (nth x.components i [])

/-- A step of the boot is done: the next one begins, the device is ready, or a check failed (17 R370 to R372). The stored version is raised
once the manifest is verified; the slots are measured at step 3. -/
def bootNext (s : State) : State :=
  match s.pkg.boot with
  | none => s
  | some b =>
    let p := s.pkg
    let step := p.bootst.toNat
    let code := bootCode step p.security b
    if code ≠ 0 then
      { s with pkg := { p with bootst := .ofNat 16 (0x80 + code * 256), boot := none } }
    else
      let p := if step = 2 then { p with security := b.image.version } else if step = 3 then { p with slots := measured b.image } else p
      { s with pkg := { p with bootst := .ofNat 16 (step + 1), boot := if step = 4 then none else some b } }

/-- GDDR7 holds a byte as it is (17 R374, 06 R184). -/
def byteBacked (s : State) (k : Nat) : Bool := (tget s.backed (lineOf k) 0).getLsbD (k % 64)

/-- The lines of device memory of which GDDR7 may hold an older copy, because the L2 held them dirty and has not written every byte of them
back since (17 R374, 06 R184). -/
def dirtyLines (s : State) : List Nat :=
  (deviceLines s).filter fun l => tget s.backed l 0 != BitVec.allOnes 64

/-- GDDR7 alone: what the L2 had not written back is lost with the SRAM, and older bytes of the line come back in its place (17 R374; log
entry 50). -/
def gddrOnly (s : State) : State :=
  (dirtyLines s).foldl (fun m l =>
    if Config.writtenBack s.tick l then m
    else
      let kept (k : Nat) : Bool := byteBacked s k
      let m := putBytes m (64 * l) ((upto 64).map fun i =>
        if kept (64 * l + i) then readByte s.mem (64 * l + i) else Config.olderByte s.tick (64 * l + i))
      { m with memMark := (upto 16).foldl (fun t i => let w := 16 * l + i
        tset t w .clean (if (upto 4).any fun j => kept (4 * w + j) then tget s.memMark w .clean else .clean)) m.memMark }) s

/-- A warm reset: every unit but Krypidy; GDDR7 is kept, as all that holds its lines from then on, or zeroed; the measurements, the SPDM sessions and the signing state stand (17 R374,
R375). A device in recovery stays there, since no firmware is loaded again. -/
def execWarmReset (zeroGddr : Bool) (s : State) : Result :=
  .next
    (if !alive s || s.pkg.boot.isSome then s
    else
      let b := bare s
      let gddr (k : Nat) : Bool := decide (k < devLimit)
      let g := gddrOnly s
      { b with
        tick := s.tick + 1,
        mem := if zeroGddr then b.mem else g.mem.filter fun c => gddr c.1 || decide (hostBase ≤ c.1 ∧ c.1 < 2 ^ 53),
        memMark := if zeroGddr then [] else g.memMark.filter fun c => gddr (4 * c.1),
        backed := if zeroGddr then [] else (deviceLines g).foldl (fun t l => tset t l 0 (BitVec.allOnes 64)) [],
        pkg := { bootst := s.pkg.bootst, slots := s.pkg.slots, sessions := s.pkg.sessions, security := s.pkg.security,
                 signNext := s.pkg.signNext, signReserved := s.pkg.signReserved, lowReported := s.pkg.lowReported, bridges := s.pkg.bridges } })

/-- Only the CXL.io configuration state is reset; the work goes on (17 R374). -/
def execFunctionLevelReset (s : State) : Result := .next { s with pkg := { s.pkg with cxlio := 0 } }

/-- Module power is removed: all activity ends, the thermal hold is released (17 R373, R379). -/
def execPowerLoss (s : State) : Result :=
  .next { agenda := s.agenda, upsets := s.upsets, tick := s.tick, mem := (bare s).mem, pkg := { flashOf s.pkg with power := false, bootst := 0, slots := s.pkg.slots } }

/-- Signatures of the identity key (17 R373). -/
def signatures : Nat := 2 ^ 30

/-- The measurements are returned; a signed answer uses the next index, of a block reserved in flash before (17 R372, R373). -/
def execSpdmGetMeasurements (signed : Bool) (s : State) : Result :=
  let p := s.pkg
  .next
    (if !signed ∨ !alive s ∨ signatures ≤ p.signNext then s
    else
      let next := p.signNext + 1
      let low := decide (signatures - next < 2 ^ 20) && !p.lowReported
      let s := { s with pkg := { p with signNext := next, lowReported := p.lowReported || low,
                                        signReserved := if p.signNext = p.signReserved then p.signReserved + 64 else p.signReserved } }
      if low then hostEventOpen s 12 0 else s)

/-! ### Power and temperature (17 R376 to R379) -/

/-- The cluster's addition of budget (17 R378): what was written to `cbrate`, `cbceil` and `pwrcap` takes effect; a new `cbrate` is the
effective rate from then on (log entry 49). -/
def execBudgetAddition (cluster : Nat) (s : State) : Result :=
  let add (c : Cluster) : Cluster :=
    let rate := if c.base = c.cbrate then c.rate else c.cbrate
    { c with rate, base := c.cbrate, ceil := c.cbceil, budget := .ofNat 32 (min c.cbceil.toNat (c.budget.toNat + rate)) }
  .next (if 256 ≤ cluster then s else { s.modCluster cluster add with pkg := { s.pkg with cap := s.pkg.pwrcap } })

/-- A division whose rounding the manual leaves open: the free value decides. -/
def openQuotient (n d pick : Nat) : Nat := if n % d ≠ 0 ∧ pick % 2 = 1 then n / d + 1 else n / d

def eachCluster (s : State) (cs : List Nat) (g : Cluster → Cluster) : State := cs.foldl (fun s c => s.modCluster c g) s

/-- The power controller's measurement (17 R377): a thousand in a row above the cap are 1 ms (R382, kind 11). -/
def execPowerMeasure (milliwatts : Nat) (s : State) : Result :=
  let cap := s.pkg.cap * 1000
  let (n, s) := s.draw
  let step (c : Cluster) : Nat := openQuotient c.base 16 n
  .next
    (if cap < milliwatts then
      let above := s.pkg.above + 1
      let s := eachCluster s (upto 256) fun c => { c with rate := c.rate - step c }
      let s := { s with pkg := { s.pkg with above := above % 1000 } }
      if above = 1000 then hostEventOpen s 11 0 else s
    else
      let s := { s with pkg := { s.pkg with above := 0 } }
      if milliwatts * 100 < cap * 95 then eachCluster s (upto 256) fun c => { c with rate := max c.rate (min c.base (c.rate + step c)) }
      else s)

/-- A die's temperature (17 R379): 100 °C halves its effective rates, 110 °C stops its matrix engines, 120 °C holds the module in cold
reset until power is removed. -/
def execThermalLimit (die celsius : Nat) (s : State) : Result :=
  let old := (s.die die).celsius
  .next
    (if 4 ≤ die ∨ !s.pkg.power then s
    else
      let s := s.modDie die fun d => { d with celsius, hot := decide (110 ≤ celsius) }
      if s.pkg.thermalHold then s
      else if 120 ≤ celsius then { bare s with pkg := { flashOf s.pkg with thermalHold := true, bootst := 0, slots := s.pkg.slots } }
      else if old < 100 ∧ 100 ≤ celsius then
        let (n, s) := s.draw
        hostEventOpen (eachCluster s ((upto 64).map (64 * die + ·)) fun c => { c with rate := openQuotient c.rate 2 n }) 10 die
      else s)

/-! ### Bridges (17 R362) -/

/-- A bridge's lanes fail in one half or in both: an error that it counts (R381), and an event (R362). -/
def bridgeState (s : State) (b state : Nat) : State :=
  if 6 ≤ b ∨ state ≤ tget s.pkg.bridges b 0 then s
  else hostEventOpen (rasCount { s with pkg := { s.pkg with bridges := tput s.pkg.bridges b state } } (rasBridge b)) 8 b

def execBridgeHalfFailure (bridge : Nat) (s : State) : Result := .next (bridgeState s bridge 1)
def execBridgeFailure (bridge : Nat) (s : State) : Result := .next (bridgeState s bridge 2)

/-! ### The host's memory requests (17 R367, R370) -/

/-- A host request at its home, whole lines or parts of one; device memory answers only once the device is ready, and the host's own memory
always. The bytes of a read go to the host. -/
def execCxlMemRequest (kind : CxlKind) (address : Nat) (bytes : List (BitVec 8)) (s : State) : Result :=
  let device := decide (address + bytes.length ≤ devLimit) && booted s
  let host := decide (hostBase ≤ address ∧ address + bytes.length ≤ 2 ^ 52)
  .next
    (if !(device || host) || bytes.length = 0 || address / 64 != (address + bytes.length - 1) / 64 then s
    else
      match kind with
      | .read => (agentRead s none address bytes.length 0).2.2
      | .write => (agentWrite s none 0 address bytes).2
      | .atomicOr =>
        let s := recallLine s (lineOf address)
        let old := latest s address bytes.length
        (agentWrite s none 0 address (List.zipWith (· ||| ·) old bytes)).2)

end Sys2Proof.Machine
end

