-- ==== Sys2Proof/Machine/Remote.lean ====
section
/-! DEFINITION. The remote instructions at the issuing device and at the target (18 R395 to R408). -/

namespace Sys2Proof.Machine

/-- The path c.nw (01 R22). -/
def cNw : Nat := 5

/-- The number of this device in the fabric (17 R369). -/
def ownDevice (s : State) : Nat := s.pkg.devno.toNat

/-- Bytes that a unit of the device reads at a place, whoever owns the line. -/
def physRead (s : State) (k n : Nat) : List Byte := latest s k n

/-- The entry of a peer in the peer table (18 R395). -/
def peerEntry (s : State) (p : Nat) : Nat := ofBytes (physRead s (s.fab.peertab.toNat + 32 * p) 32)
def peerKind (s : State) (p : Nat) : Nat := fld (peerEntry s p) 0 2

/-! ### Issue: waits and checks (18 R396, R401) -/

/-- An acquire part, a remote fence, or a fence whose version names peer devices holds later remote instructions (12 R296; 11 R267; 18 R404). -/
def remoteHeld (s : State) : Bool := engineHeld s 3 || rfenceHeld s

def whenRemote (s : State) (k : State → State) : State := 
  if remoteHeld s then stallHold s else if pathFull s cNw then stallWait s else k s

/-- One range that a remote instruction names. -/
structure Ask where
  va : Nat
  size : Nat
  thr : Nat := 0
  /-- `info.acc`, and `flt.acc` of a miss (18 R396, R401) -/
  acc : Nat
  flt : BitVec 3
  need : Need
  /-- it lies at the peer -/
  target : Bool
  deriving DecidableEq, Repr

/-- A range cut at the smallest pages (11 R277). -/
def pagePieces : Nat → Nat → Nat → List (Nat × Nat)
  | 0, _, _ => []
  | _, _, 0 => []
  | fuel + 1, va, n =>
    let m := min n (65536 - va % 65536)
    (va, m) :: pagePieces fuel (va + m) (n - m)

def fixedWindow (va : Nat) : Bool := va / 2 ^ 48 == 0xFF

/-- A piece of a range and where it leads (18 R396, R401): a range in a window is one piece. -/
structure Found where
  ask : Ask
  va : Nat
  size : Nat
  place : Place
  deriving DecidableEq, Repr

def askPlace (s : State) (q : Ask) (va n : Nat) : Place :=
  if q.target && fixedWindow va then .fail 0x06
  else
    match resolve s (agentOf s s.pre) (tlbOf s (agentOf s s.pre)) q.thr va n q.need with
    | .fail c => .fail c
    | .miss => .miss
    | .peer d pa e l b n => if q.target && (peerKind s d == 1 || peerKind s d == 2) then .peer d pa e l b n else .fail 0x06
    | p => if q.target || lanePrivate va then .fail 0x06 else
      match p with
      | .loc _ _ _ _ _ => p
      | _ => .fail 0x06

def askFind (s : State) (q : Ask) : List Found :=
  (if fixedWindow q.va then [(q.va, q.size)] else pagePieces 3 q.va q.size).map fun p =>
    { ask := q, va := p.1, size := p.2, place := askPlace s q p.1 p.2 }

def askInfo (q : Ask) (va : Nat) : Word := .ofNat 32 (q.thr % 64 * 2 ^ 18 + q.acc * 2 ^ 12 + va % 4096)

/-- `info` of cause 0x0C (18 R401). -/
def remoteInfo (thr why : Nat) : Word := .ofNat 32 (thr % 64 * 2 ^ 18 + why)

/-- The peer device and physical address of a piece. -/
def Found.peer (f : Found) : Nat × Nat :=
  match f.place with
  | .peer d pa _ _ _ _ => (d, pa)
  | _ => (0, 0)
def Found.local (f : Found) : Acc :=
  match f.place with
  | .loc k _ _ _ _ => { thr := f.ask.thr, loc := k, addr := .ofNat 64 f.va, size := f.size, done := true }
  | _ => { thr := 0, loc := 0, size := 0, done := true }
def Found.reached (f : Found) : Bool :=
  match f.place with
  | .peer _ _ _ _ _ _ => true
  | _ => false

/-- The targets name one peer, and each range is contiguous there, as far as they translate (18 R401, R403). The first that does not. -/
def scattered (fs : List Found) : Option Found :=
  let ts := fs.filter Found.reached
  (ts.zip (ts.drop 1)).findSome? fun x =>
    if x.1.peer.1 != x.2.peer.1 || (x.1.ask == x.2.ask && x.1.va + x.1.size == x.2.va && x.1.peer.2 + x.1.size != x.2.peer.2) then some x.2
    else none

/-- The checks of a remote instruction in their order, then its missing translations (18 R401); `bad` names the lowest thread with a value
outside its limits, `one` asks that the targets hang together. -/
def checkRemote (s : State) (asks : List Ask) (bad : Option Nat) (one : Bool) (k : State → List Found → State) : State :=
  match asks.find? fun q => q.va % 4 != 0 with
  | some q => raise s 0x05 (askInfo q q.va)
  | none =>
    let fs := (asks.map (askFind s)).flatten
    match fs.find? fun f => f.place == .fail 0x07 with
    | some f => raise s 0x07 (askInfo f.ask f.va)
    | none =>
      match fs.find? fun f => f.place == .fail 0x06 with
      | some f => raise s 0x06 (askInfo f.ask f.va)
      | none =>
        match if one then scattered fs else none with
        | some f => raise s 0x06 (askInfo f.ask f.va)
        | none =>
          match bad with
          | some t => raise s 0x0C (remoteInfo t 4)
          | none =>
            match fs.find? fun f => f.place == .miss with
            | some f => { s with iss := { s.iss with stall := .miss f.ask.thr (.ofNat 64 f.va) f.ask.flt } }
            | none => k (fs.foldl (fun s f => usePlace s (agentOf s s.pre) f.ask.need f.place) s) fs

/-- Something queued for a peer (18 R393). -/
def enqueue (s : State) (peer cls : Nat) (i : SendItem) : State :=
  { s with fab := { s.fab with sendq := tset s.fab.sendq (8 * peer + cls) [] (tget s.fab.sendq (8 * peer + cls) [] ++ [i]) } }

/-- A flit that has no class, for a peer (18 R393). -/
def post (s : State) (peer type tag ctx : Nat) (note : Note) (payload : List Byte := []) : State :=
  enqueue s peer 4 { flits := [{ type, dst := peer, src := ownDevice s, tag := .ofNat 16 tag, ctx, note, payload,
                                 units := (payload.length + 31) / 32 }] }

/-! ### rld and ratom (18 R402) -/

/-- The requests of an operation queued, one for each peer it names, with the threads that name it. -/
def queueThreads (s : State) (op : Nat) (relaxed : Bool) (fs : List Found) (body : List Found → RemoteBody) (charge : Found → Nat) : State :=
  (fs.map (·.peer.1)).dedup.foldl (fun s p =>
    let mine := fs.filter fun f => f.peer.1 == p
    enqueue s p (if relaxed then 1 else 0)
      { op, charge := total (mine.map charge), thrs := mine.map (·.ask.thr), body := some (body mine) }) s

def execRld (d a : BitVec 7) (r : BitVec 1) (sc : BitVec 3) (s : State) : Result :=
  let m := act s
  .next (guarded s none [.v 0 a 2 m, .dv d] fun s => whenRemote s fun s =>
    checkRemote s ((threads s.pre.width m).map fun thr =>
        { va := (pairV s a.toNat thr).toNat, size := 4, thr, acc := 0, flt := 0, need := .read, target := true }) none false fun s fs =>
      let op := nextOp s
      let s := issueOp s (withScope s sc.toNat { kind := .remote, instr := .rld d a r sc, path := some cNw })
      queueThreads s op (r == 1) fs (fun fs => .read (fs.map fun f => .ofNat 52 f.peer.2)) fun _ => 4)

/-- The operation code in an `ratom` address. -/
def ratomCode (s : State) (a : BitVec 7) (t : Nat) : Nat := fld (pairV s a.toNat t).toNat 56 4

/-- V[a+3] is consumed by the threads of a compare-and-swap only (18 R402); the operand whose poison comes first is first (01 R34). -/
def ratomOpds (s : State) (a : BitVec 7) (m : Mask) : List Opd :=
  let swaps := maskOf ((threads s.pre.width m).filter fun t => ratomCode s a t == 9) fun _ => true
  let o : Opd := { pos := 0, file := 0, base := a.toNat, reads := 4, used := 3, thr := m }
  let p : Opd := { pos := 0, file := 0, base := a.toNat + 3, reads := 1, used := 1, thr := swaps }
  match firstPoison s.pre [o], firstPoison s.pre [p] with
  | some (_, t, _), some (_, u, _) => if u < t then [p, o] else [o, p]
  | _, _ => [o, p]

def execRatom (d a : BitVec 7) (r : BitVec 1) (sc : BitVec 3) (s : State) : Result :=
  let m := act s
  .next (guarded s none (ratomOpds s a m ++ [.dv d]) fun s => whenRemote s fun s =>
    let ts := threads s.pre.width m
    checkRemote s (ts.map fun thr =>
        { va := fld (pairV s a.toNat thr).toNat 0 56, size := 4, thr, acc := 2, flt := 2, need := .write, target := true })
      (ts.find? fun t => fld (pairV s a.toNat t).toNat 60 4 != 0 || 12 ≤ ratomCode s a t) false fun s fs =>
      let op := nextOp s
      let s := issueOp s (withScope s sc.toNat { kind := .remote, instr := .ratom d a r sc, path := some cNw })
      queueThreads s op (r == 1) fs
        (fun fs => .atom (fs.map fun f => (.ofNat 4 (ratomCode s a f.ask.thr), .ofNat 52 f.peer.2, V s a 2 f.ask.thr, V s a 3 f.ask.thr)))
        fun f => if ratomCode s a f.ask.thr = 9 then 8 else 4)

/-! ### rst (18 R403) -/

/-- A 64-bit value of a scalar octet. -/
def octet (s : State) (a : BitVec 7) (i : Nat) : Nat := (SN s a.toNat (i + 1) ++ SN s a.toNat i).toNat

/-- The limits of a remote range: the source read here, the destination written there, the flag written there unless it is 0. -/
def putAsks (src dst flag n m : Nat) (source : Bool) : List Ask :=
  (if source then [{ va := src, size := n, acc := 1, flt := 7, need := .read, target := false }] else [])
    ++ [{ va := dst, size := m, acc := 1, flt := 1, need := .write, target := true }]
    ++ (if flag = 0 then [] else [{ va := flag, size := 4, acc := 1, flt := 1, need := .write, target := true }])

/-- The physical address of the flag: 0 for none. -/
def flagAt (fs : List Found) (flag : Nat) : Nat := if flag = 0 then 0 else ((fs.reverse.find? Found.reached).map (·.peer.2)).getD 0

def execRst (d a : BitVec 7) (r : BitVec 1) (sc : BitVec 3) (s : State) : Result :=
  .next (guarded s none [.s 0 a 8, .ds d] fun s => whenRemote s fun s =>
    let n := (SN s a.toNat 6).toNat
    let flag := octet s a 4
    let bad := n % 4 != 0 || n < 4 || 4096 < n || SN s a.toNat 7 != 0
    -- a length outside its limits spans nothing, and the first word of each range is checked (log entry 82)
    let m := if n % 4 != 0 || n < 4 || 4096 < n then 4 else n
    checkRemote s (putAsks (octet s a 0) (octet s a 2) flag m m true) (if bad then some 0 else none) true fun s fs =>
      let op := nextOp s
      let dst := ((fs.find? Found.reached).map (·.peer)).getD (0, 0)
      let s := issueOp s (withScope s sc.toNat
        { kind := .remote, instr := .rst d a r sc, path := some cNw, accs := (fs.filter fun f => !f.reached).map (·.local) })
      enqueue s dst.1 (if r = 1 then 1 else 0)
        { op, charge := n, thrs := [0], body := some (.put (.ofNat 52 dst.2) [] (.ofNat 52 (flagAt fs flag))) })

/-! ### rfence and rpath (18 R404, R406) -/

/-- Older remote loads, puts, atomics and reductions that are not complete. -/
def remoteSet (s : State) (k : Nat) : List Nat :=
  ((pending s k).filter fun o => match o.instr with
    | .rld _ _ _ _ | .rst _ _ _ _ | .ratom _ _ _ _ | .rred _ _ _ _ => true
    | _ => false).map (·.id)

def execRfence (sc : BitVec 3) (s : State) : Result :=
  .next (guarded s none [] fun s =>
    if remoteHeld s then stallHold s else fenceAfter s (.rfence sc) sc (remoteSet s s.iss.furrow))

def execRpath (d a : BitVec 7) (s : State) : Result :=
  .next (guarded s none [.s 0 a, .ds d] fun s => whenRemote s fun s =>
    if 4096 ≤ (S s a).toNat then raise s 0x0C (remoteInfo 0 4)
    else issueOp s { kind := .remote, instr := .rpath d a, path := some cNw, args := [S s a] })

/-- The entries in use of the slot table: none when a written one is out of range (18 R391). -/
def slotTable (s : State) : List Nat :=
  if slotsBad s.fab then [] else (upto s.fab.sltcnt).map fun i => (tget s.fab.slt i 0).toNat

/-- The peer of a group in an entry. -/
def slotPeer (x g : Nat) : Nat := fld x (48 + 12 * g) 12

def portOf (s : State) (p : Nat) : Port := tget s.fab.ports p {}
def groupOf (s : State) (g : Nat) : Group := tget s.fab.groups g {}

/-- A group has a link with a usable position (18 R385). -/
def groupUsable (s : State) (g : Nat) : Bool := (upto 8).any fun i => (portOf s (8 * g + i)).txMask != 0

/-- Bytes of a sender's record that wait to be sent: what is left of its seed, and granted bytes (18 R393). -/
def Xfer.waiting (x : Xfer) : Nat := (if x.st == 1 || x.st == 2 || x.st == 6 then x.seed - x.seedSent else 0) + total (x.tosend.map (·.2))

/-- Bytes in a peer's send queues. -/
def queuedFor (s : State) (p : Nat) : Nat :=
  total ((upto 4).map fun c => total ((tget s.fab.sendq (8 * p + c) []).map (·.charge)))
    + total ((s.fab.xfers.filter fun x => !x.receiver && x.peer == p).map Xfer.waiting)

/-- The four words of `rpath` (18 R406). What the Ethernet transport knows of its entropy values and its window is free. -/
def pathWords (s : State) (p : Nat) : List Word × State :=
  let kib := BitVec.ofNat 32 (min (2 ^ 32 - 1) (queuedFor s p / 1024))
  match peerKind s p with
  | 1 =>
    let pairs := total ((slotTable s).map fun x => ((upto 12).filter fun g => slotPeer x g == p && groupUsable s g).length)
    ([.ofNat 32 (if ownDevice s < 4096 then pairs else 0), .ofNat 32 (min 255 (queuedFor s p / 4096)), 1, kib], s)
  | 2 =>
    ([.ofNat 32 ((Config.unstated s.tick).toNat % (2 ^ fld (peerEntry s p) 52 4 + 1)),
      .ofNat 32 ((Config.unstated (s.tick + 1)).toNat % 256), 2, kib], { s with tick := s.tick + 2 })
  | _ => ([0, 0, 0, 0], s)

/-! ### The target (18 R397, R402, R403, R407) -/

/-- The inbound window that a range lies in, with the permissions asked for, and its context. -/
def windowCtx (s : State) (pa n : Nat) (read write atomic : Bool) : Option Nat :=
  ((upto 16).find? fun i =>
    let w := (tget s.fab.inwin i 0).toNat
    let base := fld w 16 36 * 65536
    fld w 9 1 == 1 && (!read || fld w 6 1 == 1) && (!write || fld w 7 1 == 1) && (!atomic || fld w 8 1 == 1)
      && base ≤ pa && pa + n ≤ base + (tget s.fab.inwl i 0).toNat * 65536
      && (pa + n ≤ devLimit || hostBase ≤ pa)).map fun i => fld (tget s.fab.inwin i 0).toNat 0 6

/-- Whether one enabled window allows an access. -/
def admits (s : State) (pa n : Nat) (read write atomic : Bool) : Bool := (windowCtx s pa n read write atomic).isSome

/-- A write of the fabric engine at its home (18 R407): it takes the agent's highest stamp with it. Copies in the L1s of `cluster`, that of an
agent of this device, are dropped first (12 R295). -/
def fabricWrite (s : State) (cluster : Option Nat) (pts : BitVec 48) (k : Nat) (bs : List Byte) : BitVec 48 × State :=
  let (w, s) := agentWrite s cluster pts k bs
  (smax pts w, s)

/-- The instruction whose function an `ratom` code is (18 R402). -/
def ratomFunction (code : Nat) : Instr :=
  match code with
  | 0 => .atadd 0 0 0 0
  | 1 => .atand 0 0 0 0
  | 2 => .ator 0 0 0 0
  | 3 => .atxor 0 0 0 0
  | 4 => .atmin 0 0 0 0
  | 5 => .atmax 0 0 0 0
  | 6 => .atminn 0 0 0 0
  | 7 => .atmaxn 0 0 0 0
  | 8 => .atexch 0 0 0 0
  | 9 => .atcas 0 0 0 0
  | 10 => .atfadd 0 0 0 0
  | 11 => .atincw 0 0 0 0
  | _ => .nop

/-- What a read-modify-write answers: the value it read and its mark, the agent's stamp after it, and the write stamp of what it read. -/
structure AtHome where
  value : Word := 0
  bad : Bool := false
  pts : BitVec 48
  seen : BitVec 48
  s : State

/-- One read-modify-write at the home (18 R402, R424); a poisoned word is left alone, and logged when no reply is wanted, as an atomic leaves it
(06 R176). -/
def homeAtomic (s : State) (cluster : Option Nat) (code : Nat) (reply : Bool) (pts : BitVec 48) (k : Nat) (y0 y1 : Word) : AtHome :=
  let s := recallLine s (lineOf k)
  let (bad, s) := atomicMark s k reply
  let seen := (s.line k).wts
  if bad then { bad := true, pts, seen, s }
  else
    let m := read32 s.mem k
    let (w, s) := agentWrite s cluster pts k (toBytes 4 (atomicNew (ratomFunction code) m y0 y1).toNat)
    { value := m, pts := smax pts w, seen, s }

/-- What a target answers: why each thread failed (0 or 5), its value and its mark; the agent's highest stamp, and that of what was read. -/
structure Served where
  fail : List (BitVec 3) := []
  values : List Word := []
  marks : List Bool := []
  pts : BitVec 48
  seen : BitVec 48 := 0
  s : State

def Served.add (r : Served) (fail : BitVec 3) (x : Word) (m : Bool) (pts : BitVec 48) (s : State) : Served :=
  { fail := r.fail ++ [fail], values := r.values ++ [x], marks := r.marks ++ [m], pts, seen := r.seen, s }

/-- An operation performs at its target, or is refused and performs nothing (18 R397, R402, R403); `cluster` is that of an agent of this device. -/
def serve (s : State) (cluster : Option Nat) (pts : BitVec 48) : RemoteBody → Served
  | .read addrs =>
    addrs.foldl (fun r pa =>
      if admits r.s pa.toNat 4 true false false then
        let s := recallLine r.s (lineOf pa.toNat)
        let (ms, s) := readMarks s pa.toNat 4
        let (bs, w, s) := agentRead s cluster pa.toNat 4 r.pts
        ({ r with seen := smax r.seen w } : Served).add 0 (.ofNat 32 (ofBytes bs)) (ms.any id) r.pts s
      else r.add 5 0 false r.pts r.s) { pts, s }
  | .atom items =>
    items.foldl (fun r i =>
      if admits r.s i.2.1.toNat 4 false false true then
        let a := homeAtomic r.s cluster i.1.toNat true r.pts i.2.1.toNat i.2.2.1 i.2.2.2
        ({ r with seen := smax r.seen a.seen } : Served).add 0 a.value a.bad a.pts a.s
      else r.add 5 0 false r.pts r.s) { pts, s }
  | .put dest bytes flag =>
    if admits s dest.toNat bytes.length false true false && (flag == 0 || admits s flag.toNat 4 false true true) then
      let (w, s) := fabricWrite s cluster pts dest.toNat bytes
      if flag = 0 then { fail := [0], values := [0], marks := [false], pts := w, s }
      else
        let a := homeAtomic s cluster 0 false w flag.toNat 1 0
        { fail := [0], values := [0], marks := [false], pts := a.pts, s := a.s }
    else { fail := [5], values := [0], marks := [false], pts, s }

/-- The agents whose stamps this device keeps (18 R407). -/
def agentKey (source agent : Nat) : Nat := 2 ^ 64 * source + agent % 2 ^ 64

/-- A request performs at this device with the agent's stamps: the highest taken for it here, and `pts`. -/
def serveFor (s : State) (key : Nat) (cluster : Option Nat) (pts : BitVec 48) (body : RemoteBody) : Served :=
  let r := serve s cluster (smax pts (tget s.fab.ordered key 0)) body
  { r with s := { r.s with fab := { r.s.fab with ordered := tset r.s.fab.ordered key 0 r.pts } } }

/-- A request of a peer performs, or is refused, and is answered. It performs as it comes, so the ordered requests of an agent perform in the
order in which its session brings them (18 R386, R407); a relaxed one has no order to keep. The reply carries the tag of the request's flits
(20 R423). -/
def execRemoteRequest (source agent : Nat) (tag : BitVec 16) (_ordered : Bool) (body : RemoteBody) (s : State) : Result :=
  let r := serveFor s (agentKey source agent) none 0 body
  .next (post r.s source 4 tag.toNat 0 (.reply r.fail r.values r.marks))

/-! ### The answer (18 R402, R403, R405, R408) -/

/-- The threads an operation still waits for. -/
def Op.unanswered (o : Op) : List Nat := (threads 64 o.act).filter fun t => tget o.results (8 * t) 0 == 0

/-- The results of a thread entered: why it failed (stored plus one), its value and its mark. -/
def Op.setResult (o : Op) (t : Nat) (fail : BitVec 3) (x : Word) (m : Bool) : Op :=
  { o with results := tset (tset (tset o.results (8 * t) 0 (.ofNat 32 (fail.toNat + 1))) (8 * t + 1) 0 x) (8 * t + 2) 0 (if m then 1 else 0) }

/-- The results of some threads entered, in order. -/
def Op.setResults (o : Op) : List Nat → List (BitVec 3) → List Word → List Bool → Op
  | t :: ts, f :: fs, xs, ms => (o.setResult t f (xs.headD 0) (ms.headD false)).setResults ts fs (xs.drop 1) (ms.drop 1)
  | _, _, _, _ => o

def Op.failOf (o : Op) (t : Nat) : Nat := (tget o.results (8 * t) 1).toNat - 1

/-- A scalar form answers for thread 0 alone. -/
def Op.scalarRemote (o : Op) : Option Nat :=
  match o.instr with
  | .rst d _ _ _ | .rred d _ _ _ => some d.toNat
  | _ => none

/-- The destination of `rld` and `ratom`. -/
def remoteDest : Instr → Nat
  | .rld d _ _ _ | .ratom d _ _ _ => d.toNat
  | _ => 0

/-- The registers of `rld` and `ratom`: each answered thread's element, zero for those that zero mode zeroes; v0 drops it. -/
def remoteDeliver (f : Furrow) (o : Op) : Furrow :=
  let d := remoteDest o.instr
  let f := (threads f.width o.act).foldl (fun f t =>
    if o.failOf t = 0 then f.vsetMarked d t (tget o.results (8 * t + 1) 0) (tget o.results (8 * t + 2) 0 == 1) else f) f
  (threads f.width o.zero).foldl (fun f t => f.vset d t 0) f

/-- An operation of `rld` or `ratom` ends: results, then the trap of the lowest thread that failed, before the furrow's next group. -/
def finishThreads (s : State) (o : Op) : State :=
  let s := takeStamps s o
  let s := s.modFurrow o.furrow fun f => keepEarly o f (remoteDeliver f o)
  let s := match (threads 64 o.act).find? fun t => o.failOf t != 0 with
    | some t => s.modFurrow o.furrow fun f => { f with late := f.late ++ [{ cause := 0x0C, info := remoteInfo t (o.failOf t) }] }
    | none => s
  finishOp (staleReport s o) o

/-- A scalar form ends with its status (18 R403, R408). -/
def finishStatus (s : State) (o : Op) (d status : Nat) : State :=
  answerOp (staleReport (takeStamps s o) o) o d (.ofNat 32 status)

def isThreads (o : Op) : Bool :=
  match o.instr with
  | .rld _ _ _ _ | .ratom _ _ _ _ => true
  | _ => false

/-- Every thread is answered. -/
def threadsOver (o : Op) : Bool := o.kind == .remote && !o.done && isThreads o && o.unanswered.isEmpty

/-- The operation entered again, and ended when it is over. -/
def answered (s : State) (o : Op) : State :=
  if threadsOver o then finishThreads s o else s.modOp o.id fun _ => o

/-! ### Reductions (18 R408) -/

/-- The members of a peer group of a context, ascending (18 R398). -/
def peerGroup (s : State) (ctx n : Nat) : List Nat :=
  let c := s.ctx ctx
  if c.pgbase = 0 then []
  else
    let map := physRead s (c.pgbase.toNat + 512 * n) 512
    (upto 4096).filter fun p => (nth map (p / 8) 0).getLsbD (p % 8)

/-- One element of a reduction. -/
def reduceWord (opcode : Nat) (x y : Word) : Word :=
  match opcode with
  | 0 => x + y
  | 1 => .ofNat 32 (faddV fp32 (fval x) (fval y) { rng := 1 }).1
  | 2 => minI x y
  | 3 => maxI x y
  | 4 => (fminMax false x y { rng := 1 }).1
  | 5 => (fminMax true x y { rng := 1 }).1
  | _ => x ||| y

def reduceVectors (opcode : Nat) (x y : List Word) : List Word := (x.zip y).map fun p => reduceWord opcode p.1 p.2

/-- An fp32 NaN is delivered as the canonical one: the operand of a group's only member too (18 R408). -/
def canonWord (x : Word) : Word := if (fval x).isNan then .ofNat 32 fp32.canon else x

def isFp (opcode : Nat) : Bool := opcode == 1 || opcode == 4 || opcode == 5

/-- How far a member's part has come: it waits, goes up to a member of the tree, or is the result. -/
inductive Part where
  | waits
  | up (position : Nat) (v : List Word)
  | whole (v : List Word)
  deriving DecidableEq, Repr

/-- The fixed tree (18 R408): the member at position `j` of `n` combines with the one 2^r above it, or hands its value down. -/
def treePart (n j opcode : Nat) (got : Nat → Option (List Word)) : Nat → Nat → List Word → Part
  | 0, _, v => .whole v
  | fuel + 1, r, v =>
    if n ≤ 2 ^ r then .whole v
    else if fld j r 1 = 1 then .up (j - 2 ^ r) v
    else if n ≤ j + 2 ^ r then treePart n j opcode got fuel (r + 1) v
    else
      match got (j + 2 ^ r) with
      | none => .waits
      | some w => treePart n j opcode got fuel (r + 1) (reduceVectors opcode v w)

/-- This device's part of a reduction. -/
def partOf (own : Nat) (x : Reduction) : Part :=
  let n := x.members.length
  let j := x.members.findIdx (· == own)
  let mine := ((x.got.find? fun g => g.1 == own).map (·.2)).getD []
  if x.relaxed then
    if j ≠ 0 then .up 0 mine
    else if x.got.length < n then .waits
    else
      match x.got.map (·.2) with
      | v :: vs => .whole (vs.foldl (reduceVectors x.opcode) v)
      | [] => .waits
  else treePart n j x.opcode (fun i => (x.got.find? fun g => g.1 == nth x.members i 4096).map (·.2)) 13 0 mine

def sameReduction (x y : Reduction) : Bool := x.ctx == y.ctx && x.id == y.id
def setReduction (s : State) (x : Reduction) : State :=
  { s with fab := { s.fab with reductions := s.fab.reductions.map fun y => if sameReduction x y then x else y } }
def dropReduction (s : State) (x : Reduction) : State :=
  { s with fab := { s.fab with reductions := s.fab.reductions.filter fun y => !sameReduction x y } }

/-- The words of a result into the operation's local destination, and its status. -/
def deliverReduction (s : State) (o : Op) (status : Nat) (v : List Word) (fp : Bool) : State :=
  if status ≠ 0 then finishStatus s o (o.scalarRemote.getD 0) status
  else
    let dests := o.accs.filter fun a => a.thr == 1
    let f := s.furrow o.furrow
    let (w, s, _) := dests.foldl (fun st a =>
      let (w, s) := agentWrite st.2.1 (some f.cluster) o.pts a.loc (st.2.2.take a.size)
      (smax st.1 w, s, st.2.2.drop a.size)) ((o.wmax, s, bytesOf v) : BitVec 48 × State × List Byte)
    finishStatus s { o with wmax := w } (o.scalarRemote.getD 0) (if fp then 256 else 0)

/-- The result, or its failure, goes to every other member and to this device's operation. -/
def endReduction (s : State) (x : Reduction) (status : Nat) (v : List Word) : State :=
  let s := dropReduction s x
  let s := (x.members.filter (· != ownDevice s)).foldl (fun s m => post s m 9 x.id x.ctx (.result x.id status v)) s
  match s.op x.op with
  | some o => deliverReduction s o status v (x.relaxed && isFp x.opcode)
  | none => s

/-- A reduction goes as far as its parts allow. -/
def advanceReduction (s : State) (x : Reduction) : State :=
  if x.op = 0 ∨ x.sent then s
  else
    match partOf (ownDevice s) x with
    | .waits => s
    | .up j v =>
      let p := nth x.members j 4096
      let s := setReduction s { x with sent := true }
      enqueue s p 3
        { op := x.op, charge := 4 * x.count,
          flits := [{ type := 9, dst := p, src := ownDevice s, tag := .ofNat 16 x.id, ctx := x.ctx,
                      note := .part x.id (if x.relaxed then 1 else 0) x.opcode v, units := (4 * x.count + 31) / 32 }] }
    | .whole v => endReduction s x 0 (if isFp x.opcode then v.map canonWord else v)

/-- The operand words of a reduction: the peers' group, the count, the operation and id, and the ordered or relaxed mode. -/
def execRred (d a : BitVec 7) (r : BitVec 1) (sc : BitVec 3) (s : State) : Result :=
  .next (guarded s none [.s 0 a 8, .ds d] fun s => whenRemote s fun s =>
    let n := (SN s a.toNat 4).toNat
    let w := (SN s a.toNat 5).toNat
    let bad := n < 1 || 120 < n || 7 ≤ fld w 0 4 || fld w 4 12 != 0 || SN s a.toNat 6 != 0 || SN s a.toNat 7 != 0
      || !(scopeOf s s.pre sc.toNat).obs.getLsbD 3
    let m := if n < 1 || 120 < n then 4 else 4 * n  -- log entry 82
    checkRemote s
      [{ va := octet s a 0, size := m, acc := 0, flt := 0, need := .read, target := false },
       { va := octet s a 2, size := m, acc := 1, flt := 1, need := .write, target := false }]
      (if bad then some 0 else none) false fun s fs =>
      issueOp s (withScope s sc.toNat
        { kind := .remote, instr := .rred d a r sc, path := some cNw, args := [.ofNat 32 n, .ofNat 32 w],
          accs := fs.map fun f => { f.local with thr := if f.ask.acc = 0 then 0 else 1 } }))

/-- The bytes of an operation's local source, read by the engine after issue, with the highest stamp read (12 R295; 18 R403). -/
def readSource (s : State) (o : Op) : List Byte × Op × State :=
  let (bs, w, s) := (o.accs.filter fun a => a.thr == 0).foldl (fun st a =>
    let (b, w, s) := agentRead st.2.2 (some (s.furrow o.furrow).cluster) a.loc a.size o.pts
    let s := (readMarks s a.loc a.size).2
    (st.1 ++ b, smax st.2.1 w, s)) (([], o.rmax, s) : List Byte × BitVec 48 × State)
  let o := { o with rmax := w, begun := true }
  (bs, o, s.modOp o.id fun _ => o)

def rredWaits (o : Op) : Bool :=
  o.kind == .remote && !o.done && !o.begun && (match o.instr with
    | .rred _ _ _ _ => true
    | _ => false)

/-- The fabric engine takes a reduction (18 R408). -/
def startReduction (s : State) (o : Op) : State :=
  match o.instr with
  | .rred d _ r sc =>
    let f := s.furrow o.furrow
    let w := (nth o.args 1 0).toNat
    let id := fld w 16 16
    let members := peerGroup s f.ctx (scopeOf s f sc.toNat).pgrp.toNat
    let own := s.fab.reductions.filter fun x => x.op != 0
    if !members.contains (ownDevice s) then finishStatus s o d.toNat 5
    else if 64 ≤ own.length ∨ own.any fun x => x.id == id then finishStatus s o d.toNat 3
    else
      let (bs, o, s) := readSource s o
      let x : Reduction :=
        { ctx := f.ctx, id, op := o.id, members, opcode := fld w 0 4, count := (o.args.headD 0).toNat,
          relaxed := r == 1 && !members.any fun p => peerKind s p == 2, got := [(ownDevice s, wordsOf bs)] }
      match s.fab.reductions.find? (sameReduction x) with
      | none =>
        let s := { s with fab := { s.fab with reductions := s.fab.reductions ++ [x] } }
        advanceReduction s x
      | some e =>
        let x := { x with got := e.got ++ x.got }
        let s := setReduction s x
        if e.bad ∨ e.opcode ≠ x.opcode ∨ e.count ≠ x.count ∨ e.relaxed ≠ x.relaxed then endReduction s x 1 []
        else advanceReduction s x
  | _ => s

/-- A member's part arrives (18 R408). -/
def takePart (s : State) (ctx id member : Nat) (relaxed : Bool) (opcode : Nat) (v : List Word) : State :=
  match s.fab.reductions.find? fun x => x.ctx == ctx && x.id == id with
  | none =>
    { s with fab := { s.fab with
        reductions := s.fab.reductions ++ [{ ctx, id, opcode, count := v.length, relaxed, got := [(member, v)] }] } }
  | some x =>
    let bad := x.opcode != opcode || x.count != v.length || x.relaxed != relaxed
    let y := { x with got := x.got ++ [(member, v)], bad := x.bad || bad }
    if x.op ≠ 0 ∧ bad then endReduction s x 1 []
    else advanceReduction (setReduction s y) y

def execReductionCombine (ctx id member mode opcode : Nat) (values : List (BitVec 32)) (s : State) : Result :=
  .next (takePart s ctx id member (mode == 1) opcode values)

/-- The result of a reduction reaches a member that is not the tree's root; a late one is discarded. -/
def takeResult (s : State) (ctx id status : Nat) (v : List Word) : State :=
  match s.fab.reductions.find? fun x => x.op != 0 && x.ctx == ctx && x.id == id with
  | some x =>
    match s.op x.op with
    | some o => deliverReduction (dropReduction s x) o status v (x.relaxed && isFp x.opcode)
    | none => s
  | none => s

/-! ### Answers and timeouts -/

/-- The requests of an operation are answered, or are waited for no longer. -/
def dropAsked (s : State) (p : Asked → Bool) : State := { s with fab := { s.fab with asked := s.fab.asked.filter fun a => !p a } }

/-- The answer to a request of this device (18 R402, R403), for the threads that the request is for, in ascending order. -/
def takeReply (s : State) (a : Asked) (fail : List (BitVec 3)) (values : List Word) (marks : List Bool) : State :=
  let s := dropAsked s (· == a)
  match s.op a.op with
  | none => s
  | some o =>
    match o.instr with
    | .rst d _ _ _ => finishStatus s o d.toNat (if fail.headD 0 = 0 then 0 else 5)
    | .rld _ _ _ _ | .ratom _ _ _ _ => answered s (o.setResults a.thrs (fail.map fun f => if f = 0 then 0 else 5) values marks)
    | _ => s

/-- No answer within `rtmo` (18 R405). -/
def execRemoteTimeout (op : Nat) (s : State) : Result :=
  match s.op op with
  | none => .next s
  | some o =>
    let s := if o.kind == .remote then dropAsked s (·.op == op) else s
    .next
      (if o.kind != .remote || o.done then s
      else
        match o.instr with
        | .rst d _ _ _ => finishStatus s o d.toNat 6
        | .rred d _ _ _ => finishStatus { s with fab := { s.fab with reductions := s.fab.reductions.filter fun x => x.op != op } } o d.toNat 6
        | .rld _ _ _ _ | .ratom _ _ _ _ =>
          answered s (o.setResults o.unanswered (o.unanswered.map fun _ => 6) [] [])
        | _ => s)

end Sys2Proof.Machine
end

