-- ==== Sys2Proof/Machine/Bulk.lean ====
section
/-! DEFINITION. Bulk transfers: the records of both sides, requests, grants, arrivals, expiry, pause and resume (18 R409 to R416). -/

namespace Sys2Proof.Machine

/-! ### Ranges of bytes: offsets and lengths, ascending and apart -/

/-- The ranges without the bytes from `a` up to `b`. -/
def cutRange (rs : List (Nat × Nat)) (a b : Nat) : List (Nat × Nat) :=
  (rs.map fun r =>
    (if r.1 < a then [(r.1, min a (r.1 + r.2) - r.1)] else []) ++ (if b < r.1 + r.2 then [(max b r.1, r.1 + r.2 - max b r.1)] else [])).flatten

/-- A range put in its place; neighbours become one. -/
def joinRange : List (Nat × Nat) → Nat × Nat → List (Nat × Nat)
  | [], x => [x]
  | r :: rs, x =>
    if r.1 + r.2 < x.1 then r :: joinRange rs x
    else if r.1 + r.2 = x.1 then joinRange rs (r.1, r.2 + x.2)
    else if x.1 + x.2 = r.1 then (x.1, x.2 + r.2) :: rs
    else x :: r :: rs

def addRange (rs : List (Nat × Nat)) (off n : Nat) : List (Nat × Nat) :=
  if n = 0 then rs else joinRange (cutRange rs off (off + n)) (off, n)

def rangeBytes (rs : List (Nat × Nat)) : Nat := total (rs.map (·.2))

/-- How many of the bytes from `a` up to `b` the ranges hold. -/
def coveredBytes (rs : List (Nat × Nat)) (a b : Nat) : Nat := rangeBytes rs - rangeBytes (cutRange rs a b)

/-! ### Records (18 R410) -/

def State.xfer (s : State) (id : Nat) : Option Xfer := s.fab.xfers.find? (·.id == id)
def State.modXfer (s : State) (id : Nat) (g : Xfer → Xfer) : State :=
  { s with fab := { s.fab with xfers := s.fab.xfers.map fun x => if x.id = id then g x else x } }
def dropXfer (s : State) (id : Nat) : State := { s with fab := { s.fab with xfers := s.fab.xfers.filter fun x => x.id != id } }

def Xfer.held (x : Xfer) : Bool := x.heldOwn || x.heldPeer
/-- Requesting, running or deferred. -/
def Xfer.live (x : Xfer) : Bool := x.st == 1 || x.st == 2 || x.st == 6
/-- `xr.st`. -/
def Xfer.shown (x : Xfer) : Nat := if x.live && x.held then 5 else x.st
def Xfer.gout (x : Xfer) : Nat := if x.receiver then total (x.grants.map fun g => rangeBytes g.missing) else rangeBytes x.tosend
def Xfer.ungr (x : Xfer) : Nat := if x.receiver then rangeBytes x.ungranted else x.len - x.seed - rangeBytes x.granted

/-- Bytes of a transfer acknowledged: all of them once it is done, and each once however often it was sent. -/
def Xfer.acked (x : Xfer) (n : Nat) : Xfer := if x.live then { x with done := min x.len (x.done + n) } else x
/-- The 64-byte form of a record. -/
def Xfer.bytes (x : Xfer) : List Byte :=
  toBytes 64 (x.ctx * 2 ^ 48 + x.unit * 2 ^ 40 + x.ecnt.toNat * 2 ^ 64 + x.gcnt.toNat * 2 ^ 96 + x.nexp * 2 ^ 130 + x.scope * 2 ^ 133
    + (if x.rel then 2 ^ 136 else 0) + (if x.receiver then 2 ^ 137 else 0) + x.pri * 2 ^ 138 + x.shown * 2 ^ 140 + x.pass * 2 ^ 144
    + x.tag.toNat * 2 ^ 160 + x.peer * 2 ^ 176 + x.ungr * 2 ^ 192 + x.gout * 2 ^ 224 + x.done * 2 ^ 256 + x.len * 2 ^ 288
    + x.flag.toNat * 2 ^ 320 + x.ra.toNat * 2 ^ 384 + x.la.toNat * 2 ^ 448)

/-- A record as its 64 bytes say, with what they do not hold from the record that was saved. -/
def Xfer.reload (x : Xfer) (bs : List Byte) : Xfer :=
  let n := ofBytes bs
  { x with la := .ofNat 64 (fld n 448 64), ra := .ofNat 64 (fld n 384 64), flag := .ofNat 64 (fld n 320 64), len := fld n 288 32,
           done := fld n 256 32, pass := fld n 144 16, pri := fld n 138 2, rel := fld n 136 1 == 1, scope := fld n 133 3,
           nexp := fld n 130 3, gcnt := .ofNat 32 (fld n 96 32), ecnt := .ofNat 32 (fld n 64 32), unit := fld n 40 8, savedAt := none }

/-- The sender record of a tag in a context. -/
def sender (s : State) (ctx : Nat) (tag : BitVec 16) : Option Xfer := s.fab.xfers.find? fun x => !x.receiver && x.ctx == ctx && x.tag == tag
/-- The sender record that a peer's answer is for. -/
def senderTo (s : State) (peer ctx tag : Nat) : Option Xfer :=
  s.fab.xfers.find? fun x => !x.receiver && x.live && x.peer == peer && x.ctx == ctx && x.tag.toNat == tag
/-- The receiver record of a source device's context and tag. -/
def receiverOf (s : State) (source ctx tag : Nat) : Option Xfer :=
  s.fab.xfers.find? fun x => x.receiver && x.peer == source && x.sctx == ctx && x.tag.toNat == tag

/-! ### xsend and xpoll (18 R409, R416) -/

def execXsend (d a : BitVec 7) (r : BitVec 1) (sc : BitVec 3) (s : State) : Result :=
  .next (guarded s none [.s 0 a 8, .ds d] fun s => whenRemote s fun s =>
    let src := octet s a 0
    let flag := octet s a 4
    let n := (SN s a.toNat 6).toNat
    let ctl := (SN s a.toNat 7).toNat
    let bad := n % 4 != 0 || n < 4 || fld ctl 2 14 != 0
    let asks : List Ask := { va := src, size := if fixedWindow src then (if n % 4 != 0 || n < 4 then 4 else n) else 0, acc := 1, flt := 7, need := .read, target := false }
      :: putAsks src (octet s a 2) flag 0 4 false
    checkRemote s asks (if bad then some 0 else none) true fun s fs =>
      let dst := ((fs.find? Found.reached).map (·.peer)).getD (0, 0)
      let two (x : Nat) : List Word := [.ofNat 32 x, .ofNat 32 (x / 2 ^ 32)]
      issueOp s (withScope s sc.toNat
        { kind := .remote, instr := .xsend d a r sc, path := some cNw, accs := (fs.filter fun f => !f.reached).map (·.local),
          args := two src ++ two dst.2 ++ two (flagAt fs flag) ++ [.ofNat 32 n, .ofNat 32 ctl, .ofNat 32 dst.1] }))

/-- The seed size that a peer advertises, in bytes (18 R411). -/
def seedOf (s : State) (p : Nat) : Nat :=
  1024 * (if p = ownDevice s then s.fab.seedmax else if peerKind s p = 2 then fld (peerEntry s p) 64 9 else tget s.fab.seeds p 0)

/-- A 64-bit argument of an operation. -/
def Op.arg64 (o : Op) (i : Nat) : Dword := nth o.args (i + 1) 0 ++ nth o.args i 0

/-- The fabric engine takes a transfer (18 R409, R415). -/
def startXfer (s : State) (o : Op) (d : Nat) (rel : Bool) : State :=
  let f := s.furrow o.furrow
  let ctl := (nth o.args 7 0).toNat
  let tag : BitVec 16 := .ofNat 16 (ctl / 2 ^ 16)
  let old := sender s f.ctx tag
  if 1024 ≤ (s.fab.xfers.filter fun x => !x.receiver && x.savedAt.isNone).length then finishStatus s o d 1
  else if old.any Xfer.live then finishStatus s o d 2
  else
    let s := match old with
      | some x => dropXfer s x.id
      | none => s
    let (id, s) := s.fresh
    let len := (nth o.args 6 0).toNat
    let peer := (nth o.args 8 0).toNat
    let x : Xfer :=
      { id, la := o.arg64 0, ra := o.arg64 2, flag := o.arg64 4, len, peer, tag, pri := ctl % 4, rel, scope := o.scope,
        ctx := f.ctx, seed := min len (seedOf s peer), win := (o.accs.head?).map (·.loc), cluster := f.cluster,
        pts := o.pts, heldOwn := (s.ctx f.ctx).xstat != 0 }
    finishStatus { s with fab := { s.fab with xfers := s.fab.xfers ++ [x] } } o d 0

def execXpoll (d a : BitVec 7) (s : State) : Result :=
  .next (guarded s none [.s 0 a, .ds d] fun s => whenRemote s fun s =>
    if 65536 ≤ (S s a).toNat then raise s 0x0C (remoteInfo 0 4)
    else issueOp s { kind := .remote, instr := .xpoll d a, path := some cNw, args := [S s a] })

/-- Four scalar results. -/
def answerQuad (s : State) (o : Op) (d : Nat) (xs : List Word) : State :=
  finishOp (s.modFurrow o.furrow fun f => xs.zipIdx.foldl (fun f x => f.sset (d + x.2) x.1) f) o

/-- A poll reads the record, and frees it when the transfer has ended (18 R416). -/
def pollXfer (s : State) (o : Op) (d : Nat) : State :=
  match sender s (s.furrow o.furrow).ctx ((o.args.headD 0).setWidth 16) with
  | none => answerQuad s o d [0, 0, 0, 0]
  | some x =>
    answerQuad (if x.live then s else dropXfer s x.id) o d [.ofNat 32 x.shown, .ofNat 32 x.done, x.gcnt, x.ecnt]

/-- An operation that the device's own fabric engine ends. -/
def engineReady (o : Op) : Bool :=
  o.kind == .remote && !o.done && (match o.instr with
    | .xsend _ _ _ _ | .xpoll _ _ | .rpath _ _ => true
    | _ => threadsOver o)

def finishEngine (s : State) (o : Op) : State :=
  match o.instr with
  | .xsend d _ r _ => startXfer s o d.toNat (r == 1)
  | .xpoll d _ => pollXfer s o d.toNat
  | .rpath d _ =>
    let (xs, s) := pathWords s ((o.args.headD 0).toNat % 4096)
    answerQuad s o d.toNat xs
  | _ => finishThreads s o

/-! ### The receiver (18 R411 to R414) -/

/-- The agent whose transfer comes from a device: of this device's own it has the cluster and the program stamp (12 R295). -/
def bulkAgent (s : State) (source ctx tag : Nat) : Option Nat × BitVec 48 :=
  match (if source = ownDevice s then sender s ctx (.ofNat 16 tag) else none) with
  | some x => (some x.cluster, x.pts)
  | none => (none, 0)

/-- The transfer of a receiver record is whole: the flag rises, the record goes, the sender hears of it (18 R414). -/
def completeXfer (s : State) (x : Xfer) : State :=
  if x.done < x.len then s
  else
    let s := if x.flag = 0 then s else (homeAtomic s (bulkAgent s x.peer x.sctx x.tag.toNat).1 0 false x.maxw x.flag.toNat 1 0).s
    post (dropXfer s x.id) x.peer 10 x.tag.toNat x.sctx .done

/-- A request with its seed is refused, deferred or accepted (18 R411, R415). -/
def takeRequest (s : State) (source ctx tag dest flag len unit attributes : Nat) (seed : List Byte) : State :=
  let answer (s : State) (n : Note) : State := post s source 10 tag ctx n
  match windowCtx s dest len false true false with
  | none => answer s .refused
  | some wctx =>
    if flag ≠ 0 ∧ !admits s flag 4 false true true then answer s .refused
    else
      let records := s.fab.xfers.filter fun x => x.receiver && x.savedAt.isNone
      if (s.ctx wctx).xstat ≠ 0 ∨ (receiverOf s source ctx tag).isSome ∨ 4096 ≤ records.length
          ∨ s.fab.seedpool * 2 ^ 20 < total (records.map (·.seed)) + seed.length then answer s .deferred
      else
        let ag := bulkAgent s source ctx tag
        let (w, s) := fabricWrite s ag.1 ag.2 dest seed
        let (id, s) := s.fresh
        let x : Xfer :=
          { id, receiver := true, la := .ofNat 64 dest, flag := .ofNat 64 flag, len, done := seed.length, peer := source, tag := .ofNat 16 tag,
            st := 2, pri := attributes % 4, rel := fld attributes 2 1 == 1, scope := fld attributes 3 3, ctx := wctx, sctx := ctx, unit,
            seed := seed.length, maxw := w, ungranted := addRange [] seed.length (len - seed.length) }
        completeXfer (answer { s with fab := { s.fab with xfers := s.fab.xfers ++ [x] } } .accepted) x

def execBulkRequest (source ctx tag : Nat) (dest flag : BitVec 52) (length : BitVec 32) (unit : Nat) (attributes : BitVec 6)
    (seed : List (BitVec 8)) (s : State) : Result :=
  .next (takeRequest s source ctx tag dest.toNat flag.toNat length.toNat unit attributes.toNat (seed.take length.toNat))

/-- Bytes counted for the live grants they arrive for. -/
def countArrival (x : Xfer) (off n : Nat) : Xfer :=
  let new := total (x.grants.map fun g => coveredBytes g.missing off (off + n))
  { x with done := x.done + new, nexp := if new = 0 then x.nexp else 0,
           grants := (x.grants.map fun g => { g with missing := cutRange g.missing off (off + n) }).filter fun g => !g.missing.isEmpty }

/-- A port changed. -/
def State.modPort (s : State) (p : Nat) (h : Port → Port) : State :=
  { s with fab := { s.fab with ports := tset s.fab.ports p {} (h (portOf s p)) } }

/-- What a port discards is counted in its RAS counters (18 R384, R389, R411). -/
def discardAt (s : State) (port : Nat) : State := s.modPort port fun p => { p with discarded := p.discarded + 1 }

/-- Bulk data is placed and counted, or discarded and counted at the port it arrived by (18 R411); what this device sends itself arrives by none. -/
def takeData (s : State) (source ctx tag : Nat) (port : Option Nat) (off : Nat) (bs : List Byte) : State :=
  let discarded := (port.map (discardAt s)).getD s
  match receiverOf s source ctx tag with
  | some x =>
    if x.savedAt.isNone ∧ off + bs.length ≤ x.len then
      let ag := bulkAgent s source ctx tag
      let (w, s) := fabricWrite s ag.1 ag.2 (x.la.toNat + off) bs
      let x := countArrival { x with maxw := smax x.maxw w } off bs.length
      completeXfer (s.modXfer x.id fun _ => x) x
    else discarded
  | none => discarded

/-- Bulk data arrives by a port. -/
def execBulkDataReceive (link : Arrival) (ctx tag : Nat) (offset : BitVec 32) (bytes : List (BitVec 8)) (s : State) : Result :=
  .next (takeData s link.source ctx tag (some link.port) offset.toNat bytes)

/-- The size of the next grant of a record: from the start of its lowest ungranted range (18 R412). -/
def grantSize (s : State) (x : Xfer) : Nat := min (2 ^ s.fab.grantsz) ((x.ungranted.headD (0, 0)).2)

/-- The bandwidth-delay product of a unit (18 R399). -/
def bdpOf (s : State) (u : Nat) : Nat :=
  ((tget s.fab.bdp u none).getD (if u < 12 then 0x00200000 else 0x00040000)).toNat

/-- The records of a unit that a grant fits. -/
def grantCandidates (s : State) (u : Nat) : List Xfer :=
  let out := total ((s.fab.xfers.filter fun x => x.receiver && x.unit == u && x.savedAt.isNone).map Xfer.gout)
  s.fab.xfers.filter fun x =>
    x.receiver && x.unit == u && x.st == 2 && !x.held && !x.ungranted.isEmpty && x.grants.length < 16
      && out + grantSize s x ≤ 3 * bdpOf s u / 2

def grantClass (s : State) (x : Xfer) : Nat := min 3 (x.pri + x.pass / s.fab.ageq)

/-- The candidate that ranks first: class, then fewest ungranted bytes, then the earliest (18 R412). -/
def firstRanked (s : State) : List Xfer → Option Xfer
  | [] => none
  | x :: xs =>
    match firstRanked s xs with
    | none => some x
    | some y =>
      if grantClass s x < grantClass s y ∨ grantClass s x = grantClass s y ∧ y.ungr < x.ungr then some y else some x

/-- One grant of a unit (18 R412). -/
def issueGrant (s : State) (u : Nat) : State :=
  let cs := grantCandidates s u
  match firstRanked s cs with
  | none => s
  | some x =>
    let g := grantSize s x
    let off := (x.ungranted.headD (0, 0)).1
    let s := { s with fab := { s.fab with xfers := s.fab.xfers.map fun y =>
      if y.id = x.id then
        { y with pass := 0, gcnt := y.gcnt + 1, ungranted := cutRange y.ungranted off (off + g),
                 grants := y.grants ++ [{ off, size := g, missing := [(off, g)] }] }
      else if (cs.any fun c => c.id == y.id) then { y with pass := min 65535 (y.pass + 1) } else y } }
    post s x.peer 7 x.tag.toNat x.sctx (.grant off g)

def execGrantIssue (unit : Nat) (s : State) : Result := .next (issueGrant s unit)

/-- A grant expires (18 R413); the fourth without progress orphans the transfer. -/
def expireGrant (s : State) (x : Xfer) (index : Nat) : State :=
  match x.grants[index]? with
  | none => s
  | some g =>
    let y := { x with ungranted := g.missing.foldl (fun r m => addRange r m.1 m.2) x.ungranted, grants := x.grants.eraseIdx index,
                      nexp := x.nexp + 1, ecnt := x.ecnt + 1 }
    if y.nexp < 4 then s.modXfer x.id fun _ => y
    else
      post (hostEvent (dropXfer s x.id) 6 x.ctx (x.tag.toNat + x.done * 2 ^ 32 + x.peer * 2 ^ 96)) x.peer 10 x.tag.toNat x.sctx (.abort .sender)

def execGrantExpiry (source ctx tag index : Nat) (s : State) : Result :=
  match receiverOf s source ctx tag with
  | some x => .next (if x.held || x.savedAt.isSome then s else expireGrant s x index)
  | none => .next s

/-! ### The sender (18 R411 to R415) -/

/-- What a peer says of a transfer that this device sends. -/
def takeAnswer (s : State) (x : Xfer) : Note → State
  | .accepted => s.modXfer x.id fun x => { x with st := 2 }
  | .deferred => s.modXfer x.id fun x => { x with st := 6 }
  | .refused => s.modXfer x.id fun x => { x with st := 7 }
  | .done => s.modXfer x.id fun x => { x with st := 3, done := x.len, tosend := [] }
  | .abort _ => s.modXfer x.id fun x => { x with st := 4, tosend := [] }
  | .grant off n =>
    if n = 0 ∨ x.len < off + n then s
    else s.modXfer x.id fun x =>
      { x with st := 2, gcnt := x.gcnt + 1,
               ecnt := if coveredBytes x.tosend off (off + n) < coveredBytes x.granted off (off + n) then x.ecnt + 1 else x.ecnt,
               granted := addRange x.granted off n, tosend := cutRange x.tosend off (off + n) ++ [(off, n)] }
  | _ => s

def toSender (s : State) (peer ctx tag : Nat) (n : Note) : State :=
  match senderTo s peer ctx tag with
  | some x => takeAnswer s x n
  | none => s

def execGrantReceive (peer ctx tag : Nat) (offset size : BitVec 32) (s : State) : Result :=
  .next (toSender s peer ctx tag (.grant offset.toNat size.toNat))
def execDoneReceive (peer ctx tag : Nat) (s : State) : Result := .next (toSender s peer ctx tag .done)

/-- The record of one side of a transfer that a peer's word is for. -/
def recordTo (s : State) (peer ctx : Nat) (t : RecordTag) : Option Xfer :=
  match t.side with
  | .sender => senderTo s peer ctx t.tag
  | .receiver => receiverOf s peer ctx t.tag

/-- An abort ends the sender's record; a sender's abort drops the receiver's (18 R409, R413). -/
def takeAbort (s : State) (peer ctx : Nat) (t : RecordTag) : State :=
  match recordTo s peer ctx t with
  | some x => if t.side = .sender then takeAnswer s x (.abort .sender) else dropXfer s x.id
  | none => s

def execAbortReceive (peer ctx : Nat) (tag : RecordTag) (s : State) : Result := .next (takeAbort s peer ctx tag)

def execSenderSilenceTimeout (ctx tag : Nat) (s : State) : Result :=
  match sender s ctx (.ofNat 16 tag) with
  | some x => .next (if x.live && x.requested && !x.held then takeAnswer s x (.abort .sender) else s)
  | none => .next s

/-- The request and seed are sent again (18 R411). -/
def execDeferResend (ctx tag : Nat) (s : State) : Result :=
  match sender s ctx (.ofNat 16 tag) with
  | some x => .next (if x.st == 6 && !x.held then s.modXfer x.id fun x => { x with st := 1, requested := false, seedSent := 0, done := 0 } else s)
  | none => .next s

/-! ### Pause and resume (18 R415) -/

/-- The side of the peer's record of the transfer. -/
def Xfer.other (x : Xfer) : Side := if x.receiver then .sender else .receiver

/-- The transfers of a context stop, and each peer hears of it: `xstat` is 1, and the records are saved from now on. -/
def pauseXfers (s : State) (ctx : Nat) : State :=
  let mine := s.fab.xfers.filter fun x => x.ctx == ctx && x.live && !x.heldOwn
  let s := mine.foldl (fun s x =>
    post (s.modXfer x.id fun x => { x with heldOwn := true }) x.peer 10 x.tag.toNat (if x.receiver then x.sctx else x.ctx) (.paused x.other)) s
  s.modCtx ctx fun c => { c with xstat := 1 }

/-- A pause under way saves its next record, packed: in the lowest place that no saved record holds; when none is left, or none fits, `xstat` becomes 2. A transfer created meanwhile is saved too. -/
def savePaused (s : State) (ctx : Nat) : State :=
  let c := s.ctx ctx
  let used := (s.fab.xfers.filter fun x => x.ctx == ctx).filterMap (·.savedAt)
  let room := c.xslen.toNat * 16
  match s.fab.xfers.find? fun x => x.ctx == ctx && x.live && x.heldOwn && x.savedAt.isNone with
  | some x =>
    match (upto (min room (used.length + 1))).find? fun i => !used.contains i with
    | some i => (fabricWrite s none 0 (c.xsave.toNat + 64 * i) x.bytes).2.modXfer x.id fun x => { x with savedAt := some i }
    | none => s.modCtx ctx fun c => { c with xstat := 2 }
  | none => s.modCtx ctx fun c => { c with xstat := 2 }

def execXctlPause (ctx : Nat) (s : State) : Result := .next (if (s.ctx ctx).xstat = 0 then pauseXfers s ctx else s)

/-- The saved records loaded again; each peer hears of it. -/
def resumeXfers (s : State) (ctx : Nat) : State :=
  let base := (s.ctx ctx).xsave.toNat
  let mine := s.fab.xfers.filter fun x => x.ctx == ctx && x.heldOwn
  let s := mine.foldl (fun s x =>
    let y := match x.savedAt with
      | some i => x.reload (physRead s (base + 64 * i) 64)
      | none => x
    post (s.modXfer x.id fun _ => { y with heldOwn := false }) x.peer 10 x.tag.toNat (if x.receiver then x.sctx else x.ctx) (.resumed x.other)) s
  s.modCtx ctx fun c => { c with xstat := 0 }

def execXctlResume (ctx : Nat) (s : State) : Result := .next (if (s.ctx ctx).xstat = 0 then s else resumeXfers s ctx)

/-- A peer's notice pauses or resumes the record that it is for. -/
def takeNotice (s : State) (peer ctx : Nat) (t : RecordTag) (paused : Bool) : State :=
  match recordTo s peer ctx t with
  | some x => s.modXfer x.id fun x => { x with heldPeer := paused }
  | none => s

def execPauseNotice (peer ctx : Nat) (tag : RecordTag) (paused : Bool) (s : State) : Result := .next (takeNotice s peer ctx tag paused)

/-! ### Answers -/

/-- The answer of a peer: to a remote request, to a bulk request (0 accepted, 1 deferred, any other refused; log entry 18), or to this device's part in
a reduction, with its status. One that nothing waits for is late and is discarded (18 R405). -/
def execRemoteReply (about : AnswerTo) (fail : List (BitVec 3)) (values : List (BitVec 32)) (marks : List Bool) (s : State) : Result :=
  .next
    (match about with
    | .request peer tag =>
      match s.fab.asked.find? fun a => a.peer == peer && a.tag == tag with
      | some a => takeReply s a fail values marks
      | none => s
    | .transfer peer ctx tag =>
      match senderTo s peer ctx tag with
      | some x =>
        if x.st == 1 && x.requested then
          takeAnswer s x (match fail.headD 0 with
            | 0 => .accepted
            | 1 => .deferred
            | _ => .refused)
        else s
      | none => s
    | .reduction ctx id => takeResult s ctx id (fail.headD 0).toNat values)

/-- What this device tells itself as its own peer (18 R395). -/
def takeOwn (s : State) (f : Flit) : State :=
  let me := ownDevice s
  let tag := f.tag.toNat
  match f.note with
  | .abort side => takeAbort s me f.ctx ⟨side, tag⟩
  | .paused side => takeNotice s me f.ctx ⟨side, tag⟩ true
  | .resumed side => takeNotice s me f.ctx ⟨side, tag⟩ false
  | n => toSender s me f.ctx tag n

end Sys2Proof.Machine
end

