-- ==== Sys2Proof/Machine/CrossLane.lean ====
section
/-! DEFINITION. The cross-lane instructions: shuffles, reductions, scans, match-and-reduce (05 R151 to R155). -/

namespace Sys2Proof.Machine

/-- The segment length of the prefix's segment code (05 R151). -/
def segment (s : State) : Nat := min s.pre.width (2 ^ (6 - (pfxOf s).xop.toNat))

/-- The source thread of thread t, by its source position within the segment (05 R152). -/
def sourceThread (len t : Nat) (pos : Nat → Option Nat) : Nat :=
  let r := t % len
  match pos r with
  | some r' => if r' < len then t - r + r' else t
  | none => t

/-- A shuffle; the elements read are consumed wherever they lie (05 R152). -/
def shuffle (s : State) (w : BitVec 2) (d a : BitVec 7) (bs : List Opd) (src : Nat → Nat) : State :=
  let n := 2 ^ w.toNat
  let ts := threads s.pre.width (act s)
  guarded s none (.v 0 a n (maskOf (ts.map src) fun _ => true) :: bs ++ [.dv d]) fun s =>
    vectorResult s d n fun t i fx => (V s a i (src t), fx)

def execShfli (w : BitVec 2) (d a b : BitVec 7) (s : State) : Result :=
  let len := segment s
  .next (shuffle s w d a [.v 1 b 1 (act s)] fun t => sourceThread len t fun _ => some ((V s b 0 t).toNat % len))
def execShflu (w : BitVec 2) (d a : BitVec 7) (b : BitVec 6) (s : State) : Result :=
  let len := segment s
  .next (shuffle s w d a [] fun t => sourceThread len t fun r => if b.toNat ≤ r then some (r - b.toNat) else none)
def execShfld (w : BitVec 2) (d a : BitVec 7) (b : BitVec 6) (s : State) : Result :=
  let len := segment s
  .next (shuffle s w d a [] fun t => sourceThread len t fun r => some (r + b.toNat))
def execShflx (w : BitVec 2) (d a : BitVec 7) (b : BitVec 6) (s : State) : Result :=
  let len := segment s
  .next (shuffle s w d a [] fun t => sourceThread len t fun r => some (r ^^^ b.toNat))

/-- How a fold combines: a first value may be changed as it enters (05 R153). -/
structure Fold where
  enter : Word → Fx → Word × Fx := fun x fx => (x, fx)
  op : Word → Word → Fx → Word × Fx

def Fold.plain (f : Word → Word → Word) : Fold := { op := fun x y fx => (f x y, fx) }

/-- An fp32 NaN enters as the canonical NaN, with `iv` when it signals. -/
def enterFloat (x : Word) (fx : Fx) : Word × Fx :=
  if (fval x).isNan then (.ofNat 32 fp32.canon, fx.raise (flagIf (fval x).isSnan flagIv)) else (x, fx)

def Fold.fadd : Fold := { enter := enterFloat, op := fun x y fx => asWord false (faddV fp32 (fval x) (fval y) fx) }
def Fold.fminMax (largest : Bool) : Fold := { enter := enterFloat, op := fun x y fx => Machine.fminMax largest x y fx }

/-- The left fold over threads in ascending order: the accumulated value after each (05 R153). -/
def foldThreads (f : Fold) (v : Nat → Word) : List Nat → Option Word → Fx → List (Nat × Word) × Fx
  | [], _, fx => ([], fx)
  | t :: ts, acc, fx =>
    let (x, fx) := match acc with
      | none => f.enter (v t) fx
      | some a => f.op a (v t) fx
    let (rest, fx) := foldThreads f v ts (some x) fx
    ((t, x) :: rest, fx)

/-- The active threads of each segment, ascending. -/
def segments (s : State) : List (List Nat) :=
  let len := segment s
  (upto ((s.pre.width + len - 1) / len)).map fun g => (threads s.pre.width (act s)).filter fun t => t / len == g

inductive FoldKind where
  | reduce
  | scan
  /-- the value of the previous active thread, 0 for the first -/
  | exclusive
  deriving DecidableEq, Repr

/-- What each thread of a folded segment receives. -/
def foldValues (k : FoldKind) (l : List (Nat × Word)) : List (Nat × Word) :=
  match k with
  | .reduce => l.map fun x => (x.1, (l.getLast?.map (·.2)).getD 0)
  | .scan => l
  | .exclusive => (l.map (·.1)).zip (0 :: l.map (·.2))

/-- A reduction or a scan over every segment (05 R153, R155). -/
def foldSegments (s : State) (k : FoldKind) (d a : BitVec 7) (f : Fold) : State :=
  guarded s none [.v 0 a 1 (act s), .dv d] fun s =>
    let (fur, fx) := (segments s).foldl (fun st ts =>
      let (l, fx) := foldThreads f (fun t => V s a 0 t) ts none st.2
      ((foldValues k l).foldl (fun g x => g.vset d.toNat x.1 x.2) st.1, fx)) (s.cur, fxOf s)
    zeroElems (putFx s fur fx) d.toNat 1

/-- The operation of a type code: i32, n32 or fp32 (05 R153). -/
def minFold (t : BitVec 2) : Fold := if t = 0 then .plain minI else if t = 1 then .plain minN else .fminMax false
def maxFold (t : BitVec 2) : Fold := if t = 0 then .plain maxI else if t = 1 then .plain maxN else .fminMax true
def addFold (t : BitVec 2) : Fold := if t = 2 then .fadd else .plain (· + ·)

def execRedadd (t : BitVec 2) (d a : BitVec 7) (s : State) : Result := .next (foldSegments s .reduce d a (addFold t))
def execRedmin (t : BitVec 2) (d a : BitVec 7) (s : State) : Result := .next (foldSegments s .reduce d a (minFold t))
def execRedmax (t : BitVec 2) (d a : BitVec 7) (s : State) : Result := .next (foldSegments s .reduce d a (maxFold t))
def execRedor (d a : BitVec 7) (s : State) : Result := .next (foldSegments s .reduce d a (.plain (· ||| ·)))
def execScanadd (t : BitVec 2) (d a : BitVec 7) (s : State) : Result := .next (foldSegments s .scan d a (addFold t))
def execScanmin (t : BitVec 2) (d a : BitVec 7) (s : State) : Result := .next (foldSegments s .scan d a (minFold t))
def execScanmax (t : BitVec 2) (d a : BitVec 7) (s : State) : Result := .next (foldSegments s .scan d a (maxFold t))
def execScanaddx (t : BitVec 2) (d a : BitVec 7) (s : State) : Result := .next (foldSegments s .exclusive d a (addFold t))

/-! ### Match and reduce (05 R154) -/

/-- The sets of threads with equal keys, each ascending, the sets by their least members. -/
def keySets (key : Nat → Word) (ts : List Nat) : List (List Nat) :=
  (ts.filter fun t => !(ts.any fun u => decide (u < t) && key u == key t)).map fun t => ts.filter fun u => key u == key t

/-- Values folded within each set, and one leader marked for each. -/
def matchReduce (s : State) (k : BitVec 4) (d a b : BitVec 7) (f : Fold) : State :=
  let m := act s
  guarded s none [.v 0 a 1 m, .v 1 b 1 m, .dv d] fun s =>
    let sets := keySets (fun t => V s a 0 t) (threads s.pre.width m)
    let (fur, fx) := sets.foldl (fun st ts =>
      let (l, fx) := foldThreads f (fun t => V s b 0 t) ts none st.2
      ((foldValues .reduce l).foldl (fun g x => g.vset d.toNat x.1 x.2) st.1, fx)) (s.cur, fxOf s)
    maskResult (zeroElems (putFx s fur fx) d.toNat 1) k (maskOf (sets.map fun ts => ts.headD 0) fun _ => true)

def execMred (k : BitVec 4) (d a b : BitVec 7) (s : State) : Result := .next (matchReduce s k d a b (.plain (· + ·)))
def execMredf (k : BitVec 4) (d a b : BitVec 7) (s : State) : Result := .next (matchReduce s k d a b .fadd)
def execMredm (k : BitVec 4) (d a b : BitVec 7) (s : State) : Result :=
  let x := (pfxOf s).xop
  .next (matchReduce s k d a b (.plain (if x = 0 then maxI else if x = 1 then maxN else if x = 2 then minI else minN)))

end Sys2Proof.Machine
end

