-- ==== Sys2Proof/Machine/Fabric.lean ====
section
/-! DEFINITION. Sending to peers, and the links: flits, sessions, rotor slots, lost and retrained wavelengths (18 R383 to R394). -/

namespace Sys2Proof.Machine

/-! ### Sending (18 R386, R393) -/

def sessionKey (g p : Nat) : Nat := 4096 * g + p
def sessionOf (s : State) (g p : Nat) : Session := tget s.fab.sessions (sessionKey g p) {}
def State.modSession (s : State) (g p : Nat) (h : Session → Session) : State :=
  { s with fab := { s.fab with sessions := tset s.fab.sessions (sessionKey g p) {} (h (sessionOf s g p)) } }
def State.modGroup (s : State) (g : Nat) (h : Group → Group) : State :=
  { s with fab := { s.fab with groups := tset s.fab.groups g {} (h (groupOf s g)) } }

/-- The peer that a group's current entry names (18 R391, R392). -/
def currentPeer (s : State) (g : Nat) : Option Nat :=
  match (groupOf s g).entry with
  | none => none
  | some e =>
    match (slotTable s)[e]? with
    | some x => if slotPeer x g = 0xFFF then none else some (slotPeer x g)
    | none => none

/-- The allowance that a class has left, against a charge; class 4 has none to keep. -/
def allows (left : List (Option Nat)) (cls charge : Nat) : Bool :=
  match left[cls]? with
  | some (some n) => decide (charge ≤ n)
  | _ => true

/-- How many flits the request of an `rld` or `ratom` takes, which the manual does not say. -/
def requestFlits (tick : Nat) : Nat := 1 + Config.pick tick % 4

/-- The flits of an `rst` of `n` bytes (20 R423). -/
def putCount (n : Nat) : Nat := (n + 32 + 479) / 480

/-- The flits that a queued item takes. -/
def SendItem.count (i : SendItem) (tick : Nat) : Nat :=
  match i.body with
  | none => i.flits.length
  | some (.put _ _ _) => putCount i.charge
  | some _ => requestFlits tick

/-- The next bytes of a transfer to send: of its seed, then granted ones; one flit's (18 R411, R412). -/
def nextBytes (x : Xfer) : Option (Nat × Nat) :=
  if x.seedSent < x.seed then some (x.seedSent, min 480 (x.seed - x.seedSent))
  else (x.tosend.head?).map fun r => (r.1, min 480 r.2)

def dataReady (x : Xfer) : Bool := !x.receiver && x.requested && (x.st == 1 || x.st == 2) && !x.held && (nextBytes x).isSome

/-- The charge and the flits of what stands first in a class for a peer (18 R393): the bulk class also holds what transfers have to send. -/
def headOf (s : State) (p cls : Nat) : Option (Nat × Nat) :=
  match tget s.fab.sendq (8 * p + cls) [] with
  | i :: _ => some (i.charge, i.count s.tick)
  | [] =>
    if cls = 2 then (s.fab.xfers.find? fun x => x.peer == p && dataReady x).bind fun x => (nextBytes x).map fun b => (b.2, 1)
    else none

/-- A flit of an ordered operation. -/
def Flit.ordered (f : Flit) : Bool := f.type == 2 && !f.rel

/-- No other session towards a peer keeps a flit of an ordered operation: such operations perform in issue order there (18 R407). -/
def aloneOrdered (s : State) (g p : Nat) : Bool := (upto 12).all fun h => h == g || (sessionOf s h p).unacked.all fun f => !f.2.ordered

/-- A class has something that a group could send to a peer, but for the rotation (18 R393). -/
def classWaits (s : State) (g p cls : Nat) : Bool :=
  match headOf s p cls with
  | some (charge, n) =>
    allows (groupOf s g).left cls charge && decide ((sessionOf s g p).unacked.length + n ≤ 1024) && (cls != 0 || aloneOrdered s g p)
  | none => false

/-- It is a class's turn in a group: no class that comes before it in the rotation waits (18 R393). What has no class is never held. -/
def inTurn (s : State) (g p cls : Nat) : Bool :=
  let last := (groupOf s g).turn
  4 ≤ cls || (upto ((cls + 3 - last) % 4)).all fun i => !classWaits s g p ((last + 1 + i) % 4)

/-- Whether a group may send `n` flits of a class to its matched peer now (18 R385, R386, R392, R393). -/
def groupSends (s : State) (g p cls charge n : Nat) : Bool :=
  let x := groupOf s g
  decide (ownDevice s < 4096) && x.lit && currentPeer s g == some p && groupUsable s g && allows x.left cls charge
    && decide ((sessionOf s g p).unacked.length + n ≤ 1024) && inTurn s g p cls

/-- A group that may send `n` flits of a class to a peer now. -/
def groupFor (s : State) (p cls charge n : Nat) : Option Nat := (upto 12).find? fun g => groupSends s g p cls charge n

/-- The group that flits leave by, and the peer that it is matched with: their destination, or for relaxed flits a relay, when no group reaches
the destination (18 R394); one that a relay has refused waits for a direct slot. A flit that is tied to a port leaves by that port's group (R387). -/
def routeOf (s : State) (p cls charge : Nat) (fs : List Flit) : Option (Nat × Nat) :=
  let tied (g : Nat) : Bool := fs.all fun f => match f.port with
    | some i => i / 8 == g
    | none => true
  match (upto 12).find? fun g => groupSends s g p cls charge fs.length && tied g && (cls != 0 || aloneOrdered s g p) with
  | some g => some (g, p)
  | none =>
    if fs.all fun f => f.rel && !f.direct then
      (upto 12).findSome? fun g => match currentPeer s g with
        | some q => if q != ownDevice s && groupSends s g q cls charge fs.length then some (g, q) else none
        | none => none
    else none

/-- Flits enter a session: each takes the next sequence number and is kept (18 R386); a remote request carries the count of requests (20 R423). -/
def enterSession (x : Session) (request : Bool) : List Flit → Session
  | [] => if request then { x with requests := x.requests + 1 } else x
  | f :: fs =>
    enterSession { x with txNext := x.txNext + 1, unacked := x.unacked ++ [(x.txNext, if request then { f with tag := x.requests } else f)] }
      request fs

/-- The part of an operation's charge that flit `i` of `n` bears: its data bytes, and the last flit the rest (18 R393). -/
def flitCharge (charge n i : Nat) : Nat := if i + 1 = n then charge - 480 * i else min 480 (charge - 480 * i)

/-- Flits leave for a peer: into a session of a matched group, charged to their class there, or over Ethernet at once. `none` while they cannot,
and always on a device that takes no part in the fabric (18 R395). A remote request's tag is the first result; over Ethernet, whose transport has
no group, requests to a peer are counted in the place of group 12. -/
def sendFlits (s : State) (p cls charge : Nat) (request : Bool) (fs : List Flit) : Option (BitVec 16 × State) :=
  if 4096 ≤ ownDevice s then none
  else if peerKind s p = 2 then
    some ((sessionOf s 12 p).requests, if request then s.modSession 12 p fun x => { x with requests := x.requests + 1 } else s)
  else
    (routeOf s p cls charge fs).map fun r =>
      let fs := fs.zipIdx.map fun f => { f.1 with cls, charge := flitCharge charge fs.length f.2, cont := f.1.cont && f.2 != 0 }
      let s := s.modGroup r.1 fun x =>
        { x with left := x.left.zipIdx.map fun l => if l.2 = cls then l.1.map (· - charge) else l.1, turn := if cls < 4 then cls else x.turn }
      ((sessionOf s r.1 r.2).requests, s.modSession r.1 r.2 fun x => enterSession x request fs)

/-- The flits of an `rst` of an operation (20 R423). -/
def putFlits (op src dst pa flag : Nat) (rel : Bool) (bs : List Byte) : List Flit :=
  let n := bs.length
  let pad := List.replicate ((n + 31) / 32 * 32 - n) (0 : Byte)
  let all := bs ++ pad ++ toBytes 32 flag
  (upto (putCount n)).map fun i =>
    let payload := (all.drop (480 * i)).take 480
    { type := 2, src, dst, rel, units := payload.length / 32, addr := .ofNat 64 (pa + 480 * i), payload, own := op, cont := i != 0 }

/-- The head of a send queue is gone. -/
def dequeue (s : State) (p cls : Nat) : State :=
  { s with fab := { s.fab with sendq := tset s.fab.sendq (8 * p + cls) [] ((tget s.fab.sendq (8 * p + cls) []).drop 1) } }

/-- A request served by this device itself, with the stamps and for the L1s of its agent (12 R295; 18 R395). -/
def serveOwn (s : State) (o : Op) (i : SendItem) (body : RemoteBody) : State :=
  let r := serveFor s (agentKey (ownDevice s) o.furrow) (some (s.furrow o.furrow).cluster) o.pts body
  let wrote : Bool := match body with
    | .read _ => false
    | _ => true
  let o := { o with rmax := smax o.rmax r.seen, wmax := if wrote then smax o.wmax r.pts else o.wmax }
  match o.instr with
  | .rst d _ _ _ => finishStatus r.s o d.toNat ((r.fail.headD 0).toNat)
  | _ => answered r.s (o.setResults i.thrs r.fail r.values r.marks)

/-- The head of a peer's queue leaves, or performs when the peer is this device; `none` while it cannot. -/
def transmit (s : State) (p cls : Nat) : Option State :=
  match tget s.fab.sendq (8 * p + cls) [] with
  | [] => none
  | i :: _ =>
    match i.body, s.op i.op with
    | none, _ =>
      if p = ownDevice s then some (i.flits.foldl takeOwn (dequeue s p cls)) else (sendFlits s p cls i.charge false i.flits).map fun r => dequeue r.2 p cls
    | some _, none => some (dequeue s p cls)
    | some body, some o =>
      let (body, o, s1) := match body with
        | .put dst _ flag =>
          let (bs, o, s1) := readSource s o
          (RemoteBody.put dst bs flag, o, s1)
        | b => (b, o, s)
      if p = ownDevice s then some (serveOwn (dequeue s1 p cls) o i body)
      else
        let fs := match body with
          | .put dst bs flag => putFlits o.id (ownDevice s) p dst.toNat flag.toNat (cls == 1) bs
          | b => (upto (requestFlits s.tick)).map fun _ =>
            { type := 2, src := ownDevice s, dst := p, rel := cls == 1, note := .request o.id b, own := o.id }
        (sendFlits s1 p cls i.charge true fs).map fun r =>
          let s := (dequeue { r.2 with tick := r.2.tick + 1 } p cls).modOp o.id fun _ => { o with begun := true }
          { s with fab := { s.fab with asked := s.fab.asked ++ [{ peer := p, tag := r.1, op := o.id, thrs := i.thrs }] } }

/-! ### The bytes of transfers (18 R409, R411, R412) -/

/-- Bytes of a transfer's source; `none` when a page cannot be read. -/
def sourceBytes (s : State) (x : Xfer) (off n : Nat) : Option (List Byte × State) :=
  match x.win with
  | some k =>
    let (bs, _, s) := agentRead s (some x.cluster) (k + off) n x.pts
    some (bs, s)
  | none =>
    let ag : Agent := { ctx := x.ctx }
    (pagePieces (n / 65536 + 2) (x.la.toNat + off) n).foldl (fun st p =>
      match st with
      | none => none
      | some (bs, s) =>
        match resolve s ag [] 0 p.1 p.2 .read with
        | .loc k e l b m =>
          let s := usePlace s ag .read (.loc k e l b m)
          let (b, _, s) := agentRead s (some x.cluster) k p.2 x.pts
          some (bs ++ b, s)
        | _ => none) (some ([], s))

/-- A transfer whose source cannot be read ends in state fault, and the receiver drops its record (18 R409). -/
def faultXfer (s : State) (x : Xfer) : State :=
  post (s.modXfer x.id fun x => { x with st := 8, tosend := [] }) x.peer 10 x.tag.toNat x.ctx (.abort .receiver)

def dataFlits (s : State) (x : Xfer) (off : Nat) (bs : List Byte) : List Flit :=
  (upto ((bs.length + 479) / 480)).map fun i =>
    let payload := (bs.drop (480 * i)).take 480
    { type := 8, src := ownDevice s, dst := x.peer, rel := x.rel, units := (payload.length + 31) / 32, tag := x.tag,
      addr := .ofNat 64 (off + 480 * i), payload, own := x.id }

def requestReady (x : Xfer) : Bool := !x.receiver && x.st == 1 && !x.requested && !x.held

/-- The request leaves (18 R411): its flit, which is neither seed nor granted bytes and so has no class, holds the sender's record in its first two units (19), and the seed's flits
follow. To this device itself the seed goes with it. -/
def sendRequest (s : State) (x : Xfer) : Option State :=
  if x.peer = ownDevice s then
    match sourceBytes s x 0 x.seed with
    | none => some (faultXfer s x)
    | some (bs, s1) =>
      let (n, s1) := s1.draw
      let s1 := s1.modXfer x.id fun x => { x with requested := true, seedSent := x.seed, done := x.done + bs.length }
      some (takeRequest s1 x.peer x.ctx x.tag.toNat x.ra.toNat x.flag.toNat x.len (n % 76)
        (x.pri + (if x.rel then 4 else 0) + 8 * x.scope) bs)
  else
    let request : Flit := { type := 6, src := ownDevice s, dst := x.peer, rel := x.rel, units := 2, tag := x.tag, payload := x.bytes, ctx := x.ctx }
    (sendFlits s x.peer 4 0 false [request]).map fun r => r.2.modXfer x.id fun x => { x with requested := true }

/-- The next flit of the seed or of granted bytes leaves, charged its bytes (18 R393, R411, R412). -/
def sendData (s : State) (x : Xfer) : Option State :=
  match nextBytes x with
  | none => none
  | some (off, m) =>
    match sourceBytes s x off m with
    | none => some (faultXfer s x)
    | some (bs, s1) =>
      let sent (x : Xfer) : Xfer :=
        if x.seedSent < x.seed then { x with seedSent := x.seedSent + m } else { x with tosend := cutRange x.tosend off (off + m) }
      if x.peer = ownDevice s then
        some (takeData (s1.modXfer x.id fun x => { sent x with done := x.done + m }) x.peer x.ctx x.tag.toNat none off bs)
      else
        (sendFlits s1 x.peer 2 m false (dataFlits s x off bs)).map fun r =>
          r.2.modXfer x.id fun x => { sent x with flying := if peerKind s x.peer = 2 then x.flying + m else x.flying }

/-- What left over Ethernet is acknowledged by its transport (18 R417, R418). -/
def ackEthernet (s : State) (x : Xfer) : State := s.modXfer x.id fun x => { x.acked x.flying with flying := 0 }

/-! ### Relaying (18 R389, R394) -/

/-- Flits that the relay buffer holds at most; none when this device relays nothing. -/
def relayRoom (s : State) : Nat := if (s.die 0).dpart = 0 then 0 else s.fab.relaysz * 0x10000000 / 512

/-- The first relayed flit of the buffer that can go on, as its second hop. -/
def forward (s : State) : Option State :=
  s.fab.relay.findSome? fun f =>
    (groupFor s f.dst 4 0 1).map fun g =>
      ({ s with fab := { s.fab with relay := s.fab.relay.erase f } } : State).modSession g f.dst fun x =>
        enterSession x false [{ f with hop2 := true }]

/-! ### Flits on a link (18 R384, R385, R386) -/

/-- One byte more of the CRC-64 (18 R386). -/
def crcStep (c : BitVec 64) (b : Byte) : BitVec 64 :=
  (upto 8).foldl (fun c _ => if c.getLsbD 63 then (c <<< 1) ^^^ 0x42F0E1EBA9EA3693 else c <<< 1) (c ^^^ (b.setWidth 64 <<< 56))

def crc64 (bs : List Byte) : BitVec 64 := bs.foldl crcStep 0

/-- The group of a port. -/
def groupOfPort (p : Nat) : Nat := p / 8

/-- The header of a flit (18 R384). -/
def Flit.head (f : Flit) : Nat :=
  f.addr.toNat + 2 ^ 64 * f.tag.toNat + 2 ^ 86 * (f.units % 16) + (if f.hop2 then 2 ^ 90 else 0) + (if f.rel then 2 ^ 91 else 0)
    + 2 ^ 92 * (f.type % 16) + 2 ^ 96 * (f.src % 65536) + 2 ^ 112 * (f.dst % 65536)

/-- The 512 bytes of a flit but for its CRC: header, payload, sequence number, and the next one expected on the reverse link. -/
def flitBody (head : Nat) (payload : List Byte) (seq ack : Word) : List Byte :=
  toBytes 16 head ++ (payload ++ List.replicate (480 - payload.length) 0).take 480 ++ toBytes 8 (seq.toNat + 2 ^ 32 * ack.toNat)

/-- A whole flit; a stomped one ends with the complement of its CRC (18 R389). -/
def flitBytes (head : Nat) (payload : List Byte) (seq ack : Word) (stomped : Bool := false) : List Byte :=
  let b := flitBody head payload seq ack
  b ++ toBytes 8 (if stomped then ~~~crc64 b else crc64 b).toNat

/-- The sequence number of idle and beacon flits. -/
def noSeq : Word := 0xFFFFFFFF

/-- The units of a flit that the manual does not lay out, and its payload (log entry 51). -/
def laidOut (key : Nat) (seq : Word) (f : Flit) : Flit :=
  if f.note = .none then f
  else
    let n := if f.units = 0 then (Config.flitByte key seq.toNat 480).toNat % 16 else f.units
    { f with units := n, payload := (upto (32 * n)).map (Config.flitByte key seq.toNat) }

/-- The positions and beat times that a link of a mask carries a flit in (18 R385). -/
def beatsOf (mask : BitVec 16) (bs : List Byte) : List (Nat × Nat × Dword) :=
  let ps := (upto 16).filter fun w => mask.getLsbD w
  (upto 64).map fun b => (nth ps (b % ps.length) 0, b / ps.length, .ofNat 64 (ofBytes ((bs.drop (8 * b)).take 8)))

/-- A port's link carries a flit. -/
def putLink (s : State) (port : Nat) (bs : List Byte) : State := s.modPort port fun p => { p with line := beatsOf p.txMask bs }

/-- A port may send a flit of its group's session: one tied to another port leaves by that one, while it can. -/
def portSends (s : State) (port : Nat) (f : Flit) : Bool :=
  match f.port with
  | some i => i == port || (portOf s i).txMask == 0
  | none => true

/-- What a port of a group in light could put on its link: the next flit of the session that is kept and has not left, or the acknowledgement that
is owed. -/
def linkReady (s : State) (port : Nat) : Bool :=
  let g := port / 8
  match currentPeer s g with
  | none => false
  | some p =>
    let x := sessionOf s g p
    (groupOf s g).lit && (portOf s port).txMask != 0 && decide (ownDevice s < 4096) && (match x.unacked[x.sent]? with
      | some f => portSends s port f.2
      | none => x.owed != 0)

/-- With nothing to send, an acknowledgement flit takes its place in the session when one is owed and the session has room (18 R386; 19): what it
acknowledges with it leaves in an idle flit otherwise. -/
def acknowledge (s : State) (g p : Nat) : State :=
  let x := sessionOf s g p
  if x.unacked[x.sent]?.isNone ∧ x.owed = 2 ∧ x.unacked.length < 1024 then
    s.modSession g p fun x => enterSession x false [{ type := 5, src := ownDevice s, dst := p }]
  else s

/-- A port sends one flit (18 R384 to R387). A mask that its own port can no longer send is not reported. -/
def sendLink (s : State) (port : Nat) : State :=
  let g := port / 8
  match currentPeer s g with
  | none => s
  | some p =>
    let s := acknowledge s g p
    let x := sessionOf s g p
    match x.unacked[x.sent]? with
    | some (seq, f) =>
      let f := laidOut (sessionKey g p) seq (if f.port.any (· != port) then { f with payload := [], units := 0 } else f)
      (putLink s port (flitBytes f.head f.payload seq x.rxNext)).modSession g p fun x =>
        { x with sent := x.sent + 1, left := max x.left (x.sent + 1), owed := 0 }
    | none =>
      (putLink s port (flitBytes ({ type := 0, src := ownDevice s, dst := p } : Flit).head [] noSeq x.rxNext)).modSession g p fun x =>
        { x with owed := 0 }

/-- A beacon of a port (18 R392): `seedmax` in its payload; its destination and what it acknowledges, on a link whose peer no beacon has named yet,
are free. -/
def beacon (s : State) (port : Nat) : State :=
  if (portOf s port).txMask = 0 then s
  else
    let (n, s) := s.draw
    let f : Flit := { type := 1, src := ownDevice s, dst := n % 4096, units := 1 }
    putLink s port (flitBytes f.head (toBytes 32 s.fab.seedmax) noSeq (.ofNat 32 (n / 4096)))

/-! ### Flits received (18 R384, R386, R387) -/

/-- Flits acknowledged leave the session; the bytes of transfers among them count as acknowledged (18 R386, R410). -/
def takeAck (s : State) (g p : Nat) (ack : Word) : State :=
  let x := sessionOf s g p
  let first := x.txNext - .ofNat 32 x.unacked.length
  let n := (ack - first).toNat
  if x.unacked.length < n then s
  else
    let s := s.modSession g p fun x => { x with unacked := x.unacked.drop n, sent := x.sent - n, left := x.left - n }
    (x.unacked.take n).foldl (fun s f =>
      if f.2.type = 8 ∧ f.2.own ≠ 0 then s.modXfer f.2.own fun x => x.acked f.2.payload.length else s) s

/-- A replay of a session (18 R386): what has left and is kept goes again, from the first. -/
def replaySession (s : State) (g p : Nat) : State :=
  s.modSession g p fun x => if x.left = 0 then x else { x with replays := x.replays + 1, sent := 0 }

/-- The flits of a session from one on take the sequence numbers that follow. -/
def numberFlits (n : Word) (fs : List Flit) : List (Word × Flit) := fs.zipIdx.map fun f => (n + .ofNat 32 f.2, f.1)

/-- Some flits leave a session; those after them take their sequence numbers. -/
def Session.without (x : Session) (gone : List Nat) : Session :=
  let first := x.txNext - .ofNat 32 x.unacked.length
  let fs := (x.unacked.zipIdx.filter fun f => !gone.contains f.2).map (·.1.2)
  { x with unacked := numberFlits first fs, txNext := first + .ofNat 32 fs.length,
           sent := x.sent - (gone.filter (· < x.sent)).length, left := x.left - (gone.filter (· < x.left)).length }

/-- Flits of one operation's request. -/
def sameRequest (a b : Flit) : Bool := a.type == 2 && b.type == 2 && a.own != 0 && a.own == b.own && a.tag == b.tag

/-- Bytes of a transfer that have not left after all are to be sent: of its seed, or granted ones. -/
def Xfer.unsend (x : Xfer) (off n : Nat) : Xfer :=
  if !x.live then x
  else if off < x.seed then { x with seedSent := min x.seedSent off }
  else { x with tosend := (off, n) :: x.tosend }

/-- A flit waits again at the head of its class's queue, with those of the same request. -/
def pushFlit (f : Flit) : List SendItem → List SendItem
  | i :: is =>
    if (i.flits.head?).any (sameRequest f) then { i with charge := f.charge + i.charge, flits := f :: i.flits } :: is
    else { charge := f.charge, flits := [f] } :: i :: is
  | [] => [{ charge := f.charge, flits := [f] }]

/-- Flits wait again in the order in which they stood; the bytes of bulk data go back to their transfer, unless a relay has refused them. -/
def requeue (s : State) : List Flit → State
  | [] => s
  | f :: fs =>
    let s := requeue s fs
    let k := 8 * f.dst + f.cls
    if f.type = 8 ∧ !f.direct then s.modXfer f.own fun x => x.unsend f.addr.toNat f.payload.length
    else { s with fab := { s.fab with sendq := tset s.fab.sendq k [] (pushFlit f (tget s.fab.sendq k [])) } }

/-- A request of which a flit has left leaves whole, behind the kept flits that a replay sends again: its flits never straddle two slots
(20 R423). -/
def finishRequest : Nat → State → Nat → State
  | 0, s, _ => s
  | fuel + 1, s, g =>
    match currentPeer s g, (upto 8).find? fun i => (portOf s (8 * g + i)).txMask != 0 with
    | some p, some i =>
      let x := sessionOf s g p
      if (x.unacked[x.left]?).any (·.2.cont) then finishRequest fuel (sendLink s (8 * g + i)) g else s
    | _, _ => s

/-- A group's slot is over. A request that has begun to leave has left whole. What the slot's allowances admitted and did not leave waits for
another slot, and is charged there: no slot passes more than its allowances (18 R392, R393; 20 R426). -/
def closeSlot (s : State) (g : Nat) : State :=
  let s := if (groupOf s g).lit then finishRequest 1024 s g else s
  let s := s.modGroup g fun x => { x with awaiting := false, lit := false }
  match currentPeer s g with
  | none => s
  | some p =>
    let x := sessionOf s g p
    let late := ((x.unacked.zipIdx.drop x.left).dropWhile (·.1.2.cont)).filter (·.1.2.cls < 4)
    requeue (s.modSession g p (·.without (late.map (·.2)))) (late.map (·.1.2))

/-- A beacon that a port receives names the peer that light has joined to its group (18 R392), and ends the headland of that port alone (R387);
what the session keeps is replayed (R386). -/
def takeBeacon (s : State) (port source seed : Nat) : State :=
  let g := port / 8
  let s := { s with fab := { s.fab with seeds := tset s.fab.seeds source 0 seed } }
  let s := if (portOf s port).headland then s.modPort port fun p => { p with headland := false } else s
  let x := groupOf s g
  if !x.awaiting then s
  else
    let table := slotTable s
    let n := table.length
    let start := match x.entry with
      | some e => e + 1
      | none => 0
    match (upto n).find? fun i => slotPeer (nth table ((start + i) % n) 0) g == source with
    | none => s.modGroup g fun x => { x with awaiting := false, lit := false, misses := x.misses + 1 }
    | some i =>
      let e := (start + i) % n
      let row := nth table e 0
      let left := (upto 4).map fun c =>
        let a := fld row (192 + 16 * c) 16
        if a = 0xFFFF then none else some (256 * a)
      replaySession (s.modGroup g fun x => { x with awaiting := false, lit := true, entry := some e, left }) g source

def execBeaconReceive (port source : Nat) (seed : BitVec 9) (s : State) : Result :=
  .next (if port < 96 ∧ source < 4096 ∧ ownDevice s < 4096 ∧ slotTable s ≠ [] then takeBeacon s port source seed.toNat else s)

/-- Positions that a report concerns no more, out of it. -/
def clearReports (ps : BitVec 16) (l : List MaskReport) : List MaskReport :=
  (l.map fun r => { r with positions := r.positions &&& ~~~ps }).filter (·.positions != 0)

/-- A peer reports the mask it can receive (18 R387); a report of the mask in use replays nothing. -/
def takeMask (s : State) (port peer : Nat) (mask : BitVec 16) : State :=
  if (portOf s port).txMask = mask then s
  else
    let x := sessionOf s (groupOfPort port) peer
    let report (p : Port) : MaskReport :=
      { positions := p.txMask &&& ~~~mask, peer, first := x.txNext - .ofNat 32 x.unacked.length, left := x.left }
    replaySession (s.modPort port fun p => { p with txMask := mask, reports := clearReports mask (p.reports ++ [report p]) }) (groupOfPort port) peer

/-- The peer of the session that a flit belongs to: its source, or for a second hop the relay, which the group is matched with (18 R386, R394). -/
def sessionPeer (s : State) (g head : Nat) : Option Nat := if fld head 90 1 = 1 then currentPeer s g else some (fld head 96 16)

/-- A flit goes on to its destination, cut through when a group reaches it now, else by the relay buffer; `none` when the buffer has no room
(18 R389, R394). -/
def relayFlit (s : State) (f : Flit) : Option State :=
  if relayRoom s = 0 then none
  else
    match groupFor s f.dst 4 0 1 with
    | some g => some (s.modSession g f.dst fun x => enterSession x false [{ f with hop2 := true }])
    | none => if s.fab.relay.length < relayRoom s then some { s with fab := { s.fab with relay := s.fab.relay ++ [f] } } else none

/-- A relay has refused the first flit that was to go by it: its sender keeps it for a direct slot, where it is charged, with the flits of its request
behind it (18 R394, 20 R423). -/
def keepDirect (s : State) (g p : Nat) : State :=
  let x := sessionOf s g p
  match x.unacked.zipIdx.find? fun f => f.1.2.dst != p && !f.1.2.hop2 with
  | some f =>
    let fs := f :: (x.unacked.zipIdx.drop (f.2 + 1)).takeWhile (·.1.2.cont)
    replaySession (requeue (s.modSession g p (·.without (fs.map (·.2)))) (fs.map fun f => { f.1.2 with direct := true })) g p
  | none => s

/-- A control flit that is accepted may report a gap, and then the session replays (18 R386), or a full relay buffer (R394), in forms that the
manual does not lay out (log entry 51). -/
def takeControl (s : State) (g p : Nat) : State :=
  let (n, s) := s.draw
  match n % 3 with
  | 0 => replaySession s g p
  | 1 => keepDirect s g p
  | _ => s

/-- A flit that is next in its session is accepted, and what it acknowledges with it (18 R384, R386, R389). One that the relay buffer has no room for
is not, and its sender is told (R394). -/
def acceptFlit (s : State) (port peer : Nat) (head : Nat) (ack : Word) (payload : List Byte) : State :=
  let g := groupOfPort port
  let src := fld head 96 16
  let dst := fld head 112 16
  let type := fld head 92 4
  let rel := fld head 91 1 == 1
  let hop2 := fld head 90 1 == 1
  let accepted := (takeAck s g peer ack).modSession g peer fun x =>
    { x with rxNext := x.rxNext + 1, owed := if type = 5 then max x.owed 1 else 2, gap := false }
  if 11 ≤ type then discardAt accepted port
  else if dst ≠ ownDevice s then
    if rel && !hop2 then
      (relayFlit accepted
        { type, src, dst, rel, hop2, units := fld head 86 4, tag := .ofNat 16 (fld head 64 16), addr := .ofNat 64 head, payload }).getD
        (post (s.modSession g peer fun x => { x with gap := true }) peer 10 0 0 .full)
    else discardAt accepted port
  else if type = 5 ∧ fld head 86 4 ≠ 0 then takeMask accepted port peer (.ofNat 16 (ofBytes (payload.take 2)))
  else if type = 10 then takeControl accepted g peer
  else accepted

/-- A flit that fails its CRC while it is cut through is ended by a complemented one; it takes no sequence number there (18 R389). -/
def stompOnward (s : State) (head : Nat) (payload : List Byte) : State :=
  let dst := fld head 112 16
  if fld head 91 1 = 1 ∧ fld head 90 1 = 0 ∧ dst ≠ ownDevice s ∧ relayRoom s ≠ 0 then
    match groupFor s dst 4 0 1 with
    | none => s
    | some g =>
      match (upto 8).find? fun i => (portOf s (8 * g + i)).txMask != 0 with
      | some i => putLink s (8 * g + i) (flitBytes (head + 2 ^ 90) payload (sessionOf s g dst).txNext (sessionOf s g dst).rxNext true)
      | none => s
  else s

/-- A flit that is not next is discarded; a gap before it is reported once, in a control flit (18 R386; log entry 51). -/
def reportGap (s : State) (g p : Nat) (seq : Word) : State :=
  let x := sessionOf s g p
  if x.gap ∨ seq = x.rxNext ∨ 2 ^ 31 ≤ (seq - x.rxNext).toNat then s
  else post (s.modSession g p fun x => { x with gap := true }) p 10 0 0 .gap

/-- A flit comes in (18 R386). What an accepted request, reply, grant or transfer flit does here is its own step. -/
def execFlitReceive (port : Nat) (usable : Bool) (bytes : List (BitVec 8)) (s : State) : Result :=
  let head := ofBytes (bytes.take 16)
  let tail := ofBytes (bytes.drop 496)
  let crc := crc64 (bytes.take 504)
  let g := groupOfPort port
  let type := fld head 92 4
  let seq : Word := .ofNat 32 (fld tail 0 32)
  let ack : Word := .ofNat 32 (fld tail 32 32)
  .next
    (if 96 ≤ port ∨ 4096 ≤ ownDevice s ∨ !usable then s
    else if bytes.length ≠ 512 ∨ crc.toNat ≠ fld tail 64 64 then
      if bytes.length = 512 ∧ (~~~crc).toNat = fld tail 64 64 then s
      else stompOnward (s.modPort port fun p => { p with crcErrors := p.crcErrors + 1 }) head ((bytes.drop 16).take 480)
    else
      match sessionPeer s g head with
      | none => discardAt s port
      | some p =>
        if 4096 ≤ p then discardAt s port
        else if type = 0 then takeAck s g p ack
        else if type = 1 then
          (if slotTable s = [] then s else takeBeacon s port p (ofBytes ((bytes.drop 16).take 2) % 512))
        else if seq ≠ (sessionOf s g p).rxNext then reportGap s g p seq
        else acceptFlit s port p head ack ((bytes.drop 16).take 480))

/-! ### Light (18 R387 to R392) -/

/-- The sequence numbers and the peer in a record of kind 4. -/
def recordData (first : Word) (replayed peer : Nat) : Nat := first.toNat * 2 ^ 48 + min 65535 replayed * 2 ^ 80 + peer * 2 ^ 96

/-- The sequence numbers and the peer of a record of kind 4 (18 R390); a group that no entry has joined to a peer names a free one. -/
def sessionData (s : State) (g : Nat) (replays : Bool) : Nat × State :=
  match currentPeer s g with
  | some p =>
    let x := sessionOf s g p
    (if replays then recordData (x.txNext - .ofNat 32 x.unacked.length) x.left p else recordData x.rxNext 0 p, s)
  | none => ((Config.unstated s.tick).toNat * 2 ^ 48 + (Config.unstated (s.tick + 1)).toNat % 4096 * 2 ^ 96, { s with tick := s.tick + 2 })

/-- Transmit positions that only a peer's report has taken; a port with no usable position carries nothing and loses no light (18 R385, R387; 19
R421; log entry 57). -/
def Port.reported (p : Port) : BitVec 16 := if p.txMask = 0 then 0 else p.reports.foldl (fun m r => m ||| r.positions) 0

/-- Light lost on positions of a transmit link (18 R387): they leave the mask, the session replays, a record of kind 4 is written. Positions that the
peer's report has taken from the mask before are recorded too, with the replay that the report caused, and then the mask may stay as it is, without
another replay (19 R421, R422). -/
def loseTransmit (s : State) (port : Nat) (positions : BitVec 16) (laser : Nat) : State :=
  let was := portOf s port
  let lost := positions &&& (was.txMask ||| was.reported)
  if lost = 0 then s
  else
    let g := groupOfPort port
    let s := s.modPort port fun p => { p with txMask := p.txMask &&& ~~~lost, reports := clearReports lost p.reports }
    let (data, s) := match was.reports.find? fun r => r.positions &&& lost != 0 with
      | some r => (recordData r.first r.left r.peer, s)
      | none => sessionData s g true
    let s := match currentPeer s g with
      | some p => if lost &&& was.txMask = 0 then s else replaySession s g p
      | none => s
    hostEvent s 4 port (lost.toNat + (portOf s port).txMask.toNat * 2 ^ 16 + laser % 256 * 2 ^ 32 + data)

/-- The positions that a laser module feeds in each link of its group (18 R383). -/
def laserPositions (m : Nat) : BitVec 16 := .ofNat 16 (15 * 2 ^ (4 * (m % 4)))

/-- The power monitor reports light lost: a failed module affects all eight links of its group. -/
def execLossOfLight (port : Nat) (positions : BitVec 16) (laser : BitVec 8) (s : State) : Result :=
  .next
    (if 96 ≤ port then s
    else if laser.toNat < 48 then
      (upto 8).foldl (fun s i => loseTransmit s (8 * (laser.toNat / 4) + i) (laserPositions laser.toNat) laser.toNat) s
    else loseTransmit s port positions 0xFF)

/-- The mask that a receive link can use is reported to its peer, by the same port (18 R387). -/
def reportMask (s : State) (port : Nat) : State :=
  match currentPeer s (groupOfPort port) with
  | some p =>
    enqueue s p 4
      { flits := [{ type := 5, dst := p, src := ownDevice s, units := 1, payload := toBytes 32 (portOf s port).rxMask.toNat, port := some port }] }
  | none => s

/-- Light lost on positions of a receive link (18 R387, 19 R420). -/
def loseReceive (s : State) (port : Nat) (positions : BitVec 16) : State :=
  let lost := positions &&& (portOf s port).rxMask
  if lost = 0 then s
  else
    let s := s.modPort port fun p => { p with rxMask := p.rxMask &&& ~~~lost }
    let (data, s) := sessionData s (groupOfPort port) false
    reportMask (hostEvent s 4 port (lost.toNat + (portOf s port).rxMask.toNat * 2 ^ 16 + 0xFF * 2 ^ 32 + data)) port

/-- Sixteen dark beat times: on all positions together a headland, else a loss. -/
def execDarkPositionDetect (port : Nat) (positions : BitVec 16) (s : State) : Result :=
  .next
    (if 96 ≤ port then s
    else if positions = 0xFFFF then s.modPort port fun p => { p with headland := true }
    else loseReceive s port positions)

def execHeadlandTimeout (port : Nat) (s : State) : Result :=
  .next (if port < 96 ∧ (portOf s port).headland then loseReceive (s.modPort port fun p => { p with headland := false }) port 0xFFFF else s)

/-- A bit of a mask. -/
def positionBit (w : Nat) : BitVec 16 := .ofNat 16 (2 ^ w)

/-- A position whose symbol errors have passed `wlthr` is to be handed back (18 R388). -/
def retrainDue (s : State) (port position : Nat) : Bool :=
  let p := portOf s port
  p.rxMask.getLsbD position && decide (s.fab.wlthr.toNat < tget p.symbols position 0)

/-- A position is handed back for retraining (18 R388). -/
def execWavelengthRetrain (port position : Nat) (s : State) : Result :=
  .next
    (if port < 96 ∧ position < 16 ∧ (portOf s port).rxMask.getLsbD position then
      reportMask (s.modPort port fun p =>
        { p with rxMask := p.rxMask &&& ~~~positionBit position, retraining := p.retraining ||| positionBit position,
                 symbols := tset p.symbols position 0 0 }) port
    else s)

/-- A retraining ends (18 R388): the position rejoins, or tries again, or stays out after the third failure. -/
def execWavelengthRejoin (port position : Nat) (ok : Bool) (s : State) : Result :=
  let p := portOf s port
  .next
    (if port < 96 ∧ position < 16 ∧ p.retraining.getLsbD position then
      let fails := tget p.fails position 0 + 1
      let b := positionBit position
      let record (s : State) : State :=
        hostEvent s 5 port (b.toNat + (portOf s port).rxMask.toNat * 2 ^ 16 + (if ok then 2 ^ 32 else 0))
      if ok then
        record (reportMask (s.modPort port fun p =>
          { p with rxMask := p.rxMask ||| b, retraining := p.retraining &&& ~~~b, fails := tset p.fails position 0 0 }) port)
      else if fails < 3 then s.modPort port fun p => { p with fails := tset p.fails position 0 fails }
      else record (s.modPort port fun p => { p with retraining := p.retraining &&& ~~~b, fails := tset p.fails position 0 fails })
    else s)

/-- 2 µs of light without an acknowledgement (18 R386). -/
def execReplayTimeout (group peer : Nat) (s : State) : Result := .next (if group < 12 ∧ peer < 4096 then replaySession s group peer else s)

/-- Light returns to a group: its ports send beacons, and it waits for the peer's (18 R392). -/
def execLightReturn (group : Nat) (s : State) : Result :=
  .next
    (if group < 12 ∧ ownDevice s < 4096 ∧ slotTable s ≠ [] then
      (upto 8).foldl (fun s i => beacon s (8 * group + i)) ((closeSlot s group).modGroup group fun x => { x with awaiting := true })
    else s)

/-- The slot of a group ends: it starts no further flit, and what is not acknowledged waits for the session's next slot (18 R386, R392). -/
def execSlotClose (group : Nat) (s : State) : Result := .next (if group < 12 then closeSlot s group else s)

end Sys2Proof.Machine
end

