-- ==== Sys2Proof/Machine/Tagged.lean ====
section
/-! DEFINITION. The narrow formats M8, M8T and I8, and the 64-byte tagged block that holds them (03 R76 to R86). -/

namespace Sys2Proof.Machine

/-! ### M8 and M8T (03 R76 to R78) -/

/-- The magnitude of the code bits 6:0 with a tail, in units of 2^-13; 0 for code 0 (03 R76, R78). -/
def m8Mag (code tail : Nat) : Nat :=
  let m := code % 128
  if m = 0 then 0
  else
    let k := 7 - bitLen m
    let n := 6 - k
    let xb := min 2 n
    let f := n - xb
    let x := m / 2 ^ f % 2 ^ xb
    let frac := m % 2 ^ f
    let b : Int := if k % 2 = 1 then (k + 1) / 2 else -(k / 2)
    let e : Int := if k = 6 then -11 else 4 * b + x - 2
    -- 2^e (1 + (4 frac + tail) / 2^(f+2)), and e - f - 2 is at least -13
    (4 * (2 ^ f + frac) + tail) * 2 ^ (e - f - 2 + 13).toNat

/-- The value of an M8 or M8T element: NaR as a quiet NaN (03 R76, R78). -/
def m8Value (code tail : Nat) : FVal :=
  if code % 128 = 0 then (if code / 128 % 2 = 1 then .nan false else .fin false 0 0)
  else .fin (code / 128 % 2 == 1) (m8Mag code tail) (-13)

/-- A member of the rounding set: magnitude, code, tail, and whether it is the even neighbour. -/
structure Point where
  mag : Nat
  code : Nat
  tail : Nat
  even : Bool
  deriving DecidableEq, Repr

/-- The non-negative M8 values, and the M8T values (03 R77, R78). -/
def m8Points : List Point := (upto 128).map fun c => ⟨m8Mag c 0, c, 0, c % 2 == 0⟩
def m8tPoints : List Point :=
  ⟨0, 0, 0, true⟩ :: ((upto 127).map fun c => (upto 4).map fun t => (⟨m8Mag (c + 1) t, c + 1, t, t % 2 == 0⟩ : Point)).flatten

/-- 4,096, by which the rounding set is extended at the top (03 R74, R77, R78). -/
def m8Top : Nat := 4096 * 2 ^ 13

/-- The greatest point at or below man / 2^sh, and the least above it. -/
def neighbours (ps : List Point) (man sh : Nat) : Point × Option Point :=
  ps.foldl (fun acc p =>
    if p.mag * 2 ^ sh ≤ man then (if acc.1.mag ≤ p.mag then (p, acc.2) else acc)
    else
      match acc.2 with
      | none => (acc.1, some p)
      | some q => if p.mag < q.mag then (acc.1, some p) else acc) (⟨0, 0, 0, true⟩, none)

/-- An element encoded: code and tail (03 R77, R78). -/
def m8Encode (tailed : Bool) (v : FVal) (fx : Fx) : (Nat × Nat) × Fx :=
  let maxTail := if tailed then 3 else 0
  let (r, fx) := fx.draw
  match v with
  | .nan s => ((0x80, 0), fx.raise (flagIf s flagIv))
  | .inf n => ((if n then 0x83 else 0x03, maxTail), fx.raise (flagOf ||| flagNx))
  | .fin n man e =>
    if man = 0 then ((0, 0), fx)
    else
      -- the magnitude in units of 2^-13 is num / 2^sh
      let e := e + 13
      let num := man * 2 ^ e.toNat
      let sh := (-e).toNat
      let (lo, hi) := neighbours (if tailed then m8tPoints else m8Points) num sh
      let hiMag := match hi with
        | some p => p.mag
        | none => m8Top
      let gap := (hiMag - lo.mag) * 2 ^ sh
      let d := num - lo.mag * 2 ^ sh
      let exact := d == 0
      let up := !exact && match fx.mode with
        | 0 => decide (gap < 2 * d) || (2 * d == gap && !lo.even)
        | 1 => false
        | 2 => n
        | 3 => !n
        | 4 => decide (gap ≤ 2 * d)
        | _ => decide (gap ≤ d) || decide (r.toNat < d * 2 ^ 32 / gap)
      let sign := if n then 0x80 else 0
      if up then
        match hi with
        | some p => ((sign + p.code, p.tail), fx.raise flagNx)
        | none => ((sign + 3, maxTail), fx.raise (flagOf ||| flagNx))
      else if lo.code = 0 then ((0, 0), fx.raise (flagUf ||| flagNx))
      else ((sign + lo.code, lo.tail), fx.raise (flagIf (!exact) flagNx))

/-! ### I8 (03 R79) -/

def i8Encode (v : FVal) (fx : Fx) : Nat × Fx :=
  let (r, fx) := fx.draw
  let pat (q : Int) : Nat := (BitVec.ofInt 8 q).toNat
  match v with
  | .nan _ => (0, fx.raise flagIv)
  | .inf n => (pat (if n then -127 else 127), fx.raise (flagOf ||| flagNx))
  | .fin n man e =>
    let (q, inexact) := froundInt n man e fx.mode r
    if 127 < q then (pat 127, fx.raise (flagOf ||| flagNx))
    else if q < -127 then (pat (-127), fx.raise (flagOf ||| flagNx))
    else (pat q, fx.raise (flagIf inexact flagNx ||| flagIf (inexact && q == 0) flagUf))

/-! ### Blocks (03 R80 to R85) -/

/-- A finite magnitude at most another, both as man 2^exp. -/
def magLe (m₁ : Nat) (e₁ : Int) (m₂ : Nat) (e₂ : Int) : Bool :=
  let e := min e₁ e₂
  decide (m₁ * 2 ^ (e₁ - e).toNat ≤ m₂ * 2 ^ (e₂ - e).toNat)

/-- The largest finite magnitude of a list, as man and exponent. -/
def amax : List FVal → Nat × Int
  | [] => (0, 0)
  | .fin _ m e :: vs =>
    let (m', e') := amax vs
    if m' = 0 || magLe m' e' m e then (m, e) else (m', e')
  | _ :: vs => amax vs

/-- The smallest e with 2^e at least man 2^exp. -/
def ceilLog (man : Nat) (e : Int) : Int := bitLen (man - 1) + e

/-- The block's scale (03 R80). -/
def blockScale (fmt : Nat) (vs : List FVal) : Nat :=
  let (m, e) := amax vs
  if m = 0 then 0
  else
    let c := ceilLog m e
    let k : Int := if fmt = 3 then (if magLe m e 127 (c - 7) then c - 7 else c - 6) else c - 11
    (max 0 (min 511 (256 + k))).toNat

/-- The CRC-16 of 03 R82 over a list of bytes. -/
def crc16Byte (c : Nat) (b : Byte) : Nat :=
  (upto 8).foldl (fun c _ => if 0x8000 ≤ c then (c * 2 % 0x10000) ^^^ 0x1021 else c * 2) (c ^^^ (b.toNat * 256))

def crc16 (bs : List Byte) : Nat := bs.foldl crc16Byte 0xFFFF

/-- 62 bytes with their check behind them (03 R81, R82). -/
def withCheck (bs : List Byte) : List Byte := bs ++ toBytes 2 (crc16 bs)

/-- The tail bytes of 48 tails (03 R81). -/
def tailBytes : List Nat → List Byte
  | a :: b :: c :: d :: rest => .ofNat 8 (a + 4 * b + 16 * c + 64 * d) :: tailBytes rest
  | _ => []

/-- A block from its format, scale, elements and tails. -/
def buildBlock (fmt scale : Nat) (elems tails : List Nat) : List Byte :=
  withCheck (.ofNat 8 (scale / 256 * 128 + fmt) :: .ofNat 8 scale :: elems.map (.ofNat 8 ·) ++ tailBytes tails)

/-- A value divided by 2^k. -/
def scaleDown (v : FVal) (k : Int) : FVal :=
  match v with
  | .fin n m e => .fin n m (e - k)
  | v => v

/-- An element encoded, with its tail (03 R80). -/
def encodeElem (fmt : Nat) (v : FVal) (fx : Fx) : (Nat × Nat) × Fx :=
  if fmt = 3 then
    let (q, fx) := i8Encode v fx
    ((q, 0), fx)
  else m8Encode (fmt = 2) v fx

/-- An element of a thread outside act(F): it is encoded with no draw, and a stochastic rounding goes a way that the manual leaves open (03 R75); its
encoding raises its flags as any other's does (R124; log entry 28). -/
def encodeUndrawn (fmt i : Nat) (v : FVal) (fx : Fx) : (Nat × Nat) × Fx :=
  let (x, fx') := encodeElem fmt v { fx with rng := Config.undrawn fx.rng i }
  (x, { fx' with rng := fx.rng })

/-- Elements encoded in ascending order (03 R80); those of the threads in act(F), for which `live` holds, draw (R75). -/
def encodeElems (fmt : Nat) (k : Int) (live : Nat → Bool) : List (FVal × Nat) → Fx → List (Nat × Nat) × Fx
  | [], fx => ([], fx)
  | (v, i) :: vs, fx =>
    let (x, fx) := if live i then encodeElem fmt (scaleDown v k) fx else encodeUndrawn fmt i (scaleDown v k) fx
    let (xs, fx) := encodeElems fmt k live vs fx
    (x :: xs, fx)

/-- 48 values encoded at a given scale. -/
def packAt (fmt scale : Nat) (live : Nat → Bool) (vs : List FVal) (fx : Fx) : List Byte × Fx :=
  let (xs, fx) := encodeElems fmt ((scale : Int) - 256) live vs.zipIdx fx
  (buildBlock fmt scale (xs.map (·.1)) (xs.map (·.2)), fx)

/-- 48 values packed with the scale chosen under 03 R80. -/
def pack (fmt : Nat) (live : Nat → Bool) (vs : List FVal) (fx : Fx) : List Byte × Fx := packAt fmt (blockScale fmt vs) live vs fx

/-- The draws of a block whose elements are delivered without rounding: one for each element of act(F) (03 R74, R75). -/
def drawBlock (live : Nat → Bool) (fx : Fx) : Fx := ((upto 48).filter live).foldl (fun fx _ => fx.draw.2) fx

def byteAt (bs : List Byte) (i : Nat) : Nat := (nth bs i 0).toNat
def blockFmt (bs : List Byte) : Nat := byteAt bs 0 % 128
def blockScaleOf (bs : List Byte) : Nat := byteAt bs 0 / 128 * 256 + byteAt bs 1
def blockTail (bs : List Byte) (i : Nat) : Nat := byteAt bs (50 + i / 4) / 4 ^ (i % 4) % 4

/-- Why a block is poisoned, for reasons 0 to 2 (03 R85). -/
def blockWhy (bs : List Byte) : Option Nat :=
  if toBytes 2 (crc16 (bs.take 62)) ≠ bs.drop 62 then some 0
  else if blockFmt bs = 0x7F then some 1
  else if 3 < blockFmt bs then some 2
  else none

/-- The unscaled value of element i of a sound block (03 R83, R87). -/
def blockDec (bs : List Byte) (i : Nat) : FVal :=
  let c := byteAt bs (2 + i)
  match blockFmt bs with
  | 1 => m8Value c 0
  | 2 => m8Value c (blockTail bs i)
  | 3 =>
    let q : Int := (BitVec.ofNat 8 c).toInt
    .fin (decide (q < 0)) q.natAbs 0
  | _ => .fin false 0 0

/-- The value of element i of a sound block (03 R83). -/
def blockValue (bs : List Byte) (i : Nat) : FVal := scaleDown (blockDec bs i) (256 - (blockScaleOf bs : Int))

/-- The poisoned output block (04 R126). -/
def poisonedBlock : List Byte := buildBlock 0x7F 0 (List.replicate 48 0) (List.replicate 48 0)

end Sys2Proof.Machine
end

