-- ==== Sys2Proof/Machine/Matrix.lean ====
section
/-! DEFINITION. The matrix engine: tiles, `mma` and its companions, charges and arbitration, `twr` and `trd` (08 R209 to R233; 03 R85 to R90). -/

namespace Sys2Proof.Machine

def cMx : Nat := 3

/-! ### Arithmetic of one K block (03 R87 to R89) -/

/-- An exact dyadic number: mantissa and exponent. -/
abbrev Dyadic := Int × Int

def Dyadic.add (a b : Dyadic) : Dyadic :=
  let e := min a.2 b.2
  (a.1 * 2 ^ (a.2 - e).toNat + b.1 * 2 ^ (b.2 - e).toNat, e)

/-- The exact sum of the products of a K block, and what its products hold besides finite values. -/
structure Dot where
  sum : Dyadic := (0, 0)
  nan : Bool := false
  iv : Bool := false
  pos : Bool := false
  neg : Bool := false

def Dot.product (d : Dot) (a b : FVal) : Dot :=
  match a, b with
  | .nan _, _ => { d with nan := true }
  | _, .nan _ => { d with nan := true }
  | .inf m, .inf n => if m = n then { d with pos := true } else { d with neg := true }
  | .inf m, .fin n x _ =>
    if x = 0 then { d with nan := true, iv := true } else if m = n then { d with pos := true } else { d with neg := true }
  | .fin n x _, .inf m =>
    if x = 0 then { d with nan := true, iv := true } else if m = n then { d with pos := true } else { d with neg := true }
  | .fin m x e, .fin n y f => { d with sum := d.sum.add ((if m = n then 1 else -1) * (x * y : Nat), e + f) }

/-- Bits of `mev` (08 R232). -/
def mevNan : Nat := 1
def mevOf : Nat := 2
def mevIv : Nat := 4
def mevNar : Nat := 8
def mevBk : Nat := 16

def canonNan : Word := 0x7FC00000

/-- The block's value rounded once to fp32 (03 R87, R88), with the events it raises. An exact zero gives +0. DESIGN CHOICE (log entry 70):
infinities of opposite sign beside a NaN product do not raise `mev.iv`, a product of zero and infinity beside one does. -/
def Dot.round (d : Dot) (scale : Int) : Word × Nat :=
  if d.nan || (d.pos && d.neg) then (canonNan, if d.iv || (!d.nan && d.pos && d.neg) then mevIv else 0)
  else if d.pos then (0x7F800000, 0)
  else if d.neg then (0xFF800000, 0)
  else
    let (x, fl) := froundWith fp32 0 0 (decide (d.sum.1 < 0)) d.sum.1.natAbs (d.sum.2 + scale) false
    (.ofNat 32 x, if flagOf &&& fl ≠ 0 then mevOf else 0)

/-- The `rne` addition into the accumulator, with its events. -/
def accumulateFp (c x : Word) : Word × Nat :=
  let (r, fx) := faddV fp32 (fdecode fp32 c.toNat) (fdecode fp32 x.toNat) { rng := 1 }
  let bothNumbers := !(fdecode fp32 c.toNat).isNan && !(fdecode fp32 x.toNat).isNan
  (.ofNat 32 r, (if bothNumbers && (fdecode fp32 r).isNan then mevIv else 0) ||| (if flagOf &&& fx.flags ≠ 0 then mevOf else 0))

/-- The three bf16 slices of an fp32 value (03 R89). -/
def sliceBf16 (y : FVal) : List FVal :=
  match y with
  | .fin n m e =>
    let cut (m : Nat) : FVal := fdecode bf16 (froundWith bf16 1 0 n m e false).1
    let value (v : FVal) : Nat := match v with
      | .fin _ k f => k * 2 ^ (f - e).toNat / 2 ^ (e - f).toNat
      | _ => 0
    let y0 := cut m
    let y1 := cut (m - value y0)
    [y0, y1, cut (m - value y0 - value y1)]
  | y => [y]

/-- The products of one pair: one, or the six of the synthesised class for finite inputs (03 R89). -/
def Dot.pair (d : Dot) (synth : Bool) (a b : FVal) : Dot :=
  match synth, a, b with
  | true, .fin _ _ _, .fin _ _ _ =>
    let as := sliceBf16 a
    let bs := sliceBf16 b
    [(2, 0), (1, 1), (0, 2), (1, 0), (0, 1), (0, 0)].foldl
      (fun d ij => d.product (nth as ij.1 (.fin false 0 0)) (nth bs ij.2 (.fin false 0 0))) d
  | _, _, _ => d.product a b

/-! ### Shapes (08 R216) -/

inductive MClass where
  | tagged
  | half (f : Fmt)
  | single
  deriving DecidableEq, Repr

structure Shape where
  cls : MClass
  m : Nat
  n : Nat
  kb : Nat
  base : Nat

def shapeOf (h : Nat) : Shape :=
  match h with
  | 0 => ⟨.tagged, 32, 32, 1, 24⟩
  | 1 => ⟨.tagged, 32, 32, 2, 48⟩
  | 2 => ⟨.tagged, 32, 32, 4, 96⟩
  | 3 => ⟨.tagged, 16, 32, 1, 12⟩
  | 4 => ⟨.tagged, 32, 16, 1, 12⟩
  | 5 => ⟨.tagged, 16, 16, 1, 6⟩
  | 6 => ⟨.tagged, 32, 64, 1, 48⟩
  | 7 => ⟨.tagged, 64, 32, 1, 48⟩
  | 8 => ⟨.half bf16, 32, 32, 1, 16⟩
  | 9 => ⟨.half bf16, 32, 32, 2, 32⟩
  | 10 => ⟨.half bf16, 32, 32, 4, 64⟩
  | 11 => ⟨.half bf16, 16, 16, 1, 4⟩
  | 12 => ⟨.half fp16, 32, 32, 1, 16⟩
  | 13 => ⟨.half fp16, 32, 32, 2, 32⟩
  | 14 => ⟨.half fp16, 32, 32, 4, 64⟩
  | 15 => ⟨.half fp16, 16, 16, 1, 4⟩
  | 16 => ⟨.single, 32, 32, 1, 96⟩
  | _ => ⟨.single, 16, 16, 1, 24⟩

def MClass.unit : MClass → Nat
  | .half _ => 32
  | _ => 64

/-- Bytes of a K block of A: 32 rows of a unit (08 R213). -/
def Shape.rowBlock (h : Shape) : Nat := 32 * h.cls.unit
def Shape.extent (h : Shape) : Nat := h.cls.unit * h.kb * h.n
def Shape.aTiles (h : Shape) : Nat := if h.m = 64 then 2 else 1

/-- A unit as read: its bytes, and whether a poisoned word was read. -/
abbrev MUnit := List Byte × Bool

def tileWordBad (f : Furrow) (key : Nat) : Bool := tget f.tileMark key .clean != .clean

/-- A unit of tile `n`, from the file, or from the latch where it holds the tile (08 R213, R219). -/
def aUnit (f : Furrow) (h : Shape) (n i kb : Nat) : MUnit :=
  let r := i % 32
  let t := n + i / 32
  let off := h.rowBlock * kb + h.cls.unit * r
  let size := h.cls.unit
  let latched := match f.latch with
    | some (l, copies) => if l = n then copies[i / 32]? else none
    | none => none
  match latched with
  | some (bytes, bad) => ((bytes.drop off).take size, (upto (size / 4)).any fun w => bad.contains (off / 4 + w))
  | none =>
    ((upto size).map fun x => tget f.ta (8192 * t + off + x) 0,
      (upto (size / 4)).any fun w => tileWordBad f (2048 * t + off / 4 + w))

/-- Whether a unit of A comes from the tile file. -/
def fromFile (f : Furrow) (n i : Nat) : Bool :=
  match f.latch with
  | some (l, copies) => !(l == n && decide (i / 32 < copies.length))
  | none => true

/-- A unit of B in the issuing cluster's memory (08 R214). -/
def bUnit (s : State) (f : Furrow) (h : Shape) (o kb j : Nat) : MUnit :=
  let k := clusterLoc f.cluster (o + h.cls.unit * (kb * h.n + j))
  (readBytes s.mem k h.cls.unit, (upto (h.cls.unit / 4)).any fun w => tget s.memMark (k / 4 + w) .clean != .clean)

/-- Element `k` of a unit of a floating-point class. -/
def unitElem (c : MClass) (u : List Byte) (k : Nat) : FVal :=
  match c with
  | .half m => fdecode m (ofBytes ((u.drop (2 * k)).take 2))
  | _ => fdecode fp32 (ofBytes ((u.drop (4 * k)).take 4))

/-- Why a pair of units is poisoned, A first (03 R85, 08 R231, R233). -/
def pairWhy (c : MClass) (a b : MUnit) : Option Nat :=
  let bad : Nat := nth [0, 1, 2, 4] (Config.whyPoisonedB b.1 % 4) 0
  if a.2 then some 4
  else
    match c with
    | .tagged =>
      match blockWhy a.1 with
      | some w => some w
      | none => if b.2 then some bad else blockWhy b.1
    | _ => if b.2 then some bad else none

/-- One K block of one element: the new accumulator, the events, and why it was poisoned (03 R87 to R89). -/
def blockStep (c : MClass) (a b : MUnit) (add : Bool) (old : Word) : Word × Nat × Option Nat :=
  let put (x : Word × Nat) : Word × Nat × Option Nat :=
    let r := if add then accumulateFp old x.1 else (x.1, 0)
    (r.1, x.2 ||| r.2 ||| (if (fdecode fp32 r.1.toNat).isNan then mevNan else 0), none)
  match pairWhy c a b with
  | some w => (canonNan, mevBk ||| mevNan, some w)
  | none =>
    match c with
    | .tagged =>
      let es := (upto 48).map fun e => (blockDec a.1 e, blockDec b.1 e)
      if es.any fun x => x.1.isNan || x.2.isNan then (canonNan, mevNar ||| mevNan, none)
      else
        put ((es.foldl (fun d x => d.product x.1 x.2) ({} : Dot)).round ((blockScaleOf a.1 : Int) + blockScaleOf b.1 - 512))
    | c =>
      put (((upto 16).foldl (fun d k => d.pair (c == .single) (unitElem c a.1 k) (unitElem c b.1 k)) ({} : Dot)).round 0)

/-- The place of accumulator element (i, j): byte key of its tile, and its tile (08 R216, R218). -/
def accPlace (tc i j : Nat) : Nat × Nat :=
  let (c, ii, jj) := if 32 ≤ i then (tc + 1, i - 32, j) else if 32 ≤ j then (tc + 1, i, j - 32) else (tc, i, j)
  (4096 * c + 4 * (32 * ii + jj), c)

/-- The mark of an accumulator word. -/
def accMark (key : Nat) : Nat := 65536 + key / 4

def tileRead (t : NMap Byte) (key : Nat) : Word := .ofNat 32 (ofBytes ((upto 4).map fun i => tget t (key + i) 0))
def tileWrite (t : NMap Byte) (key : Nat) (x : Word) : NMap Byte :=
  (toBytes 4 x.toNat).zipIdx.foldl (fun t b => tset t (key + b.2) 0 b.1) t

/-- What an `mma` has done so far: the stream, the events, and the first poison as accumulator and reason. -/
structure MmaStep where
  f : Furrow
  ev : Nat := 0
  first : Option (Nat × Nat) := none

/-- One accumulator element over all K blocks (08 R218); a poisoned accumulator that is added to gives NaN (R231). -/
def mmaElem (s : State) (f0 : Furrow) (h : Shape) (acc : Bool) (tc ta o : Nat) (x : MmaStep) (ij : Nat × Nat) : MmaStep :=
  let (key, c) := accPlace tc ij.1 ij.2
  let bad := acc && tileWordBad f0 (accMark key)
  let start : Word × Nat × Option Nat :=
    (if bad then canonNan else tileRead f0.tc key, if bad then mevBk else 0, if bad then some 4 else none)
  let (w, ev, why) := (upto h.kb).foldl (fun st kb =>
    let r := blockStep h.cls (aUnit f0 h ta ij.1 kb) (bUnit s f0 h o kb ij.2) (acc || kb != 0) st.1
    (r.1, st.2.1 ||| r.2.1, st.2.2.or r.2.2)) start
  { f := { x.f with tc := tileWrite x.f.tc key w, tileMark := tset x.f.tileMark (accMark key) .clean .clean },
    ev := x.ev ||| ev,
    first := x.first.or (why.map (c, ·)) }

/-- Units in the order they are streamed (08 R222). -/
def bUnits (s : State) (f : Furrow) (h : Shape) (o : Nat) : List (List Byte) :=
  ((upto h.kb).map fun kb => (upto h.n).map fun j => (bUnit s f h o kb j).1).flatten
def aFileUnits (f : Furrow) (h : Shape) (ta : Nat) : List (List Byte) :=
  ((upto h.kb).map fun kb => ((upto h.m).filter (fromFile f ta)).map fun i => (aUnit f h ta i kb).1).flatten

def padUnit (u : List Byte) : List Byte := u ++ List.replicate (64 - u.length) 0
def histNow (h : List Byte) : List Byte := padUnit h

/-- The toggled bits of a stream of units against the history, and the new history. -/
def toggles : List Byte → List (List Byte) → Nat × List Byte
  | h, [] => (0, h)
  | h, u :: us =>
    let u := padUnit u
    let d := total ((histNow h).zipWith (fun x y => ((upto 8).filter fun i => (x ^^^ y).getLsbD i).length) u)
    let r := toggles u us
    (d + r.1, r.2)

def ceil256 (n : Nat) : Nat := (n + 255) / 256

/-- The charge of a matrix operation as things stand (08 R220, R222). -/
def chargeOf (s : State) (f : Furrow) (m : MatrixOp) : Nat :=
  match m.instr with
  | .mma h _ _ _ ta _ =>
    let sh := shapeOf h.toNat
    sh.base + ceil256 (toggles f.histB (bUnits s f sh m.offset.toNat)).1 + ceil256 (toggles f.histA (aFileUnits f sh ta.toNat)).1
  | .mlda _ _ => 2
  | .mst _ _ => 1
  | _ => 0

/-- The latch after an `mma` (08 R219). -/
def latchAfter (f : Furrow) (h : Shape) (ta : Nat) (keep : Bool) : Option (Nat × List (List Byte × List Nat)) :=
  match f.latch with
  | some (l, c) => if l = ta then (if keep then some (l, c) else none) else fill
  | none => fill
where
  fill : Option (Nat × List (List Byte × List Nat)) :=
    if keep then
      some (ta, (upto h.aTiles).map fun i =>
        ((upto 8192).map fun x => tget f.ta (8192 * (ta + i) + x) 0,
          (upto 2048).filter fun w => tileWordBad f (2048 * (ta + i) + w)))
    else f.latch

/-- `info` of cause 0x10 in a stream (08 R233). -/
def poisonInfo (m : MatrixOp) (tc why : Nat) : Word :=
  .ofNat 32 (m.pkt.toNat % 2 ^ 22 * 2 ^ 10 + m.slot % 4 * 2 ^ 8 + tc % 16 * 2 ^ 4 + why)

/-- A matrix operation takes effect (08 R211): the state, its events, and the poison it consumed. Words of cluster memory that fail when they
are read are marked and logged (08 R206). DESIGN CHOICE (log entry 70): `mlda` carries a word's poison into the tile. -/
def runMatrix (s : State) (k : Nat) (m : MatrixOp) : State × Nat × Option Word :=
  let f := s.furrow k
  let o := m.offset.toNat
  match m.instr with
  | .mma h keep acc tc ta _ =>
    let sh := shapeOf h.toNat
    let (_, s) := readMarks s (clusterLoc f.cluster o) sh.extent
    let ijs := ((upto sh.m).map fun i => (upto sh.n).map fun j => (i, j)).flatten
    let r := ijs.foldl (mmaElem s f sh (acc == 1) tc.toNat ta.toNat o) { f }
    let g := { r.f with
      latch := latchAfter f sh ta.toNat (keep == 1),
      histB := (toggles f.histB (bUnits s f sh o)).2,
      histA := (toggles f.histA (aFileUnits f sh ta.toNat)).2 }
    (s.setFurrow k g, r.ev, r.first.map fun x => poisonInfo m x.1 x.2)
  | .mlda t _ =>
    let n := t.toNat
    let src := clusterLoc f.cluster o
    let (ms, s) := readMarks s src 8192
    let g := { f with
      ta := (readBytes s.mem src 8192).zipIdx.foldl (fun t b => tset t (8192 * n + b.2) 0 b.1) f.ta,
      tileMark := ms.zipIdx.foldl (fun t x => tset t (2048 * n + x.2) .clean (if x.1 then .poisoned else .clean)) f.tileMark }
    (s.setFurrow k g, 0, none)
  | .mzero t =>
    let n := t.toNat
    let g := { f with
      tc := (upto 4096).foldl (fun t i => tset t (4096 * n + i) 0 0) f.tc,
      tileMark := (upto 1024).foldl (fun t w => tset t (65536 + 1024 * n + w) .clean .clean) f.tileMark }
    (s.setFurrow k g, 0, none)
  | .mst t _ =>
    let n := t.toNat
    let dst := clusterLoc f.cluster o
    let s := putBytes s dst ((upto 4096).map fun i => tget f.tc (4096 * n + i) 0)
    ({ s with memMark := (upto 1024).foldl (fun m w =>
        if tileWordBad f (65536 + 1024 * n + w) then tset m (dst / 4 + w) .clean .poisoned else m) s.memMark }, 0, none)
  | .mrls => (s.setFurrow k { f with latch := none }, 0, none)
  | _ => (s, 0, none)

/-! ### Issue in the stream (08 R210, R217, R220) -/

def matrixMode (acc : Nat) : Mode := { need := .read, sp := 3, acc, flt := 0 }

/-- A matrix operation enters the queue. -/
def enqueueMatrix (s : State) (i : Instr) (offset : Word) : State :=
  if engineHeld s 2 then stallHold s
  else if pathFull s cMx || 16 ≤ s.cur.mqueue.length then stallWait s
  else
    let op := nextOp s
    let s := issueOp s { kind := .matrix, instr := i, path := some cMx }
    { s with cur := { s.cur with
        mqueue := s.cur.mqueue ++ [{ op, instr := i, offset, pkt := s.iss.pkt, slot := s.iss.slot }],
        poisonTrap := s.cur.poisonTrap.map fun x => (x.1 + 1, x.2) } }

/-- The checks of an offset in cluster memory (08 R217). -/
def checkOffset (s : State) (acc o unit extent : Nat) (k : State → State) : State :=
  if o % unit ≠ 0 then raise s 0x05 (accessInfo (matrixMode acc) 0 o)
  else if 0x400000 < o + extent then raise s 0x07 (accessInfo (matrixMode acc) 0 o)
  else k s

def execMma (h : BitVec 5) (keep acc : BitVec 1) (tc ta : BitVec 4) (b : BitVec 7) (s : State) : Result :=
  let sh := shapeOf h.toNat
  .next (guarded s none [.s 1 b] fun s => checkOffset s 0 (S s b).toNat sh.cls.unit sh.extent fun s =>
    enqueueMatrix s (.mma h keep acc tc ta b) (S s b))
def execMlda (t : BitVec 4) (a : BitVec 7) (s : State) : Result :=
  .next (guarded s none [.s 0 a] fun s => checkOffset s 0 (S s a).toNat 64 8192 fun s => enqueueMatrix s (.mlda t a) (S s a))
def execMzero (t : BitVec 4) (s : State) : Result := .next (guarded s none [] fun s => enqueueMatrix s (.mzero t) 0)
def execMst (t : BitVec 4) (a : BitVec 7) (s : State) : Result :=
  .next (guarded s none [.s 0 a] fun s => checkOffset s 1 (S s a).toNat 64 4096 fun s => enqueueMatrix s (.mst t a) (S s a))
def execMrls (s : State) : Result := .next (guarded s none [] fun s => enqueueMatrix s .mrls 0)

/-- The next charge, or the event word, which it clears (08 R221). -/
def execMest (d : BitVec 7) (i : BitVec 1) (s : State) : Result :=
  .next (guarded s none [.ds d] fun s =>
    if i = 1 then setS { s with cur := { s.cur with mev := 0 } } d s.pre.mev
    else setS s d (.ofNat 32 (match s.pre.mqueue with
      | m :: _ => chargeOf s s.pre m
      | [] => 0)))

/-! ### The engine (08 R211, R223, R224) -/

/-- The streams of a cluster with a queue head, by slot. -/
def waitingStreams (s : State) (cluster : Nat) : List Nat :=
  ((upto 4).map (streamKey cluster)).filter fun k => (s.furrow k).valid && (s.furrow k).mqueue != []

def headCharge (s : State) (k : Nat) : Nat :=
  match (s.furrow k).mqueue with
  | m :: _ => chargeOf s (s.furrow k) m
  | [] => 0

/-- The choice: the smallest charge less eight times the choices it was passed over in, ties to the lowest slot (08 R224). -/
def chooseStream (s : State) (ks : List Nat) : Option Nat :=
  let rank (k : Nat) : Int := (headCharge s k : Int) - 8 * (s.furrow k).passed
  ks.foldl (fun best k => match best with
    | none => some k
    | some b => if rank k < rank b then some k else some b) none

def noteChoice (s : State) (ks : List Nat) (chosen : Nat) : State :=
  ks.foldl (fun s k => s.modFurrow k fun f => { f with passed := if k = chosen then 0 else min 255 (f.passed + 1) }) s

/-- The budget after a charge, when the operation may start (08 R223). -/
def payBudget (c : Cluster) (e : Nat) : Option Word :=
  if e ≤ c.budget.toNat then some (c.budget - .ofNat 32 e)
  else if c.ceil.toNat < e ∧ c.ceil.toNat ≤ c.budget.toNat then some 0
  else none

/-- The head of a stream's queue starts (08 R211). -/
def startMatrix (s : State) (k : Nat) : State :=
  match (s.furrow k).mqueue with
  | [] => s
  | m :: rest =>
    let bte := (s.furrow k).status.getLsbD 16
    let (s, ev, poison) := runMatrix s k m
    let s := s.modFurrow k fun f => { f with mqueue := rest }
    s.modOp m.op fun o => { o with begun := true, args := .ofNat 32 ev :: (match poison with
      | some info => if bte then [info] else []
      | none => []) }

def matrixStartReady (s : State) (cluster : Nat) : Bool :=
  !(s.die (cluster / 64)).hot &&
    match (s.cluster cluster).chosen with
    | some k => (s.furrow k).mqueue == [] || (payBudget (s.cluster cluster) (headCharge s k)).isSome
    | none => !(waitingStreams s cluster).isEmpty

/-- The engine chooses a head, and starts the chosen one once its charge fits the budget (08 R223, R224). -/
def execMatrixOpStart (cluster : Nat) (s : State) : Result :=
  .next
    (if !matrixStartReady s cluster then s
    else
      let ks := waitingStreams s cluster
      let (chosen, s) := match (s.cluster cluster).chosen with
        | some k => (some k, s)
        | none => match chooseStream s ks with
          | some k => (some k, noteChoice s ks k)
          | none => (none, s)
      match chosen with
      | none => s
      | some k =>
        match payBudget (s.cluster cluster) (headCharge s k) with
        | some b => startMatrix (s.modCluster cluster fun c => { c with budget := b, chosen := none }) k
        | none => s.modCluster cluster fun c => { c with chosen := some k })

def matrixDone (o : Op) : Bool := o.kind == .matrix && o.begun && !o.done

/-- The operation completes: its events stand in `mev`, and a consumed poison waits for a covering wait (08 R221, R232, R233). -/
def execMatrixOpComplete (op : Nat) (s : State) : Result :=
  match s.op op with
  | none => .next s
  | some o =>
    .next
      (if matrixDone o then
        let younger := (s.ops.filter fun x => x.furrow == o.furrow && x.kind == .matrix && decide (o.id < x.id)).length
        let s := s.modFurrow o.furrow fun f =>
          { f with mev := f.mev ||| o.args.headD 0,
                   poisonTrap := f.poisonTrap ++ ((o.args[1]?).map (younger, ·)).toList }
        finishOp s o
      else s)

/-! ### twr and trd (08 R225 to R227) -/

/-- The stream of the issuing furrow's croft. -/
def croftStream (s : State) (f : Furrow) : Option Nat := (s.croft f.croft).stream

/-- The checks of a tile transfer: no stream, then the part, whose trap names thread 0 (08 R225; log entry 72). -/
def checkPart (s : State) (acc words p : Nat) (k : State → Nat → State) : State :=
  match croftStream s s.pre with
  | none => raise s 0x0A s.iss.word
  | some st =>
    if words / (8 * s.pre.width) ≤ p then raise s 0x07 (.ofNat 32 (acc * 2 ^ 12 + p))
    else k s st

def execTwr (d : BitVec 7) (t : BitVec 4) (p : BitVec 5) (s : State) : Result :=
  let m := act s
  .next (guarded s none [.v 3 d 8 m] fun s => checkPart s 1 2048 p.toNat fun s st =>
    if tileHeld s then stallHold s
    else if pathFull s cMx then stallWait s
    else
      issueOp s { kind := .tile, instr := .twr d t p, path := some cMx, args := [.ofNat 32 st],
                  targs := (threads s.pre.width m).foldl (fun t thr =>
                    (upto 8).foldl (fun t r => tset t (8 * thr + r) 0 (V s d r thr)) t) [] })
def execTrd (d : BitVec 7) (t : BitVec 4) (p : BitVec 5) (s : State) : Result :=
  .next (guarded s none [.dv d] fun s => checkPart s 0 1024 p.toNat fun s st =>
    if tileHeld s then stallHold s
    else if pathFull s cMx then stallWait s
    else issueOp s { kind := .tile, instr := .trd d t p, path := some cMx, args := [.ofNat 32 st] })

/-- The threads and registers of a tile transfer. -/
def tilePairs (w : Nat) (o : Op) : List (Nat × Nat) := ((threads w o.act).map fun t => (upto 8).map fun r => (t, r)).flatten

/-- The words of a `twr` that are not in the tile yet, at key 8 t + r. -/
def twrWords (w : Nat) (o : Op) : List Nat := ((tilePairs w o).map fun tr => 8 * tr.1 + tr.2).filter fun k => !o.early.contains k

/-- One word of a `twr` reaches the tile of its stream (08 R226). -/
def twrWord (w : Nat) (o : Op) (f : Furrow) (k : Nat) : Furrow :=
  match o.instr with
  | .twr _ t p =>
    let u := 8 * w * p.toNat + w * (k % 8) + k / 8
    { f with ta := tileWrite f.ta (8192 * t.toNat + 4 * u) (tget o.targs k 0),
             tileMark := tset f.tileMark (2048 * t.toNat + u) .clean .clean }
  | _ => f

/-- The tile words of a `twr` that are left, or the registers of a `trd` (08 R226, R227). -/
def moveTile (s : State) (o : Op) : State :=
  let k := (o.args.headD 0).toNat
  let w := (s.furrow o.furrow).width
  let trs := tilePairs w o
  match o.instr with
  | .twr _ _ _ => s.modFurrow k fun f => (twrWords w o).foldl (twrWord w o) f
  | .trd d t p =>
    let st := s.furrow k
    s.modFurrow o.furrow fun f0 => keepEarly o f0 <|
      let f := trs.foldl (fun f tr =>
        let key := 4096 * t.toNat + 4 * (8 * w * p.toNat + w * tr.2 + tr.1)
        f.vsetMarked (d.toNat + tr.2) tr.1 (tileRead st.tc key) (tileWordBad st (accMark key))) f0
      (threads w o.zero).foldl (fun f t => (upto 8).foldl (fun f r => f.vset (d.toNat + r) t 0) f) f
  | _ => s

def tileDone (o : Op) : Bool := o.kind == .tile && !o.done

def execTileTransferComplete (op : Nat) (s : State) : Result :=
  match s.op op with
  | some o => .next (if tileDone o then finishOp (moveTile s o) o else s)
  | none => .next s

end Sys2Proof.Machine
end

