-- ==== Sys2Proof/Machine/TaggedBlock.lean ====
section
/-! DEFINITION. Tagged blocks in registers and the mask instructions (04 R120 to R128). -/

namespace Sys2Proof.Machine

/-- The groups of 16 threads that hold an active thread, ascending (04 R120). -/
def blockGroups (width : Nat) (m : Mask) : List Nat :=
  (upto ((width + 15) / 16)).filter fun g => (upto 16).any fun j => m.getLsbD (16 * g + j)

/-- All threads of the groups acted on (04 R121). -/
def groupThreads (width : Nat) (m : Mask) : Mask :=
  maskOf (upto width) fun t => (blockGroups width m).contains (t / 16)

/-- The 64 bytes a group holds in a register (04, "Tagged blocks in registers"). -/
def blockOf (s : State) (a : BitVec 7) (g : Nat) : List Byte := bytesOf ((upto 16).map fun j => V s a 0 (16 * g + j))

/-- A block written to the active threads of its group (04 R120). -/
def writeBlock (s : State) (f : Furrow) (d : BitVec 7) (g : Nat) (bs : List Byte) : Furrow :=
  ((wordsOf bs).zipIdx).foldl
    (fun f x => if (act s).getLsbD (16 * g + x.2) then f.vset d.toNat (16 * g + x.2) x.1 else f) f

/-- The lowest group whose source block is poisoned, with the reason (03 R85, R86). -/
def firstBadBlock (s : State) (a : BitVec 7) : Option (Nat × Nat) :=
  (blockGroups s.pre.width (act s)).findSome? fun g => (blockWhy (blockOf s a g)).map fun w => (g, w)

/-- The action for poisoned blocks (03 R86): `status.bk`, and cause 0x10 when `status.bte` is set; else the effect `k`. -/
def consumeBlocks (s : State) (a : BitVec 7) (k : State → State) : State :=
  match firstBadBlock s a with
  | none => k s
  | some (g, why) =>
    let s := { s with iss := { s.iss with raised := s.iss.raised ||| flagBk } }
    if s.pre.status.getLsbD 16 then raise (orRaised s) 0x10 (.ofNat 32 (g * 16 + why))
    else k s

/-- The elements of a group that its active threads give: thread `t` has elements 3t to 3t + 2 (04 R122), and in a block that is re-encoded too
(log entry 28). -/
def liveElem (m : Mask) (g i : Nat) : Bool := m.getLsbD (16 * g + i / 3)

/-- A block for each group in turn, written to its active threads. -/
def eachBlock (s : State) (d : BitVec 7) (mk : Nat → Fx → List Byte × Fx) : State :=
  let (f, fx) := (blockGroups s.pre.width (act s)).foldl (fun st g =>
    let (bs, fx) := mk g st.2
    (writeBlock s st.1 d g bs, fx)) (s.cur, fxOf s)
  zeroElems (putFx s f fx) d.toNat 1

/-- 48 fp32 inputs of a group: inactive threads supply +0.0, and V[a+3] is ignored (04 R122). -/
def execQpack (d a : BitVec 7) (b : BitVec 2) (s : State) : Result :=
  .next (guarded s none [{ Opd.v 0 a 4 (act s) with used := 3 }, .dv d] fun s =>
    eachBlock s d fun g fx =>
      let vs := ((upto 16).map fun j => (upto 3).map fun e =>
        let t := 16 * g + j
        if (act s).getLsbD t then fval (V s a e t) else .fin false 0 0).flatten
      pack b.toNat (liveElem (act s) g) vs fx)

/-- Element values to fp32 under `rne`; NaR and poisoned blocks give NaN (04 R123, 03 R86). -/
def execQunpk (d a : BitVec 7) (s : State) : Result :=
  .next (guarded s none [.v 0 a 1 (groupThreads s.pre.width (act s)), .dv d] fun s =>
    consumeBlocks s a fun s =>
      vectorResult s d 4 fun t i fx =>
        if i = 3 then (0, fx)
        else
          let bs := blockOf s a (t / 16)
          if (blockWhy bs).isSome then (.ofNat 32 fp32.canon, fx)
          else
            let (y, fx') := fconvV fp32 (blockValue bs (3 * (t % 16) + i)) { fx with mode := 0 }
            (.ofNat 32 y, { fx' with mode := fx.mode }))

/-- The lowest active thread of a group. -/
def firstActive (m : Mask) (g : Nat) : Nat := 16 * g + (((upto 16).find? fun j => m.getLsbD (16 * g + j)).getD 0)

/-- A block rescaled by 2^δ (04 R124). Out of the scale's range, `far` is how far the elements move; they encode alike beyond 2^128 either
way, where each is over the largest code or under every part of the smallest. -/
def rescale (live : Nat → Bool) (bs : List Byte) (delta : Int) (fx : Fx) : List Byte × Fx :=
  if (blockWhy bs).isSome then (poisonedBlock, drawBlock live fx)
  else
    let fmt := blockFmt bs
    let sc : Int := blockScaleOf bs + delta
    if fmt = 0 then (bs, drawBlock live fx)
    else if 0 ≤ sc ∧ sc ≤ 511 then
      let n := sc.toNat
      (withCheck (.ofNat 8 (n / 256 * 128 + fmt) :: .ofNat 8 n :: (bs.drop 2).take 60), drawBlock live fx)
    else
      let edge := max 0 (min 511 sc)
      let far := max (-128) (min 128 (sc - edge))
      packAt fmt edge.toNat live ((upto 48).map fun i => scaleDown (blockDec bs i) (256 - edge - far)) fx

def execQscal (d a b : BitVec 7) (s : State) : Result :=
  let gs := blockGroups s.pre.width (act s)
  .next (guarded s none
    [.v 0 a 1 (groupThreads s.pre.width (act s)), .v 1 b 1 (maskOf (gs.map (firstActive (act s))) fun _ => true), .dv d]
    fun s => consumeBlocks s a fun s =>
      eachBlock s d fun g fx => rescale (liveElem (act s) g) (blockOf s a g) (V s b 0 (firstActive (act s) g)).toInt fx)

/-- A block re-encoded in another format (04 R125). -/
def retag (fmt : Nat) (live : Nat → Bool) (bs : List Byte) (fx : Fx) : List Byte × Fx :=
  if (blockWhy bs).isSome then (poisonedBlock, drawBlock live fx)
  else pack fmt live ((upto 48).map (blockValue bs)) fx

def execQretag (d a : BitVec 7) (b : BitVec 2) (s : State) : Result :=
  .next (guarded s none [.v 0 a 1 (groupThreads s.pre.width (act s)), .dv d] fun s =>
    consumeBlocks s a fun s => eachBlock s d fun g fx => retag b.toNat (liveElem (act s) g) (blockOf s a g) fx)

/-! ### Mask instructions (04 R127, R128) -/

/-- K[d] := K[a] op K[b] on the active threads; with none active nothing is consumed (04 R95). -/
def maskLogic (s : State) (d a b : BitVec 4) (f : Mask → Mask → Mask) : State :=
  let used := act s != 0
  guarded s none [.k 0 a used, .k 1 b used] fun s =>
    maskResult s d (f (s.pre.kget s.iss.entry a.toNat) (s.pre.kget s.iss.entry b.toNat))

def execKand (d a b : BitVec 4) (s : State) : Result := .next (maskLogic s d a b (· &&& ·))
def execKor (d a b : BitVec 4) (s : State) : Result := .next (maskLogic s d a b (· ||| ·))
def execKxor (d a b : BitVec 4) (s : State) : Result := .next (maskLogic s d a b (· ^^^ ·))
def execKandn (d a b : BitVec 4) (s : State) : Result := .next (maskLogic s d a b fun x y => x &&& ~~~y)

def execKpopc (d : BitVec 7) (a : BitVec 4) (s : State) : Result :=
  .next (guarded s none [.k 0 a (act s != 0), .ds d] fun s =>
    setS s d (.ofNat 32 (bitCount 64 (s.pre.kget s.iss.entry a.toNat &&& act s).toNat)))

def execKffs (d : BitVec 7) (a : BitVec 4) (s : State) : Result :=
  .next (guarded s none [.k 0 a (act s != 0), .ds d] fun s =>
    match (upto 64).find? fun t => (s.pre.kget s.iss.entry a.toNat &&& act s).getLsbD t with
    | some t => setS s d (.ofNat 32 t)
    | none => setS s d 0xFFFFFFFF)

/-- Reads the whole mask whatever act(F) is. -/
def execKtos (d : BitVec 7) (a : BitVec 4) (s : State) : Result :=
  .next (guarded s none [.k 0 a, .ds d] fun s =>
    let m := s.pre.kget s.iss.entry a.toNat
    { s with cur := (s.cur.sset d.toNat (m.setWidth 32)).sset (d.toNat + 1) ((m >>> 32).setWidth 32) })

/-- The pair of `kfrs`: each half is consumed when a thread of it is active (04 R128, 01 R33). -/
def maskSource (s : State) (a : BitVec 7) : Opd :=
  { Opd.s 0 a 2 with per := [if act s &&& 0xFFFFFFFF = 0 then 0 else 1, if act s >>> 32 = 0 then 0 else 1] }

def execKfrs (d : BitVec 4) (a : BitVec 7) (s : State) : Result :=
  .next (guarded s none [maskSource s a] fun s => maskResult s d (pairS s a))

end Sys2Proof.Machine
end

