-- ==== Sys2Proof/Machine/Dispatch.lean ====
section
/-! DEFINITION. One arm for each instruction: a direct call of its meaning. -/

namespace Sys2Proof.Machine

/-- What one instruction, or one step of a unit of the device, does. -/
def exec (i : Instr) (s : State) : Host.Outcome State Fault Refusal :=
  match i with
  | .trap i0 => Sys2Proof.Machine.execTrap i0 s
  | .rte i0 => Sys2Proof.Machine.execRte i0 s
  | .rdsr d n => Sys2Proof.Machine.execRdsr d n s
  | .wrsr a n => Sys2Proof.Machine.execWrsr a n s
  | .rdcnt d p => Sys2Proof.Machine.execRdcnt d p s
  | .sysc d a n => Sys2Proof.Machine.execSysc d a n s
  | .halt a => Sys2Proof.Machine.execHalt a s
  | .spawn d a e => Sys2Proof.Machine.execSpawn d a e s
  | .brkpt i0 => Sys2Proof.Machine.execBrkpt i0 s
  | .waitc l s0 p m => Sys2Proof.Machine.execWaitc l s0 p m s
  | .br k r o => Sys2Proof.Machine.execBr k r o s
  | .brk k r o => Sys2Proof.Machine.execBrk k r o s
  | .call r o => Sys2Proof.Machine.execCall r o s
  | .loop r o => Sys2Proof.Machine.execLoop r o s
  | .sadd d a b => Sys2Proof.Machine.execSadd d a b s
  | .ssub d a b => Sys2Proof.Machine.execSsub d a b s
  | .smul d a b => Sys2Proof.Machine.execSmul d a b s
  | .smulh d a b => Sys2Proof.Machine.execSmulh d a b s
  | .sand d a b => Sys2Proof.Machine.execSand d a b s
  | .sor d a b => Sys2Proof.Machine.execSor d a b s
  | .sxor d a b => Sys2Proof.Machine.execSxor d a b s
  | .sandn d a b => Sys2Proof.Machine.execSandn d a b s
  | .sshl d a b => Sys2Proof.Machine.execSshl d a b s
  | .sshr d a b => Sys2Proof.Machine.execSshr d a b s
  | .ssra d a b => Sys2Proof.Machine.execSsra d a b s
  | .srot d a b => Sys2Proof.Machine.execSrot d a b s
  | .sshli d a b => Sys2Proof.Machine.execSshli d a b s
  | .sshri d a b => Sys2Proof.Machine.execSshri d a b s
  | .ssrai d a b => Sys2Proof.Machine.execSsrai d a b s
  | .sroti d a b => Sys2Proof.Machine.execSroti d a b s
  | .smin d a b => Sys2Proof.Machine.execSmin d a b s
  | .smax d a b => Sys2Proof.Machine.execSmax d a b s
  | .sminn d a b => Sys2Proof.Machine.execSminn d a b s
  | .smaxn d a b => Sys2Proof.Machine.execSmaxn d a b s
  | .sseq d a b => Sys2Proof.Machine.execSseq d a b s
  | .sslt d a b => Sys2Proof.Machine.execSslt d a b s
  | .ssltn d a b => Sys2Proof.Machine.execSsltn d a b s
  | .ssne d a b => Sys2Proof.Machine.execSsne d a b s
  | .smov d a => Sys2Proof.Machine.execSmov d a s
  | .ssel d a b => Sys2Proof.Machine.execSsel d a b s
  | .sclz d a => Sys2Proof.Machine.execSclz d a s
  | .spopc d a => Sys2Proof.Machine.execSpopc d a s
  | .saddi d a i0 => Sys2Proof.Machine.execSaddi d a i0 s
  | .sli d i0 => Sys2Proof.Machine.execSli d i0 s
  | .slui d i0 => Sys2Proof.Machine.execSlui d i0 s
  | .jmp a => Sys2Proof.Machine.execJmp a s
  | .callr d a => Sys2Proof.Machine.execCallr d a s
  | .vadd w d a b => Sys2Proof.Machine.execVadd w d a b s
  | .vsub w d a b => Sys2Proof.Machine.execVsub w d a b s
  | .vmul w d a b => Sys2Proof.Machine.execVmul w d a b s
  | .vmulh w d a b => Sys2Proof.Machine.execVmulh w d a b s
  | .vmulhn w d a b => Sys2Proof.Machine.execVmulhn w d a b s
  | .vaddc w d a b => Sys2Proof.Machine.execVaddc w d a b s
  | .vsadd w d a b => Sys2Proof.Machine.execVsadd w d a b s
  | .vssub w d a b => Sys2Proof.Machine.execVssub w d a b s
  | .vand w d a b => Sys2Proof.Machine.execVand w d a b s
  | .vor w d a b => Sys2Proof.Machine.execVor w d a b s
  | .vxor w d a b => Sys2Proof.Machine.execVxor w d a b s
  | .vandn w d a b => Sys2Proof.Machine.execVandn w d a b s
  | .vshl w d a b => Sys2Proof.Machine.execVshl w d a b s
  | .vshr w d a b => Sys2Proof.Machine.execVshr w d a b s
  | .vsra w d a b => Sys2Proof.Machine.execVsra w d a b s
  | .vrot w d a b => Sys2Proof.Machine.execVrot w d a b s
  | .vshli w d a b => Sys2Proof.Machine.execVshli w d a b s
  | .vshri w d a b => Sys2Proof.Machine.execVshri w d a b s
  | .vsrai w d a b => Sys2Proof.Machine.execVsrai w d a b s
  | .vroti w d a b => Sys2Proof.Machine.execVroti w d a b s
  | .vmin w d a b => Sys2Proof.Machine.execVmin w d a b s
  | .vmax w d a b => Sys2Proof.Machine.execVmax w d a b s
  | .vminn w d a b => Sys2Proof.Machine.execVminn w d a b s
  | .vmaxn w d a b => Sys2Proof.Machine.execVmaxn w d a b s
  | .vclz w d a => Sys2Proof.Machine.execVclz w d a s
  | .vpopc w d a => Sys2Proof.Machine.execVpopc w d a s
  | .vbrev w d a => Sys2Proof.Machine.execVbrev w d a s
  | .vabs w d a => Sys2Proof.Machine.execVabs w d a s
  | .vbfe w d a b => Sys2Proof.Machine.execVbfe w d a b s
  | .vbfen w d a b => Sys2Proof.Machine.execVbfen w d a b s
  | .vbfi w d a b => Sys2Proof.Machine.execVbfi w d a b s
  | .vprmb w d a b => Sys2Proof.Machine.execVprmb w d a b s
  | .vmad w d a b => Sys2Proof.Machine.execVmad w d a b s
  | .vdot4 w d a b => Sys2Proof.Machine.execVdot4 w d a b s
  | .vdot4n w d a b => Sys2Proof.Machine.execVdot4n w d a b s
  | .vsad w d a b => Sys2Proof.Machine.execVsad w d a b s
  | .vaddi d a i0 => Sys2Proof.Machine.execVaddi d a i0 s
  | .vli d i0 => Sys2Proof.Machine.execVli d i0 s
  | .vceq d a b => Sys2Proof.Machine.execVceq d a b s
  | .vclt d a b => Sys2Proof.Machine.execVclt d a b s
  | .vcltn d a b => Sys2Proof.Machine.execVcltn d a b s
  | .vcne d a b => Sys2Proof.Machine.execVcne d a b s
  | .vsel k d a b => Sys2Proof.Machine.execVsel k d a b s
  | .vmov w d a => Sys2Proof.Machine.execVmov w d a s
  | .vmovs d a => Sys2Proof.Machine.execVmovs d a s
  | .vrdl d a b => Sys2Proof.Machine.execVrdl d a b s
  | .vwrl d a b => Sys2Proof.Machine.execVwrl d a b s
  | .fadd w d a b => Sys2Proof.Machine.execFadd w d a b s
  | .fsub w d a b => Sys2Proof.Machine.execFsub w d a b s
  | .fmul w d a b => Sys2Proof.Machine.execFmul w d a b s
  | .fmac w d a b => Sys2Proof.Machine.execFmac w d a b s
  | .fmin w d a b => Sys2Proof.Machine.execFmin w d a b s
  | .fmax w d a b => Sys2Proof.Machine.execFmax w d a b s
  | .fcpys w d a b => Sys2Proof.Machine.execFcpys w d a b s
  | .fscal w d a b => Sys2Proof.Machine.execFscal w d a b s
  | .fceq d a b => Sys2Proof.Machine.execFceq d a b s
  | .fclt d a b => Sys2Proof.Machine.execFclt d a b s
  | .fcle d a b => Sys2Proof.Machine.execFcle d a b s
  | .fcun d a b => Sys2Proof.Machine.execFcun d a b s
  | .frcp w d a => Sys2Proof.Machine.execFrcp w d a s
  | .frsq w d a => Sys2Proof.Machine.execFrsq w d a s
  | .fsqrt w d a => Sys2Proof.Machine.execFsqrt w d a s
  | .fexp2 w d a => Sys2Proof.Machine.execFexp2 w d a s
  | .flog2 w d a => Sys2Proof.Machine.execFlog2 w d a s
  | .fsin w d a => Sys2Proof.Machine.execFsin w d a s
  | .fcos w d a => Sys2Proof.Machine.execFcos w d a s
  | .ftanh w d a => Sys2Proof.Machine.execFtanh w d a s
  | .cvtf w d a b => Sys2Proof.Machine.execCvtf w d a b s
  | .cvti w d a b => Sys2Proof.Machine.execCvti w d a b s
  | .frnd w d a => Sys2Proof.Machine.execFrnd w d a s
  | .cvtn w d a b => Sys2Proof.Machine.execCvtn w d a b s
  | .qpack d a b => Sys2Proof.Machine.execQpack d a b s
  | .qunpk d a => Sys2Proof.Machine.execQunpk d a s
  | .qscal d a b => Sys2Proof.Machine.execQscal d a b s
  | .qretag d a b => Sys2Proof.Machine.execQretag d a b s
  | .kand d a b => Sys2Proof.Machine.execKand d a b s
  | .kor d a b => Sys2Proof.Machine.execKor d a b s
  | .kxor d a b => Sys2Proof.Machine.execKxor d a b s
  | .kandn d a b => Sys2Proof.Machine.execKandn d a b s
  | .kpopc d a => Sys2Proof.Machine.execKpopc d a s
  | .kffs d a => Sys2Proof.Machine.execKffs d a s
  | .ktos d a => Sys2Proof.Machine.execKtos d a s
  | .kfrs d a => Sys2Proof.Machine.execKfrs d a s
  | .shfli w d a b => Sys2Proof.Machine.execShfli w d a b s
  | .shflu w d a b => Sys2Proof.Machine.execShflu w d a b s
  | .shfld w d a b => Sys2Proof.Machine.execShfld w d a b s
  | .shflx w d a b => Sys2Proof.Machine.execShflx w d a b s
  | .redadd t d a => Sys2Proof.Machine.execRedadd t d a s
  | .redmin t d a => Sys2Proof.Machine.execRedmin t d a s
  | .redmax t d a => Sys2Proof.Machine.execRedmax t d a s
  | .redor d a => Sys2Proof.Machine.execRedor d a s
  | .scanadd t d a => Sys2Proof.Machine.execScanadd t d a s
  | .scanmin t d a => Sys2Proof.Machine.execScanmin t d a s
  | .scanmax t d a => Sys2Proof.Machine.execScanmax t d a s
  | .scanaddx t d a => Sys2Proof.Machine.execScanaddx t d a s
  | .mred k d a b => Sys2Proof.Machine.execMred k d a b s
  | .mredf k d a b => Sys2Proof.Machine.execMredf k d a b s
  | .mredm k d a b => Sys2Proof.Machine.execMredm k d a b s
  | .ld s0 w d a o => Sys2Proof.Machine.execLd s0 w d a o s
  | .st s0 w d a o => Sys2Proof.Machine.execSt s0 w d a o s
  | .ldsw s0 w d a o => Sys2Proof.Machine.execLdsw s0 w d a o s
  | .stsw s0 w d a o => Sys2Proof.Machine.execStsw s0 w d a o s
  | .ldu s0 w d a o => Sys2Proof.Machine.execLdu s0 w d a o s
  | .stu s0 w d a o => Sys2Proof.Machine.execStu s0 w d a o s
  | .atadd s0 d a b => Sys2Proof.Machine.execAtadd s0 d a b s
  | .atand s0 d a b => Sys2Proof.Machine.execAtand s0 d a b s
  | .ator s0 d a b => Sys2Proof.Machine.execAtor s0 d a b s
  | .atxor s0 d a b => Sys2Proof.Machine.execAtxor s0 d a b s
  | .atmin s0 d a b => Sys2Proof.Machine.execAtmin s0 d a b s
  | .atmax s0 d a b => Sys2Proof.Machine.execAtmax s0 d a b s
  | .atminn s0 d a b => Sys2Proof.Machine.execAtminn s0 d a b s
  | .atmaxn s0 d a b => Sys2Proof.Machine.execAtmaxn s0 d a b s
  | .atexch s0 d a b => Sys2Proof.Machine.execAtexch s0 d a b s
  | .atcas s0 d a b => Sys2Proof.Machine.execAtcas s0 d a b s
  | .atfadd s0 d a b => Sys2Proof.Machine.execAtfadd s0 d a b s
  | .atincw s0 d a b => Sys2Proof.Machine.execAtincw s0 d a b s
  | .fenceAcq s0 => Sys2Proof.Machine.execFenceAcq s0 s
  | .fenceRel s0 => Sys2Proof.Machine.execFenceRel s0 s
  | .fenceAr s0 => Sys2Proof.Machine.execFenceAr s0 s
  | .fenceSc s0 => Sys2Proof.Machine.execFenceSc s0 s
  | .lda d a s0 => Sys2Proof.Machine.execLda d a s0 s
  | .stl d a s0 => Sys2Proof.Machine.execStl d a s0 s
  | .barw a s0 => Sys2Proof.Machine.execBarw a s0 s
  | .bara d a s0 => Sys2Proof.Machine.execBara d a s0 s
  | .barq d a s0 => Sys2Proof.Machine.execBarq d a s0 s
  | .bari d a s0 => Sys2Proof.Machine.execBari d a s0 s
  | .waitp a p => Sys2Proof.Machine.execWaitp a p s
  | .waitw d a q s0 => Sys2Proof.Machine.execWaitw d a q s0 s
  | .pref a l => Sys2Proof.Machine.execPref a l s
  | .wbl a => Sys2Proof.Machine.execWbl a s
  | .invl a => Sys2Proof.Machine.execInvl a s
  | .scopeset d a n => Sys2Proof.Machine.execScopeset d a n s
  | .scoperd a n => Sys2Proof.Machine.execScoperd a n s
  | .cpy a => Sys2Proof.Machine.execCpy a s
  | .cpym d a => Sys2Proof.Machine.execCpym d a s
  | .msg d a => Sys2Proof.Machine.execMsg d a s
  | .mpost d a => Sys2Proof.Machine.execMpost d a s
  | .mprobe d a => Sys2Proof.Machine.execMprobe d a s
  | .emit d a => Sys2Proof.Machine.execEmit d a s
  | .klook d a => Sys2Proof.Machine.execKlook d a s
  | .knbr d a => Sys2Proof.Machine.execKnbr d a s
  | .kref d a => Sys2Proof.Machine.execKref d a s
  | .kmrg d a => Sys2Proof.Machine.execKmrg d a s
  | .kpin d a => Sys2Proof.Machine.execKpin d a s
  | .kunpin d a => Sys2Proof.Machine.execKunpin d a s
  | .kcost d a => Sys2Proof.Machine.execKcost d a s
  | .kbal d a => Sys2Proof.Machine.execKbal d a s
  | .kiter d a => Sys2Proof.Machine.execKiter d a s
  | .kcut d a n => Sys2Proof.Machine.execKcut d a n s
  | .kacre d a => Sys2Proof.Machine.execKacre d a s
  | .kenc d a b => Sys2Proof.Machine.execKenc d a b s
  | .kdec d a b => Sys2Proof.Machine.execKdec d a b s
  | .kpar d a b => Sys2Proof.Machine.execKpar d a b s
  | .kchd d a b => Sys2Proof.Machine.execKchd d a b s
  | .rld d a r s0 => Sys2Proof.Machine.execRld d a r s0 s
  | .rst d a r s0 => Sys2Proof.Machine.execRst d a r s0 s
  | .ratom d a r s0 => Sys2Proof.Machine.execRatom d a r s0 s
  | .xsend d a r s0 => Sys2Proof.Machine.execXsend d a r s0 s
  | .xpoll d a => Sys2Proof.Machine.execXpoll d a s
  | .rred d a r s0 => Sys2Proof.Machine.execRred d a r s0 s
  | .rfence s0 => Sys2Proof.Machine.execRfence s0 s
  | .rpath d a => Sys2Proof.Machine.execRpath d a s
  | .mma h k e t u s0 => Sys2Proof.Machine.execMma h k e t u s0 s
  | .mlda t a => Sys2Proof.Machine.execMlda t a s
  | .mzero t => Sys2Proof.Machine.execMzero t s
  | .mst t a => Sys2Proof.Machine.execMst t a s
  | .mest d i0 => Sys2Proof.Machine.execMest d i0 s
  | .twr d t p => Sys2Proof.Machine.execTwr d t p s
  | .trd d t p => Sys2Proof.Machine.execTrd d t p s
  | .pfx k r z f w n s0 x => Sys2Proof.Machine.execPfx k r z f w n s0 x s
  | .lim i0 => Sys2Proof.Machine.execLim i0 s
  | .drillLi a i0 => Sys2Proof.Machine.execDrillLi a i0 s
  | .drillLih a i0 => Sys2Proof.Machine.execDrillLih a i0 s
  | .drillLdw a b g o => Sys2Proof.Machine.execDrillLdw a b g o s
  | .drillLdd a b g o => Sys2Proof.Machine.execDrillLdd a b g o s
  | .drillStw a b g o => Sys2Proof.Machine.execDrillStw a b g o s
  | .drillStd a b g o => Sys2Proof.Machine.execDrillStd a b g o s
  | .drillAdd a b => Sys2Proof.Machine.execDrillAdd a b s
  | .drillSub a b => Sys2Proof.Machine.execDrillSub a b s
  | .drillAnd a b => Sys2Proof.Machine.execDrillAnd a b s
  | .drillOr a b => Sys2Proof.Machine.execDrillOr a b s
  | .drillXor a b => Sys2Proof.Machine.execDrillXor a b s
  | .drillShl a s0 => Sys2Proof.Machine.execDrillShl a s0 s
  | .drillShr a s0 => Sys2Proof.Machine.execDrillShr a s0 s
  | .drillAddi a i0 => Sys2Proof.Machine.execDrillAddi a i0 s
  | .drillBeq a b i0 => Sys2Proof.Machine.execDrillBeq a b i0 s
  | .drillBne a b i0 => Sys2Proof.Machine.execDrillBne a b i0 s
  | .drillBltu a b i0 => Sys2Proof.Machine.execDrillBltu a b i0 s
  | .drillLoop a l n => Sys2Proof.Machine.execDrillLoop a l n s
  | .drillLaunch a b => Sys2Proof.Machine.execDrillLaunch a b s
  | .drillNode a i0 => Sys2Proof.Machine.execDrillNode a i0 s
  | .drillSignal a b => Sys2Proof.Machine.execDrillSignal a b s
  | .drillWaitsig a b c => Sys2Proof.Machine.execDrillWaitsig a b c s
  | .drillIndirect a b => Sys2Proof.Machine.execDrillIndirect a b s
  | .nop => Sys2Proof.Machine.execNop s
  | .exit => Sys2Proof.Machine.execExit s
  | .yield => Sys2Proof.Machine.execYield s
  | .invlAll => Sys2Proof.Machine.execInvlAll s
  | .mrls => Sys2Proof.Machine.execMrls s
  | .illegalPattern cause slot word => Sys2Proof.Machine.execIllegalPattern cause slot word s
  | .plotAdmit plot => Sys2Proof.Machine.execPlotAdmit plot s
  | .furrowRelease furrow => Sys2Proof.Machine.execFurrowRelease furrow s
  | .loadComplete op => Sys2Proof.Machine.execLoadComplete op s
  | .storeComplete op => Sys2Proof.Machine.execStoreComplete op s
  | .atomicComplete op => Sys2Proof.Machine.execAtomicComplete op s
  | .l1Fill core line => Sys2Proof.Machine.execL1Fill core line s
  | .homeRead op line => Sys2Proof.Machine.execHomeRead op line s
  | .homeRenewal op line => Sys2Proof.Machine.execHomeRenewal op line s
  | .homeStore op line => Sys2Proof.Machine.execHomeStore op line s
  | .exclusiveGrant op line => Sys2Proof.Machine.execExclusiveGrant op line s
  | .recall line => Sys2Proof.Machine.execRecall line s
  | .stampRebase => Sys2Proof.Machine.execStampRebase s
  | .barrierArrival op => Sys2Proof.Machine.execBarrierArrival op s
  | .barrierWake furrow entry => Sys2Proof.Machine.execBarrierWake furrow entry s
  | .barrierReread furrow entry => Sys2Proof.Machine.execBarrierReread furrow entry s
  | .waitwWake furrow entry => Sys2Proof.Machine.execWaitwWake furrow entry s
  | .waitwPoll furrow entry => Sys2Proof.Machine.execWaitwPoll furrow entry s
  | .faultRecordWrite ctx => Sys2Proof.Machine.execFaultRecordWrite ctx s
  | .fresume ctx => Sys2Proof.Machine.execFresume ctx s
  | .svcrep ctx value => Sys2Proof.Machine.execSvcrep ctx value s
  | .tlbinv ctx value => Sys2Proof.Machine.execTlbinv ctx value s
  | .messageArrival op => Sys2Proof.Machine.execMessageArrival op s
  | .scopeInstall op => Sys2Proof.Machine.execScopeInstall op s
  | .l2SliceRetire die slice => Sys2Proof.Machine.execL2SliceRetire die slice s
  | .retireResend op => Sys2Proof.Machine.execRetireResend op s
  | .dpartWrite die value => Sys2Proof.Machine.execDpartWrite die value s
  | .copyCommandStart cluster => Sys2Proof.Machine.execCopyCommandStart cluster s
  | .copyCommandEnd cluster => Sys2Proof.Machine.execCopyCommandEnd cluster s
  | .matrixOpStart cluster => Sys2Proof.Machine.execMatrixOpStart cluster s
  | .matrixOpComplete op => Sys2Proof.Machine.execMatrixOpComplete op s
  | .budgetAddition cluster => Sys2Proof.Machine.execBudgetAddition cluster s
  | .powerMeasure milliwatts => Sys2Proof.Machine.execPowerMeasure milliwatts s
  | .thermalLimit die celsius => Sys2Proof.Machine.execThermalLimit die celsius s
  | .keyRequest op => Sys2Proof.Machine.execKeyRequest op s
  | .leafHandover ctx acre cluster key => Sys2Proof.Machine.execLeafHandover ctx acre cluster key s
  | .kbalDrain ctx acre => Sys2Proof.Machine.execKbalDrain ctx acre s
  | .qresRead queue => Sys2Proof.Machine.execQresRead queue s
  | .queueEnable queue cfg => Sys2Proof.Machine.execQueueEnable queue cfg s
  | .qctlPreempt queue => Sys2Proof.Machine.execQctlPreempt queue s
  | .qctlResume queue => Sys2Proof.Machine.execQctlResume queue s
  | .qctlDestroy queue => Sys2Proof.Machine.execQctlDestroy queue s
  | .drillPacketStart queue => Sys2Proof.Machine.execDrillPacketStart queue s
  | .drillRet => Sys2Proof.Machine.execDrillRet s
  | .drillFence => Sys2Proof.Machine.execDrillFence s
  | .drillNext => Sys2Proof.Machine.execDrillNext s
  | .plotPlace launch => Sys2Proof.Machine.execPlotPlace launch s
  | .launchSignal launch => Sys2Proof.Machine.execLaunchSignal launch s
  | .plotSave plot => Sys2Proof.Machine.execPlotSave plot s
  | .streamSave furrow => Sys2Proof.Machine.execStreamSave furrow s
  | .sheafRecordOffer op => Sys2Proof.Machine.execSheafRecordOffer op s
  | .sheafTimerExpire launch node => Sys2Proof.Machine.execSheafTimerExpire launch node s
  | .coldReset fail signed components => Sys2Proof.Machine.execColdReset fail signed components s
  | .warmReset zeroGddr => Sys2Proof.Machine.execWarmReset zeroGddr s
  | .functionLevelReset => Sys2Proof.Machine.execFunctionLevelReset s
  | .spdmGetMeasurements signed => Sys2Proof.Machine.execSpdmGetMeasurements signed s
  | .devnoWrite value => Sys2Proof.Machine.execDevnoWrite value s
  | .rasCounterClear unit => Sys2Proof.Machine.execRasCounterClear unit s
  | .bridgeHalfFailure bridge => Sys2Proof.Machine.execBridgeHalfFailure bridge s
  | .bridgeFailure bridge => Sys2Proof.Machine.execBridgeFailure bridge s
  | .registerWrite offset value => Sys2Proof.Machine.execRegisterWrite offset value s
  | .flitReceive port usable bytes => Sys2Proof.Machine.execFlitReceive port usable bytes s
  | .replayTimeout group peer => Sys2Proof.Machine.execReplayTimeout group peer s
  | .lossOfLight port positions laser => Sys2Proof.Machine.execLossOfLight port positions laser s
  | .darkPositionDetect port positions => Sys2Proof.Machine.execDarkPositionDetect port positions s
  | .headlandTimeout port => Sys2Proof.Machine.execHeadlandTimeout port s
  | .wavelengthRetrain port position => Sys2Proof.Machine.execWavelengthRetrain port position s
  | .wavelengthRejoin port position ok => Sys2Proof.Machine.execWavelengthRejoin port position ok s
  | .beaconReceive port source seed => Sys2Proof.Machine.execBeaconReceive port source seed s
  | .lightReturn group => Sys2Proof.Machine.execLightReturn group s
  | .slotClose group => Sys2Proof.Machine.execSlotClose group s
  | .remoteRequest source agent tag ordered body => Sys2Proof.Machine.execRemoteRequest source agent tag ordered body s
  | .remoteReply about fail values marks => Sys2Proof.Machine.execRemoteReply about fail values marks s
  | .remoteTimeout op => Sys2Proof.Machine.execRemoteTimeout op s
  | .reductionCombine ctx id member mode opcode values => Sys2Proof.Machine.execReductionCombine ctx id member mode opcode values s
  | .bulkRequest source ctx tag dest flag length unit attributes seed => Sys2Proof.Machine.execBulkRequest source ctx tag dest flag length unit attributes seed s
  | .grantIssue unit => Sys2Proof.Machine.execGrantIssue unit s
  | .grantReceive peer ctx tag offset size => Sys2Proof.Machine.execGrantReceive peer ctx tag offset size s
  | .bulkDataReceive link ctx tag offset bytes => Sys2Proof.Machine.execBulkDataReceive link ctx tag offset bytes s
  | .grantExpiry source ctx tag index => Sys2Proof.Machine.execGrantExpiry source ctx tag index s
  | .senderSilenceTimeout ctx tag => Sys2Proof.Machine.execSenderSilenceTimeout ctx tag s
  | .doneReceive peer ctx tag => Sys2Proof.Machine.execDoneReceive peer ctx tag s
  | .abortReceive peer ctx tag => Sys2Proof.Machine.execAbortReceive peer ctx tag s
  | .deferResend ctx tag => Sys2Proof.Machine.execDeferResend ctx tag s
  | .xctlPause ctx => Sys2Proof.Machine.execXctlPause ctx s
  | .xctlResume ctx => Sys2Proof.Machine.execXctlResume ctx s
  | .pauseNotice peer ctx tag paused => Sys2Proof.Machine.execPauseNotice peer ctx tag paused s
  | .pageWalkComplete furrow va access => Sys2Proof.Machine.execPageWalkComplete furrow va access s
  | .tileTransferComplete op => Sys2Proof.Machine.execTileTransferComplete op s
  | .queueFaultRingSpace queue => Sys2Proof.Machine.execQueueFaultRingSpace queue s
  | .cxlMemRequest kind address bytes => Sys2Proof.Machine.execCxlMemRequest kind address bytes s
  | .powerLoss => Sys2Proof.Machine.execPowerLoss s

end Sys2Proof.Machine
end

