-- ==== Sys2Proof/Machine/Early.lean ====
section
/-! DEFINITION. Elements of a pending destination that receive their result before the operation completes (06 R171): a group that
reads the registers before a covering wait may find any of them old and any of them new, and what overwrites an element may stay. The words of
a `twr` reach its tile one by one likewise (08 R230). -/

namespace Sys2Proof.Machine

/-- The first register of an operation's results, how many there are, and whether they are vector registers. -/
def resultRegs (o : Op) : Nat × Nat × Bool :=
  match o.instr with
  | .ld _ w d _ _ => (d.toNat, 2 ^ w.toNat, true)
  | .ldsw _ _ d _ _ => (d.toNat, 1, true)
  | .lda d _ _ => (d.toNat, 1, true)
  | .ldu _ w d _ _ => (d.toNat, 2 ^ w.toNat, false)
  | .klook d _ | .knbr d _ | .kpin d _ => (d.toNat, 8, true)
  | .kunpin d _ | .kcost d _ => (d.toNat, 2, true)
  | .kiter d _ | .kcut d _ _ => (d.toNat, 8, false)
  | .trd d _ _ => (d.toNat, 8, true)
  | .rld d _ _ _ | .ratom d _ _ _ => (d.toNat, 1, true)
  | i => if o.kind = .atomic then (atomicDest i, 1, true) else (0, 0, true)

/-- Whether the value of a thread has come; a scalar form's is that of thread 0. -/
def threadHere (o : Op) (t : Nat) : Bool :=
  match o.kind, o.instr with
  | .load, .ld sp _ _ _ _ => (o.accOf (sp == 5 && o.accs.length == 1) t).any (·.done)
  | .load, .ldsw sp _ _ _ _ => (o.accOf (sp == 5) t).any (·.done)
  | .load, .ldu _ _ _ _ _ => (o.accOf true t).any (·.done)
  | .load, _ => (o.accOf false t).any (·.done)
  | .atomic, _ => (o.accOf false t).any (·.done)
  | .key, _ => (tfind o.results (8 * t)).isSome
  | .remote, _ => tget o.results (8 * t) 0 != 0
  | .tile, _ => true
  | _, _ => false

/-- The furrow as it would stand with all results delivered that have come. -/
def preview (s : State) (o : Op) : Furrow :=
  let f := s.furrow o.furrow
  let p := { o with act := o.act &&& maskOf (threads 64 o.act) (threadHere o), early := [] }
  match o.kind with
  | .load => loadDeliver f p
  | .atomic => deliver f p false (atomicDest o.instr) 1 loadValue
  | .key => keyDeliver f p
  | .remote => remoteDeliver f p
  | .tile => (moveTile s p).furrow o.furrow
  | _ => f

/-- The elements that may receive their result now. -/
def earlyKeys (s : State) (o : Op) : List Nat :=
  let (d, n, vec) := resultRegs o
  let f := s.furrow o.furrow
  let tile : List Nat := match o.instr with
    | .twr _ _ _ => twrWords f.width o
    | _ => []
  let ts := (threads f.width o.act).filter (threadHere o) ++ (threads f.width o.zero)
  let rs := ((upto n).map (d + ·)).filter fun r => r != 0 && decide (r < 128)
  let ks := if vec then (ts.map fun t => rs.map fun r => 64 * r + t).flatten
    else if threadHere o 0 then rs.map (8192 + ·) else []
  if o.done ∨ o.parked ∨ o.refused ∨ (tfind s.furrows o.furrow).isNone then [] else tile ++ ks.filter fun k => !o.early.contains k

/-- One such element receives it, by a free choice. -/
def deliverEarly (s : State) (o : Op) : State :=
  match earlyKeys s o with
  | [] => s
  | ks =>
    let (x, s) := s.draw
    let k := nth ks (x % ks.length) 0
    let s := match o.instr with
      | .twr _ _ _ => s.modFurrow (o.args.headD 0).toNat fun f => twrWord (s.furrow o.furrow).width o f k
      | _ => s.modFurrow o.furrow fun f => copyElem k (preview s o) f
    s.modOp o.id fun o => { o with early := k :: o.early }

end Sys2Proof.Machine
end

