-- ==== Sys2Proof/Machine/Issue.lean ====
section
/-! DEFINITION. The issue of one group of a furrow or stream: the choice of its entry, the fetch, the members in slot order, and what the
group leaves (02 R40 to R46; 05 R138 to R149, R428; 11 R279). -/

namespace Sys2Proof.Machine

/-- How an instruction is run: `exec`, which is defined after this file. -/
abbrev Exec := Instr → State → Result

/-! ### Fetch -/

inductive Fetched where
  | words (ws : List Word) (s : State)
  | fail (cause : BitVec 6)
  | miss (va : Nat)

/-- The words of the group that begins at an address of the code (02 R38, R40), each fetched with execute permission (11 R277): the words of the
packet behind the group are not looked at (02 R45). -/
def fetchWords (s : State) (f : Furrow) (va : Nat) : Nat → List Word → Fetched
  | 0, ws => .words ws s
  | n + 1, ws =>
    let p := resolve s (agentOf s f) (tlbOf s (agentOf s f)) 0 va 4 .exec
    match p with
    | .loc k _ _ _ _ =>
      let w := read32 (recallLine s (lineOf k)).mem k
      let s := detect (usePlace s (agentOf s f) .exec p) k 4
      if chain w then fetchWords s f (va + 4) n (ws ++ [w]) else .words (ws ++ [w]) s
    | .miss => .miss va
    | .fail c => .fail c
    | _ => .fail 0x06

/-- The words of a packet up to the end of the group at a slot; those before it count for nothing. -/
def fetchGroup (s : State) (f : Furrow) (pkt : Word) (slot : Nat) : Fetched :=
  fetchWords s f (f.code.toNat + 12 * pkt.toNat + 4 * slot) (3 - slot) (List.replicate slot 0)

/-! ### What a group leaves -/

/-- A translation is missing: the entry waits for the walk (11 R278). -/
def suspend (s : State) (fk id : Nat) (pkt : Word) (thr : Nat) (va : Dword) (acc : BitVec 3) : State :=
  s.setFurrow fk (noteWait ((s.furrow fk).modEntry id fun e => { e with waits := e.waits ++ [.walk va acc thr pkt] }))

/-- The halt of a plot, or from a stream of its croft (05 R130, R134). -/
def haltUnit (s : State) (code : Word) : State :=
  let f := s.cur
  let s := reportRecord s f 2 none none none (some code.toNat)
  let stop (s : State) (p : Nat) : State := (stopPlot s p).modPlot p fun p => { p with halted := true }
  if f.stream then
    let s := (s.croft f.croft).plots.foldl stop s
    let s := { s with cur := { s.cur with stopped := true } }
    s.modLaunch (s.croft f.croft).launch fun l => { l with halted := true }
  else (stop s f.plot).modLaunch (s.plot f.plot).launch fun l => { l with halted := true }

/-- The word after a slot. -/
def afterSlot (pkt : Word) (slot : Nat) : Word × Nat := if slot = 2 then (pkt + 1, 0) else (pkt, slot + 1)

/-- The issuing entry goes where the group sends it (02 R45; 05 R140, R141). -/
def applyCtl (s : State) : State :=
  let i := s.iss
  match i.ctl with
  | .fall => { s with cur := continueAt s.cur i.entry (afterSlot i.pkt i.lastSlot).1 (afterSlot i.pkt i.lastSlot).2 }
  | .nextPacket => { s with cur := continueAt s.cur i.entry (i.pkt + 1) 0 }
  | .goto p sl => { s with cur := continueAt s.cur i.entry p sl }
  | .split taken tgt => { s with cur := split s.cur i.entry taken tgt (i.pkt + 1) }
  | .exit => { s with cur := exitEntry s.cur i.entry }
  | .halt code => haltUnit { s with cur := continueAt s.cur i.entry (i.pkt + 1) 0 } code

/-- The entry has issued (05 R143). -/
def noteIssue (f : Furrow) (id : Nat) : Furrow :=
  let n := f.entries.foldl (fun n e => max n e.issued) 0
  { f.modEntry id fun e => { e with issued := n + 1 } with last := id, keeps := true }

/-- The working furrow back into the table. -/
def storeFurrow (s : State) : State := (settle (keepFurrow s s.iss.furrow s.cur) s.iss.furrow).modFurrow s.iss.furrow noteWait

/-- The group that was issued last has its waits noted in its entry. -/
def parkGroup (s : State) : State :=
  { s with cur := s.cur.modEntry s.iss.entry fun e => { e with waits := e.waits ++ s.iss.park } }

/-- Whether the words of a group are `nop` words alone, and its last slot (02 R46). -/
def nopGroup (mcc : Bool) (words : List Word) (slot : Nat) : Option Nat :=
  let g := decodeGroup mcc words slot
  match g.2 with
  | .ok ms => if ms.all fun m => m.instr == .nop then some g.1 else none
  | .error _ => none

/-- The groups of `nop` words behind a group take no turn: an entry with nothing to wait for passes them, up to the packet's end
(02 R46, 05 R141). -/
def passPads : Nat → State → State
  | 0, s => s
  | n + 1, s =>
    let id := s.iss.entry
    let e := s.cur.entry id
    if !s.cur.hasEntry id || s.cur.stopped || !e.live || e.slot == 0 || !e.waits.isEmpty then s
    else
      match fetchGroup s s.cur e.pc e.slot with
      | .words ws t =>
        match nopGroup s.cur.stream ws e.slot with
        | some last => passPads n { t with cur := continueAt t.cur id (afterSlot e.pc last).1 (afterSlot e.pc last).2 }
        | none => s
      | _ => s

/-- The sticky flags and the generator, when the members above an operation change them (01 R28, 03 R75). -/
def changedFx (a b : Furrow) : List Span :=
  (if a.status = b.status then [] else [{ file := 4, base := 0 }]) ++ (if a.rng = b.rng then [] else [spanX 28])

/-- The effect of the members above an operation waits with it (02 R44), and what they write is interlocked (R47). -/
def noteAbove (s : State) : State :=
  match s.iss.under with
  | some f =>
    { s with
      ops := s.ops.map fun o =>
        if s.iss.park.any (Wait.names o.id) then { o with above := some (f, s.cur), locks := s.iss.locks ++ changedFx f s.cur } else o,
      cur := s.cur.registersOf f }
  | none => s

/-- The end of a group that was tried from state `s0`. -/
def finishGroup (s0 s : State) : State :=
  let i := s.iss
  match i.stall with
  | .wait => { s0 with tick := s.tick, iss := i }
  | .hold => { s0 with tick := s.tick, iss := i }
  | .miss thr va acc => suspend { s0 with tick := s.tick, iss := i } i.furrow i.entry i.pkt thr va acc
  | .none =>
    let s := orRaised { s with cur := noteIssue s.cur i.entry, held := terase s.held (heldKey i.furrow i.entry) }
    if i.trapped then
      storeFurrow (parkGroup (match i.ctl with
        | .halt code => haltUnit s code
        | _ => s))
    else
      match i.rest with
      | [] => storeFurrow (passPads 2 (applyCtl (parkGroup (noteAbove s))))
      | m :: _ =>
        let s := noteAbove { s with held := tput s.held (heldKey i.furrow i.entry) { pre := s.pre, iss := { i with raised := 0, under := none, locks := [] } } }
        storeFurrow (parkGroup { s with cur := s.cur.modEntry i.entry fun e => { e with slot := m.slot } })

/-! ### The members of a group -/

/-- One member with its attached word. -/
def runMember (ex : Exec) (m : Member) (s : State) : Result :=
  let s := { s with iss := { s.iss with slot := m.slot, word := m.word, pfx := none, lim := none } }
  let attach (a : Option Instr) (r : Result) : Result :=
    match a, r with
    | some i, .next s => ex i s
    | _, r => r
  match attach m.lim (attach m.pfx (.next s)) with
  | .next s => ex m.instr s
  | r => r

/-- Members that wait until the operation below them has completed. -/
def delay (s : State) (ms : List Member) : State := { s with iss := { s.iss with rest := s.iss.rest ++ ms } }

/-- A member whose effect reaches beyond the registers of its furrow, or that moves the entry, waits for an operation below it that may still trap
(log entry 65). -/
def staysBehind (m : Member) (s : State) : Bool :=
  match m.instr, s.iss.ctl with
  | .twr _ _ _, _ | .trd _ _ _, _ | .sysc _ _ _, _ | .spawn _ _ _, _ | .rte _, _ | .waitc _ _ _ _, _ | .waitp _ _, _ => true
  | _, .fall => false
  | _, _ => true

/-- What a member that has run writes: `vrdl` with no active thread writes nothing (04 R110). -/
def locksNow (m : Member) (s : State) : List Span :=
  match m.instr with
  | .vrdl _ _ _ => if act s = 0 then [] else locksOf m
  | _ => locksOf m

/-- Of two members that write one register the higher one's value remains (02 R43): the reply of a `sysc` below the member, which the entry waited for
before the member ran, goes nowhere. -/
def coverReply (m : Member) (before s : State) : State :=
  if before.iss.park.any isService then
    { s with iss := { s.iss with park := before.iss.park.map (Wait.covered (locksNow m s)) ++ s.iss.park.drop before.iss.park.length } }
  else s

/-- The members above an operation that may still trap (02 R42, R44): they run at once, from the state before the group, and their effect waits for
the operation (`noteAbove`); one that would trap or whose effect must wait, and those above it, run when it has completed. -/
def runAbove (ex : Exec) : List Member → State → Result
  | [], s => .next s
  | m :: ms, s =>
    match runMember ex m s with
    | .next t =>
      if t.iss.stall != .none then .next t
      else if t.iss.trapped || staysBehind m t then .next (delay s (m :: ms))
      else runAbove ex ms { t with iss := { t.iss with locks := t.iss.locks ++ locksNow m t } }
    | r => r

/-- The members of a group in slot order (02 R43, R44). -/
def runMembers (ex : Exec) : List Member → State → Result
  | [], s => .next s
  | m :: ms, s =>
    match runMember ex m s with
    | .next t =>
      if t.iss.trapped || t.iss.stall != .none then .next t
      else
        let s := coverReply m s t
        if s.iss.hold then runAbove ex ms (if ms = [] then s else { s with iss := { s.iss with under := some (orRaised s).cur } })
        else runMembers ex ms s
    | r => r

/-- A state that carries on where a result is the next state. -/
def andThen (r : Result) (k : State → State) : Result :=
  match r with
  | .next s => .next (k s)
  | r => r

/-- A trap raised before any member of the entry's next group, which takes no effect (05 R139, R428). -/
def trapBefore (s : State) (fk id : Nat) (f : Furrow) (slot : Nat) (cause : BitVec 6) (info : Word) : State :=
  let e := f.entry id
  let s := { s with cur := f, iss := { furrow := fk, entry := id } }
  storeFurrow (takeTrapAt s id e.pc slot cause info)

/-- The stale report that is raised next: that of the lowest scope entry (11 R271). -/
def nextReport (f : Furrow) : Option Stale := (upto 8).findSome? fun i => f.stale.find? fun r => r.idx == i

/-- The furrow without a report. -/
def dropReport (f : Furrow) (r : Stale) : Furrow := { f with stale := f.stale.filter fun x => x.idx != r.idx }

def reportInfo (r : Stale) : Word := staleInfo r.pkt r.kind r.gnew r.gold r.idx

/-- A late trap or a stale report that waits for the furrow's next group, and the furrow without it (05 R428, 11 R271). The spec orders the
reports among themselves; that a late trap comes before a report is this model's choice (log entry 65). -/
def lateTrap (f : Furrow) : Option (BitVec 6 × Word × Furrow) :=
  if f.rt then none
  else
    match f.late, nextReport f with
    | t :: ts, _ => some (t.cause, t.info, { f with late := ts })
    | [], some r => some (0x08, reportInfo r, dropReport f r)
    | [], none => none

/-- The next report when its entry still waits at its operation: the report, the slot and the entry (11 R271). -/
def placedReport (f : Furrow) : Option (Stale × Nat × Nat) :=
  if f.rt ∨ f.late ≠ [] ∨ f.stopped then none
  else
    match nextReport f with
    | some r =>
      match r.place, f.entries.find? fun e => e.waits.contains (.report r.idx) with
      | some slot, some e => some (r, slot, e.id)
      | _, _ => none
    | none => none

/-- It traps there. -/
def raiseReport (s : State) (fk : Nat) (r : Stale) (slot id : Nat) : State :=
  let f := (dropReport (s.furrow fk) r).modEntry id fun e => { e with waits := e.waits.filter (· != .report r.idx) }
  let s := { s with cur := f, iss := { furrow := fk, entry := id } }
  storeFurrow (takeTrapAt s id r.pkt slot 0x08 (reportInfo r))

/-- The interlocked registers of a furrow (02 R47), which its other entries' groups wait for: those of members whose effect waits for an
operation, those of members that have not run yet, and the reply register of a `sysc`. -/
def interlocked (s : State) (fk id : Nat) (f : Furrow) : List Span :=
  ((s.ops.filter fun o => o.furrow == fk).map (·.locks)).flatten
    ++ ((s.held.filter fun h => h.1 / 128 == fk && h.1 != heldKey fk id).map fun h => (h.2.iss.rest.map locksOf).flatten).flatten
    ++ (f.entries.map fun e => e.waits.filterMap fun w => match w with
        | .service r => some (spanS r)
        | _ => none).flatten

/-- A member of a group waits on an interlock (02 R47, 06 R157). -/
def interlocks (locked : List Span) (ms : List Member) : Bool := ms.any fun m => (touches m).any fun a => locked.any a.meets

/-- The group of an entry that was fetched: run, or trapped as an illegal pattern (02 R64). `f` is the furrow after the choice. -/
def runGroup (ex : Exec) (s : State) (fk id : Nat) (f : Furrow) (words : List Word) : Result :=
  let e := f.entry id
  let g := decodeGroup f.stream words e.slot
  let s1 := { s with pre := f, cur := f, iss := { furrow := fk, entry := id, pkt := e.pc, slot := e.slot, lastSlot := g.1 } }
  match g.2 with
  | .error x => andThen (execIllegalPattern x.cause (.ofNat 2 x.slot) x.word s1) (finishGroup s)
  | .ok ms =>
    if interlocks (interlocked s fk id f) ms then .next (finishGroup s (stallWait s1))
    else andThen (runMembers ex ms s1) (finishGroup s)

/-! ### Turns -/

/-- What stands at an entry's place in the code. -/
inductive Ahead where
  /-- a group to issue -/
  | group (f : Furrow) (ws : List Word) (s : State)
  /-- nothing but groups of `nop` words up to the packet's end, which the entry has passed -/
  | boundary (f : Furrow) (s : State)
  /-- a trap, or the wait for a translation -/
  | stop (s : State)

/-- The entry's next group, behind groups of `nop` words, which take no turn (02 R46). -/
def ahead (fk id : Nat) : Nat → State → Furrow → Ahead
  | 0, s, f => .boundary f s
  | n + 1, s, f =>
    let e := f.entry id
    if !insideCode f e.pc.toNat then .stop (trapBefore s fk id f 0 0x06 e.pc)
    else
      match fetchGroup s f e.pc e.slot with
      | .miss va => .stop (suspend (keepFurrow s fk f) fk id e.pc 0 (.ofNat 64 va) 3)
      | .fail c => .stop (trapBefore { s with tick := s.tick + 1 } fk id f e.slot c (Config.fetchInfo s.tick))
      | .words ws s =>
        match nopGroup f.stream ws e.slot with
        | none => .group f ws s
        | some last =>
          let f := continueAt f id (afterSlot e.pc last).1 (afterSlot e.pc last).2
          if last = 2 then .boundary f s else ahead fk id n s f

/-- The group of the entry whose turn it is; a late trap takes its place (05 R428). -/
def issueGroup (ex : Exec) (s : State) (fk id : Nat) (f : Furrow) (words : List Word) : Result :=
  match lateTrap f with
  | some (cause, info, f) => .next (trapBefore s fk id f (f.entry id).slot cause info)
  | none => runGroup ex (keepFurrow s fk f) fk id f words

/-- A held group goes on with the members behind the operation it waited for. -/
def resumeGroup (ex : Exec) (s : State) (fk id : Nat) (f : Furrow) (h : Held) : Result :=
  let i := { h.iss with hold := false, park := [], stall := .none, rest := [], entry := id, furrow := fk }
  andThen (runMembers ex h.iss.rest { s with pre := h.pre, cur := f, iss := i }) (finishGroup s)

/-- A furrow whose live entries have been passed over as often as those of another. -/
def sameLag (f g : Furrow) : Furrow :=
  { g with entries := g.entries.map fun e => if e.live && (f.entry e.id).live && f.hasEntry e.id then { e with lag := (f.entry e.id).lag } else e }

/-- The turn of a furrow or stream (05 R141, R143). An entry that comes to a packet's end by `nop` words has taken no turn, and the choice is
made again; an entry whose group waits for a counter, a queue or an answer leaves the turn to the others (01 R24; log entry 65). -/
def issueTurns (ex : Exec) (fk : Nat) : Nat → List Nat → State → Furrow → Result
  | 0, _, s, f => .next (keepFurrow s fk f)
  | n + 1, skip, s, f =>
    match chooseEntry f skip with
    | (g, none) => .next (keepFurrow s fk g)
    | (g, some id) =>
      let g := makeResident g id
      let again (r : Result) : Result :=
        match r with
        | .next t => if t.iss.stall = .wait then issueTurns ex fk n (id :: skip) { s with tick := t.tick, iss := t.iss } f else .next t
        | r => r
      match tfind s.held (heldKey fk id) with
      | some h => again (resumeGroup ex s fk id g h)
      | none =>
        match ahead fk id 3 s g with
        | .stop t => .next t
        | .boundary g t => issueTurns ex fk n skip t (sameLag f g)
        | .group g ws t => again (issueGroup ex t fk id g ws)

/-- The turn of a furrow, or the trap of a report at its operation. -/
def issueFurrow (ex : Exec) (fk : Nat) (s : State) : Result :=
  match placedReport (s.furrow fk) with
  | some (r, slot, id) => .next (raiseReport s fk r slot id)
  | none => issueTurns ex fk 64 [] s (s.furrow fk)

/-- A furrow that has a group to try (06 R157), or a report to raise. -/
def canIssue (f : Furrow) : Bool := f.valid && !f.stopped && (f.entries.any (entryReady f) || (placedReport f).isSome)

end Sys2Proof.Machine
end

