-- ==== Sys2Proof/Machine/Upset.lean ====
section
/-! DEFINITION. Hardware errors (log entry 64): what an error in a register, a memory word, a cache line, a tile, an engine or the issue
state of a furrow does (01 R32, R36; 06 R187, R188; 08 R206, R231; 09 R242, R250; 11 R255, R281; 17 R366, R381). -/

namespace Sys2Proof.Machine

/-- A plot, or a stream, stops by an error that no instruction made, and the fault is reported (01 R36, 06 R188). -/
def faultUnit (s : State) (f : Furrow) : State :=
  let s := reportRecord s f 1 none none none none
  let s := if f.stream then s.modFurrow (streamKey f.cluster f.slot) fun f => { f with stopped := true }
    else (stopPlot s f.plot).modPlot f.plot fun p => { p with faulted := true }
  s.modLaunch (if f.stream then (s.croft f.croft).launch else (s.plot f.plot).launch) fun l => { l with faulted := true }

/-- A plot that has not ended stops, once (08 R231, 09 R250); one that is placed or saved runs no further when it is admitted. -/
def faultPlot (s : State) (p : Nat) : State :=
  let x := s.plot p
  if (tfind s.plots p).isNone || x.phase == .ended || x.faulted || x.halted then s
  else
    match x.furrows.head? with
    | some k => faultUnit s (s.furrow k)
    | none =>
      let l := s.launch x.launch
      let s := queueNote s l.queue 1 false none none (some x.core) (some x.cluster) (some l.ticket) (some (.ofNat 32 x.index)) none none none
      (s.modPlot p fun x => { x with faulted := true }).modLaunch x.launch fun l => { l with faulted := true }

/-- An element's mark after an uncorrectable error: a poisoned one stays poisoned (01 R32). -/
def spoiled (t : NMap Mark) (k : Nat) : NMap Mark := if tget t k .clean = .clean then tset t k .clean .uncorrectable else t

/-- A register element, or a whole mask register, that is spoiled; s0 and k0 are wired and hold none (01 R14, R17, R36). -/
def spoilElement (f : Furrow) (file reg thread : Nat) : Furrow :=
  if file = 0 then (if reg < f.vcount ∧ thread < f.width ∧ reg ≠ 0 then { f with vMark := spoiled f.vMark (64 * reg + thread) } else f)
  else if file = 1 then (if reg < f.scount ∧ reg ≠ 0 then { f with sMark := spoiled f.sMark reg } else f)
  else if file = 2 then (if reg < 16 ∧ reg ≠ 0 then { f with kMark := spoiled f.kMark reg } else f)
  else f

/-- A line of an L1 that fails (06 R187), counted by its core (17 R381): a shared one is dropped; an exclusive one leaves its words poisoned at the
home, an event for which the core's error log has no form (01 R37). -/
def failLine (s : State) (core line : Nat) : State :=
  match (s.core core).l1.find? fun x => x.line == line with
  | none => s
  | some x =>
    let s := rasCount s (rasCore core)
    if !x.exclusive then s.modCore core fun y => { y with l1 := y.l1.filter fun z => z.line != line }
    else
      let s := recallLine s line
      { s with memMark := (upto 16).foldl (fun m i => tset m (16 * line + i) .clean .poisoned) s.memMark }

/-- The plots with a command in a cluster's copy engine or its queues (09 R250). -/
def copyingPlots (s : State) (cluster : Nat) : List Nat :=
  (((s.cluster cluster).run.toList.map fun r => r.cmd.plot)
    ++ ((upto 4).map fun i => (s.core (4 * cluster + i)).copyq.map fun c => c.plot).flatten).dedup

/-- One hardware error. -/
def upset (s : State) : Upset → State
  | .corrected unit => rasCount s unit
  | .slice die slice =>
    if 4 ≤ die ∨ 64 ≤ slice ∨ (s.die die).retired.contains slice then s
    else
      let s := s.modDie die fun d => { d with sliceErrors := tput d.sliceErrors slice (tget d.sliceErrors slice 0 + 1) }
      let s := rasCount s (rasDie die)
      let n := tget (s.die die).sliceErrors slice 0
      let limit := (s.die die).sliceThreshold.toNat
      -- the ninth slice of a die reports its crossing once
      if n = limit + 1 ∨ limit < n ∧ (s.die die).retired.length < 8 then retireSlice s die slice else s
  | .element k file reg thread =>
    if (tfind s.furrows k).isSome then s.modFurrow k fun f => spoilElement f file reg thread else s
  | .issueState k =>
    let f := s.furrow k
    if (tfind s.furrows k).isSome then
      let s := rasCount s (if f.stream then rasCluster f.cluster else rasCore f.gcore)
      if f.stopped then s else faultUnit s f
    else s
  | .word w =>
    if hostBase ≤ 4 * w ∧ 4 * w < 2 ^ 53 then s else { s with memMark := spoiled s.memMark w }
  | .cachedWord w =>
    if 4 * w < devLimit ∨ (hostBase ≤ 4 * w ∧ 4 * w < 2 ^ 52) then
      rasCount { s with memMark := tset s.memMark w .clean .poisoned } (rasDie (homeDie (4 * w)))
    else s
  | .cacheLine core line => failLine s core line
  | .tileWord k w =>
    if (tfind s.furrows k).isSome then (rasCount s (rasCluster (s.furrow k).cluster)).modFurrow k fun f => { f with tileMark := tset f.tileMark w .clean .poisoned } else s
  | .matrixState k =>
    let f := s.furrow k
    if (tfind s.furrows k).isSome && f.stream then
      let s := (s.croft f.croft).plots.foldl faultPlot (rasCount s (rasCluster f.cluster))
      if f.stopped then s else faultUnit s f
    else s
  | .copyEntry core i =>
    if i < (s.core core).copyq.length then
    (rasCount s (rasCluster (core / 4))).modCore core fun x => { x with copyq := x.copyq.zipIdx.map fun c => if c.2 = i then { c.1 with engineError := true } else c.1 }
    else s
  | .lineBuffer core none => (rasCount s (rasCluster (core / 4))).modCluster (core / 4) fun x => { x with lineBuf := tset x.lineBuf (core % 4) [] [] }
  | .lineBuffer core (some r) =>
    (rasCount s (rasCluster (core / 4))).modCore core fun x => { x with copyq := match x.copyq with
      | [] => []
      | c :: cs => { c with bufferError := some r } :: cs }
  | .symbolErrors port position n =>
    if 96 ≤ port ∨ 16 ≤ position then s else s.modPort port fun p => { p with symbols := tset p.symbols position 0 (tget p.symbols position 0 + n) }
  | .symbolWindow port position => s.modPort port fun p => { p with symbols := tset p.symbols position 0 0 }
  | .copyEngine cluster => (copyingPlots s cluster).foldl faultPlot (rasCount s (rasCluster cluster))

end Sys2Proof.Machine
end

