-- ==== Sys2Proof/Machine/Turn.lean ====
section
/-! DEFINITION. What can happen next: the inputs in line, and every unit of the device that has something to do. One step takes the first
input in line, the first hardware error, or else one thing that some unit can do; which one, when there are several, is a free value (log entry 7). -/

namespace Sys2Proof.Machine

/-! ### Inputs -/

/-- What may stand in the agenda: the steps of spec/opcode_table.json that are no instruction words (log entry 5). -/
def isInput (i : Instr) : Bool :=
  (encode i).isNone && (match i with
    | .illegalPattern _ _ _ => false
    | .drillRet | .drillFence | .drillNext => false
    | _ => true)

/-- Whether an input finds anything that answers it: without power only a cold reset, in a thermal hold only the loss of power (17 R379); the
registers, the resets and Krypidy's mailbox in recovery and while the device boots (17 R370); the rest once it is ready, and what peers send only
when it takes part in the fabric (18 R395). -/
def hears (s : State) (i : Instr) : Bool :=
  match i with
  | .coldReset _ _ _ => !s.pkg.thermalHold
  | .powerLoss => true
  | .thermalLimit _ _ => s.pkg.power
  | .registerWrite _ _ => alive s
  | .devnoWrite _ => alive s
  | .rasCounterClear _ => alive s
  | .warmReset _ => alive s
  | .functionLevelReset => alive s
  | .spdmGetMeasurements _ => alive s
  | .powerMeasure _ => alive s
  | .budgetAddition _ => alive s
  | .cxlMemRequest _ _ _ => true
  | .remoteRequest _ _ _ _ _ | .remoteReply _ _ _ _ | .reductionCombine _ _ _ _ _ _ | .bulkRequest _ _ _ _ _ _ _ _ _
  | .bulkDataReceive _ _ _ _ _ | .grantReceive _ _ _ _ _ | .doneReceive _ _ _ | .abortReceive _ _ _ | .pauseNotice _ _ _ _ =>
    alive s && s.pkg.bootst == 5 && decide (ownDevice s < 4096)
  | _ => alive s && s.pkg.bootst == 5

/-! ### Operations in flight -/

/-- The lines at which an operation has accesses left. -/
def Op.lines (o : Op) : List Nat := ((o.accs.filter fun a => !a.done).map fun a => lineOf a.loc).dedup

/-- An operation may act at the home of a line. -/
def homeReady (s : State) (o : Op) (line : Nat) : Bool :=
  readReady s o line || waitwReady s o line || storeReady s o line || grantReady s o line

def runHome (op line : Nat) (s : State) : Result :=
  match s.op op with
  | none => .next s
  | some o =>
    match o.kind with
    | .load => if holdsCopy s o line then execHomeRenewal op line s else execHomeRead op line s
    | .store => execHomeStore op line s
    | .atomic => execExclusiveGrant op line s
    | _ => execHomeRead op line s

/-- A parked operation has something to look at. -/
def parkedReady (s : State) (o : Op) : Bool :=
  match waiterOf (s.furrow o.furrow) o.id with
  | none => false
  | some id =>
    match parkedOp s o.furrow id with
    | some (_, .parked _ loc phase) => wakeReady s o || rereadReady s o loc phase
    | some (_, _) => waitwTouched s o
    | none => false

def runParked (s : State) (o : Op) : Result :=
  match waiterOf (s.furrow o.furrow) o.id with
  | none => .next s
  | some id =>
    match o.kind, overflowWaiter s o with
    | .arrival, false => execBarrierWake o.furrow id s
    | .arrival, true => execBarrierReread o.furrow id s
    | _, false => execWaitwWake o.furrow id s
    | _, true => execWaitwPoll o.furrow id s

/-- An operation has a step of its own to make. -/
def opReady (s : State) (o : Op) : Bool :=
  !o.done && (o.refused || (o.parked && parkedReady s o) ||
    (match o.kind with
      | .load => loadDone s o
      | .store => storeDone s o
      | .atomic => atomicDone s o
      | .fence => fenceDone s o
      | .arrival => arrivalReady s o || fenceDone s o
      | .waitw => fenceDone s o
      | .scopeset => installReady s o
      | .message => messageReady s o
      | .post => postReady s o
      | .probe => postReady s o
      | .emit => emitReady s o
      | .copy => false
      | .key => keyReady s o
      | .tile => tileDone o
      | .matrix => matrixDone o
      | .remote => engineReady o || rredWaits o
      | .writeback => writebackDone s o
      | .prefetch => true))

def runOp (op : Nat) (s : State) : Result :=
  match s.op op with
  | none => .next s
  | some o =>
    if o.refused then execRetireResend op s
    else if o.parked then runParked s o
    else
      match o.kind with
      | .load => execLoadComplete op s
      | .store => execStoreComplete op s
      | .atomic => execAtomicComplete op s
      | .fence => .next (finishFence s o)
      | .arrival => if fenceDone s o then .next (finishFence s o) else execBarrierArrival op s
      | .waitw => .next (finishFence s o)
      | .scopeset => execScopeInstall op s
      | .message => execMessageArrival op s
      | .post => .next (finishPost s o)
      | .probe => .next (finishPost s o)
      | .emit => execSheafRecordOffer op s
      | .copy => .next s
      | .key => execKeyRequest op s
      | .tile => execTileTransferComplete op s
      | .matrix => execMatrixOpComplete op s
      | .remote => .next (if rredWaits o then startReduction s o else finishEngine s o)
      | .writeback => .next (finishWriteback s o)
      | .prefetch => .next (finishPrefetch s o)

/-! ### What each unit can do -/

inductive Todo where
  /-- a furrow or stream tries to issue -/
  | issue (furrow : Nat)
  /-- a page-table walk of a furrow ends -/
  | walk (furrow : Nat) (va : Dword) (access : BitVec 3)
  | release (furrow : Nat)
  | saveStream (furrow : Nat)
  | op (op : Nat)
  /-- an element of a pending destination receives its result -/
  | early (op : Nat)
  | home (op line : Nat)
  | fill (core line : Nat)
  | recall (line : Nat)
  | copyStart (cluster : Nat)
  | copyEnd (cluster : Nat)
  | copyMove (cluster : Nat)
  | handOver (ctx acre cluster : Nat) (key : Dword)
  | matrixStart (cluster : Nat)
  | drain (ctx acre : Nat)
  | faults (ctx : Nat)
  | ring (queue : Nat)
  | preempted (queue : Nat)
  | destroyed (queue : Nat)
  | drill (queue : Nat)
  | place (launch : Nat)
  | divide (launch : Nat)
  | signal (launch : Nat)
  | admission (plot : Nat)
  | savePlot (plot : Nat)
  | rebase
  | transmit (peer cls : Nat)
  | request (xfer : Nat)
  | data (xfer : Nat)
  | acknowledge (xfer : Nat)
  | forward
  | grant (unit : Nat)
  /-- a port sends a flit, or hands back a wavelength position -/
  | link (port : Nat)
  | retrain (port position : Nat)
  /-- a pause saves a record -/
  | pause (ctx : Nat)
  | boot
  /-- a record becomes visible in the event ring -/
  | event (i : Nat)
  /-- a change of a die's partition is applied -/
  | partition (die : Nat)
  deriving DecidableEq, Repr

def onlyIf (c : Bool) (t : Todo) : List Todo := if c then [t] else []

/-- Whether the furrows of a context's queue may issue: a pre-empted plot runs on to its boundary by its own rules. -/
def furrowTodos (s : State) (k : Nat) (f : Furrow) : List Todo :=
  onlyIf (canIssue f && !rebaseDue s) (.issue k)
    ++ ((f.entries.map fun e => e.waits.filterMap fun w => match w with
        | .walk va acc _ _ => some (Todo.walk k va acc)
        | _ => none).flatten)
    ++ onlyIf (releaseReady s k) (.release k)
    ++ onlyIf (f.stream && streamSaveReady s k) (.saveStream k)

def opTodos (s : State) (o : Op) : List Todo :=
  onlyIf (opReady s o) (.op o.id) ++ onlyIf (!(earlyKeys s o).isEmpty) (.early o.id) ++ ((o.lines.filter (homeReady s o)).map (.home o.id ·))

def clusterTodos (s : State) (c : Nat) (x : Cluster) : List Todo :=
  onlyIf x.run.isSome (.copyEnd c)
    ++ onlyIf (matrixStartReady s c) (.matrixStart c)
    ++ onlyIf (copyMoveReady s c) (.copyMove c)
    ++ ((x.moves.filter (·.copied)).map fun m => .handOver m.ctx m.acre c m.key)

def ctxTodos (s : State) (c : Nat) (x : Ctx) : List Todo :=
  onlyIf (faultSpace s c).isSome (.faults c) ++ onlyIf (x.xstat == 1) (.pause c) ++ ((x.acres.map (·.1)).filter (drainReady s c)).map (.drain c ·)

def queueTodos (s : State) (q : Nat) : List Todo :=
  onlyIf (ringSpace s q).isSome (.ring q) ++ onlyIf (preemptOver s q) (.preempted q) ++ onlyIf (destroyOver s q) (.destroyed q)

def dieTodos (s : State) (die : Nat) : List Todo :=
  (match drillChoice s die with
    | some q => [.drill q]
    | none => [])
    ++ (match placeable s (placementOrder s die) with
      | some l => [.place l.id]
      | none => [])

def plotTodos (s : State) (p : Plot) : List Todo :=
  onlyIf (p.phase == .placed) (.admission p.id) ++ onlyIf (saveReady s p) (.savePlot p.id)

def launchTodos (s : State) (l : Launch) : List Todo :=
  onlyIf (divideReady s l) (.divide l.id) ++ onlyIf (signalReady s l) (.signal l.id)

def fabricTodos (s : State) : List Todo :=
  ((s.fab.sendq.map (·.1)).filter fun k => (transmit s (k / 8) (k % 8)).isSome).map (fun k => .transmit (k / 8) (k % 8))
    ++ (s.fab.xfers.map fun x =>
      onlyIf (requestReady x && (sendRequest s x).isSome) (.request x.id) ++ onlyIf (dataReady x && (sendData s x).isSome) (.data x.id)
        ++ onlyIf (x.flying != 0) (.acknowledge x.id)).flatten
    ++ onlyIf (forward s).isSome .forward
    ++ ((s.fab.xfers.map (·.unit)).dedup.filter fun u => !(grantCandidates s u).isEmpty).map (.grant ·)
    ++ ((upto 96).filter (linkReady s)).map (.link ·)
    ++ (s.fab.ports.map fun p => ((upto 16).filter (retrainDue s p.1)).map (Todo.retrain p.1)).flatten

/-- Everything that some unit can do now. -/
def todos (s : State) : List Todo :=
  (s.furrows.map fun x => furrowTodos s x.1 x.2).flatten
    ++ (s.ops.map (opTodos s)).flatten
    ++ (s.cores.map fun c => c.2.fills.map fun x => Todo.fill c.1 x.line).flatten
    ++ ((s.lines.filter fun l => l.2.owner.isSome).map fun l => .recall l.1)
    ++ (((s.cores.map fun c => c.1 / 4).dedup.filter (copyStartReady s)).map (.copyStart ·))
    ++ (s.clusters.map fun c => clusterTodos s c.1 c.2).flatten
    ++ (s.ctxs.map fun c => ctxTodos s c.1 c.2).flatten
    ++ (s.queues.map fun q => queueTodos s q.1).flatten
    ++ ((upto 4).map (dieTodos s)).flatten
    ++ (s.plots.map fun p => plotTodos s p.2).flatten
    ++ (s.launches.map fun l => launchTodos s l.2).flatten
    ++ onlyIf (rebaseDue s && accessesOver s) .rebase
    ++ fabricTodos s
    ++ onlyIf s.pkg.boot.isSome .boot
    ++ (upto s.pkg.events.length).map (.event ·)
    ++ ((upto 4).filter fun d => (s.die d).busy).map (.partition ·)

/-- One thing done; `ex` is `exec`, which is defined after this file. -/
def run (ex : Exec) (s : State) : Todo → Result
  | .issue k => issueFurrow ex k s
  | .walk k va acc => execPageWalkComplete k (va.setWidth 56) acc s
  | .release k => execFurrowRelease k s
  | .saveStream k => execStreamSave k s
  | .op o => runOp o s
  | .early o => .next (((s.op o).map (deliverEarly s)).getD s)
  | .home o line => runHome o line s
  | .fill c line => execL1Fill c line s
  | .recall line => execRecall line s
  | .copyStart c => execCopyCommandStart c s
  | .copyEnd c => execCopyCommandEnd c s
  | .copyMove c => .next (copyMove s c)
  | .handOver ctx acre c key => execLeafHandover ctx acre c key s
  | .matrixStart c => execMatrixOpStart c s
  | .drain ctx acre => execKbalDrain ctx acre s
  | .faults c => execFaultRecordWrite c s
  | .ring q => execQueueFaultRingSpace q s
  | .preempted q => .next (finishPreempt s q)
  | .destroyed q => .next (finishDestroy s q)
  | .drill q => if (s.queue q).inPacket then ex (drillInstr s q) (takeQueue s q) else execDrillPacketStart q (takeQueue s q)
  | .place l => execPlotPlace l s
  | .divide l => .next (divide s (s.launch l))
  | .signal l => execLaunchSignal l s
  | .admission p => execPlotAdmit p s
  | .savePlot p => execPlotSave p s
  | .rebase => execStampRebase s
  | .transmit p c => .next ((transmit s p c).getD s)
  | .request x => .next (((s.xfer x).bind (sendRequest s)).getD s)
  | .data x => .next (((s.xfer x).bind (sendData s)).getD s)
  | .acknowledge x => .next (((s.xfer x).map (ackEthernet s)).getD s)
  | .forward => .next ((forward s).getD s)
  | .grant u => execGrantIssue u s
  | .link p => .next (sendLink s p)
  | .retrain p w => execWavelengthRetrain p w s
  | .pause c => .next (savePaused s c)
  | .boot => .next (bootNext s)
  | .event i => .next (showEvent s i)
  | .partition d => .next (applyPartition s d)

/-- One of several things, by the free value; the only one without it. -/
def choose (s : State) : List Todo → Option (Todo × State)
  | [] => none
  | [t] => some (t, s)
  | ts =>
    let (n, s) := s.draw
    (ts[n % ts.length]?).map (·, s)

/-- One step of the device: the first input in line, else the first hardware error, else one thing that some unit can do. -/
def turn (ex : Exec) (s : State) : Result :=
  match s.agenda with
  | e :: rest => if isInput e && hears s e then ex e { s with agenda := rest } else .next { s with agenda := rest }
  | [] =>
    match s.upsets with
    | u :: rest => .next (upset { s with upsets := rest } u)
    | [] =>
      match choose s (todos s) with
      | some (t, s) => run ex s t
      | none => .fault .idle

/-! ### A program put in place (log entry 19) -/

/-- Where `withFetchWord` puts its tables and its code, as device memory addresses. -/
def placedTables : Nat := 0x2000
def placedCode : Nat := 0x100000

/-- Page tables that lay one readable, writable and executable page over the low 64 GiB (11 R277), and a packet that begins with a word. -/
def placedMemory (m : Memory) (w : Nat) : Memory :=
  let m := writeBytes m placedTables (toBytes 8 (placedTables + 0x2001))
  let m := writeBytes m (placedTables + 0x2000) (toBytes 8 0xC1F)
  writeBytes m placedCode (toBytes 12 w)

/-- A furrow or stream at the start of that packet. -/
def placedFurrow (stream : Bool) : Furrow :=
  { newFurrow 0 (if stream then 1 else 16) 0 0 0 with
    stream, vcount := if stream then 0 else 128, scount := 128, plot := 1, croft := 2, code := .ofNat 64 placedCode, csize := 12 * 128 }

/-- The device with nothing to do. -/
def quiet (s : State) : State :=
  { s with agenda := [], upsets := [], iss := {}, held := [], lines := [], furrows := [], plots := [], crofts := [], launches := [], ops := [], cores := [],
           clusters := [], queues := [], fab := {}, ctxs := [(0, { ptbase := .ofNat 64 placedTables })] }

/-- One furrow, or stream, of one plot that is about to fetch a word. -/
def placeWord (s : State) (w : Nat) (stream : Bool) : State :=
  let key := if stream then streamKey 0 0 else furrowKey 0 0
  { quiet s with
    mem := placedMemory s.mem w,
    furrows := [(key, placedFurrow stream)],
    plots := [(1, { id := 1, launch := 3, croft := 2, phase := .running, furrows := if stream then [] else [key] })],
    crofts := [(2, { id := 2, launch := 3, plots := [1], stream := if stream then some key else none })],
    launches := [(3, { id := 3, next := 1 })],
    nextId := 4 }

/-- A queue whose drill stands at a word. -/
def placeDrillWord (s : State) (w : Nat) : State :=
  { quiet s with
    mem := placedMemory s.mem 0,
    queues := [(0, { en := true, qstat := 1, inPacket := true, program := [.ofNat 32 w] })] }

/-- The state in which the next step runs a word: Ocrov's for a furrow, or for a stream when only a stream runs it, else the drill's. -/
def placeInstruction (s : State) (nbits w : Nat) : State :=
  let x : Word := .ofNat 32 w
  match decodeTableWord nbits w, decodeWord x with
  | some _, .ok _ => placeWord s w (!unitRuns false x)
  | some _, .error _ => placeDrillWord s w
  | none, _ => placeWord s w false

end Sys2Proof.Machine
end

