-- ==== Sys2Proof/Machine/Step.lean ====
section
/-! DEFINITION. One step of the device, and the state whose next step runs a given word. -/

namespace Sys2Proof.Machine

/-- One step (Machine/Turn.lean). -/
def step (s : State) : Host.Outcome State Fault Refusal := turn exec s

/-- The state in which the next step fetches and runs a word (Machine/Turn.lean). -/
def State.withFetchWord (s : State) (nbits w : Nat) : State := placeInstruction s nbits w

end Sys2Proof.Machine
end

