-- ==== Sys2Proof/Safety.lean ====
section
/-! DEFINITION. Runs, and the properties of states that claims speak of. -/

namespace Sys2Proof.Machine

/-- The device after `n` steps, or how it stopped. -/
def runFor : Nat → State → Result
  | 0, s => .next s
  | n + 1, s =>
    match step s with
    | .next t => runFor n t
    | r => r

/-- A state that some number of steps leads to. -/
def Reaches (s t : State) : Prop := ∃ n, runFor n s = .next t

/-- A device that never comes to an instruction without a meaning. -/
def Safe (s : State) : Prop := ∀ n r, runFor n s ≠ .refused r

/-! ### The terms of the statements -/

/-- No operand of a member stands beyond the allocation, and none that the member consumes is marked (01 R15, R18, R34): the member takes
its effect and raises neither cause 0x03 nor cause 0x04. -/
def Ready (s : State) (os : List Opd) : Prop :=
  (os.find? (·.beyond s.pre)) = none ∧ firstPoison s.pre (maskPrefixOpd s ++ os) = none

/-- The state once the uncorrectable elements that the operands read and do not consume are poisoned and logged (01 R34, R37). -/
def Noted (s : State) (os : List Opd) : State := noteUnconsumed s (act s) (maskPrefixOpd s ++ os)

/-- `t` is `n` with the elements of `k` vector registers from `d` written (01 R9, R13, R35): `x` for the active threads of `s`, zero for
those that zero mode writes. Every other element and everything else is as in `n`. -/
structure Delivered (s n t : State) (d k : Nat) (x : Nat → Nat → Word) : Prop where
  value : ∀ r u, u < 64 → t.cur.vget r u =
    if r ≠ 0 ∧ d ≤ r ∧ r < d + k ∧ u < s.pre.width then
      (if (act s).getLsbD u then x (r - d) u else if (zeroed s).getLsbD u then 0 else n.cur.vget r u)
    else n.cur.vget r u
  mark : ∀ r u, u < 64 → tget t.cur.vMark (64 * r + u) .clean =
    if r ≠ 0 ∧ d ≤ r ∧ r < d + k ∧ u < s.pre.width ∧ ((act s).getLsbD u ∨ (zeroed s).getLsbD u) then .clean
    else tget n.cur.vMark (64 * r + u) .clean
  rest : t = { n with cur := { n.cur with v := t.cur.v, vMark := t.cur.vMark } }

/-- `t` is `n` with mask register `d` written (01 R9, R17, R35): the bits `p` for the active threads of `s`, zero for those that zero mode
writes, below W alone. k0 discards the write; every other bit and everything else is as in `n`. -/
structure MaskWritten (s n t : State) (d : Nat) (p : Nat → Bool) : Prop where
  value : ∀ q u, u < 64 → (t.cur.kget s.iss.entry q).getLsbD u =
    if q = d ∧ q ≠ 0 ∧ u < n.cur.width ∧ ((act s).getLsbD u ∨ (zeroed s).getLsbD u) then (act s).getLsbD u && p u
    else (n.cur.kget s.iss.entry q).getLsbD u
  mark : ∀ q, tget t.cur.kMark q .clean =
    if q = d ∧ q ≠ 0 ∧ (act s ||| zeroed s) &&& n.cur.full = n.cur.full then .clean else tget n.cur.kMark q .clean
  rest : t = { n with cur := { n.cur with k := t.cur.k, kMark := t.cur.kMark } }

/-- A fold from the left over a list that begins with its first element; 0 for none (05 R153). -/
def foldLeft (first : Word → Word) (op : Word → Word → Word) : List Word → Word
  | [] => 0
  | x :: xs => xs.foldl op (first x)

/-- The values of V[a] in the active threads of thread `u`'s segment of `len` threads for which `p` holds, ascending (05 R151). -/
def segmentValues (s : State) (a : BitVec 7) (len u : Nat) (p : Nat → Bool) : List Word :=
  ((threads s.pre.width (act s)).filter fun v => v / len == u / len && p v).map fun v => V s a 0 v

/-- Nothing keeps a memory instruction at issue, and its accesses were checked and lie at the given places (01 R24, 06 R166, R167, 11 R267). -/
def Enters (s : State) (path : Option Nat) (m : Mode) (ws : List Want) (ps : List (Want × Place)) : Prop :=
  memoryHeld s = false ∧ (∀ p, path = some p → pathFull s p = false) ∧ checkWants s m ws = .ok ps

/-- The state once the leaves that the accesses used are marked and cached (11 R278). -/
def Used (s : State) (m : Mode) (ps : List (Want × Place)) : State := ps.foldl (fun s p => usePlace s (agentOf s s.pre) m.need p.2) s

/-- No held `stl` and no full transaction table keeps the accesses waiting (06 R185, 11 R268). -/
def Room (s : State) (as : List Acc) : Prop :=
  stlHolds s as = false ∧ (s.pre.stream = true ∨ tableUsed s s.pre.gcore + tableLines as ≤ 128 ∨ tableUsed s s.pre.gcore = 0)

/-- The word of a drill, not of a furrow or a stream (15 R336). -/
def isDrill : Instr → Bool
  | .drillLi .. | .drillLih .. | .drillLdw .. | .drillLdd .. | .drillStw .. | .drillStd .. | .drillAdd .. | .drillSub .. | .drillAnd ..
  | .drillOr .. | .drillXor .. | .drillShl .. | .drillShr .. | .drillAddi .. | .drillBeq .. | .drillBne .. | .drillBltu .. | .drillLoop ..
  | .drillLaunch .. | .drillNode .. | .drillSignal .. | .drillWaitsig .. | .drillIndirect .. | .drillRet | .drillFence | .drillNext => true
  | _ => false

end Sys2Proof.Machine
end

