-- ==== Sys2Proof/Certificates/Slice0/Obligations.lean ====
section
/-! DEFINITION. The statements about the model: what each instruction and each step of the device does, and what every step keeps. -/

open Sys2Proof Sys2Proof.Machine

/-- 01 R13, R14, R17: v0 and s0 read as zero and discard writes, k0 reads as the entry's mask; a write of one register is read back and
leaves every other one; a mask write stores the covered bits below W. -/
def Obligations.RegisterFiles : Prop :=
  (∀ (f : Furrow) (t : Nat), f.vget 0 t = 0) ∧ (∀ f : Furrow, f.sget 0 = 0) ∧
  (∀ (f : Furrow) (id : Nat), f.kget id 0 = (f.entry id).mask) ∧
  (∀ (f : Furrow) (r t q u : Nat) (x : Word), t < 64 → u < 64 →
    (f.vset r t x).vget q u = if q = r ∧ u = t ∧ r ≠ 0 then x else f.vget q u) ∧
  (∀ (f : Furrow) (r q : Nat) (x : Word), (f.sset r x).sget q = if q = r ∧ r ≠ 0 then x else f.sget q) ∧
  (∀ (f : Furrow) (id r q : Nat) (cover x : Mask), (f.kset r cover x).kget id q =
    if q = r ∧ r ≠ 0 then (f.kget id q &&& ~~~(cover &&& f.full)) ||| (x &&& cover &&& f.full) else f.kget id q)

/-- 04 R97, R98: the twenty scalar instructions with two sources. Each answers the state in which S[d] holds the function of S[a] and S[b] and
nothing else differs: no other register, flag or special register, no operation, no byte of memory. A write to s0 is discarded (RegisterFiles). -/
def Obligations.ScalarArithmetic : Prop :=
  ∀ (s : State) (d a b : BitVec 7), Ready s [.s 0 a, .s 1 b, .ds d] →
    let x := S s a
    let y := S s b
    let n := y.toNat
    ∀ p ∈ ([(.sadd d a b, x + y), (.ssub d a b, x - y), (.smul d a b, x * y),
        (.smulh d a b, .ofInt 32 (x.toInt * y.toInt / 2 ^ 32)),
        (.sand d a b, x &&& y), (.sor d a b, x ||| y), (.sxor d a b, x ^^^ y), (.sandn d a b, x &&& ~~~y),
        (.sshl d a b, if n < 32 then x <<< n else 0), (.sshr d a b, if n < 32 then x >>> n else 0),
        (.ssra d a b, if n < 32 then x.sshiftRight n else if x.msb then 0xFFFFFFFF else 0), (.srot d a b, x.rotateLeft (n % 32)),
        (.smin d a b, if x.toInt ≤ y.toInt then x else y), (.smax d a b, if y.toInt ≤ x.toInt then x else y),
        (.sminn d a b, if x.toNat ≤ y.toNat then x else y), (.smaxn d a b, if y.toNat ≤ x.toNat then x else y),
        (.sseq d a b, if x = y then 1 else 0), (.sslt d a b, if x.toInt < y.toInt then 1 else 0),
        (.ssltn d a b, if x.toNat < y.toNat then 1 else 0), (.ssne d a b, if x ≠ y then 1 else 0)] : List (Instr × Word)),
      exec p.1 s = .next { s with cur := s.cur.sset d.toNat p.2 }

/-- 04 R97 to R100: the scalar moves, immediate shifts, counts, select and immediates. Each writes S[d] and nothing else. The last two clauses
say what the counts are. -/
def Obligations.ScalarMoves : Prop :=
  (∀ (s : State) (d a : BitVec 7) (b : BitVec 5) (i : BitVec 11), Ready s [.s 0 a, .ds d] →
    let x := S s a
    let n := b.toNat
    ∀ p ∈ ([(.smov d a, x), (.sshli d a b, x <<< n), (.sshri d a b, x >>> n), (.ssrai d a b, x.sshiftRight n), (.sroti d a b, x.rotateLeft n),
        (.sclz d a, leadingZeros x), (.spopc d a, popCount x), (.saddi d a i, x + imm32 s 11 i)] : List (Instr × Word)),
      exec p.1 s = .next { s with cur := s.cur.sset d.toNat p.2 }) ∧
  (∀ (s : State) (d a b : BitVec 7), Ready s [.s 0 a, .s 1 b, .s 3 d] →
    exec (.ssel d a b) s = .next { s with cur := s.cur.sset d.toNat (if S s d ≠ 0 then S s a else S s b) }) ∧
  (∀ (s : State) (d : BitVec 7) (i : BitVec 18), Ready s [.ds d] →
    exec (.sli d i) s = .next { s with cur := s.cur.sset d.toNat (imm32 s 18 i) } ∧
    exec (.slui d i) s = .next { s with cur := s.cur.sset d.toNat (i.setWidth 32 <<< 14) }) ∧
  (∀ x : Word, (leadingZeros x).toNat ≤ 32 ∧ x.toNat < 2 ^ (32 - (leadingZeros x).toNat) ∧
    (x ≠ 0 → 2 ^ (31 - (leadingZeros x).toNat) ≤ x.toNat) ∧ (x = 0 → leadingZeros x = 32)) ∧
  (∀ x : Word, popCount x = .ofNat 32 ((List.range 32).filter fun j => x.getLsbD j).length)

/-- 02 R57: an immediate of n bits is sign-extended without a LIM; with one, its own field is the low n bits and the LIM's low bits stand above. -/
def Obligations.ImmediateForms : Prop :=
  ∀ (s : State) (n : Nat) (low : BitVec n), 11 ≤ n → n ≤ 18 →
    (s.iss.lim = none → imm32 s n low = low.signExtend 32) ∧
    (∀ x : BitVec 25, s.iss.lim = some (.lim x) →
      ∀ j, j < 32 → (imm32 s n low).getLsbD j = if j < n then low.getLsbD j else x.getLsbD (j - n))

/-- 04 R92, R101, R98, R103, R113 and 01 R9: the two-source vector instructions. Element i of every active thread is the function of the
sources' elements i, zero mode writes zero, and every other element and everything else is left as it was. vsadd and vssub clamp the exact result (R103). -/
def Obligations.VectorArithmetic : Prop :=
  ∀ (s : State) (w : BitVec 2) (d a b : BitVec 7),
    let n := 2 ^ w.toNat
    let os : List Opd := [.v 0 a n (act s), .v 1 b n (act s), .dv d]
    let clamped (signed unsigned : Int) : Word :=
      if (pfxOf s).xop = 0 then .ofInt 32 (max (-2 ^ 31) (min (2 ^ 31 - 1) signed)) else .ofInt 32 (max 0 (min (2 ^ 32 - 1) unsigned))
    Ready s os →
    ∀ p ∈ ([(.vsub w d a b, fun x y => x - y), (.vmul w d a b, fun x y => x * y),
        (.vmulh w d a b, fun x y => .ofInt 32 (x.toInt * y.toInt / 2 ^ 32)),
        (.vmulhn w d a b, fun x y => .ofNat 32 (x.toNat * y.toNat / 2 ^ 32)),
        (.vsadd w d a b, fun x y => clamped (x.toInt + y.toInt) (x.toNat + y.toNat)),
        (.vssub w d a b, fun x y => clamped (x.toInt - y.toInt) ((x.toNat : Int) - y.toNat)),
        (.vand w d a b, fun x y => x &&& y), (.vor w d a b, fun x y => x ||| y), (.vxor w d a b, fun x y => x ^^^ y),
        (.vandn w d a b, fun x y => x &&& ~~~y),
        (.vshl w d a b, fun x y => if y.toNat < 32 then x <<< y.toNat else 0),
        (.vshr w d a b, fun x y => if y.toNat < 32 then x >>> y.toNat else 0),
        (.vsra w d a b, fun x y => if y.toNat < 32 then x.sshiftRight y.toNat else if x.msb then 0xFFFFFFFF else 0),
        (.vrot w d a b, fun x y => x.rotateLeft (y.toNat % 32)),
        (.vmin w d a b, fun x y => if x.toInt ≤ y.toInt then x else y), (.vmax w d a b, fun x y => if y.toInt ≤ x.toInt then x else y),
        (.vminn w d a b, fun x y => if x.toNat ≤ y.toNat then x else y), (.vmaxn w d a b, fun x y => if y.toNat ≤ x.toNat then x else y),
        (.fcpys w d a b, fun x y => (x &&& 0x7FFFFFFF) ||| (y &&& 0x80000000))] : List (Instr × (Word → Word → Word))),
      ∃ t, exec p.1 s = .next t ∧ Delivered s (Noted s os) t d.toNat n fun i u => p.2 (V s a i u) (V s b i u)

/-- 04 R102, R104, R106: the vector instructions with a third source, the prefix's fourth operand or the destination itself. The exact value
is delivered modulo 2^32, or saturated to the range of R104 under `pfx.sat`. -/
def Obligations.VectorThirdSources : Prop :=
  (∀ (s : State) (w : BitVec 2) (d a b : BitVec 7),
    let n := 2 ^ w.toNat
    let c := (pfxOf s).c4
    let osC : List Opd := [.v 0 a n (act s), .v 1 b n (act s), .v 2 c 1 (act s), .dv d]
    let osD : List Opd := [.v 0 a n (act s), .v 1 b n (act s), .v 3 d n (act s)]
    let i8 (x : Word) (j : Nat) : Int := (x.extractLsb' (8 * j) 8).toInt
    let n8 (x : Word) (j : Nat) : Int := ((x.extractLsb' (8 * j) 8).toNat : Int)
    let sum (f : Nat → Int) : Int := f 0 + f 1 + f 2 + f 3
    let signed (e : Int) : Word := .ofInt 32 (if (pfxOf s).sat then max (-2 ^ 31) (min (2 ^ 31 - 1) e) else e)
    let unsigned (e : Int) : Word := .ofInt 32 (if (pfxOf s).sat then max 0 (min (2 ^ 32 - 1) e) else e)
    (Ready s osC →
      ∀ p ∈ ([(.vadd w d a b, fun x y z => .ofNat 32 (x.toNat + y.toNat + z.toNat % 2)),
          (.vaddc w d a b, fun x y z => if 2 ^ 32 ≤ x.toNat + y.toNat + z.toNat % 2 then 1 else 0),
          (.vprmb w d a b, permuteBytes)] : List (Instr × (Word → Word → Word → Word))),
        ∃ t, exec p.1 s = .next t ∧ Delivered s (Noted s osC) t d.toNat n fun i u => p.2 (V s a i u) (V s b i u) (V s c 0 u)) ∧
    (Ready s osD →
      ∀ p ∈ ([(.vmad w d a b, fun x y z => signed (z.toInt + x.toInt * y.toInt)),
          (.vdot4 w d a b, fun x y z => signed (z.toInt + sum fun j => i8 x j * i8 y j)),
          (.vdot4n w d a b, fun x y z => unsigned (z.toNat + sum fun j => n8 x j * n8 y j)),
          (.vsad w d a b, fun x y z => unsigned (z.toNat + sum fun j => ((n8 x j - n8 y j).natAbs : Int)))] :
            List (Instr × (Word → Word → Word → Word))),
        ∃ t, exec p.1 s = .next t ∧ Delivered s (Noted s osD) t d.toNat n fun i u => p.2 (V s a i u) (V s b i u) (V s d i u))) ∧
  (∀ (x y c : Word) (j : Nat), j < 32 →
    let n := (y.toNat / 2 ^ (8 * (j / 8))) % 8
    (permuteBytes x y c).getLsbD j = (!y.getLsbD (8 * (j / 8) + 7) && if n < 4 then x.getLsbD (8 * n + j % 8) else c.getLsbD (8 * (n - 4) + j % 8)))

/-- 04 R101, R107, R109: the one-source vector instructions, the immediates and the select; and what reversing the bits of a word is. -/
def Obligations.VectorMoves : Prop :=
  (∀ (s : State) (w : BitVec 2) (d a : BitVec 7) (b : BitVec 5),
    let n := 2 ^ w.toNat
    let os : List Opd := [.v 0 a n (act s), .dv d]
    Ready s os →
    ∀ p ∈ ([(.vshli w d a b, fun x => x <<< b.toNat), (.vshri w d a b, fun x => x >>> b.toNat),
        (.vsrai w d a b, fun x => x.sshiftRight b.toNat), (.vroti w d a b, fun x => x.rotateLeft b.toNat),
        (.vclz w d a, leadingZeros), (.vpopc w d a, popCount), (.vbrev w d a, reverseBits),
        (.vabs w d a, fun x => if x = 0x80000000 then (if (pfxOf s).sat then 0x7FFFFFFF else 0x80000000) else if x.msb then -x else x)] :
          List (Instr × (Word → Word))),
      ∃ t, exec p.1 s = .next t ∧ Delivered s (Noted s os) t d.toNat n fun i u => p.2 (V s a i u)) ∧
  (∀ (s : State) (d a : BitVec 7) (i : BitVec 11), let os : List Opd := [.v 0 a 1 (act s), .dv d]
    Ready s os → ∃ t, exec (.vaddi d a i) s = .next t ∧ Delivered s (Noted s os) t d.toNat 1 fun _ u => V s a 0 u + imm32 s 11 i) ∧
  (∀ (s : State) (d : BitVec 7) (i : BitVec 18), Ready s [.dv d] →
    ∃ t, exec (.vli d i) s = .next t ∧ Delivered s (Noted s [.dv d]) t d.toNat 1 fun _ _ => imm32 s 18 i) ∧
  (∀ (s : State) (k : BitVec 4) (d a b : BitVec 7),
    let os : List Opd := [.v 0 a 1 (act s), .v 1 b 1 (act s), .dv d, .k 3 k (act s != 0)]
    Ready s os → ∃ t, exec (.vsel k d a b) s = .next t ∧ Delivered s (Noted s os) t d.toNat 1
      fun _ u => if (s.pre.kget s.iss.entry k.toNat).getLsbD u then V s a 0 u else V s b 0 u) ∧
  (∀ (x : Word) (j : Nat), j < 32 → (reverseBits x).getLsbD j = x.getLsbD (31 - j))

/-- 04 R110, R95: `vmov` and `vmovs` write the active threads; `vrdl` reads one thread's element, active or not, and leaves S[d] with no active thread; `vwrl` writes one active thread's element. -/
def Obligations.LaneAccess : Prop :=
  (∀ (s : State) (w : BitVec 2) (d a : BitVec 7), let n := 2 ^ w.toNat
    let os : List Opd := [.v 0 a n (act s), .dv d]
    Ready s os → ∃ t, exec (.vmov w d a) s = .next t ∧ Delivered s (Noted s os) t d.toNat n fun i u => V s a i u) ∧
  (∀ (s : State) (d a : BitVec 7), let os : List Opd := [{ Opd.s 0 a with thr := if act s = 0 then 0 else 1 }, .dv d]
    Ready s os → ∃ t, exec (.vmovs d a) s = .next t ∧ Delivered s (Noted s os) t d.toNat 1 fun _ _ => S s a) ∧
  (∀ (s : State) (d a b : BitVec 7),
    let j := (S s b).toNat % 64
    let some_ := act s != 0
    let os : List Opd := [.v 0 a 1 (if some_ then 1 <<< j else 0), { Opd.s 1 b with thr := if some_ then 1 else 0 }, .ds d]
    Ready s os →
      exec (.vrdl d a b) s = .next
        (if act s = 0 then Noted s os
         else { Noted s os with cur := (Noted s os).cur.sset d.toNat (if j < s.pre.width then V s a 0 j else 0) })) ∧
  (∀ (s : State) (d a b : BitVec 7),
    let j := (S s b).toNat % 64
    let some_ : Mask := if act s = 0 then 0 else 1
    let os : List Opd := [{ Opd.s 0 a with thr := some_ }, { Opd.s 1 b with thr := some_ }, .dv d]
    Ready s os → ∃ t, exec (.vwrl d a b) s = .next t ∧
      (∀ r u, u < 64 → t.cur.vget r u =
        if r = d.toNat ∧ r ≠ 0 ∧ u < s.pre.width ∧ u = j ∧ (act s).getLsbD u then S s a
        else if r = d.toNat ∧ r ≠ 0 ∧ u < s.pre.width ∧ (zeroed s).getLsbD u then 0 else s.cur.vget r u) ∧
      t = { Noted s os with cur := { (Noted s os).cur with v := t.cur.v, vMark := t.cur.vMark } })

/-- 04 R105, bit by bit: the field that `vbfen` extracts, `vbfe` sign-extends and `vbfi` inserts; and that each delivers it. -/
def Obligations.BitFields : Prop :=
  (∀ (x y d : Word) (j : Nat), j < 32 →
    let pos := y.toNat % 32
    let len := min (y.toNat / 2 ^ 8 % 64) (32 - pos)
    (fieldN x y).getLsbD j = (decide (j < len) && x.getLsbD (pos + j)) ∧
    (fieldI x y).getLsbD j = (decide (len ≠ 0) && x.getLsbD (pos + min j (len - 1))) ∧
    (fieldInsert x y d).getLsbD j = (if pos ≤ j ∧ j < pos + len then x.getLsbD (j - pos) else d.getLsbD j)) ∧
  (∀ (s : State) (w : BitVec 2) (d a b : BitVec 7), let n := 2 ^ w.toNat
    let os : List Opd := [.v 0 a n (act s), .v 1 b n (act s)]
    let delivers (i : Instr) (os : List Opd) (g : Nat → Nat → Word) : Prop :=
      Ready s os → ∃ t, exec i s = .next t ∧ Delivered s (Noted s os) t d.toNat n g;
    delivers (.vbfen w d a b) (os ++ [.dv d]) (fun i u => fieldN (V s a i u) (V s b i u)) ∧
    delivers (.vbfe w d a b) (os ++ [.dv d]) (fun i u => fieldI (V s a i u) (V s b i u)) ∧
    delivers (.vbfi w d a b) (os ++ [.v 3 d n (act s)]) fun i u => fieldInsert (V s a i u) (V s b i u) (V s d i u))

/-- 04 R108 and 01 R9, R17, R35: the integer compares write the mask register's bits of the active threads, zero for zeroed threads, and no
other; a write to k0 is discarded. -/
def Obligations.IntegerCompares : Prop :=
  ∀ (s : State) (d : BitVec 4) (a b : BitVec 7),
    let os : List Opd := [.v 0 a 1 (act s), .v 1 b 1 (act s)]
    Ready s os →
    ∀ p ∈ ([(.vceq d a b, fun x y => decide (x = y)), (.vclt d a b, fun x y => decide (x.toInt < y.toInt)),
        (.vcltn d a b, fun x y => decide (x.toNat < y.toNat)), (.vcne d a b, fun x y => decide (x ≠ y))] :
          List (Instr × (Word → Word → Bool))),
      ∃ t, exec p.1 s = .next t ∧
        MaskWritten s (Noted s os) t d.toNat fun u => decide (u < s.pre.width) && p.2 (V s a 0 u) (V s b 0 u)

/-- 04 R127, R128: the mask instructions: logic on the active threads' bits, the count and the first set bit of a mask, and its moves to and
from a scalar pair. -/
def Obligations.MaskLogic : Prop :=
  (∀ (s : State) (d a b : BitVec 4),
    let os : List Opd := [.k 0 a (act s != 0), .k 1 b (act s != 0)]
    let x := s.pre.kget s.iss.entry a.toNat
    let y := s.pre.kget s.iss.entry b.toNat
    Ready s os →
    ∀ p ∈ ([(.kand d a b, fun u => x.getLsbD u && y.getLsbD u), (.kor d a b, fun u => x.getLsbD u || y.getLsbD u),
        (.kxor d a b, fun u => x.getLsbD u != y.getLsbD u), (.kandn d a b, fun u => x.getLsbD u && !y.getLsbD u)] :
          List (Instr × (Nat → Bool))),
      ∃ t, exec p.1 s = .next t ∧ MaskWritten s (Noted s os) t d.toNat p.2) ∧
  (∀ (s : State) (d : BitVec 7) (a : BitVec 4),
    let os : List Opd := [.k 0 a (act s != 0), .ds d]
    let x := s.pre.kget s.iss.entry a.toNat &&& act s
    Ready s os →
      exec (.kpopc d a) s = .next { Noted s os with cur := (Noted s os).cur.sset d.toNat (.ofNat 32 ((List.range 64).filter fun u => x.getLsbD u).length) } ∧
      ∃ r : Word, exec (.kffs d a) s = .next { Noted s os with cur := (Noted s os).cur.sset d.toNat r } ∧
        ((∀ u, u < 64 → x.getLsbD u = false) → r = 0xFFFFFFFF) ∧
        (∀ u, u < 64 → x.getLsbD u = true → (∀ v, v < u → x.getLsbD v = false) → r = .ofNat 32 u)) ∧
  (∀ (s : State) (d : BitVec 7) (a : BitVec 4), Ready s [.k 0 a, .ds d] →
    let x := s.pre.kget s.iss.entry a.toNat
    exec (.ktos d a) s = .next { s with cur := (s.cur.sset d.toNat (x.setWidth 32)).sset (d.toNat + 1) ((x >>> 32).setWidth 32) }) ∧
  (∀ (s : State) (d : BitVec 4) (a : BitVec 7),
    let os : List Opd := [{ Opd.s 0 a 2 with per := [if act s &&& 0xFFFFFFFF = 0 then 0 else 1, if act s >>> 32 = 0 then 0 else 1] }]
    Ready s os → ∃ t, exec (.kfrs d a) s = .next t ∧
      MaskWritten s (Noted s os) t d.toNat fun u => if u < 32 then (S s a).getLsbD u else (SN s a.toNat 1).getLsbD (u - 32))

/-- 04 R111 to R119: every floating-point, special-function and conversion instruction computes its elements in ascending thread and element
order, handing the generator and the flags from one element to the next (03 R75), and clamps under `pfx.sat`. The values of fadd, fsub, fmul and fmac
are said in FloatElements, NanResults and DrawsOnce; those of the others here, by bit pattern: fmin and fmax; one rounding, in every mode, of the exact
scaled value, reciprocal, root, integer or narrowed value; the exact widenings; the special cases of R116 and R117. The results of fexp2, flog2, fsin,
fcos and ftanh between those cases are said in TranscendentalAccuracy. -/
def Obligations.FloatInstructions : Prop :=
  (∀ (s : State) (w : BitVec 2) (d a b : BitVec 7),
    let n := 2 ^ w.toNat
    let sat := (pfxOf s).sat
    let x (i u : Nat) : FVal := fval (V s a i u)
    let y (i u : Nat) : FVal := fval (V s b i u)
    let xs (i u : Nat) : FVal := fval (negBy s 2 (V s a i u))
    let ys (i u : Nat) : FVal := fval (negBy s 1 (V s b i u))
    let two (i : Instr) (os : List Opd) (g : Nat → Nat → Fx → Word × Fx) : Prop :=
      Ready s os → exec i s = .next (vectorResult (Noted s os) d n g)
    let os : List Opd := [.v 0 a n (act s), .v 1 b n (act s), .dv d]
    let od : List Opd := [.v 0 a n (act s), .v 1 b n (act s), .v 3 d n (act s)]
    let o1 : List Opd := [.v 0 a n (act s), .dv d]
    two (.fadd w d a b) os (fun u i fx => asWord sat (faddV fp32 (xs i u) (ys i u) fx)) ∧
    two (.fsub w d a b) os (fun u i fx => asWord sat (faddV fp32 (xs i u) (ys i u).neg fx)) ∧
    two (.fmul w d a b) os (fun u i fx => asWord sat (fmulV fp32 (xs i u) (ys i u) fx)) ∧
    two (.fmac w d a b) od (fun u i fx => asWord sat (fmaV fp32 (xs i u) (ys i u) (fval (V s d i u)) fx)) ∧
    two (.fmin w d a b) os (fun u i fx => fminMax false (V s a i u) (V s b i u) fx) ∧
    two (.fmax w d a b) os (fun u i fx => fminMax true (V s a i u) (V s b i u) fx) ∧
    two (.fscal w d a b) os (fun u i fx => asWord sat (fscalV (x i u) (V s b i u).toInt fx)) ∧
    two (.frcp w d a) o1 (fun u i fx => asWord sat (frcpV (x i u) fx)) ∧
    two (.frsq w d a) o1 (fun u i fx => asWord sat (frsqV (x i u) fx)) ∧
    two (.fsqrt w d a) o1 (fun u i fx => asWord sat (fsqrtV (x i u) fx)) ∧
    two (.fexp2 w d a) o1 (fun u i fx => asWord sat (fexp2V (V s a i u) fx)) ∧
    two (.flog2 w d a) o1 (fun u i fx => asWord sat (flog2V (V s a i u) fx)) ∧
    two (.fsin w d a) o1 (fun u i fx => asWord sat (fsinV (V s a i u) fx)) ∧
    two (.fcos w d a) o1 (fun u i fx => asWord sat (fcosV (V s a i u) fx)) ∧
    two (.ftanh w d a) o1 (fun u i fx => asWord sat (ftanhV (V s a i u) fx)) ∧
    (∀ c : BitVec 1,
      two (.cvtf w d a c) o1 (fun u i fx => asWord false (cvtfV (c == 0) (V s a i u) fx)) ∧
      two (.cvti w d a c) o1 (fun u i fx => asWord false (cvtiV (c == 0) (x i u) fx))) ∧
    two (.frnd w d a) o1 (fun u i fx => asWord false (frndV (x i u) fx)) ∧
    (∀ c : BitVec 3, two (.cvtn w d a c) [.v 0 a n (act s), if 6 ≤ c.toNat then .v 3 d n (act s) else .dv d]
      (fun u i fx => convert16 c.toNat (V s a i u) (if 6 ≤ c.toNat then V s d i u else 0) fx))) ∧
  (∀ (fx : Fx) (x y : Word), fx.mode ≤ 5 →
    let nan (z : Word) : Bool := decide (z.toNat / 2 ^ 23 % 2 ^ 8 = 255 ∧ z.toNat % 2 ^ 23 ≠ 0)
    let snan (z : Word) : Bool := nan z && decide (z.toNat % 2 ^ 23 < 2 ^ 22)
    let size (z : Word) : Nat := z.toNat % 2 ^ 31
    let finite (z : Word) : Prop := size z < 0x7F800000
    let mag (m : Fmt) (p : Nat) : ℝ :=
      if p < 2 ^ m.fb then (p : ℝ) * 2 ^ (m.emin - m.fb) else ((p % 2 ^ m.fb + 2 ^ m.fb : Nat) : ℝ) * 2 ^ ((p / 2 ^ m.fb : Nat) - m.bias - m.fb : ℤ)
    let val (z : Word) : ℝ := (if z.msb then -1 else 1) * mag fp32 (size z)
    let draw : Word := rngStep fx.rng
    let gives (r : Nat × Fx) (p : Nat) (flags : Word) : Prop :=
      r.1 = p ∧ r.2.flags = fx.flags ||| flags ∧ r.2.rng = if fx.mode = 5 then draw else fx.rng
    let goesUp (neg odd : Bool) (lo hi v : ℝ) : Prop := v ≠ lo ∧
      (fx.mode = 0 ∧ (lo + hi < 2 * v ∨ lo + hi = 2 * v ∧ odd = true) ∨ fx.mode = 2 ∧ neg = true ∨ fx.mode = 3 ∧ neg = false ∨
        fx.mode = 4 ∧ lo + hi ≤ 2 * v ∨ fx.mode = 5 ∧ (draw.toNat : ℤ) < ⌊(v - lo) / (hi - lo) * 2 ^ 32⌋)
    let rounded (m : Fmt) (neg : Bool) (v : ℝ) (r : Nat) : Prop :=
      let top := m.ones * 2 ^ m.fb
      let sign := if neg then 2 ^ (m.eb + m.fb) else 0
      (mag m top ≤ v → r = sign + if fx.mode = 1 ∨ fx.mode = 2 ∧ neg = false ∨ fx.mode = 3 ∧ neg = true then top - 1 else top) ∧
      (0 ≤ v → v < mag m top → ∃ p, p < top ∧ mag m p ≤ v ∧ v < mag m (p + 1) ∧
        let up := goesUp neg (p % 2 == 1) (mag m p) (mag m (p + 1)) v;
        (up → r = sign + (p + 1)) ∧ (¬ up → r = sign + p));
    -- fmin, fmax (R113)
    (∀ largest : Bool, let r := fminMax largest x y fx
      let key (z : Word) : Int := if z.msb then -(size z : Int) - 1 else size z
      r.2 = { fx with flags := fx.flags ||| if snan x || snan y then flagIv else 0 } ∧
      (nan x = true → nan y = true → r.1 = 0x7FC00000) ∧ (nan x = true → nan y = false → r.1 = y) ∧ (nan x = false → nan y = true → r.1 = x) ∧
      (nan x = false → nan y = false → (r.1 = x ∨ r.1 = y) ∧
        if largest then key x ≤ key r.1 ∧ key y ≤ key r.1 else key r.1 ≤ key x ∧ key r.1 ≤ key y)) ∧
    -- one rounding of the exact value (R67, R72, R74, R111, R115, R118)
    (finite x → ∀ n : Int, rounded fp32 x.msb (|val x| * 2 ^ max (-512) (min 512 n)) (fscalV (fval x) n fx).1) ∧
    (finite x → size x ≠ 0 → rounded fp32 x.msb (|val x|)⁻¹ (frcpV (fval x) fx).1) ∧
    (finite x → size x ≠ 0 → x.msb = false →
      rounded fp32 false (√(val x)) (fsqrtV (fval x) fx).1 ∧ rounded fp32 false (√(val x))⁻¹ (frsqV (fval x) fx).1) ∧
    (rounded fp32 x.msb |(x.toInt : ℝ)| (cvtfV true x fx).1 ∧ rounded fp32 false (x.toNat : ℝ) (cvtfV false x fx).1) ∧
    (finite x → (∀ (d : Word), rounded fp16 x.msb |val x| (convert16 0 x d fx).1.toNat ∧ rounded bf16 x.msb |val x| (convert16 1 x d fx).1.toNat ∧
      ∀ c ∈ ([(6, fp16), (7, bf16)] : List (Nat × Fmt)), ∃ h : Nat, h < 2 ^ 16 ∧ rounded c.2 x.msb |val x| h ∧
        (convert16 c.1 x d fx).1.toNat = 2 ^ 16 * h + d.toNat % 2 ^ 16)) ∧
    -- the exact widenings (R119)
    (∀ (d : Word), ∀ c ∈ ([(2, fp16, x.toNat % 2 ^ 16), (3, bf16, x.toNat % 2 ^ 16), (4, fp16, x.toNat / 2 ^ 16), (5, bf16, x.toNat / 2 ^ 16)] :
        List (Nat × Fmt × Nat)), let r := (convert16 c.1 x d fx).1
      let top := c.2.1.ones * 2 ^ c.2.1.fb
      let h := c.2.2 % 2 ^ 15;
      (top < h → r = 0x7FC00000) ∧ (h ≤ top → r.msb = decide (2 ^ 15 ≤ c.2.2)) ∧ (h = top → size r = 0x7F800000) ∧
      (h < top → finite r ∧ |val r| = mag c.2.1 h)) ∧
    -- rounding to an integer (R118)
    (finite x → ∃ k : ℕ, (k : ℝ) ≤ |val x| ∧ |val x| < k + 1 ∧
      let up := goesUp x.msb (k % 2 == 1) k (k + 1) |val x|
      ∃ n : ℕ, (up → n = k + 1) ∧ (¬ up → n = k) ∧
        let v : Int := if x.msb then -n else n;
        (∀ signed : Bool, let lo : Int := if signed then -2 ^ 31 else 0
          let hi : Int := if signed then 2 ^ 31 - 1 else 2 ^ 32 - 1
          (cvtiV signed (fval x) fx).1 = (BitVec.ofInt 32 (max lo (min hi v))).toNat ∧
          (cvtiV signed (fval x) fx).2.flags = fx.flags ||| (if v < lo ∨ hi < v then flagIv else if val x = v then 0 else flagNx)) ∧
        ∃ r : Word, (frndV (fval x) fx).1 = r.toNat ∧ r.msb = x.msb ∧ finite r ∧ |val r| = n ∧
          (frndV (fval x) fx).2.flags = fx.flags ||| if |val x| = n then 0 else flagNx) ∧
    (∀ signed : Bool, (nan x = true → (cvtiV signed (fval x) fx).1 = 0 ∧ (cvtiV signed (fval x) fx).2.flags = fx.flags ||| flagIv) ∧
      (size x = 0x7F800000 → (cvtiV signed (fval x) fx).2.flags = fx.flags ||| flagIv ∧ (cvtiV signed (fval x) fx).1 =
        if x.msb then (if signed then 2 ^ 31 else 0) else if signed then 2 ^ 31 - 1 else 2 ^ 32 - 1)) ∧
    -- NaNs, infinities and the special cases (R68, R116, R117)
    (nan x = true → ∀ n : Int, ∀ r ∈ [fscalV (fval x) n fx, frcpV (fval x) fx, frsqV (fval x) fx, fsqrtV (fval x) fx, fexp2V x fx, flog2V x fx, fsinV x fx,
        fcosV x fx, ftanhV x fx, frndV (fval x) fx], gives r 0x7FC00000 (if snan x then flagIv else 0)) ∧
    (size x = 0x7F800000 → ∀ n : Int, gives (fscalV (fval x) n fx) x.toNat 0 ∧ gives (frndV (fval x) fx) x.toNat 0) ∧
    (∀ p ∈ ([(frcpV (fval 0) fx, 0x7F800000, flagDz), (frcpV (fval 0x80000000) fx, 0xFF800000, flagDz), (frcpV (fval 0x7F800000) fx, 0, 0),
        (frcpV (fval 0xFF800000) fx, 0x80000000, 0), (frsqV (fval 0) fx, 0x7F800000, flagDz), (frsqV (fval 0x80000000) fx, 0xFF800000, flagDz),
        (frsqV (fval 0x7F800000) fx, 0, 0), (frsqV (fval 0xFF800000) fx, 0x7FC00000, flagIv), (fsqrtV (fval 0) fx, 0, 0),
        (fsqrtV (fval 0x80000000) fx, 0x80000000, 0), (fsqrtV (fval 0x7F800000) fx, 0x7F800000, 0), (fsqrtV (fval 0xFF800000) fx, 0x7FC00000, flagIv),
        (fexp2V 0 fx, 0x3F800000, 0), (fexp2V 0x80000000 fx, 0x3F800000, 0), (fexp2V 0x7F800000 fx, 0x7F800000, 0), (fexp2V 0xFF800000 fx, 0, 0),
        (flog2V 0 fx, 0xFF800000, flagDz), (flog2V 0x80000000 fx, 0xFF800000, flagDz), (flog2V 0x7F800000 fx, 0x7F800000, 0),
        (flog2V 0xFF800000 fx, 0x7FC00000, flagIv), (fsinV 0 fx, 0, 0), (fsinV 0x80000000 fx, 0x80000000, 0), (fsinV 0x7F800000 fx, 0x7FC00000, flagIv),
        (fsinV 0xFF800000 fx, 0x7FC00000, flagIv), (fcosV 0 fx, 0x3F800000, 0), (fcosV 0x80000000 fx, 0x3F800000, 0),
        (fcosV 0x7F800000 fx, 0x7FC00000, flagIv), (fcosV 0xFF800000 fx, 0x7FC00000, flagIv), (ftanhV 0 fx, 0, 0), (ftanhV 0x80000000 fx, 0x80000000, 0),
        (ftanhV 0x7F800000 fx, 0x3F800000, 0), (ftanhV 0xFF800000 fx, 0xBF800000, 0)] : List ((Nat × Fx) × Nat × Word)), gives p.1 p.2.1 p.2.2) ∧
    (x.msb = true → size x ≠ 0 → finite x → ∀ r ∈ [frsqV (fval x) fx, fsqrtV (fval x) fx, flog2V x fx], gives r 0x7FC00000 flagIv) ∧
    (x.msb = false → 0x43000000 ≤ size x → finite x → gives (fexp2V x fx) 0x7F800000 (flagOf ||| flagNx)) ∧
    (x.msb = true → 0x43160000 < size x → finite x → gives (fexp2V x fx) 0 (flagUf ||| flagNx)) ∧
    (∀ i : Int, -149 ≤ i → i ≤ 127 → finite x → val x = i → gives (fexp2V x fx) (if -126 ≤ i then (i + 127).toNat * 2 ^ 23 else 2 ^ (i + 149).toNat) 0) ∧
    (∀ i : Int, finite x → val x = (2 : ℝ) ^ i → ∃ r : Word, gives (flog2V x fx) r.toNat 0 ∧ finite r ∧ val r = i ∧ (i = 0 → r = 0)) ∧
    (0x49800000 < size x → finite x → gives (fsinV x fx) (if x.msb then 2 ^ 31 else 0) flagNx ∧ gives (fcosV x fx) 0x3F800000 flagNx) ∧
    (0 < size x → size x < 0x39800000 → gives (ftanhV x fx) x.toNat 0) ∧
    (0x41100000 ≤ size x → finite x → gives (ftanhV x fx) (if x.msb then 0xBF800000 else 0x3F800000) flagNx) ∧
    -- the clamp (R112)
    (∀ r : Nat, r < 2 ^ 32 → let z : Word := .ofNat 32 r
      asWord false (r, fx) = (z, fx) ∧ (asWord true (r, fx)).2 = fx ∧
      (asWord true (r, fx)).1 = if nan z || z.msb then 0 else if 0x3F800000 ≤ r then 0x3F800000 else z))

/-- 04 R115 to R117: between the special cases fexp2 and flog2 deliver one of the two fp32 values that bracket the exact result, fsin, fcos and ftanh a value
within 2 ulp of it, each with `nx`, and the same bits for the same operand whatever the furrow's state. The exact result is taken up to an error of
2^-200 (2^-100 for flog2), since the model computes it with 256 fraction bits (log entries 9 and 10). -/
def Obligations.TranscendentalAccuracy : Prop :=
  ∀ (fx : Fx) (x : Word),
    let size (z : Word) : Nat := z.toNat % 2 ^ 31
    let mag (p : Nat) : ℝ := if p < 2 ^ 23 then (p : ℝ) * 2 ^ (-149 : ℤ) else ((p % 2 ^ 23 + 2 ^ 23 : Nat) : ℝ) * 2 ^ ((p / 2 ^ 23 : Nat) - 150 : ℤ)
    let signed (neg : Bool) (m : ℝ) : ℝ := if neg then -m else m
    let val (z : Word) : ℝ := signed z.msb (mag (size z))
    let inexact (r : Nat × Fx) : Prop := r.2.flags &&& flagNx = flagNx
    let bracketed (r : Nat × Fx) (v tol : ℝ) : Prop := inexact r ∧ ∃ (w : ℝ) (p : Nat), |w - v| ≤ tol ∧ mag p ≤ |w| ∧ |w| < mag (p + 1) ∧
      ∃ q, (q = p ∨ q = p + 1) ∧ r.1 = (if w < 0 then 2 ^ 31 else 0) + q
    let close (r : Nat × Fx) (v : ℝ) : Prop := inexact r ∧ ∃ (w : ℝ) (z : Word), |w - v| ≤ 2 ^ (-200 : ℤ) ∧ r.1 = z.toNat ∧ size z < 0x7F800000 ∧
      ∀ q, mag q ≤ |w| → |w| < mag (q + 1) → |val z - w| ≤ 2 * (mag (q + 1) - mag q);
    (∀ f ∈ [fexp2V, flog2V, fsinV, fcosV, ftanhV], ∀ fx' : Fx, (f x fx).1 = (f x fx').1) ∧
    (size x < 0x7F800000 → -150 ≤ val x → val x < 128 → (∀ i : ℤ, -149 ≤ i → val x ≠ i) →
      bracketed (fexp2V x fx) ((2 : ℝ) ^ val x) ((2 : ℝ) ^ val x * 2 ^ (-200 : ℤ))) ∧
    (0 < size x → size x < 0x7F800000 → x.msb = false → (∀ i : ℤ, val x ≠ (2 : ℝ) ^ i) →
      bracketed (flog2V x fx) (Real.logb 2 (val x)) (2 ^ (-100 : ℤ))) ∧
    (0 < size x → size x ≤ 0x49800000 → close (fsinV x fx) (Real.sin (val x)) ∧ close (fcosV x fx) (Real.cos (val x))) ∧
    (0x39800000 ≤ size x → size x < 0x41100000 → close (ftanhV x fx) (Real.tanh (val x)))

/-- 04 R111, R112 and 01 R9, R28: outside `rsr` each element of fadd, fsub, fmul and fmac is the rounded function of its own operands, alone; the
flags raised are the union over the active threads' elements; nothing else changes. -/
def Obligations.FloatElements : Prop :=
  ∀ (s : State) (w : BitVec 2) (d a b : BitVec 7), roundMode s ≠ 5 →
    let n := 2 ^ w.toNat
    let sat := (pfxOf s).sat
    let xs (i u : Nat) : FVal := fval (negBy s 2 (V s a i u))
    let ys (i u : Nat) : FVal := fval (negBy s 1 (V s b i u))
    let os : List Opd := [.v 0 a n (act s), .v 1 b n (act s), .dv d]
    let od : List Opd := [.v 0 a n (act s), .v 1 b n (act s), .v 3 d n (act s)]
    let fx : Fx := { rng := s.cur.rng, mode := roundMode s }
    ∀ p ∈ ([(.fadd w d a b, os, fun i u => faddV fp32 (xs i u) (ys i u) fx), (.fsub w d a b, os, fun i u => faddV fp32 (xs i u) (ys i u).neg fx),
        (.fmul w d a b, os, fun i u => fmulV fp32 (xs i u) (ys i u) fx),
        (.fmac w d a b, od, fun i u => fmaV fp32 (xs i u) (ys i u) (fval (V s d i u)) fx)] :
          List (Instr × List Opd × (Nat → Nat → Nat × Fx))),
      Ready s p.2.1 → ∃ t, exec p.1 s = .next t ∧
        Delivered s (Noted s p.2.1) { t with iss := s.iss } d.toNat n (fun i u => (asWord sat (p.2.2 i u)).1) ∧
        t.iss = { s.iss with raised := s.iss.raised |||
          (threads s.pre.width (act s)).foldl (fun f u => (List.range n).foldl (fun f i => f ||| (p.2.2 i u).2.flags) f) 0 }

/-- 04 R114 and 01 R9, R28: the floating-point compares write the mask bits of the active threads and raise `iv` as their operands say.
On bit patterns: the order of the fp32 values is that of sign and magnitude with +0 = -0; a NaN is unordered; the quiet compares raise
`iv` for a signalling NaN, the others for any NaN. -/
def Obligations.FloatCompares : Prop :=
  (∀ (s : State) (d : BitVec 4) (a b : BitVec 7),
    let os : List Opd := [.v 0 a 1 (act s), .v 1 b 1 (act s)]
    Ready s os →
    ∀ p ∈ ([(.fceq d a b, .eq), (.fclt d a b, .lt), (.fcle d a b, .le), (.fcun d a b, .un)] : List (Instr × FRel)),
      ∃ t, exec p.1 s = .next t ∧
        MaskWritten s (Noted s os) { t with iss := s.iss } d.toNat
          (fun u => decide (u < s.pre.width) && (fcompare p.2 (V s a 0 u) (V s b 0 u)).1) ∧
        t.iss = { s.iss with raised := s.iss.raised |||
          (threads s.pre.width (act s)).foldl (fun f u => f ||| (fcompare p.2 (V s a 0 u) (V s b 0 u)).2) 0 }) ∧
  (∀ x y : Word,
    let nan (z : Word) : Bool := decide (z.toNat / 2 ^ 23 % 2 ^ 8 = 255 ∧ z.toNat % 2 ^ 23 ≠ 0)
    let snan (z : Word) : Bool := nan z && decide (z.toNat % 2 ^ 23 < 2 ^ 22)
    let zero (z : Word) : Bool := decide (z.toNat % 2 ^ 31 = 0)
    let key (z : Word) : Int := if z.msb then -(z.toNat % 2 ^ 31 : Nat) else (z.toNat % 2 ^ 31 : Nat)
    (fcompare .un x y).1 = (nan x || nan y) ∧
    (fcompare .eq x y).1 = (!nan x && !nan y && (decide (x = y) || (zero x && zero y))) ∧
    (fcompare .lt x y).1 = (!nan x && !nan y && decide (key x < key y)) ∧
    (fcompare .le x y).1 = (!nan x && !nan y && decide (key x ≤ key y)) ∧
    (fcompare .eq x y).2 = (if snan x || snan y then flagIv else 0) ∧ (fcompare .un x y).2 = (if snan x || snan y then flagIv else 0) ∧
    (fcompare .lt x y).2 = (if nan x || nan y then flagIv else 0) ∧ (fcompare .le x y).2 = (if nan x || nan y then flagIv else 0))

/-- 03 R66, R68: a NaN operand gives the canonical NaN, and no operation delivers another NaN. -/
def Obligations.NanResults : Prop :=
  ∀ (m : Fmt), m = fp32 ∨ m = fp16 ∨ m = bf16 → ∀ (x y z : FVal) (fx : Fx),
    (∀ r ∈ [faddV m x y fx, fmulV m x y fx, fmaV m x y z fx, fconvV m x fx], (fdecode m r.1).isNan = true → r.1 = m.canon) ∧
    (x.isNan = true → (faddV m x y fx).1 = m.canon ∧ (fmulV m x y fx).1 = m.canon ∧ (fmaV m x y z fx).1 = m.canon ∧ (fconvV m x fx).1 = m.canon) ∧
    (y.isNan = true → (faddV m x y fx).1 = m.canon ∧ (fmulV m x y fx).1 = m.canon ∧ (fmaV m x y z fx).1 = m.canon) ∧
    (z.isNan = true → (fmaV m x y z fx).1 = m.canon) ∧
    fp32.canon = 0x7FC00000 ∧ fp16.canon = 0x7E00 ∧ bf16.canon = 0x7FC0

/-- 03 R73 to R75: the generator's step, which never reaches zero; a result draws exactly once under `rsr`, whatever its operands, and never otherwise. -/
def Obligations.DrawsOnce : Prop :=
  (∀ x : Word, rngStep x = (let a := x ^^^ (x <<< 13); let b := a ^^^ (a >>> 17); b ^^^ (b <<< 5)) ∧ (x ≠ 0 → rngStep x ≠ 0)) ∧
  (∀ (m : Fmt) (x y z : FVal) (fx : Fx), ∀ r ∈ [faddV m x y fx, fmulV m x y fx, fmaV m x y z fx, fconvV m x fx],
    r.2.rng = (if fx.mode = 5 then rngStep fx.rng else fx.rng) ∧ r.2.mode = fx.mode)

/-- 03 R67, R69, R72: rounding toward zero delivers a finite value of the same sign, not above the exact magnitude and less than one unit in the
last place below it, or the largest finite value; `nx` says whether it is exact. -/
def Obligations.RoundsTowardZero : Prop :=
  ∀ (m : Fmt), m = fp32 ∨ m = fp16 ∨ m = bf16 → ∀ (neg : Bool) (man : Nat) (exp : Int), man ≠ 0 →
    let r := froundWith m 1 0 neg man exp false
    ∃ (k : Nat) (e : Int),
      (fdecode m r.1 = .fin neg k e) ∧
      (k : ℚ) * 2 ^ e ≤ (man : ℚ) * 2 ^ exp ∧
      ((man : ℚ) * 2 ^ exp < ((k : ℚ) + 1) * 2 ^ e ∨ r.1 = m.maxFinite neg) ∧
      (r.2 &&& flagNx = 0 ↔ (k : ℚ) * 2 ^ e = (man : ℚ) * 2 ^ exp)

/-- The worked encodings of 02, 04 to 06, 08, 11 to 13, 15 and 18: each word that the manual writes out decodes to the instruction it stands for. -/
def Obligations.DecodedWords : Prop :=
  (∀ p ∈ ([(0x8C014307, .sadd 5 6 7), (0xFC660000, .pfx 3 1 1 0 0 0 0 0), (0x3E02048A, .fadd 0 8 9 10), (0xFE000030, .lim 0x30), (0x1A244EA0, .saddi 9 9 0x6A0),
      (0x04413FFF, .br 2 4 0x3FFF), (0x06204002, .brk 1 1 2), (0x56418205, .mred 2 6 4 5), (0x00143142, .spawn 5 6 2), (0x5C808244, .ld 2 0 4 9 4),
      (0x6931408B, .ator 3 10 1 11), (0x0203FFFF, .waitc 0 63 63 63), (0x6E003944, .waitp 7 4), (0x6E0040C4, .barw 8 4), (0x6E144171, .waitw 5 8 2 1),
      (0x72228208, .kenc 10 4 8), (0x70402000, .klook 16 4), (0x74281005, .rld 10 2 0 5), (0x760CC440, .mma 0 1 1 3 1 8), (0x7A400021, .trd 16 0 1)] : List (Word × Instr)), decodeWord p.1 = .ok p.2) ∧
  (∀ p ∈ ([(0x0C600002, .drillLdd 3 0 0 2), (0x48640000, .drillLaunch 3 4), (0x64000000, .drillNext)] : List (Word × Instr)),
    decodeDrill p.1 = .ok p.2)

/-- 02 R38 to R64, 15 R336: the decoder undoes the encoder on every well-formed instruction with every operand at every value, and every word that
decodes is the encoding of what it decodes to, but for the chain bit that the group owns (02 R40). -/
def Obligations.EncodeDecode : Prop :=
  (∀ (i : Instr) (w : Word), wellFormed i = true → encode i = some w → (if isDrill i then decodeDrill w else decodeWord w) = .ok i) ∧
  (∀ (w : Word) (i : Instr), decodeWord w = .ok i →
    encode i = some (if majorOf w = 0x3E ∨ majorOf w = 0x3F then w else w &&& 0x7FFFFFFF)) ∧
  (∀ (w : Word) (i : Instr), decodeDrill w = .ok i → encode i = some w)

/-- 02 R38, R40 to R46; 15 R335: a step that turns to a furrow fetches the group at its entry's packet and slot, runs the members in slot order and
then moves the entry past the group's last word, unless a member sent it elsewhere. A group with a register that another entry's operation or reply still
locks waits (02 R47), and a group that waits at issue leaves the turn to the furrow's other entries: that it gives way is the model's choice (log entry
65). A step that turns to a drill runs its next word. That an input in line comes first (log entry 5), that one which nothing hears is dropped (log
entry 68), and then a hardware error in line (log entry 64), are the model's choices too. -/
def Obligations.StepRunsDecoded : Prop :=
  (∀ (s : State) (e : Instr) (rest : List Instr), s.agenda = e :: rest →
    step s = if isInput e = true ∧ hears s e = true then exec e { s with agenda := rest } else .next { s with agenda := rest }) ∧
  (∀ (s s' t : State) (fk id last : Nat) (f : Furrow) (ws : List Word) (ms : List Member),
    s.agenda = [] → s.upsets = [] → todos s = [.issue fk] → chooseEntry (s.furrow fk) [] = (f, some id) → tfind s.held (heldKey fk id) = none →
    let g := makeResident f id
    let e := g.entry id
    let u := keepFurrow s' fk g
    placedReport (s.furrow fk) = none → lateTrap g = none → insideCode g e.pc.toNat = true → fetchGroup s g e.pc e.slot = .words ws s' → nopGroup g.stream ws e.slot = none →
    decodeGroup g.stream ws e.slot = (last, .ok ms) →
    let i : Issue := { furrow := fk, entry := id, pkt := e.pc, slot := e.slot, lastSlot := last };
    (interlocks (interlocked u fk id g) ms = true →
      step s = issueTurns exec fk 63 [id] { s with tick := s'.tick, iss := { i with stall := .wait } } (s.furrow fk)) ∧
    (interlocks (interlocked u fk id g) ms = false → runMembers exec ms { u with pre := g, cur := g, iss := i } = .next t →
      (t.iss.stall ≠ .wait → step s = .next (finishGroup u t)) ∧
      (t.iss.stall = .wait → step s = issueTurns exec fk 63 [id] { s with tick := t.tick, iss := t.iss } (s.furrow fk)))) ∧
  (∀ (s : State) (m : Member), m.pfx = none → m.lim = none → s.iss.park = [] →
    runMembers exec [m] s = exec m.instr { s with iss := { s.iss with slot := m.slot, word := m.word, pfx := none, lim := none } }) ∧
  (∀ (mcc : Bool) (ws : List Word) (slot : Nat) (w : Word) (i : Instr), slot < 3 → ws[slot]? = some w → chain w = false → decodeWord w = .ok i →
    wellFormed i = true → unitRuns mcc w = true → majorOf w ≠ 0x3E → majorOf w ≠ 0x3F →
    decodeGroup mcc ws slot = (slot, .ok [{ slot, word := w, instr := i }])) ∧
  (∀ s0 s : State, s.iss.stall = .none → s.iss.trapped = false → s.iss.rest = [] → s.iss.under = none →
    finishGroup s0 s =
      let n := orRaised { s with cur := noteIssue s.cur s.iss.entry, held := terase s.held (heldKey s.iss.furrow s.iss.entry) }
      storeFurrow (passPads 2 (applyCtl { n with cur := n.cur.modEntry s.iss.entry fun e => { e with waits := e.waits ++ s.iss.park } }))) ∧
  (∀ (n : Nat) (s : State), (s.cur.entry s.iss.entry).slot = 0 ∨ (s.cur.entry s.iss.entry).waits ≠ [] → passPads n s = s) ∧
  (∀ s : State, s.iss.ctl = .fall →
    let n : Word × Nat := if s.iss.lastSlot = 2 then (s.iss.pkt + 1, 0) else (s.iss.pkt, s.iss.lastSlot + 1)
    applyCtl s = { s with cur := continueAt s.cur s.iss.entry n.1 n.2 }) ∧
  (∀ (s : State) (u : Upset) (rest : List Upset), s.agenda = [] → s.upsets = u :: rest → step s = .next (upset { s with upsets := rest } u)) ∧
  (∀ (s : State) (q : Nat), s.agenda = [] → s.upsets = [] → todos s = [.drill q] → (s.queue q).inPacket = true →
    step s = exec (drillInstr s q) { s.modDie (q / 64) (fun d => { d with lastDrill := q }) with dq := q })

/-- No instruction and no event of the opcode table stops the device. A step stops only when nothing is in line and no unit has anything to do. -/
def Obligations.NeverRefuses : Prop :=
  (∀ (i : Instr) (s : State), ∃ t, exec i s = .next t) ∧
  (∀ s : State, (∃ t, step s = .next t) ∨ (step s = .fault .idle ∧ s.agenda = [] ∧ s.upsets = [] ∧ todos s = []))

/-- 17 R370, R374, 08 R222, 15 R330, R331: the device right after reset; 01 R10, R25, R29: a furrow at admission. The zero of host memory and the empty
lists of inputs and errors are the model's own choices (log entries 2, 5 and 64). -/
def Obligations.ResetState : Prop :=
  State.reset.agenda = [] ∧ State.reset.upsets = [] ∧ State.reset.furrows = [] ∧ State.reset.plots = [] ∧ State.reset.launches = [] ∧ State.reset.ops = [] ∧
  (∀ k, readByte State.reset.mem k = 0) ∧ State.reset.pkg.bootst = 5 ∧ (∀ c, (State.reset.cluster c).budget = 0x00040000) ∧
  (∀ q, (State.reset.queue q).qstat = 0 ∧ (State.reset.queue q).en = false) ∧ (∀ c, (State.reset.cluster c).cbrate = 156250) ∧
  (∀ (fidx w : Nat) (pc tvec : Word) (h : BitVec 48), w = 16 ∨ w = 32 ∨ w = 64 →
    let f := newFurrow fidx w pc tvec h
    (∀ r t, f.vget r t = 0) ∧ (∀ r, f.sget r = 0) ∧ (∀ r, r ≠ 0 → f.kget 0 r = 0) ∧ (∀ u, (f.kget 0 0).getLsbD u = decide (u < w)) ∧
    (∀ p, tget f.ctr p 0 = 0) ∧ f.entries = [{ id := 0, parent := 0, live := true, mask := f.full, pc := pc, slot := 0 }] ∧
    f.status = 0 ∧ f.epc = 0 ∧ f.cause = 0 ∧ f.info = 0 ∧ f.rt = false ∧ f.cyclh = 0 ∧ f.tvec = tvec ∧
    f.rng = 0x6A09E667 ^^^ .ofNat 32 fidx ∧ f.pts = h ∧ f.seen = h ∧ f.maxw = h)

/-- The memory of the reset state is in the canonical form that every step keeps. -/
def Obligations.MemoryCanonicalAtReset : Prop :=
  State.reset.mem.wf = true

/-- Every step of the device, whichever unit moves and whatever input comes, keeps memory in its one canonical form, so that equal memories are equal
data. -/
def Obligations.StepKeepsMemoryCanonical : Prop :=
  ∀ s t : State, s.mem.wf = true → step s = .next t → t.mem.wf = true

/-- 00 R2: bytes are little-endian; a byte written is read back and no other byte changes; equal memories are equal data. -/
def Obligations.MemoryWords : Prop :=
  (∀ (m : Memory) (k : Nat) (bs : List Byte) (j : Nat),
    readByte (writeBytes m k bs) j = if k ≤ j ∧ j < k + bs.length then nth bs (j - k) 0 else readByte m j) ∧
  (∀ (m : Memory) (k : Nat) (bs : List Byte), m.wf = true → (writeBytes m k bs).wf = true) ∧
  (∀ (m : Memory) (k : Nat), read32 m k = readByte m (k + 3) ++ readByte m (k + 2) ++ readByte m (k + 1) ++ readByte m k) ∧
  (∀ (m : Memory) (k : Nat), read64 m k = read32 m (k + 4) ++ read32 m k) ∧
  (∀ (m : Memory) (k : Nat) (w : Word), read32 (write32 m k w) k = w) ∧ (∀ (m : Memory) (k : Nat) (w : Dword), read64 (write64 m k w) k = w) ∧
  (∀ m n : Memory, m.wf = true → n.wf = true → (∀ k, readByte m k = readByte n k) → m = n)

/-- 01 R25, R26, R22; 05 R131, R145: every special register that `rdsr` reads, and the counters that `rdcnt` reads. `cycle` reads a count that has grown
since the last read and latches its high half; by how much is the model's free value (log entry 8). -/
def Obligations.SpecialRegisterReads : Prop :=
  ∀ (s : State) (d : BitVec 7), let f := s.pre
    (Ready s [.ds d] →
      (∀ p ∈ ([(2, if f.stream then 0 else .ofNat 32 f.fidx), (3, .ofNat 32 f.width), (4, if f.stream then 0xFFFFFFFF else .ofNat 32 (s.plot f.plot).index),
          (5, .ofNat 32 (s.croft f.croft).index), (6, if f.stream then 0 else .ofNat 32 f.core), (7, .ofNat 32 f.cluster), (8, .ofNat 32 (f.cluster / 64)),
          (9, s.pkg.devno.setWidth 32), (10, .ofNat 32 f.ctx), (20, f.cyclh), (21, f.status), (22, (s.cluster f.cluster).budget), (28, f.rng)]
            : List (BitVec 5 × Word)),
        exec (.rdsr d p.1) s = .next { s with cur := s.cur.sset d.toNat p.2 }) ∧
      (∀ i : Nat, i < 8 → exec (.rdsr d (.ofNat 5 (11 + i))) s = .next { s with cur := s.cur.sset d.toNat (levelCoord s f i) }) ∧
      (f.rt = true → ∀ p ∈ ([(23, f.epc), (24, f.cause), (25, f.info), (26, f.tvec), (27, 1)] : List (BitVec 5 × Word)),
        exec (.rdsr d p.1) s = .next { s with cur := s.cur.sset d.toNat p.2 }) ∧
      (let c : Dword := (s.core f.gcore).cycle + 1 + .ofNat 64 (Config.cyclesPassed s.tick)
        let u := ({ s with tick := s.tick + 1 } : State).modCore f.gcore fun x => { x with cycle := c }
        let g : Furrow := { s.cur with cyclh := (c >>> 32).setWidth 32 }
        exec (.rdsr d 19) s = .next { u with cur := g.sset d.toNat (c.setWidth 32) }) ∧
      (∀ p : BitVec 5, exec (.rdcnt d p) s = .next { s with cur := s.cur.sset d.toNat ((tget f.ctr p.toNat 0).setWidth 32) })) ∧
    (f.stream = false → Ready s [.dv d] → ∀ n : BitVec 5, n.toNat < 2 → ∃ t, exec (.rdsr d n) s = .next t ∧
      (∀ r u, u < 64 → t.cur.vget r u =
        if r = d.toNat ∧ r ≠ 0 ∧ u < f.width ∧ (entryMask s).getLsbD u then .ofNat 32 (if n = 0 then u % 16 else u) else s.cur.vget r u) ∧
      t = { s with cur := { s.cur with v := t.cur.v, vMark := t.cur.vMark } }) ∧
    (f.stream = true → ∀ n : BitVec 5, n.toNat < 2 → exec (.rdsr d n) s = .next s)

/-- 01 R25, R27 to R30; 00 R4; 05 R148, R149: what `wrsr` stores in each register it may name. Reserved bits of `status` are stored as zero, `frm` 6 and 7
as 0; a zero `rng` as 1; `mode` is not changed. -/
def Obligations.SpecialRegisterWrites : Prop :=
  ∀ (s : State) (a : BitVec 7), Ready s [.s 0 a] → let x := S s a
    let st : Word := .ofNat 32 ((if 6 ≤ x.toNat % 8 then 0 else x.toNat % 8) + x.toNat / 16 % 64 * 16 + x.toNat / 2 ^ 16 % 2 * 2 ^ 16)
    exec (.wrsr a 21) s = .next { s with cur := { s.cur with status := st } } ∧
    exec (.wrsr a 28) s = .next { s with cur := { s.cur with rng := if x = 0 then 1 else x } } ∧
    (s.pre.rt = true →
      exec (.wrsr a 23) s = .next { s with cur := { s.cur with epc := if x.toNat % 4 = 3 then .ofNat 32 (x.toNat / 4 * 4) else x } } ∧
      exec (.wrsr a 24) s = .next { s with cur := { s.cur with cause := .ofNat 32 (x.toNat % 64) } } ∧
      exec (.wrsr a 25) s = .next { s with cur := { s.cur with info := x } } ∧
      exec (.wrsr a 26) s = .next { s with cur := { s.cur with tvec := .ofNat 32 (x.toNat / 12 * 12) } } ∧
      exec (.wrsr a 27) s = .next s) ∧
    (∀ n, srWritable n = false → wellFormed (.wrsr a n) = false)

/-- 01 R15, R18, R25, R31, R34, 05 R150: privilege, then allocation, then poison. That the first operand beyond the allocation in the order a, b, c,
destination is the one named is the model's reading (log entry 27). The trapping member has no
effect of its own; what the trap does is TrapEntry. 01 R32, R36: an uncorrectable error marks the element, or the whole mask register, and leaves its
value; that it comes as an input in line is the model's choice (log entry 64). -/
def Obligations.MemberChecks : Prop :=
  (∀ (s : State) (d : BitVec 7) (n : BitVec 5), 23 ≤ n.toNat → n.toNat ≤ 27 → s.pre.rt = false →
    exec (.rdsr d n) s = .next (raise s 0x02 (.ofNat 32 n.toNat)) ∧ exec (.wrsr d n) s = .next (raise s 0x02 (.ofNat 32 (32 + n.toNat)))) ∧
  (∀ (s : State) (i : BitVec 1), s.pre.rt = false → exec (.rte i) s = .next (raise s 0x02 64)) ∧
  (∀ (s : State) (d a b : BitVec 7), (s.pre.scount ≤ a.toNat → exec (.sadd d a b) s = .next (raise s 0x03 (.ofNat 32 (2 ^ 12 + a.toNat)))) ∧
    (a.toNat < s.pre.scount → s.pre.scount ≤ b.toNat → exec (.sadd d a b) s = .next (raise s 0x03 (.ofNat 32 (2 ^ 16 + 2 ^ 12 + b.toNat)))) ∧
    (a.toNat < s.pre.scount → b.toNat < s.pre.scount → s.pre.scount ≤ d.toNat →
      exec (.sadd d a b) s = .next (raise s 0x03 (.ofNat 32 (3 * 2 ^ 16 + 2 ^ 12 + d.toNat))))) ∧
  (∀ (s : State) (w : BitVec 2) (d a b : BitVec 7), s.pre.vcount ≤ a.toNat →
    ∀ i ∈ [Instr.vadd w d a b, .vsub w d a b, .fadd w d a b, .fmac w d a b, .vceq 1 a b, .fclt 1 a b],
      exec i s = .next (raise s 0x03 (.ofNat 32 a.toNat))) ∧
  (∀ (s : State) (o : Opd) (os : List Opd) (k : State → State), (os.find? (·.beyond s.pre)) = none →
    let n := Noted s os
    (∀ t r, firstPoison s.pre (maskPrefixOpd s ++ os) = some (o, t, r) →
      guarded s none os k = raise (logRegister n true o.file r t) 0x04 (opdInfo o (if o.file = 0 then t else 0) r)) ∧
    (firstPoison s.pre (maskPrefixOpd s ++ os) = none → guarded s none os k = k n)) ∧
  (∀ (f : Furrow) (os : List Opd) (o : Opd) (t r : Nat), firstPoison f os = some (o, t, r) →
    o ∈ os ∧ o.consumes r t = true ∧ (∃ m, m ≠ Mark.clean ∧ (r, t, m) ∈ marksOf f o.file) ∧
    (∀ t' r' m, (r', t', m) ∈ marksOf f o.file → m ≠ .clean → o.consumes r' t' = true → t < t' ∨ t = t' ∧ r ≤ r')) ∧
  (∀ (s : State) (fk reg thr : Nat), (tfind s.furrows fk).isSome = true →
    let f := s.furrow fk
    let g (file : Nat) : Furrow := (upset s (.element fk file reg thr)).furrow fk
    (0 < reg → reg < f.vcount → thr < f.width → tget f.vMark (64 * reg + thr) .clean = .clean →
      tget (g 0).vMark (64 * reg + thr) .clean = .uncorrectable ∧ (∀ k, k ≠ 64 * reg + thr → tget (g 0).vMark k .clean = tget f.vMark k .clean) ∧
      (g 0).v = f.v) ∧
    (0 < reg → reg < f.scount → tget f.sMark reg .clean = .clean → tget (g 1).sMark reg .clean = .uncorrectable ∧ (g 1).s = f.s) ∧
    (0 < reg → reg < 16 → tget f.kMark reg .clean = .clean → tget (g 2).kMark reg .clean = .uncorrectable ∧ (g 2).k = f.k))

/-- 05 R146, R147, R130, 01 R30, 02 R49, R64: taking a trap saves the word's packet and slot, the cause and `info`, enters runtime mode and sends the entry
to the table's packet; in runtime mode, without a table, or with the table entry outside the code, it is a plot fault. -/
def Obligations.TrapEntry : Prop :=
  (∀ (s : State) (c : BitVec 6) (x : Word),
    let f := s.cur
    let q := (f.tvec.toNat + 48 * c.toNat) / 12
    let epc := (s.iss.pkt <<< 2) ||| .ofNat 32 (s.iss.slot % 4)
    (f.rt = false → f.tvec ≠ 0 → 12 * q + 12 ≤ f.csize.toNat →
      raise s c x = { s with
        iss := { s.iss with trapped := true },
        cur := { f with epc, cause := c.setWidth 32, info := x, rt := true, handler := s.iss.entry,
                        entries := f.entries.map fun e => if e.id = s.iss.entry then { e with pc := .ofNat 32 q, slot := 0 } else e } }) ∧
    (f.rt = true ∨ f.tvec = 0 ∨ f.csize.toNat < 12 * q + 12 →
      ∃ t, raise s c x = t ∧ t.iss = { s.iss with trapped := true } ∧ t.cur = { f with stopped := true } ∧
        (f.stream = false → ∀ k ∈ (s.plot f.plot).furrows, (t.furrow k).stopped = true ∨ tfind s.furrows k = none))) ∧
  (∀ (s : State) (i : BitVec 5), exec (.trap i) s = .next (raise s 0x0E (i.setWidth 32)) ∧ exec (.brkpt i) s = .next (raise s 0x0F (i.setWidth 32))) ∧
  (∀ (s : State) (c : BitVec 6) (sl : BitVec 2) (w : BitVec 32),
    exec (.illegalPattern c sl w) s = .next (raise { s with iss := { s.iss with slot := sl.toNat } } c w))

/-- 05 R148, R138: `rte 0` resumes at the saved word, `rte 1` after it; runtime mode ends. A target outside the code raises cause 0x06 at the `rte`:
R138 and R139 say two things, and that it is the `rte`'s own trap is the model's reading (log entry 26). -/
def Obligations.TrapReturn : Prop :=
  ∀ (s : State) (i : BitVec 1), s.pre.rt = true → Ready s [] →
    let pkt : Word := s.pre.epc >>> 2
    let slot := s.pre.epc.toNat % 4
    let q : Word := if i = 1 ∧ slot = 2 then pkt + 1 else pkt
    let sl := if i = 0 then slot else if slot = 2 then 0 else slot + 1
    (12 * q.toNat + 12 ≤ s.pre.csize.toNat →
      exec (.rte i) s = .next { s with cur := { s.cur with rt := false }, iss := { s.iss with ctl := .goto q sl } }) ∧
    (s.pre.csize.toNat < 12 * q.toNat + 12 → exec (.rte i) s = .next (raise s 0x06 q))

/-- 05 R137: `loop` lowers S[n] modulo 2^32 and branches while it is not zero; a count of 0 wraps and branches; s0 is an illegal encoding. 05 R138: a
taken branch outside the code traps and writes nothing. -/
def Obligations.LoopInstruction : Prop :=
  (∀ (s : State) (r : BitVec 7) (o : BitVec 14), Ready s [.s 3 r] →
    let x := S s r - 1
    let q : Int := s.iss.pkt.toNat + (imm32 s 14 o).toInt
    (x = 0 → exec (.loop r o) s = .next { s with cur := s.cur.sset r.toNat x }) ∧
    (x ≠ 0 → 0 ≤ q → 12 * q + 12 ≤ s.pre.csize.toNat →
      exec (.loop r o) s = .next { s with cur := s.cur.sset r.toNat x, iss := { s.iss with ctl := .goto (.ofInt 32 q) 0 } }) ∧
    (x ≠ 0 → q < 0 ∨ s.pre.csize.toNat < 12 * q + 12 → exec (.loop r o) s = .next (raise s 0x06 (.ofInt 32 q)))) ∧
  (∀ (s : State) (r : BitVec 7), S s r = 0 → S s r - 1 = 0xFFFFFFFF) ∧
  (∀ (mcc : Bool) (ws : List Word) (slot : Nat) (o : BitVec 14), slot < 3 →
    let w : Word := 0x0A000000 + o.setWidth 32
    decodeWord w = .ok (.loop 0 o) ∧ wellFormed (.loop 0 o) = false ∧
    (ws[slot]? = some w → decodeGroup mcc ws slot = (slot, .error { cause := 0x01, slot, word := w })))

/-- 02 R58, R59, 05 R135, R136, R138: branches, jumps and calls. A call links the next packet (a link to s0 is discarded); a transfer outside the code
raises cause 0x06 and has no effect; a branch that is not taken never looks at its target. -/
def Obligations.Transfers : Prop :=
  ∀ s : State,
    let inside (q : Int) : Prop := 0 ≤ q ∧ 12 * q + 12 ≤ s.pre.csize.toNat
    let to_ (q : Int) : State := { s with iss := { s.iss with ctl := .goto (.ofInt 32 q) 0 } }
    let off (o : BitVec 14) : Int := s.iss.pkt.toNat + (imm32 s 14 o).toInt
    (∀ (k : BitVec 4) (r : BitVec 7) (o : BitVec 14), Ready s [.s 3 r] → k.toNat ≤ 6 →
      let x := (S s r).toInt
      let c : Prop := [True, x = 0, x ≠ 0, x < 0, 0 ≤ x, 0 < x, x ≤ 0].getD k.toNat False
      (¬ c → exec (.br k r o) s = .next s) ∧
      (c → inside (off o) → exec (.br k r o) s = .next (to_ (off o))) ∧
      (c → ¬ inside (off o) → exec (.br k r o) s = .next (raise s 0x06 (.ofInt 32 (off o))))) ∧
    (∀ a : BitVec 7, Ready s [.s 0 a] → let q : Int := (S s a).toNat
      (inside q → exec (.jmp a) s = .next (to_ q)) ∧ (¬ inside q → exec (.jmp a) s = .next (raise s 0x06 (.ofInt 32 q)))) ∧
    (∀ (r : BitVec 7) (o : BitVec 14), Ready s [.ds r] →
      (inside (off o) → exec (.call r o) s = .next { to_ (off o) with cur := s.cur.sset r.toNat (s.iss.pkt + 1) }) ∧
      (¬ inside (off o) → exec (.call r o) s = .next (raise s 0x06 (.ofInt 32 (off o))))) ∧
    (∀ d a : BitVec 7, Ready s [.s 0 a, .ds d] → let q : Int := (S s a).toNat
      (inside q → exec (.callr d a) s = .next { to_ q with cur := s.cur.sset d.toNat (s.iss.pkt + 1) }) ∧
      (¬ inside q → exec (.callr d a) s = .next (raise s 0x06 (.ofInt 32 q))))

/-- 05 R140, R138, R147, R150, 01 R21: the branch on a mask register: which way the entry goes, when it splits, the traps, and the plot fault of a split
in runtime mode. That the target is looked at before runtime mode, and that before the room for a split, is the model's reading (log entry 26). -/
def Obligations.BranchOnMask : Prop :=
  ∀ (s : State) (k r : BitVec 4) (o : BitVec 14), Ready s [.k 3 r] → k.toNat ≤ 4 →
    let m := s.pre.kget s.iss.entry 0
    let kr := s.pre.kget s.iss.entry r.toNat
    let t := if k = 1 then m &&& ~~~kr else m &&& kr
    let q : Int := s.iss.pkt.toNat + (imm32 s 14 o).toInt
    let ctl (c : Ctl) : Result := .next { s with iss := { s.iss with ctl := c } }
    let taken : Prop := k = 2 ∧ t ≠ 0 ∨ k = 3 ∧ t = m ∨ k = 4 ∧ t = 0 ∨ k.toNat < 2 ∧ t = m
    let splits : Prop := k.toNat < 2 ∧ t ≠ m ∧ t ≠ 0
    let inside : Prop := 0 ≤ q ∧ 12 * q + 12 ≤ s.pre.csize.toNat
    (¬ taken → ¬ splits → exec (.brk k r o) s = ctl .nextPacket) ∧
    (taken → inside → exec (.brk k r o) s = ctl (.goto (.ofInt 32 q) 0)) ∧
    (taken ∨ splits → ¬ inside → exec (.brk k r o) s = .next (raise s 0x06 (.ofInt 32 q))) ∧
    (splits → inside → s.pre.rt = false → s.pre.entries.length + 2 ≤ 8 + s.pre.spill / 16 → exec (.brk k r o) s = ctl (.split t (.ofInt 32 q))) ∧
    (splits → inside → s.pre.rt = false → 8 + s.pre.spill / 16 < s.pre.entries.length + 2 →
      exec (.brk k r o) s = .next (raise s 0x0D (.ofNat 32 (s.pre.spill / 16 * 256 + s.pre.entries.length)))) ∧
    (splits → inside → s.pre.rt = true →
      let u := plotFault s (some ((s.iss.pkt <<< 2) ||| .ofNat 32 (s.iss.slot % 4))) 0x11 s.pre.epc none
      exec (.brk k r o) s = .next { u with iss := { u.iss with trapped := true } } ∧ u.cur = { s.cur with stopped := true } ∧
      (s.cur.stream = false → ∀ f ∈ (s.plot s.cur.plot).furrows, (u.furrow f).stopped = true ∨ tfind s.furrows f = none))

/-- 05 R140, 01 R19 to R21: a split makes two entries with the two lowest free identifiers, the taken threads at the target and the others at the next packet; their
parent is dormant and keeps its mask; nothing else of the furrow changes. Of more than eight entries the oldest-created dormant one is spilled, or the
live one that issued least recently when none is dormant; its record of 16 bytes stands in the spill area and is read back. 05 R142: an entry that comes
to a packet's boundary where a live sibling stands fuses with it into their parent, which is then looked at in the same way. -/
def Obligations.SplitEntry : Prop :=
  (∀ (f : Furrow) (id : Nat) (t : Mask) (tgt nxt : Word) (a b : Nat) (rest : List Nat) (e : Entry),
    f.freeIds = a :: b :: rest → f.entries.find? (·.id == id) = some e → tgt ≠ nxt → e.waits = [] →
    (∀ x ∈ f.entries, x.parent = id → x.id = id) → (f.entries.filter (·.resident)).length ≤ 8 → (f.entries.map (·.id)).Nodup →
    let g := split f id t tgt nxt
    (a ≠ id ∧ b ≠ id ∧ a < b ∧ f.hasEntry a = false ∧ f.hasEntry b = false ∧ (∀ n, n < a → n < 2 * f.width → f.hasEntry n = true) ∧
      (∀ n, a < n → n < b → f.hasEntry n = true)) ∧
    (∀ x, (x = a ∧ (g.entry x).mask = t ∧ (g.entry x).pc = tgt) ∨ (x = b ∧ (g.entry x).mask = e.mask &&& ~~~t ∧ (g.entry x).pc = nxt) ∨ (x ≠ a ∧ x ≠ b)) ∧
    (∀ x, x = a ∨ x = b → let n := g.entry x
      n.id = x ∧ n.parent = id ∧ n.live = true ∧ n.slot = 0 ∧ n.waits = [] ∧ n.resident = true) ∧
    (g.entry id).live = false ∧ (g.entry id).mask = e.mask ∧ (g.entry id).parent = e.parent ∧
    (∀ n, n ≠ id → n ≠ a → n ≠ b → g.entry n = { f.entry n with resident := (g.entry n).resident }) ∧
    g = { f with entries := g.entries } ∧
    -- at most eight stay in the core (R20)
    (g.entries.filter (·.resident)).length ≤ 8 ∧ (f.entries.length + 2 ≤ 8 → ∀ x, (g.entry x).resident = false → (f.entry x).resident = false) ∧
    (∀ x ∈ g.entries, ∀ y ∈ g.entries, x.resident = false → (f.entry x.id).resident = true → y.resident = true → y.id ≠ a → y.id ≠ b →
      (x.live = false → y.live = false → x.born ≤ y.born) ∧ (x.live = true → y.live = true ∧ x.issued ≤ y.issued))) ∧
  (∀ (f : Furrow) (id : Nat) (e : Entry), f.entries.find? (·.id == id) = some e → e.resident = false → (f.entries.map (·.id)).Nodup →
    (∀ x ∈ f.entries, x.id < 128 ∧ x.parent < 128 ∧ x.slot < 4) →
    (syncSpill f).spilled.length = 16 * (f.entries.filter fun x => !x.resident).length ∧
    (makeResident (syncSpill f) id).entry id = { e with resident := true } ∧
    ∀ r, f.spillRecord id = some r → let g := (makeResident f id).entry id
      g.slot = r % 4 ∧ g.parent = r / 2 ^ 16 % 128 ∧ g.id = r / 2 ^ 23 % 128 ∧ g.live = decide (r / 2 ^ 30 % 4 = 1) ∧
      g.pc = .ofNat 32 (r / 2 ^ 32) ∧ g.mask = .ofNat 64 (r / 2 ^ 64)) ∧
  -- fusion (05 R142)
  (∀ (f : Furrow) (id slot : Nat) (p : Word) (x : Entry), f.entries.find? (·.id == id) = some x → (f.entries.map (·.id)).Nodup →
    let others := f.entries.filter fun y => y.id != id && y.id != y.parent && y.parent == x.parent
    (slot ≠ 0 ∨ x.live = false ∨ x.parent = id ∨ (∀ y ∈ others, y.live = false ∨ y.slot ≠ 0 ∨ y.pc ≠ p) →
      continueAt f id p slot = { f with entries := f.entries.map fun e => if e.id = id then { e with pc := p, slot } else e }) ∧
    (∀ y, others = [y] → slot = 0 → x.live = true → x.parent ≠ id → y.live = true → y.slot = 0 → y.pc = p → f.hasEntry x.parent = true →
      (f.entry x.parent).resident = true →
      let q := x.parent
      continueAt f id p 0 = continueAt { f with
        entries := (f.entries.filter fun e => e.id != id && e.id != y.id).map fun e =>
          if e.id = q then { e with live := true, mask := x.mask ||| y.mask, pc := p, slot := 0, waits := x.waits ++ y.waits, lag := 0 } else e
        handler := if f.handler = id ∨ f.handler = y.id then q else f.handler } q p 0))

/-- 02 R46, R53, R56, 05 R130, R132, 06 R177, R178: members that leave the registers alone: what they tell the group to do, and when a counter wait is over.
08 R233: a counter wait of a stream traps when it covers a poisoned matrix operation; that it reports the oldest, one at a time and each by itself,
is the model's reading (log entry 38). -/
def Obligations.GroupControl : Prop :=
  ∀ s : State,
    exec .nop s = .next s ∧ exec .yield s = .next { s with iss := { s.iss with ctl := .nextPacket } } ∧
    exec .exit s = .next { s with iss := { s.iss with ctl := .exit } } ∧
    (∀ a : BitVec 7, Ready s [.s 0 a] → exec (.halt a) s = .next { s with iss := { s.iss with ctl := .halt (S s a) } }) ∧
    (∀ k r z f w n t x, exec (.pfx k r z f w n t x) s = .next { s with iss := { s.iss with pfx := some (.pfx k r z f w n t x) } }) ∧
    (∀ i, exec (.lim i) s = .next { s with iss := { s.iss with lim := some (.lim i) } }) ∧
    (let waits (n : Nat) (w : Wait) (i : Instr) : Prop :=
        let hit := s.cur.poisonTrap.find? fun x => decide (n ≤ x.1)
        (s.pre.stream = false ∨ 63 ≤ n ∨ hit = none ∧ (poisonMayCome s && coveredMatrix s n) = false →
          exec i s = .next { s with iss := { s.iss with park := s.iss.park ++ [w] } }) ∧
        (s.pre.stream = true → n < 63 → ∀ x, hit = some x →
          exec i s = .next (raise { s with cur := { s.cur with poisonTrap := s.cur.poisonTrap.erase x } } 0x10 x.2)) ∧
        (s.pre.stream = true → n < 63 → hit = none → (poisonMayCome s && coveredMatrix s n) = true →
          exec i s = .next { s with iss := { s.iss with stall := .wait } });
      (∀ l t p m : BitVec 6, waits m.toNat (.counters [l.toNat, t.toNat, p.toNat, m.toNat, 63, 63]) (.waitc l t p m)) ∧
      (∀ (a : BitVec 7) (p : BitVec 5), p.toNat < 6 → Ready s [.s 0 a] →
        waits (if p = 3 then (S s a).toNat else 63) (.counters ((List.range 6).map fun i => if i = p.toNat then (S s a).toNat else 63)) (.waitp a p))) ∧
    (∀ (f : Furrow) (l : List Nat), waitOver s f (.counters l) = true ↔
      ∀ i, i < 6 → 63 ≤ nth l i 63 ∨ (tget f.ctr i 0).toNat ≤ nth l i 63) ∧
    (∀ (f : Furrow) (id : Nat) (e : Entry), f.entries = [e] → e.id = id → e.parent = id →
      exitEntry f id = { f with entries := [], rt := false }) ∧
    (∀ (f : Furrow) (id : Nat) (e c : Entry), f.entries.find? (·.id == id) = some e → (f.entries.map (·.id)).Nodup → e.parent ≠ id →
      let up (n : Nat) : Nat := (f.entry n).parent
      let p := f.entry e.parent
      f.hasEntry e.parent = true → (f.entries.filter fun x => x.parent == p.id && x.id != p.id && x.id != id) = [c] → (∀ k, up^[k] id ≠ c.id) →
      (∃ k, k < f.entries.length ∧ up (up^[k] id) = up^[k] id) →
      ∃ h : Furrow, exitEntry f id = (if c.slot = 0 then continueAt h c.id c.pc 0 else h) ∧
        h = { f with entries := h.entries, spilled := h.spilled, rt := false } ∧ h.hasEntry id = false ∧ h.hasEntry p.id = false ∧
        h.entry c.id = { c with parent := if p.parent = p.id then c.id else p.parent } ∧
        (∀ n, n ≠ id → n ≠ p.id → n ≠ c.id → f.hasEntry n = true → (∃ k, up^[k] id = n) →
          h.entry n = { f.entry n with mask := (f.entry n).mask &&& ~~~e.mask }) ∧
        (∀ n, n ≠ id → n ≠ p.id → n ≠ c.id → (∀ k, up^[k] id ≠ n) → h.entry n = f.entry n))

/-- 05 R133, 06 R158, R159: `sysc` sends its record to the context's fault ring and suspends the entry for the reply, one at a time for the furrow; without a
ring it raises cause 0x06. `spawn` makes as many furrows as fit and answers how many; when it makes one it consumes s1 to s4, which it copies, as
any member consumes a register (the model's reading, log entry 66).
02 R45, R46, R53, R56, 05 R130, R132, 06 R177, R178: nop, yield, exit, halt, the attached words and a furrow's counter waits complete in every state. -/
def Obligations.ServiceAndSpawn : Prop :=
  (∀ (s : State) (d a : BitVec 7) (n : BitVec 5), Ready s [.s 0 a 4, .ds d] → let f := s.pre
    ((s.ctx f.ctx).fring = 0 → exec (.sysc d a n) s = .next (raise s 0x06 (.ofNat 32 (2 ^ 31 + n.toNat)))) ∧
    ((s.ctx f.ctx).fring ≠ 0 → (f.entries.any fun e => e.waits.any isService) = true →
      exec (.sysc d a n) s = .next { s with iss := { s.iss with stall := .wait } }) ∧
    ((s.ctx f.ctx).fring ≠ 0 → (f.entries.any fun e => e.waits.any isService) = false →
      let low := 2 + n.toNat * 256 + (if f.stream then 2 ^ 42 else 0) + f.ctx % 64 * 2 ^ 43 + f.slot % 32 * 2 ^ 49
        + (if f.stream then 0 else f.core % 4) * 2 ^ 54 + f.cluster % 256 * 2 ^ 56
      let r : List Word := [.ofNat 32 low, .ofNat 32 (low / 2 ^ 32), if f.stream then 0xFFFFFFFF else .ofNat 32 (s.plot f.plot).index, s.iss.pkt,
        S s a, SN s a.toNat 1, SN s a.toNat 2, SN s a.toNat 3]
      exec (.sysc d a n) s = .next { (s.modCtx f.ctx fun c => { c with faults := c.faults ++ [r] }) with
        iss := { s.iss with park := s.iss.park ++ [.service d] } })) ∧
  (∀ (s : State) (d a : BitVec 7) (e : BitVec 5),
    let made : Nat := if s.pre.stream then 0 else min (S s a).toNat (spawnRoom s)
    let os : List Opd := [.s 0 a, .ds d, { pos := 3, file := 1, base := 1, reads := 4, used := if made = 0 then 0 else 4 }]
    let u := Noted s os
    Ready s os →
    (s.pre.stream = true → exec (.spawn d a e) s = .next { u with cur := u.cur.sset d.toNat 0 }) ∧
    (s.pre.stream = false → s.pre.ecnt ≤ e.toNat → exec (.spawn d a e) s = .next (raise u 0x06 (e.setWidth 32))) ∧
    (s.pre.stream = false → e.toNat < s.pre.ecnt →
      let n := min (S s a).toNat (spawnRoom u)
      let t := spawnMany u (nth (launchOf u s.pre).entryTable e.toNat 0) n
      n ≤ 32 ∧ exec (.spawn d a e) s = .next { t with cur := t.cur.sset d.toNat (.ofNat 32 n) })) ∧
  (∀ s : State,
    exec .nop s = .next s ∧
    (∃ t, exec .yield s = .next t ∧ t = { s with iss := { s.iss with ctl := .nextPacket } } ∧
      applyCtl t = { t with cur := continueAt s.cur s.iss.entry (s.iss.pkt + 1) 0 }) ∧
    (∃ t, exec .exit s = .next t ∧ t = { s with iss := { s.iss with ctl := .exit } } ∧ applyCtl t = { t with cur := exitEntry s.cur s.iss.entry }) ∧
    (∀ a : BitVec 7, Ready s [.s 0 a] → ∃ t, exec (.halt a) s = .next t ∧ t = { s with iss := { s.iss with ctl := .halt (S s a) } } ∧
      applyCtl t = haltUnit { t with cur := continueAt s.cur s.iss.entry (s.iss.pkt + 1) 0 } (S s a)) ∧
    (∀ k r z f w n t x, exec (.pfx k r z f w n t x) s = .next { s with iss := { s.iss with pfx := some (.pfx k r z f w n t x) } }) ∧
    (∀ i, exec (.lim i) s = .next { s with iss := { s.iss with lim := some (.lim i) } }) ∧
    (s.pre.stream = false →
      (∀ l t p m : BitVec 6, ∃ u, exec (.waitc l t p m) s = .next u ∧
        (parkGroup u).cur = s.cur.modEntry s.iss.entry fun e =>
          { e with waits := e.waits ++ (s.iss.park ++ [.counters [l.toNat, t.toNat, p.toNat, m.toNat, 63, 63]]) }) ∧
      (∀ (a : BitVec 7) (p : BitVec 5), Ready s [.s 0 a] → ∃ u, exec (.waitp a p) s = .next u ∧
        (parkGroup u).cur = s.cur.modEntry s.iss.entry fun e =>
          { e with waits := e.waits ++ (s.iss.park ++ [.counters ((List.range 6).map fun i => if i = p.toNat then (S s a).toNat else 63)]) })))

/-- 05 R151, R152 and 01 R9: each active thread takes the source thread's elements as they stood before the group, within its own segment; a source
position outside the segment gives the thread its own elements. -/
def Obligations.Shuffles : Prop :=
  ∀ (s : State) (w : BitVec 2) (d a b : BitVec 7) (m : BitVec 6),
    let n := 2 ^ w.toNat
    let len := min s.pre.width (2 ^ (6 - (pfxOf s).xop.toNat))
    let ts := threads s.pre.width (act s)
    let pick (ok : Bool) (t r' : Nat) : Nat := if ok then t - t % len + r' else t
    ∀ p ∈ ([(.shfli w d a b, [.v 1 b 1 (act s)], fun t => pick (decide ((V s b 0 t).toNat % len < len)) t ((V s b 0 t).toNat % len)),
        (.shflu w d a m, [], fun t => pick (decide (m.toNat ≤ t % len ∧ t % len - m.toNat < len)) t (t % len - m.toNat)),
        (.shfld w d a m, [], fun t => pick (decide (t % len + m.toNat < len)) t (t % len + m.toNat)),
        (.shflx w d a m, [], fun t => pick (decide (t % len ^^^ m.toNat < len)) t (t % len ^^^ m.toNat))] :
          List (Instr × List Opd × (Nat → Nat))),
      let os : List Opd := .v 0 a n (maskOf (ts.map p.2.2) fun _ => true) :: p.2.1 ++ [.dv d]
      Ready s os → ∃ t, exec p.1 s = .next t ∧ Delivered s (Noted s os) t d.toNat n fun i u => V s a i (p.2.2 u)

/-- 05 R151, R153, R155: the reductions and scans fold the values of each segment's active threads in ascending order, an fp32 NaN entering as the
canonical one; the fp32 forms are stated outside `rsr`. -/
def Obligations.Folds : Prop :=
  ∀ (s : State) (d a : BitVec 7),
    let os : List Opd := [.v 0 a 1 (act s), .dv d]
    let len := min s.pre.width (2 ^ (6 - (pfxOf s).xop.toNat))
    let fx : Fx := { rng := s.cur.rng, mode := roundMode s }
    let minI (x y : Word) : Word := if x.toInt ≤ y.toInt then x else y
    let maxI (x y : Word) : Word := if y.toInt ≤ x.toInt then x else y
    let minN (x y : Word) : Word := if x.toNat ≤ y.toNat then x else y
    let maxN (x y : Word) : Word := if y.toNat ≤ x.toNat then x else y
    let can (x : Word) : Word := if (fval x).isNan then 0x7FC00000 else x
    let add (x y : Word) : Word := (asWord false (faddV fp32 (fval x) (fval y) fx)).1
    let low (x y : Word) : Word := (fminMax false x y fx).1
    let high (x y : Word) : Word := (fminMax true x y fx).1
    let all : Nat → Nat → Bool := fun _ _ => true
    let upTo : Nat → Nat → Bool := fun u v => decide (v ≤ u)
    let before : Nat → Nat → Bool := fun u v => decide (v < u)
    Ready s os →
    (∀ p ∈ ([(.redadd 0 d a, all, (· + ·)), (.redmin 0 d a, all, minI), (.redmax 0 d a, all, maxI), (.redmin 1 d a, all, minN), (.redmax 1 d a, all, maxN),
        (.redor d a, all, (· ||| ·)), (.scanadd 0 d a, upTo, (· + ·)), (.scanmin 0 d a, upTo, minI), (.scanmax 0 d a, upTo, maxI),
        (.scanmin 1 d a, upTo, minN), (.scanmax 1 d a, upTo, maxN), (.scanaddx 0 d a, before, (· + ·))] :
          List (Instr × (Nat → Nat → Bool) × (Word → Word → Word))),
      ∃ t, exec p.1 s = .next t ∧
        Delivered s (Noted s os) t d.toNat 1 fun _ u => foldLeft id p.2.2 (segmentValues s a len u (p.2.1 u))) ∧
    (roundMode s ≠ 5 → ∀ p ∈ ([(.redadd 2 d a, all, add), (.redmin 2 d a, all, low), (.redmax 2 d a, all, high), (.scanadd 2 d a, upTo, add),
        (.scanmin 2 d a, upTo, low), (.scanmax 2 d a, upTo, high), (.scanaddx 2 d a, before, add)] :
          List (Instr × (Nat → Nat → Bool) × (Word → Word → Word))),
      ∃ t, exec p.1 s = .next t ∧ t.iss = { s.iss with raised := t.iss.raised } ∧ s.iss.raised &&& ~~~t.iss.raised = 0 ∧
        Delivered s (Noted s os) { t with iss := s.iss } d.toNat 1 fun _ u => foldLeft can p.2.2 (segmentValues s a len u (p.2.1 u)))

/-- 05 R154, R155: match and reduce. Every thread of a set of equal keys receives the fold of the set's values; the mask marks each set's least thread.
`mredf` is stated outside `rsr`. -/
def Obligations.MatchReduce : Prop :=
  ∀ (s : State) (k : BitVec 4) (d a b : BitVec 7),
    let os : List Opd := [.v 0 a 1 (act s), .v 1 b 1 (act s), .dv d]
    let ts := threads s.pre.width (act s)
    let fx : Fx := { rng := s.cur.rng, mode := roundMode s }
    let xop := (pfxOf s).xop
    let can (x : Word) : Word := if (fval x).isNan then 0x7FC00000 else x
    let add (x y : Word) : Word := (asWord false (faddV fp32 (fval x) (fval y) fx)).1
    let best (x y : Word) : Word :=
      if xop = 0 then (if y.toInt ≤ x.toInt then x else y) else if xop = 1 then (if y.toNat ≤ x.toNat then x else y)
      else if xop = 2 then (if x.toInt ≤ y.toInt then x else y) else if x.toNat ≤ y.toNat then x else y
    Ready s os →
    ∀ p ∈ ([(.mred k d a b, true, id, (· + ·)), (.mredm k d a b, true, id, best), (.mredf k d a b, decide (roundMode s ≠ 5), can, add)] :
        List (Instr × Bool × (Word → Word) × (Word → Word → Word))),
      p.2.1 = true →
      ∃ m t, exec p.1 s = .next t ∧ t.iss = { s.iss with raised := t.iss.raised } ∧ s.iss.raised &&& ~~~t.iss.raised = 0 ∧
        Delivered s (Noted s os) m d.toNat 1
          (fun _ u => foldLeft p.2.2.1 p.2.2.2 ((ts.filter fun v => V s a 0 v == V s a 0 u).map fun v => V s b 0 v)) ∧
        MaskWritten s m { t with iss := s.iss } k.toNat
          (fun u => decide (u < s.pre.width) && !ts.any fun v => decide (v < u) && V s a 0 v == V s a 0 u)

/-- 04 R120 to R126, 03 R86: tagged blocks in registers: each group of 16 threads with an active thread gives a block, in ascending order; a poisoned
source block sets `status.bk`, and traps with cause 0x10 when `status.bte` is set. What the block functions deliver is said in Blocks. -/
def Obligations.TaggedBlocks : Prop :=
  ∀ (s : State) (d a b : BitVec 7) (fmt : BitVec 2),
    let gs := (List.range ((s.pre.width + 15) / 16)).filter fun g => (List.range 16).any fun j => (act s).getLsbD (16 * g + j)
    let whole := maskOf (List.range s.pre.width) fun t => gs.contains (t / 16)
    let blk (g : Nat) : List Byte := bytesOf ((List.range 16).map fun j => V s a 0 (16 * g + j))
    let bad (g : Nat) : Bool := (blockWhy (blk g)).isSome
    let live (g i : Nat) : Bool := (act s).getLsbD (16 * g + i / 3)
    let lead (g : Nat) : Nat := 16 * g + (((List.range 16).find? fun j => (act s).getLsbD (16 * g + j)).getD 0)
    let o1 : List Opd := [{ Opd.v 0 a 4 (act s) with used := 3 }, .dv d]
    let o2 : List Opd := [.v 0 a 1 whole, .dv d]
    let o3 : List Opd := [.v 0 a 1 whole, .v 1 b 1 (maskOf (gs.map lead) fun _ => true), .dv d]
    let flag (n : State) : State := if gs.any bad then { n with iss := { n.iss with raised := n.iss.raised ||| 0x200 } } else n
    let vals (g : Nat) : List FVal := ((List.range 16).map fun j => (List.range 3).map fun e =>
      if (act s).getLsbD (16 * g + j) then fval (V s a e (16 * g + j)) else .fin false 0 0).flatten
    (Ready s o1 → exec (.qpack d a fmt) s = .next (eachBlock (Noted s o1) d fun g fx => pack fmt.toNat (live g) (vals g) fx)) ∧
    (s.pre.status.getLsbD 16 = false ∨ gs.any bad = false →
      (Ready s o2 → exec (.qretag d a fmt) s = .next (eachBlock (flag (Noted s o2)) d fun g fx => retag fmt.toNat (live g) (blk g) fx)) ∧
      (Ready s o3 → exec (.qscal d a b) s = .next (eachBlock (flag (Noted s o3)) d fun g fx => rescale (live g) (blk g) (V s b 0 (lead g)).toInt fx)) ∧
      (Ready s o2 → ∃ t, exec (.qunpk d a) s = .next t ∧ t.iss = { s.iss with raised := t.iss.raised } ∧
        (flag s).iss.raised &&& ~~~t.iss.raised = 0 ∧
        Delivered s (Noted s o2) { t with iss := s.iss } d.toNat 4 fun i u =>
          if i = 3 then 0 else if bad (u / 16) then 0x7FC00000
          else .ofNat 32 (fconvV fp32 (blockValue (blk (u / 16)) (3 * (u % 16) + i)) { rng := s.cur.rng, mode := 0 }).1)) ∧
    (s.pre.status.getLsbD 16 = true → ∀ g, gs.find? bad = some g →
      let info : Word := .ofNat 32 (g * 16 + (blockWhy (blk g)).getD 0)
      let up (os : List Opd) : State :=
        let n := Noted s os
        let r := n.iss.raised ||| 0x200
        { n with iss := { n.iss with raised := r }, cur := { n.cur with status := n.cur.status ||| r } }
      (Ready s o2 → exec (.qretag d a fmt) s = .next (raise (up o2) 0x10 info) ∧ exec (.qunpk d a) s = .next (raise (up o2) 0x10 info)) ∧
      (Ready s o3 → exec (.qscal d a b) s = .next (raise (up o3) 0x10 info)))

/-- 03 R74, R75, R80 to R85, 04 R122, R124 to R126: a packed block has its format, the scale of R80 and a check that holds; any one byte changed breaks the
check; `qscal` within the scale's range is exact, and beyond it encodes the moved elements at the nearest scale; `qretag` packs the block's values; a
poisoned block gives the poisoned output block. That what no rounding delivers (a block that qscal leaves in its
range or copies, a zero block, a poisoned block) draws once for each element of an active thread, and which elements those are, is the model's reading (log entry 28). -/
def Obligations.Blocks : Prop :=
  (∀ (fmt : Nat) (live : Nat → Bool) (vs : List FVal) (fx : Fx), 1 ≤ fmt → fmt ≤ 3 → vs.length = 48 →
    let bs := (pack fmt live vs fx).1
    let sizes : List ℚ := vs.filterMap fun v => match v with
      | .fin _ m e => some ((m : ℚ) * 2 ^ e)
      | _ => none
    bs.length = 64 ∧ blockFmt bs = fmt ∧ blockWhy bs = none ∧ blockScaleOf bs ≤ 511 ∧
    ((∀ x ∈ sizes, x = 0) → blockScaleOf bs = 0) ∧
    ((∃ x ∈ sizes, x ≠ 0) → fmt < 3 → ∃ e : ℤ, (∀ x ∈ sizes, x ≤ 2 ^ e) ∧ (∃ x ∈ sizes, (2 : ℚ) ^ (e - 1) < x) ∧
      (blockScaleOf bs : ℤ) = max 0 (min 511 (256 + e - 11))) ∧
    ((∃ x ∈ sizes, x ≠ 0) → fmt = 3 →
      ((∀ x ∈ sizes, x ≤ 127 * 2 ^ ((blockScaleOf bs : ℤ) - 256)) ∨ blockScaleOf bs = 511) ∧
      (blockScaleOf bs = 0 ∨ ∃ x ∈ sizes, 127 * (2 : ℚ) ^ ((blockScaleOf bs : ℤ) - 257) < x))) ∧
  (∀ (bs : List Byte) (i : Nat) (b : Byte), bs.length = 64 → blockWhy bs = none → i < 64 → nth bs i 0 ≠ b → blockWhy (bs.set i b) = some 0) ∧
  (∀ (live : Nat → Bool) (bs : List Byte) (fx : Fx) (δ : Int) (fmt : Nat), bs.length = 64 →
    let r := rescale live bs δ fx
    let q := retag fmt live bs fx
    let drawn : Fx := { fx with rng := if fx.mode = 5 then rngStep^[((List.range 48).filter live).length] fx.rng else fx.rng }
    let moved : Int := blockScaleOf bs + δ;
    (blockWhy bs = none → 1 ≤ blockFmt bs → 0 ≤ moved → moved ≤ 511 →
      r.2 = drawn ∧ r.1.length = 64 ∧ blockWhy r.1 = none ∧ blockFmt r.1 = blockFmt bs ∧ (blockScaleOf r.1 : Int) = moved ∧
      ∀ i, i < 48 → blockDec r.1 i = blockDec bs i) ∧
    (blockWhy bs = none → 1 ≤ blockFmt bs → moved < 0 ∨ 511 < moved →
      r = packAt (blockFmt bs) (if moved < 0 then 0 else 511) live ((List.range 48).map fun i => scaleDown (blockDec bs i) (256 - moved)) fx ∧
      r.1.length = 64 ∧ blockWhy r.1 = none ∧ blockFmt r.1 = blockFmt bs ∧ blockScaleOf r.1 = if moved < 0 then 0 else 511) ∧
    (blockWhy bs = none → blockFmt bs = 0 → r = (bs, drawn)) ∧
    (blockWhy bs = none → q = pack fmt live ((List.range 48).map (blockValue bs)) fx) ∧
    (blockWhy bs ≠ none → q = r ∧ r.2 = drawn ∧ r.1.length = 64 ∧ nth r.1 0 0 = 0x7F ∧ (∀ i, 0 < i → i < 62 → nth r.1 i 0 = 0) ∧
      ofBytes (r.1.drop 62) = crc16 (r.1.take 62) ∧ blockWhy r.1 = some 1)) ∧
  (∀ (bs : List Byte) (i : Nat), i < 48 → blockValue bs i = scaleDown (blockDec bs i) (256 - (blockScaleOf bs : Int))) ∧
  crc16 [0x31, 0x32, 0x33, 0x34, 0x35, 0x36, 0x37, 0x38, 0x39] = 0x29B1

/-- 01 R22, R23, 06 R163: an operation enters with the issuing furrow's state recorded and raises its counter by one; a load reads now what its L1 holds,
never anything that may not stand there; the operation that completes alone on its path leaves and lowers the counter by one. -/
def Obligations.IssuedOperations : Prop :=
  (∀ (s : State) (o : Op),
    let o' : Op := { o with id := s.nextId, furrow := s.iss.furrow, entry := s.iss.entry, pkt := s.iss.pkt, slot := s.iss.slot,
                            act := act s, zero := zeroed s, pts := s.cur.pts }
    (∀ p, o.path = some p → let c : Furrow := { s.cur with ctr := tset s.cur.ctr p 0 (tget s.cur.ctr p 0 + 1) }
      issueOp s o = { s with nextId := s.nextId + 1, ops := s.ops ++ [o'], cur := c }) ∧
    (o.path = none → issueOp s o = { s with nextId := s.nextId + 1, ops := s.ops ++ [o'] })) ∧
  (∀ (s : State) (o : Op), Room s o.accs → (∀ w, tget s.memMark w .clean ≠ .uncorrectable) →
    ∃ as w t, enterLoad s o = t ∧ as.map (fun a : Acc => (a.thr, a.loc, a.addr, a.size)) = o.accs.map (fun a => (a.thr, a.loc, a.addr, a.size)) ∧
      t.ops = (issueOp s o).ops.map (fun x => if x.id = s.nextId then { x with accs := as, rmax := w } else x) ∧
      t.mem = s.mem ∧ t.nextId = s.nextId + 1 ∧ t.iss = s.iss ∧ t.pre = s.pre ∧
      t.cur = { (issueOp s o).cur with hits := t.cur.hits, pts := t.cur.pts } ∧
      ((∀ a ∈ o.accs, a.l1 = false) → as = o.accs)) ∧
  (∀ (s : State) (o : Op) (p : Nat), o.path = some p → s.op o.id = some o → (∀ x ∈ s.ops, x.furrow = o.furrow → x.path = some p → x.id = o.id) →
    s.ops.countP (·.id == o.id) = 1 → o.done = false →
    (finishOp s o).op o.id = none ∧ (∀ x, x ≠ o.id → (finishOp s o).op x = s.op x) ∧
    ∀ q, tget ((finishOp s o).furrow o.furrow).ctr q 0 =
      if q = p ∧ (tfind s.furrows o.furrow).isSome then tget (s.furrow o.furrow).ctr q 0 - 1 else tget (s.furrow o.furrow).ctr q 0)

/-- 06 R165, R166, R169, 02 R57, 01 R24: a load forms each active thread's address from its operands and its scaled offset (once for a uniform address), is
checked for all of them, and enters with the accesses at their places; 15 R333: a read of a doorbell page is one access of every active thread
(log entry 32). Its data is delivered when it completes (MemoryEvents). -/
def Obligations.Loads : Prop :=
  ∀ (s : State) (sp : BitVec 3) (w : BitVec 2) (d a : BitVec 7) (o : BitVec 6) (ps : List (Want × Place)),
    let off (size : Nat) : Int := size * (match s.iss.lim with
      | some (.lim x) => (BitVec.ofNat 31 (x.toNat * 64 + o.toNat)).toInt
      | _ => o.toInt)
    let spotV (size thr : Nat) : Spot :=
      if sp = 0 then .generic ((s.pre.vget (a.toNat + 1) thr ++ s.pre.vget a.toNat thr : Dword) + .ofInt 64 (off size)).toNat
      else if sp = 5 then .generic ((s.pre.sget (a.toNat + 1) ++ s.pre.sget a.toNat : Dword) + .ofInt 64 (off size)).toNat
      else .offset sp.toNat ((V s a 0 thr).toNat + off size)
    let ts := threads s.pre.width (act s)
    let wants (size : Nat) : List Want := (if sp = 5 then ts.take 1 else ts).map fun thr => { thr, size, spot := spotV size thr }
    let spotU (size : Nat) : Spot :=
      if sp = 5 then .generic ((s.pre.sget (a.toNat + 1) ++ s.pre.sget a.toNat : Dword) + .ofInt 64 (off size)).toNat
      else .offset sp.toNat ((S s a).toNat + off size)
    let wantU (size : Nat) : List Want := [{ thr := 0, size, spot := spotU size }]
    let m : Mode := { need := .read, sp := sp.toNat, acc := 0, flt := 0, door := true }
    let addr (uniform : Bool) : Opd :=
      if sp = 5 then { Opd.s 0 a 2 with thr := if uniform || act s != 0 then 1 else 0 }
      else if uniform then .s 0 a else if sp = 0 then .v 0 a 2 (act s) else .v 0 a 1 (act s)
    let parts : List (Want × Place) := match ps with
      | [(w, .door q x e l b n)] => ts.map fun thr => ({ w with thr }, .door q x e l b n)
      | _ => ps
    let enters (i : Instr) (os : List Opd) (ws : List Want) (pl : List (Want × Place)) : Prop :=
      let n := Noted s os
      Ready s os → Enters n (some 0) m ws ps → exec i s = .next (enterLoad (Used n m ps) { kind := .load, instr := i, path := some 0, accs := pl.map (accOf · []) })
    enters (.ld sp w d a o) [addr false, .dv d] (wants (4 * 2 ^ w.toNat)) parts ∧
    enters (.ldsw sp w d a o) [addr false, .dv d] (wants (if w.toNat < 2 then 1 else 2)) ps ∧
    enters (.ldu sp w d a o) [addr true, .ds d] (wantU (4 * 2 ^ w.toNat)) ps

/-- 06 R165, R166, R170, 17 R368, 02 R57: a store forms its addresses as a load does and enters with each active thread's little-endian bytes; stores to a
doorbell page are dropped. The bytes reach memory when the store performs at its home (MemoryEvents). -/
def Obligations.Stores : Prop :=
  ∀ (s : State) (sp : BitVec 3) (w : BitVec 2) (w1 : BitVec 1) (d a : BitVec 7) (o : BitVec 6) (ps : List (Want × Place)),
    let off (size : Nat) : Int := size * (match s.iss.lim with
      | some (.lim x) => (BitVec.ofNat 31 (x.toNat * 64 + o.toNat)).toInt
      | _ => o.toInt)
    let spotV (size thr : Nat) : Spot :=
      if sp = 0 then .generic ((s.pre.vget (a.toNat + 1) thr ++ s.pre.vget a.toNat thr : Dword) + .ofInt 64 (off size)).toNat
      else if sp = 5 then .generic ((s.pre.sget (a.toNat + 1) ++ s.pre.sget a.toNat : Dword) + .ofInt 64 (off size)).toNat
      else .offset sp.toNat ((V s a 0 thr).toNat + off size)
    let wants (size : Nat) : List Want := (threads s.pre.width (act s)).map fun thr => { thr, size, spot := spotV size thr }
    let spotU (size : Nat) : Spot :=
      if sp = 5 then .generic ((s.pre.sget (a.toNat + 1) ++ s.pre.sget a.toNat : Dword) + .ofInt 64 (off size)).toNat
      else .offset sp.toNat ((S s a).toNat + off size)
    let wantU (size : Nat) : List Want := [{ thr := 0, size, spot := spotU size }]
    let m : Mode := { need := .write, sp := sp.toNat, acc := 1, flt := 1, door := true }
    let addr (uniform : Bool) : Opd :=
      if sp = 5 then { Opd.s 0 a 2 with thr := if uniform || act s != 0 then 1 else 0 }
      else if uniform then .s 0 a else if sp = 0 then .v 0 a 2 (act s) else .v 0 a 1 (act s)
    let accs (data : Nat → List Byte) : List Acc :=
      (ps.filter fun p => match p.2 with
        | .door _ _ _ _ _ _ => false
        | _ => true).map fun p => accOf p (data p.1.thr)
    let enters (i : Instr) (os : List Opd) (ws : List Want) (data : Nat → List Byte) : Prop :=
      let n := Noted s os
      Ready s os → Enters n (some 1) m ws ps → Room (Used n m ps) (accs data) →
        exec i s = .next (issueOp (Used n m ps) { kind := .store, instr := i, path := some 1, accs := accs data })
    let n := 2 ^ w.toNat
    let size1 := if w1 = 0 then 1 else 2
    enters (.st sp w d a o) [addr false, .v 3 d n (act s)] (wants (4 * n)) (fun t => bytesOf ((List.range n).map fun i => V s d i t)) ∧
    enters (.stsw sp w1 d a o) [addr false, .v 3 d 1 (act s)] (wants size1) (fun t => toBytes size1 (V s d 0 t).toNat) ∧
    enters (.stu sp w d a o) [addr true, .s 3 d n] (wantU (4 * n)) (fun _ => bytesOf ((List.range n).map fun i => SN s d.toNat i))

/-- 06 R173 to R175, 01 R24: an atomic enters with one access and one operand (two for compare-and-swap) for each active thread, on counter c.ld, with its
scope entry's version; what it leaves in the word. It performs at the line's home or in the exclusive copy (MemoryEvents). -/
def Obligations.Atomics : Prop :=
  (∀ (s : State) (sc : BitVec 3) (d : BitVec 7) (a : BitVec 6) (b : BitVec 7) (ps : List (Want × Place)),
    ∀ p ∈ ([(.atadd sc d a b, false), (.atand sc d a b, false), (.ator sc d a b, false), (.atxor sc d a b, false), (.atmin sc d a b, false), (.atmax sc d a b, false), (.atminn sc d a b, false), (.atmaxn sc d a b, false), (.atexch sc d a b, false), (.atfadd sc d a b, false), (.atincw sc d a b, false), (.atcas sc d a b, true)] : List (Instr × Bool)),
      let r := 2 * a.toNat
      let os : List Opd := [.v 0 (.ofNat 7 r) 2 (act s), .v 1 b (if p.2 then 2 else 1) (act s), .dv d]
      let n := Noted s os
      let m : Mode := { need := .write, acc := 2, flt := 2 }
      let ws : List Want := (threads s.pre.width (act s)).map fun thr =>
        { thr, size := 4, spot := .generic (s.pre.vget (r + 1) thr ++ s.pre.vget r thr : Dword).toNat }
      Ready s os → Enters n (some 0) m ws ps → Room (Used n m ps) (ps.map (accOf · [])) →
        ∃ o, exec p.1 s = .next (issueOp (Used n m ps) o) ∧ o.kind = .atomic ∧ o.instr = p.1 ∧ o.path = some 0 ∧ o.accs = ps.map (accOf · []) ∧
          o.scope = sc.toNat ∧ o.gen = (scopeOf (Used n m ps) s.cur sc.toNat).gen ∧ o.version = scopeOf (Used n m ps) s.cur sc.toNat ∧
          ∀ u ∈ threads s.pre.width (act s), tget o.targs (8 * u) 0 = V s b 0 u ∧ (p.2 = true → tget o.targs (8 * u + 1) 0 = V s b 1 u)) ∧
  (∀ (sc : BitVec 3) (d : BitVec 7) (a : BitVec 6) (b : BitVec 7) (x y z : Word),
    ∀ p ∈ ([(.atadd sc d a b, x + y), (.atand sc d a b, x &&& y), (.ator sc d a b, x ||| y), (.atxor sc d a b, x ^^^ y),
        (.atmin sc d a b, if x.toInt ≤ y.toInt then x else y), (.atmax sc d a b, if y.toInt ≤ x.toInt then x else y),
        (.atminn sc d a b, if x.toNat ≤ y.toNat then x else y), (.atmaxn sc d a b, if y.toNat ≤ x.toNat then x else y),
        (.atexch sc d a b, y), (.atcas sc d a b, if x = y then z else x), (.atincw sc d a b, if y.toNat ≤ x.toNat then 0 else x + 1),
        (.atfadd sc d a b, .ofNat 32 (faddV fp32 (fval x) (fval y) { rng := 1, mode := 0 }).1)] : List (Instr × Word)),
      atomicNew p.1 x y z = p.2 ∧ atomicDest p.1 = d.toNat)

/-- 06 R166 to R168, 11 R277 to R279, 17 R368, 01 R24: the checks of every thread's address in their order: alignment, the window's bound, permission (a peer or
a doorbell page where none may be used included), then missing translations; the trap names the lowest thread that fails. That a member behind a fence keeps its entry's
turn, and one at a full counter gives it up, is the model's choice (log entry 65). -/
def Obligations.AccessChecks : Prop :=
  (∀ (s : State) (m : Mode) (ws : List Want),
    let ps := ws.map fun w => (w, spotPlace s m w)
    let refused (p : Want × Place) : Bool := match p.2 with
      | .fail _ => true
      | .peer _ _ _ _ _ _ => true
      | .door _ _ _ _ _ _ => !m.door
      | _ => false
    (∀ w, ws.find? (fun w => w.spot.low % w.size != 0) = some w → checkWants s m ws = .trap 0x05 w) ∧
    ((∀ w ∈ ws, w.spot.low % w.size = 0) →
      (∀ p, ps.find? (fun p => p.2 == .fail 0x07) = some p → checkWants s m ws = .trap 0x07 p.1) ∧
      ((∀ p ∈ ps, p.2 ≠ .fail 0x07) →
        (∀ p, ps.find? refused = some p → checkWants s m ws = .trap 0x06 p.1) ∧
        ((∀ p ∈ ps, refused p = false) →
          (∀ p, ps.find? (fun p => p.2 == .miss) = some p → checkWants s m ws = .miss p.1) ∧
          ((∀ p ∈ ps, p.2 ≠ .miss) → checkWants s m ws = .ok ps))))) ∧
  (∀ (s : State) (m : Mode) (ws : List Want) (k : State → List (Want × Place) → State),
    (∀ c w, checkWants s m ws = .trap c w →
      access s m ws k = raise s c (.ofNat 32 (w.thr % 64 * 2 ^ 18 + m.sp * 2 ^ 15 + m.acc * 2 ^ 12 + w.spot.low % 4096))) ∧
    (∀ w, checkWants s m ws = .miss w →
      access s m ws k = { s with iss := { s.iss with stall := .miss w.thr (.ofNat 64 (w.spot.address.getD 0)) m.flt } }) ∧
    (∀ ps, checkWants s m ws = .ok ps → access s m ws k = k (Used s m ps) ps)) ∧
  (∀ (s : State) (path : Option Nat) (k : State → State),
    (memoryHeld s = true → whenFree s path k = { s with iss := { s.iss with stall := .hold } }) ∧
    (memoryHeld s = false → ∀ p, path = some p →
      (tget s.cur.ctr p 0 = 63 → whenFree s path k = { s with iss := { s.iss with stall := .wait } }) ∧
      (tget s.cur.ctr p 0 ≠ 63 → whenFree s path k = k s)))

/-- 11 R266 to R268, R272: a fence waits for the older operations of its parts and, at device tier, moves the program stamp; `lda` and `stl` enter with what
their acquire or release part waits for; `waitw` enters and holds the members above it. -/
def Obligations.FencesAndAcquires : Prop :=
  (∀ (s : State) (sc : BitVec 3), Ready s [] → let k := s.iss.furrow
    let busy (x : Op) : Bool := x.furrow == k && !x.done
    let rel := (s.ops.filter fun x => busy x && ((x.kind == .store || x.kind == .arrival || x.kind == .message) && !x.parked || x.kind == .atomic)).map (·.id)
    let acq := (s.ops.filter fun x => busy x && (x.kind == .load || x.kind == .atomic || x.kind == .arrival && !x.parked && !x.begun)).map (·.id)
    let r (f : Furrow) : Furrow := { f with pts := smax f.pts (f.maxw + 1) }
    let a (f : Furrow) : Furrow := { f with pts := smax f.pts f.seen }
    let h (f : Furrow) : Furrow := if f.stream then f else { f with pts := smax f.pts (s.core f.gcore).horizon }
    ∀ p ∈ ([(.fenceAcq sc, acq, a), (.fenceRel sc, rel, r), (.fenceAr sc, rel ++ acq, a ∘ r), (.fenceSc sc, rel ++ acq, h ∘ a ∘ r)] :
        List (Instr × List Nat × (Furrow → Furrow))),
      (p.2.1 = [] → exec p.1 s = .next (if deviceTier s s.cur sc.toNat then { s with cur := p.2.2 s.cur } else s)) ∧
      (p.2.1 ≠ [] → ∃ o, exec p.1 s = .next { issueOp s o with iss := { s.iss with hold := true, park := s.iss.park ++ [.operation s.nextId] } } ∧
        o.kind = .fence ∧ o.instr = p.1 ∧ o.path = none ∧ o.after = p.2.1 ∧ o.scope = sc.toNat ∧ o.accs = [])) ∧
  (∀ (s : State) (d a : BitVec 7) (sc : BitVec 3) (ps : List (Want × Place)),
    let ws : List Want := (threads s.pre.width (act s)).map fun thr =>
      { thr, size := 4, spot := .generic (s.pre.vget (a.toNat + 1) thr ++ s.pre.vget a.toNat thr : Dword).toNat }
    let ol : List Opd := [.v 0 a 2 (act s), .dv d]
    let os : List Opd := [.v 0 a 2 (act s), .v 3 d 1 (act s)]
    let ml : Mode := { need := .read, acc := 0, flt := 0, door := true }
    let ms : Mode := { need := .write, acc := 1, flt := 1, door := true }
    let u := Used (Noted s ol) ml ps
    let v := Used (Noted s os) ms ps
    (Ready s ol → Enters (Noted s ol) (some 0) ml ws ps →
      exec (.lda d a sc) s = .next (enterLoad u (withScope u sc.toNat
        { kind := .load, instr := .lda d a sc, path := some 0, accs := ps.map (accOf · []), after := acquireSet u s.iss.furrow }))) ∧
    (Ready s os → Enters (Noted s os) (some 1) ms ws ps →
      let accs := storeAccs ps fun t => bytesOf [V s d 0 t]
      Room v accs → exec (.stl d a sc) s = .next (issueOp v (withScope v sc.toNat
        { kind := .store, instr := .stl d a sc, path := some 1, after := releaseSet v s.iss.furrow, accs })))) ∧
  (∀ (s : State) (d a : BitVec 7) (q : BitVec 2) (sc : BitVec 3) (ps : List (Want × Place)), let os : List Opd := [.s 0 a 2, .s 3 d]
    let m : Mode := { need := .read, acc := 0, flt := 4 }
    let u := Used s m ps
    Ready s os → Enters s none m [{ thr := 0, size := 4, spot := .generic (pairS s a).toNat }] ps →
      ∃ o, exec (.waitw d a q sc) s = .next { issueOp u o with iss := { u.iss with hold := true, park := u.iss.park ++ [.operation u.nextId] } } ∧
        o.kind = .waitw ∧ o.instr = .waitw d a q sc ∧ o.path = none ∧ o.accs = ps.map (accOf · []) ∧ o.args = [S s d] ∧ o.scope = sc.toNat)

/-- 06 R179 to R183, 11 R264, R265, R269, R270, 01 R24: barrier and scope instructions at issue, and what an arrival does to a barrier word: the count rises, or the last
arrival clears the counts and flips the phase; a second arrival of one furrow at a tracked barrier, or a word with no expected count, is cause 0x09. -/
def Obligations.BarriersAndScopes : Prop :=
  (∀ (s : State) (d a : BitVec 7) (sc : BitVec 3) (ps : List (Want × Place)),
    (s.pre.stream = true → s.cur.poisonTrap = [] ∧ ∀ x ∈ s.ops, x.furrow = s.iss.furrow → x.kind = .matrix → x.done = true) →
    let ws : List Want := [{ thr := 0, size := 8, spot := .generic (s.pre.sget (a.toNat + 1) ++ s.pre.sget a.toNat : Dword).toNat }]
    let mw : Mode := { need := .write, acc := 3, flt := 5 }
    let mr : Mode := { need := .read, acc := 3, flt := 5 }
    let u := Used s mw ps
    let accs := ps.map (accOf · [])
    (Ready s [.s 0 a 2] → Enters s none mw ws ps →
      let t := issueOp u (withScope u sc.toNat { kind := .arrival, instr := .barw a sc, accs, after := arrivalSet u s.iss.furrow })
      exec (.barw a sc) s = .next { t with iss := { u.iss with hold := true, park := u.iss.park ++ [.operation u.nextId] } }) ∧
    (Ready s [.s 0 a 2, .ds d] → Enters s (some 1) mw ws ps → Room u accs →
      exec (.bara d a sc) s = .next (issueOp u (withScope u sc.toNat
        { kind := .arrival, instr := .bara d a sc, path := some 1, accs, after := arrivalSet u s.iss.furrow }))) ∧
    (Ready s [.s 0 a 2, .ds d] → Enters s (some 0) mr ws ps →
      exec (.barq d a sc) s = .next (enterLoad (Used s mr ps)
        { kind := .load, instr := .barq d a sc, path := some 0, accs := ps.map fun p => { accOf p [] with size := 4 } })) ∧
    (Ready s [.s 0 a 2, .s 3 d] → Enters s (some 1) mw ws ps →
      let word := (S s d).toNat % 2 ^ 12 + (S s d).toNat / 2 ^ 25 % 2 * 2 ^ 25
      let accs := ps.map fun p => accOf p (toBytes 8 word)
      Room u accs → exec (.bari d a sc) s = .next (issueOp u { kind := .store, instr := .bari d a sc, path := some 1, accs }))) ∧
  (∀ (s : State) (d a : BitVec 7) (n : BitVec 3) (ps : List (Want × Place)),
    let ws : List Want := [{ thr := 0, size := 64, spot := .generic (s.pre.sget (a.toNat + 1) ++ s.pre.sget a.toNat : Dword).toNat }]
    let ml : Mode := { need := .read, acc := 0, flt := 0, door := true }
    let ms : Mode := { need := .write, acc := 1, flt := 1, door := true }
    let u := Used s ml ps
    let v := Used s ms ps
    (Ready s [.s 0 a 2, .ds d] → Enters s (some 1) ml ws ps → Room u (ps.map (accOf · [])) →
      exec (.scopeset d a n) s = .next (issueOp u { kind := .scopeset, instr := .scopeset d a n, path := some 1, scope := n.toNat, accs := ps.map (accOf · []) })) ∧
    (Ready s [.s 0 a 2] → Enters s (some 1) ms ws ps →
      let x := scopeOf v s.cur n.toNat
      let accs := storeAccs ps fun _ => toBytes 64 (x.map.toNat + x.obs.toNat * 2 ^ 256 + x.pgrp.toNat * 2 ^ 264 + x.gen.toNat * 2 ^ 272)
      Room v accs → exec (.scoperd a n) s = .next (issueOp v { kind := .store, instr := .scoperd a n, path := some 1, accs }))) ∧
  (∀ w : Nat, w < 2 ^ 64 → ∀ who : Option Nat, (∀ j, who = some j → j < 32) → let exp := w % 2 ^ 12
    let tracked := fld w 25 1 = 1
    (exp = 0 → arrive w who = none) ∧ (tracked → who = none → arrive w who = none) ∧
    (∀ j, who = some j → tracked → fld w (32 + j) 1 = 1 → arrive w who = none) ∧
    (exp ≠ 0 → (tracked → ∃ j, who = some j ∧ fld w (32 + j) 1 = 0) → ∃ x, arrive w who = some x ∧ fld x 0 12 = exp ∧ fld x 25 7 = fld w 25 7 ∧
      ((fld w 12 12 + 1) % 2 ^ 12 = exp → fld x 12 12 = 0 ∧ fld x 24 1 = 1 - fld w 24 1 ∧ fld x 32 32 = 0) ∧
      ((fld w 12 12 + 1) % 2 ^ 12 ≠ exp → fld x 12 12 = (fld w 12 12 + 1) % 2 ^ 12 ∧ fld x 24 1 = fld w 24 1 ∧
        (∀ j, who = some j → tracked → fld x 32 32 = fld w 32 32 + 2 ^ j) ∧ (¬tracked → fld x 32 32 = fld w 32 32))))

/-- 06 R184, R185, 11 R262, R278: `pref` enters its hints and changes no register; `wbl` enters its write-back, after which GDDR7 holds the line; `invl` and `invl.all` drop the issuing core's copies, an exclusive one going home. -/
def Obligations.CacheControl : Prop :=
  (∀ (s : State) (a : BitVec 7) (l : BitVec 1), let os : List Opd := [.v 0 a 2 (act s)]
    let n := Noted s os
    let m : Mode := { need := .read, acc := 0, flt := 0, door := true }
    let ps := ((threads s.pre.width (act s)).map fun u =>
      let w : Want := { thr := u, size := 1, spot := .generic (s.pre.vget (a.toNat + 1) u ++ s.pre.vget a.toNat u : Dword).toNat }
      (w, spotPlace n m w)).filter fun p => match p.2 with
        | .loc _ _ _ _ _ => true
        | _ => false
    let o : Op := { kind := .prefetch, instr := .pref a l, accs := ps.map (accOf · []) }
    Ready s os →
      ((s.pre.stream = true ∨ tableUsed n s.pre.gcore + tableLines o.accs ≤ 128 ∨ tableUsed n s.pre.gcore = 0) →
        exec (.pref a l) s = .next (issueOp (Used n m ps) o) ∧ (issueOp (Used n m ps) o).cur = n.cur) ∧
      (s.pre.stream = false → 128 < tableUsed n s.pre.gcore + tableLines o.accs → tableUsed n s.pre.gcore ≠ 0 →
        exec (.pref a l) s = .next { n with iss := { n.iss with stall := .hold } })) ∧
  (∀ (s : State) (a : BitVec 7) (ps : List (Want × Place)), Ready s [.s 0 a 2] →
    let m : Mode := { need := .read, acc := 4, flt := 6 }
    let ws : List Want := [{ thr := 0, size := 1, spot := .generic (s.pre.sget (a.toNat + 1) ++ s.pre.sget a.toNat : Dword).toNat }]
    let u := Used s m ps
    (Enters s (some 1) m ws ps → Room u (ps.map (accOf · [])) →
      exec (.wbl a) s = .next (issueOp u { kind := .writeback, instr := .wbl a, path := some 1, accs := ps.map (accOf · []) })) ∧
    (∀ w k pte l b bits, checkWants s m ws = .ok [(w, .loc k pte l b bits)] → ps = [(w, .loc k pte l b bits)] →
      exec (.invl a) s = .next (if s.pre.stream then u else dropLine u s.pre.gcore (k / 64)))) ∧
  (∀ (s : State) (o : Op) (a : Acc), o.accs = [a] → 64 * (a.loc / 64) < devLimit → let t := finishWriteback s o
    tget t.backed (a.loc / 64) 0 = BitVec.allOnes 64 ∧ (tget t.lines (a.loc / 64) {}).owner = none ∧ (opDone t o.id = true)) ∧
  (∀ (s : State) (core line : Nat), let t := dropLine s core line
    (∀ x ∈ (t.core core).l1, x.line ≠ line) ∧ (∀ x ∈ (t.core core).fills, x.line = line → x.dropped = true) ∧ (∀ c, c ≠ core → t.core c = s.core c) ∧
    ((tget s.lines line {}).owner = none → ∀ k, readByte t.mem k = readByte s.mem k) ∧
    (∀ x ∈ (s.core core).l1, x.line ≠ line → x ∈ (t.core core).l1)) ∧
  (∀ s : State, Ready s [] → ∃ t, exec .invlAll s = .next t ∧ (t.core s.pre.gcore).l1 = [] ∧ (∀ x ∈ (t.core s.pre.gcore).fills, x.dropped = true) ∧
    (∀ c, c ≠ s.pre.gcore → t.core c = s.core c) ∧ t.cur = s.cur ∧ t.iss = s.iss)

/-- 09 R235, R236, R240; 11 R273 to R276; 01 R24: copy commands join the issuing core's queue with the words as they stand; messages, receives, probes and
records enter with theirs, the sends behind the furrow's older stores and messages; a value outside its range is cause 0x0C. -/
def Obligations.CopiesAndMessages : Prop :=
  ∀ (s : State) (d a : BitVec 7), let k := s.iss.furrow
    let words := (List.range 8).map (SN s a.toNat ·)
    let busy (x : Op) : Bool := x.furrow == k && !x.done
    let stores := (s.ops.filter fun x => busy x && ((x.kind == .store || x.kind == .arrival || x.kind == .message) && !x.parked || x.kind == .atomic)).map (·.id)
    let command (targets : Option (List Word)) : CopyCmd :=
      { words, targets, op := s.nextId, plot := s.pre.plot, core := s.pre.gcore, slot := s.pre.slot, ctx := s.pre.ctx, pkt := s.iss.pkt }
    let queued (i : Instr) (targets : Option (List Word)) : State :=
      (issueOp s { kind := .copy, instr := i, path := some 2 }).modCore s.pre.gcore fun c => { c with copyq := c.copyq ++ [command targets] }
    let free := engineHeld s 1 = false ∧ tget s.cur.ctr 2 0 ≠ 63 ∧ (s.core s.pre.gcore).copyq.length < 32;
    (Ready s [.s 0 a 8] → free → exec (.cpy a) s = .next (queued (.cpy a) none)) ∧
    (Ready s [.s 0 a 8, .s 3 d 4] → free → exec (.cpym d a) s = .next (queued (.cpym d a) (some ((List.range 4).map (SN s d.toNat ·))))) ∧
    (Ready s [.s 0 a 8, .s 3 d 2] → memoryHeld s = false → tget s.cur.ctr 1 0 ≠ 63 → let target := SN s d.toNat 1;
      (target.toNat < 256 → exec (.msg d a) s = .next (issueOp s
        { kind := .message, instr := .msg d a, path := some 1, after := stores, device := true,
          version := { map := (1 <<< s.pre.cluster) ||| (1 <<< target.toNat), obs := 1 }, args := words ++ [S s d, target] })) ∧
      (256 ≤ target.toNat → exec (.msg d a) s = .next (raise s 0x0C 1))) ∧
    (Ready s [.s 0 a 8, .s 3 d] → memoryHeld s = false → tget s.cur.ctr 1 0 ≠ 63 →
      exec (.emit d a) s = .next (issueOp s
        { kind := .emit, instr := .emit d a, path := some 1, after := stores, device := true, args := words ++ [S s d] })) ∧
    (Ready s [.s 0 a 4, .s 3 d] → memoryHeld s = false → tget s.cur.ctr 0 0 ≠ 63 →
      let va := (s.pre.sget (a.toNat + 1) ++ s.pre.sget a.toNat : Dword);
      (∀ x, (S s d).toNat < 512 → va.toNat % 64 = 0 → bufferPlace s s.pre va.toNat = some x → exec (.mpost d a) s = .next (issueOp s
        { kind := .post, instr := .mpost d a, path := some 0, accs := [{ thr := 0, loc := x, addr := va, size := 64 }],
          args := [S s d, SN s a.toNat 2, SN s a.toNat 3] })) ∧
      (512 ≤ (S s d).toNat → exec (.mpost d a) s = .next (raise s 0x0C 1)) ∧
      ((S s d).toNat < 512 → va.toNat % 64 ≠ 0 → exec (.mpost d a) s = .next (raise s 0x0C 2)) ∧
      ((S s d).toNat < 512 → va.toNat % 64 = 0 → bufferPlace s s.pre va.toNat = none → exec (.mpost d a) s = .next (raise s 0x0C 3))) ∧
    (let os : List Opd := [{ Opd.s 0 a 4 with used := 0 }, { pos := 0, file := 1, base := a.toNat + 2, reads := 2, used := 2 }, .s 3 d]
      let n := Noted s os
      Ready s os → memoryHeld n = false → tget n.cur.ctr 0 0 ≠ 63 →
      ((S s d).toNat < 512 → exec (.mprobe d a) s = .next (issueOp n
        { kind := .probe, instr := .mprobe d a, path := some 0, args := [S s d, SN s a.toNat 2, SN s a.toNat 3] })) ∧
      (512 ≤ (S s d).toNat → exec (.mprobe d a) s = .next (raise n 0x0C 1)))

/-- 13 R299 to R303, R309, R310, R325: key requests are checked thread by thread (acre, key, level, face, reserved bits) and entered with their words and the
installed generation of their acre; kbal and kacre read their operand as a load that takes the furrow's older stores (06 R172); the key arithmetic of kenc, kdec, kpar and kchd, and the round trip of coordinates.
The model's choices among this: bits 31:8 of the acre word of kiter and kcut are ignored, and a thread's acre is checked before its key, thread
by thread (log entry 39); an entry behind an older atomic keeps its turn (log entry 65). -/
def Obligations.KeyInstructions : Prop :=
  (∀ (s : State) (d a : BitVec 7), let ts := threads s.pre.width (act s)
    let key (t : Nat) : Nat := (V s a 0 t).toNat + (V s a 1 t).toNat * 2 ^ 32
    let bad (face : Bool) (limit k q : Nat) : Option Nat := match tget (s.ctx s.pre.ctx).acres (q % 256) none with
      | none => some 0
      | some x =>
        if keyWf x.dims k = false then some 1 else if x.maxl < k % 32 then some 2
        else if face = true ∧ 2 * x.dims ≤ q / 256 % 8 then some 3 else if limit ≤ q then some 4 else none
    let going (n : State) : Prop := engineHeld n 0 = false ∧ rfenceHeld n = false ∧ tget n.cur.ctr 4 0 ≠ 63
    let entered (n : State) (i : Instr) (no : Nat) (after : List Nat) (args : List Word) (targs : NMap Word) (rmax : BitVec 48) : State :=
      issueOp n { kind := .key, instr := i, path := some 4, scope := no, args, targs, device := true, after, rmax,
                  gen16 := .ofNat 16 (installedGen n n.pre.ctx no n.pre.cluster) }
    let reads (u : State) (i : Instr) (no size loc : Nat) : Prop :=
      let older := u.ops.filter fun x => x.furrow == u.iss.furrow && !x.done
      let r := agentRead u (some u.pre.cluster) loc size u.cur.pts
      let n := r.2.2
      (mayPerform older true { thr := 0, loc, size } = false → exec i s = .next { u with iss := { u.iss with stall := .hold } }) ∧
      (mayPerform older true { thr := 0, loc, size } = true → going n →
        exec i s = .next (entered n i no (releaseSet n n.iss.furrow) (wordsOf (forwarded (unseen older r.2.1) loc r.1)) [] r.2.1))
    let acreNo (x : Word) : Nat := x.toNat % 256;
    (∀ p ∈ ([(.klook d a, false, 3, false), (.knbr d a, true, 4, false), (.kpin d a, false, 3, false), (.kcost d a, false, 4, true),
        (.kunpin d a, false, 3, true)] : List (Instr × Bool × Nat × Bool)),
      let os : List Opd := [{ pos := 0, file := 0, base := a.toNat, reads := 4, used := p.2.2.1, thr := act s }, .dv d]
      let n := Noted s os
      let why (t : Nat) : Option Nat := bad p.2.1 2048 (key t) (V s a 2 t).toNat
      Ready s os →
        (∀ t, ts.find? (fun t => (why t).isSome) = some t → exec p.1 s = .next (raise n 0x0B (.ofNat 32 (t % 64 * 2 ^ 18 + (why t).getD 0)))) ∧
        ((∀ t ∈ ts, why t = none) → going n → ∃ targs, (∀ t ∈ ts, (∀ j, j < 4 → tget targs (8 * t + j) 0 = V s a j t) ∧
            tget targs (8 * t + 4) 0 = .ofNat 32 (installedGen n n.pre.ctx (acreNo (V s a 2 t)) n.pre.cluster)) ∧
          exec p.1 s = .next (entered n p.1 ((ts.head?.map fun t => acreNo (V s a 2 t)).getD 0)
            (match p.1 with
              | .kcost _ _ => []
              | .kunpin _ _ => releaseSet n n.iss.furrow
              | _ => acquireSet n n.iss.furrow) [] targs 0))) ∧
    (let os : List Opd := [{ pos := 0, file := 1, base := a.toNat, reads := 4, used := 3 }, .ds d]
      let n := Noted s os
      let k := (S s a).toNat + (SN s a.toNat 1).toNat * 2 ^ 32
      let q := (SN s a.toNat 2).toNat
      let words (m : Nat) : List Word := (List.range m).map (SN s a.toNat ·)
      Ready s os →
      (∀ i ∈ ([.kref d a, .kmrg d a] : List Instr),
        (∀ w, bad false 256 k q = some w → exec i s = .next (raise n 0x0B (.ofNat 32 w))) ∧
        (bad false 256 k q = none → going n → exec i s = .next (entered n i (q % 256) (releaseSet n n.iss.furrow) (words 4) [] 0))) ∧
      (let no := acreNo (S s a);
        (tget (s.ctx s.pre.ctx).acres no none = none → exec (.kiter d a) s = .next (raise n 0x0B 0)) ∧
        (tget (s.ctx s.pre.ctx).acres no none ≠ none → going n →
          exec (.kiter d a) s = .next (entered n (.kiter d a) no (acquireSet n n.iss.furrow) (words 3) [] 0))) ∧
      (tget (s.ctx s.pre.ctx).acres (q % 256) none = none → exec (.kbal d a) s = .next (raise n 0x0B 0)) ∧
      (tget (s.ctx s.pre.ctx).acres (q % 256) none ≠ none → 256 ≤ q → exec (.kbal d a) s = .next (raise n 0x0B 4)) ∧
      (tget (s.ctx s.pre.ctx).acres (q % 256) none ≠ none → q < 256 → ∀ w loc pte l b bits,
        checkWants n (loadMode 0) [{ thr := 0, size := 32, spot := .generic (pairS s a).toNat }] = .ok [(w, .loc loc pte l b bits)] → loc < 2 ^ 57 →
        reads (Used n (loadMode 0) [(w, .loc loc pte l b bits)]) (.kbal d a) q 32 loc)) ∧
    (∀ c : BitVec 2, Ready s [.s 0 a 2, .ds d] → let no := acreNo (S s a);
      (tget (s.ctx s.pre.ctx).acres no none = none → exec (.kcut d a c) s = .next (raise s 0x0B 0)) ∧
      (tget (s.ctx s.pre.ctx).acres no none ≠ none → going s →
        exec (.kcut d a c) s = .next (entered s (.kcut d a c) no [] [S s a, SN s a.toNat 1] [] 0))) ∧
    (Ready s [.s 0 a 2, .s 3 d] →
      (256 ≤ (S s d).toNat → exec (.kacre d a) s = .next (raise s 0x0B 4)) ∧
      ((S s d).toNat < 256 → ∀ w loc pte l b bits,
        checkWants s (loadMode 0) [{ thr := 0, size := 64, spot := .generic (pairS s a).toNat }] = .ok [(w, .loc loc pte l b bits)] → loc < 2 ^ 57 →
        reads (Used s (loadMode 0) [(w, .loc loc pte l b bits)]) (.kacre d a) (S s d).toNat 64 loc)))
  ∧
  (∀ (s : State) (d a b : BitVec 7), let dims (t : Nat) : Nat := (V s b 0 t).toNat / 256 % 4 + 1
    let level (t : Nat) : Nat := (V s b 0 t).toNat % 32
    let key (t : Nat) : Nat := (V s a 0 t).toNat + (V s a 1 t).toNat * 2 ^ 32
    let half (x i : Nat) : Word := .ofNat 32 (x / 2 ^ (32 * i))
    let coords (j : Nat) : Mask := maskOf (threads s.pre.width (act s)) fun t => decide (j < dims t)
    let oe : List Opd := [{ pos := 0, file := 0, base := a.toNat, reads := 4, used := 4, thr := act s, per := (List.range 4).map coords }, .v 1 b 1 (act s), .dv d]
    let os : List Opd := [.v 0 a 2 (act s), .v 1 b 1 (act s), .dv d];
    (Ready s oe → ∃ t, exec (.kenc d a b) s = .next t ∧ Delivered s (Noted s oe) t d.toNat 2 fun i u =>
      half (if 59 < dims u * level u then 2 ^ 64 - 1 else keyEncode (dims u) (level u) fun j => (V s a j u).toNat) i) ∧
    (Ready s os → (∀ u ∈ threads s.pre.width (act s), keyWf (dims u) (key u) = true) →
      (∃ t, exec (.kdec d a b) s = .next t ∧ Delivered s (Noted s os) t d.toNat 4 fun i u =>
        if i < dims u then .ofNat 32 (keyCoord (dims u) (key u) i) else 0) ∧
      (∃ t, exec (.kpar d a b) s = .next t ∧ Delivered s (Noted s os) t d.toNat 2 fun i u => let k := key u
        let l := k % 32
        half (if l = 0 then 2 ^ 64 - 1 else k / 2 ^ (64 - dims u * (l - 1)) * 2 ^ (64 - dims u * (l - 1)) + (l - 1)) i) ∧
      (∃ t, exec (.kchd d a b) s = .next t ∧ Delivered s (Noted s os) t d.toNat 2 fun i u => let k := key u
        let l := k % 32
        let c := (V s b 0 u).toNat / 2 ^ 16 % 16
        half (if 2 ^ dims u ≤ c ∨ l = 31 ∨ 59 < dims u * (l + 1) then 2 ^ 64 - 1 else k + c * 2 ^ (64 - dims u * (l + 1)) + 1) i)) ∧
    (∀ u, Ready s os → (threads s.pre.width (act s)).find? (fun u => !keyWf (dims u) (key u)) = some u →
      ∀ i ∈ ([.kdec d a b, .kpar d a b, .kchd d a b] : List Instr), exec i s = .next (raise (Noted s os) 0x0B (.ofNat 32 (u % 64 * 2 ^ 18 + 1))))) ∧
  (∀ (d l : Nat) (c : Nat → Nat), 1 ≤ d → d ≤ 4 → l ≤ 31 → d * l ≤ 59 → (∀ j, c j < 2 ^ l) →
    keyWf d (keyEncode d l c) = true ∧ keyEncode d l c % 32 = l ∧ ∀ j, j < d → keyCoord d (keyEncode d l c) j = c j)

/-- 18 R396, R401 to R404, R406, R408, R409, R416: the remote instructions whose ranges translate to the peers and places asked for enter one operation on c.nw;
rld, ratom and rst queue one request for each peer they name; values outside the limits are cause 0x0C, reason 4. -/
def Obligations.RemoteInstructions : Prop :=
  (∀ (s : State) (d a : BitVec 7) (r : BitVec 1) (sc : BitVec 3),
    let going (n : State) : Prop := remoteHeld n = false ∧ tget n.cur.ctr 5 0 ≠ 63
    let ts := threads s.pre.width (act s)
    let asked (qs : List Ask) : List Found := (qs.map (askFind s)).flatten
    let used (n : State) (fs : List Found) : State := fs.foldl (fun s f => usePlace s (agentOf s s.pre) f.ask.need f.place) n
    let isLocal (f : Found) : Prop := f.reached = false ∧ (f.place ≠ .miss ∧ ∀ c, f.place ≠ .fail c)
    let cls : Nat := if r = 1 then 1 else 0
    let sent (u t : State) (op : Op) (items : Nat → List Found → List SendItem) (fs : List Found) : Prop :=
      t = { issueOp u op with fab := t.fab } ∧ t.fab = { u.fab with sendq := t.fab.sendq } ∧
      ∀ p c, c < 8 → tget t.fab.sendq (8 * p + c) [] =
        tget u.fab.sendq (8 * p + c) [] ++ (if c = cls then items p (fs.filter fun f => f.peer.1 == p) else [])
    (let os : List Opd := [.v 0 a 2 (act s), .dv d]
      let n := Noted s os
      let asks : List Ask := ts.map fun thr => { va := (pairV s a.toNat thr).toNat, size := 4, thr, acc := 0, flt := 0, need := .read, target := true }
      let fs := asked asks
      Ready s os → going n → (∀ q ∈ asks, q.va % 4 = 0 ∧ askFind n q = askFind s q) → (∀ f ∈ fs, f.reached = true) → let u := used n fs
      ∃ t, exec (.rld d a r sc) s = .next t ∧
        sent u t (withScope u sc.toNat { kind := .remote, instr := .rld d a r sc, path := some 5 }) (fun _ fs => if fs = [] then [] else
          [{ op := u.nextId, charge := 4 * fs.length, thrs := fs.map (·.ask.thr), body := some (.read (fs.map fun f => .ofNat 52 f.peer.2)) }]) fs) ∧
    (let os := ratomOpds s a (act s) ++ [.dv d]
      let n := Noted s os
      let code (t : Nat) : Nat := (pairV s a.toNat t).toNat / 2 ^ 56 % 16
      let asks : List Ask := ts.map fun thr =>
        { va := (pairV s a.toNat thr).toNat % 2 ^ 56, size := 4, thr, acc := 2, flt := 2, need := .write, target := true }
      let fs := asked asks
      Ready s os → going n → (∀ q ∈ asks, q.va % 4 = 0 ∧ askFind n q = askFind s q) → (∀ f ∈ fs, f.reached = true) →
      (∀ t, ts.find? (fun t => decide ((pairV s a.toNat t).toNat / 2 ^ 60 ≠ 0 ∨ 12 ≤ code t)) = some t →
        exec (.ratom d a r sc) s = .next (raise n 0x0C (.ofNat 32 (t % 64 * 2 ^ 18 + 4)))) ∧
      ((∀ t ∈ ts, (pairV s a.toNat t).toNat / 2 ^ 60 = 0 ∧ code t < 12) → let u := used n fs
        ∃ t, exec (.ratom d a r sc) s = .next t ∧
          sent u t (withScope u sc.toNat { kind := .remote, instr := .ratom d a r sc, path := some 5 }) (fun _ fs => if fs = [] then [] else
            [{ op := u.nextId, charge := (fs.map fun f => if code f.ask.thr = 9 then 8 else 4).sum, thrs := fs.map (·.ask.thr),
               body := some (.atom (fs.map fun f => (.ofNat 4 (code f.ask.thr), .ofNat 52 f.peer.2, V s a 2 f.ask.thr, V s a 3 f.ask.thr))) }]) fs)) ∧
    (Ready s [.s 0 a 8, .ds d] → going s →
      let src := octet s a 0
      let dst := octet s a 2
      let flag := octet s a 4
      let n := (SN s a.toNat 6).toNat
      let target (va m : Nat) : Ask := { va, size := m, acc := 1, flt := 1, need := .write, target := true }
      let flags : List Ask := if flag = 0 then [] else [target flag 4]
      let found (asks : List Ask) : Prop := (∀ q ∈ asks, q.va % 4 = 0) ∧ scattered (asked asks) = none ∧
        ∀ f ∈ asked asks, if f.ask.target then f.reached = true else isLocal f
      let locals (fs : List Found) : List Acc := (fs.filter fun f => !f.reached).map Found.local
      let first (fs : List Found) : Nat × Nat := ((fs.find? Found.reached).map (·.peer)).getD (0, 0);
      (n % 4 = 0 → 4 ≤ n → n ≤ 4096 → SN s a.toNat 7 = 0 →
        let asks := { va := src, size := n, acc := 1, flt := 7, need := .read, target := false } :: target dst n :: flags
        let fs := asked asks
        found asks → let u := used s fs
        ∃ t, exec (.rst d a r sc) s = .next t ∧
          sent u t (withScope u sc.toNat { kind := .remote, instr := .rst d a r sc, path := some 5, accs := locals fs }) (fun p _ => if p = (first fs).1 then
            [{ op := u.nextId, charge := n, thrs := [0], body := some (.put (.ofNat 52 (first fs).2) [] (.ofNat 52 (flagAt fs flag))) }] else []) []) ∧
      (let ctl := (SN s a.toNat 7).toNat
        let asks : List Ask := { va := src, size := if src / 2 ^ 48 = 0xFF then n else 0, acc := 1, flt := 7, need := .read, target := false } ::
          target dst 4 :: flags
        let fs := asked asks
        n % 4 = 0 → 4 ≤ n → ctl / 4 % 2 ^ 14 = 0 → found asks → let u := used s fs
        let two (x : Nat) : List Word := [.ofNat 32 x, .ofNat 32 (x / 2 ^ 32)]
        let args : List Word := two src ++ two (first fs).2 ++ two (flagAt fs flag) ++ [.ofNat 32 n, .ofNat 32 ctl, .ofNat 32 (first fs).1]
        exec (.xsend d a r sc) s = .next (issueOp u (withScope u sc.toNat
          { kind := .remote, instr := .xsend d a r sc, path := some 5, accs := locals fs, args }))) ∧
      (let n := (SN s a.toNat 4).toNat
        let w := (SN s a.toNat 5).toNat
        let asks : List Ask := [{ va := src, size := 4 * n, acc := 0, flt := 0, need := .read, target := false },
          { va := dst, size := 4 * n, acc := 1, flt := 1, need := .write, target := false }]
        let fs := asked asks
        1 ≤ n → n ≤ 120 → w % 16 < 7 → w / 16 % 2 ^ 12 = 0 → SN s a.toNat 6 = 0 → SN s a.toNat 7 = 0 → (scopeOf s s.pre sc.toNat).obs.getLsbD 3 = true →
        (∀ q ∈ asks, q.va % 4 = 0) → (∀ f ∈ fs, isLocal f) → let u := used s fs
        let accs : List Acc := fs.map fun f => { f.local with thr := if f.ask.acc = 0 then 0 else 1 }
        exec (.rred d a r sc) s = .next (issueOp u (withScope u sc.toNat
          { kind := .remote, instr := .rred d a r sc, path := some 5, accs, args := [.ofNat 32 n, .ofNat 32 w] })))) ∧
    (Ready s [.s 0 a, .ds d] → going s → let x := (S s a).toNat;
      (x < 65536 → exec (.xpoll d a) s = .next (issueOp s { kind := .remote, instr := .xpoll d a, path := some 5, args := [S s a] })) ∧
      (65536 ≤ x → exec (.xpoll d a) s = .next (raise s 0x0C 4)) ∧
      (x < 4096 → exec (.rpath d a) s = .next (issueOp s { kind := .remote, instr := .rpath d a, path := some 5, args := [S s a] })) ∧
      (4096 ≤ x → exec (.rpath d a) s = .next (raise s 0x0C 4))) ∧
    (Ready s [] → remoteHeld s = false →
      let older := (s.ops.filter fun x => x.furrow == s.iss.furrow && !x.done && (match x.instr with
        | .rld _ _ _ _ => true
        | .rst _ _ _ _ => true
        | .ratom _ _ _ _ => true
        | .rred _ _ _ _ => true
        | _ => false)).map (·.id)
      exec (.rfence sc) s = .next (fenceAfter s (.rfence sc) sc older)))

/-- 08 R210, R216, R217, R220, R221, R225 to R227, 01 R24: matrix operations check their cluster memory offset and join the stream's queue; `mest` reads the next
charge, or reads and clears the events; tile transfers check the croft's stream and the part and enter.
That info names thread 0 for a part out of range is the model's choice (log entry 72). -/
def Obligations.MatrixInstructions : Prop :=
  ∀ (s : State) (a : BitVec 7) (t ta : BitVec 4) (p : BitVec 5) (keep acc : BitVec 1),
    let held := (s.ops.any fun o => o.furrow == s.iss.furrow && !o.done && o.holdsMemory &&
      (o.kind != .fence || (fenceParts o.instr).acq || o.version.obs.getLsbD 2)) = true
    let apart (n : State) := (n.ops.any fun o => o.furrow == n.iss.furrow && !o.done && o.holdsMemory && o.version.obs.getLsbD 2) = false
    let free := ¬held ∧ tget s.cur.ctr 3 0 ≠ 63 ∧ s.cur.mqueue.length < 16
    let queued (i : Instr) (offset : Word) : State :=
      let t := issueOp s { kind := .matrix, instr := i, path := some 3 }
      let m : MatrixOp := { op := s.nextId, instr := i, offset, pkt := s.iss.pkt, slot := s.iss.slot }
      { t with cur := { t.cur with mqueue := s.cur.mqueue ++ [m], poisonTrap := s.cur.poisonTrap.map fun x => (x.1 + 1, x.2) } }
    let info (acc o : Nat) : Word := .ofNat 32 (3 * 2 ^ 15 + acc * 2 ^ 12 + o % 4096)
    let o := (S s a).toNat;
    (∀ q ∈ ([(.mlda t a, .s 0 a, 0, 64, 8192), (.mst t a, .s 0 a, 1, 64, 4096)] ++
        ((List.range 18).map fun h => (.mma (.ofNat 5 h) keep acc t ta a, .s 1 a, 0,
          if h ∈ [8, 9, 10, 11, 12, 13, 14, 15] then 32 else 64,
          (if h ∈ [8, 9, 10, 11, 12, 13, 14, 15] then 32 else 64) * (if h ∈ [1, 9, 13] then 2 else if h ∈ [2, 10, 14] then 4 else 1) *
            (if h = 6 then 64 else if h ∈ [4, 5, 11, 15, 17] then 16 else 32))) : List (Instr × Opd × Nat × Nat × Nat)),
      Ready s [q.2.1] →
        (o % q.2.2.2.1 ≠ 0 → exec q.1 s = .next (raise s 0x05 (info q.2.2.1 o))) ∧
        (o % q.2.2.2.1 = 0 → 0x400000 < o + q.2.2.2.2 → exec q.1 s = .next (raise s 0x07 (info q.2.2.1 o))) ∧
        (o % q.2.2.2.1 = 0 → o + q.2.2.2.2 ≤ 0x400000 → free → exec q.1 s = .next (queued q.1 (S s a)))) ∧
    (Ready s [] → free → exec (.mzero t) s = .next (queued (.mzero t) 0) ∧ exec .mrls s = .next (queued .mrls 0)) ∧
    (Ready s [.ds a] →
      exec (.mest a 1) s = .next { s with cur := ({ s.cur with mev := 0 } : Furrow).sset a.toNat s.pre.mev } ∧
      exec (.mest a 0) s = .next { s with cur := s.cur.sset a.toNat (.ofNat 32 ((s.pre.mqueue.head?.map (chargeOf s s.pre)).getD 0)) }) ∧
    (let ts := threads s.pre.width (act s);
      (Ready s [.v 3 a 8 (act s)] → let n := Noted s [.v 3 a 8 (act s)];
        ((s.croft s.pre.croft).stream = none → exec (.twr a t p) s = .next (raise n 0x0A s.iss.word)) ∧
        (∀ k, (s.croft s.pre.croft).stream = some k → 2048 / (8 * s.pre.width) ≤ p.toNat →
          exec (.twr a t p) s = .next (raise n 0x07 (.ofNat 32 (2 ^ 12 + p.toNat)))) ∧
        (∀ k, (s.croft s.pre.croft).stream = some k → p.toNat < 2048 / (8 * s.pre.width) → apart n → tget n.cur.ctr 3 0 ≠ 63 →
          ∃ targs, (∀ u ∈ ts, ∀ r, r < 8 → tget targs (8 * u + r) 0 = V s a r u) ∧ exec (.twr a t p) s = .next (issueOp n
            { kind := .tile, instr := .twr a t p, path := some 3, args := [.ofNat 32 k], targs }))) ∧
      (Ready s [.dv a] →
        ((s.croft s.pre.croft).stream = none → exec (.trd a t p) s = .next (raise s 0x0A s.iss.word)) ∧
        (∀ k, (s.croft s.pre.croft).stream = some k → 1024 / (8 * s.pre.width) ≤ p.toNat →
          exec (.trd a t p) s = .next (raise s 0x07 (.ofNat 32 p.toNat))) ∧
        (∀ k, (s.croft s.pre.croft).stream = some k → p.toNat < 1024 / (8 * s.pre.width) → apart s → tget s.cur.ctr 3 0 ≠ 63 →
          exec (.trd a t p) s = .next (issueOp s { kind := .tile, instr := .trd a t p, path := some 3, args := [.ofNat 32 k] }))))

/-- 15 R336 to R338, R340, R344, R351: the effect of each of the 26 drill words on the queue whose drill runs it: registers, place in the program, loops, regions,
faults of kinds 4 and 5, indirect buffers, and the end of a ring packet.
The model's choices among this: `fence` waits for launches and not for sheaves (log entry 45); the node word does nothing on a table that cannot be
read (log entry 41); `qf.aux` of a record of kind 4 or 5 is the failing word's index (log entry 21). -/
def Obligations.DrillInstructions : Prop :=
  ∀ (s : State) (a b : BitVec 5), let Q := s.queue s.dq
    let g (x : BitVec 5) : Dword := if x = 0 then 0 else tget Q.g x.toNat 0
    let put (q : Queue) (x : BitVec 5) (v : Dword) : Queue := if x = 0 then q else { q with g := tset q.g x.toNat 0 v }
    let only (u t : State) (q : Queue) : Prop := t = { u with queues := t.queues } ∧ t.queue s.dq = q ∧ ∀ k, k ≠ s.dq → t.queue k = u.queue k
    let plain (q : Queue) (pc : Nat) : Prop := pc < q.program.length ∧ ∀ l, q.loops.head? = some l → pc < l.2.1
    let on (u t : State) : Prop := only u t { u.queue s.dq with pc := (u.queue s.dq).pc + 1 }
    let fault (kind : Nat) : State := retirePacket (queueNote s s.dq kind false none none none none (some Q.qrd) none none none (some Q.pc)) s.dq;
    (∀ (i : BitVec 16) (n : BitVec 6), plain Q (Q.pc + 1) →
      ∀ p ∈ ([(.drillLi a i, i.signExtend 64), (.drillLih a i, (g a <<< 16) ||| i.setWidth 64), (.drillAddi a i, g a + i.signExtend 64),
          (.drillAdd a b, g a + g b), (.drillSub a b, g a - g b), (.drillAnd a b, g a &&& g b), (.drillOr a b, g a ||| g b),
          (.drillXor a b, g a ^^^ g b), (.drillShl a n, g a <<< n.toNat), (.drillShr a n, g a >>> n.toNat)] : List (Instr × Dword)),
        ∃ t, exec p.1 s = .next t ∧ only s t { put Q a p.2 with pc := Q.pc + 1 }) ∧
    (∀ i : BitVec 16, ∀ p ∈ ([(.drillBeq a b i, decide (g a = g b)), (.drillBne a b i, decide (g a ≠ g b)),
          (.drillBltu a b i, decide ((g a).toNat < (g b).toNat))] : List (Instr × Bool)),
        let pc := Q.pc + 1 + (if p.2 then i.toNat else 0)
        plain Q pc → ∃ t, exec p.1 s = .next t ∧ only s t { Q with pc }) ∧
    (∀ l n : BitVec 8, 1 ≤ l.toNat → Q.pc + 1 < Q.program.length → ∃ t, exec (.drillLoop a l n) s = .next t ∧
      only s t { put Q a 0 with pc := Q.pc + 1, loops := (Q.pc + 1, Q.pc + 1 + l.toNat, a.toNat, n.toNat, 0) :: Q.loops }) ∧
    (∀ (first r n i : Nat) (rest : List (Nat × Nat × Nat × Nat × Nat)) (x : BitVec 16), Q.loops = (first, Q.pc + 1, r, n, i) :: rest →
      i + 1 < n → first < Q.program.length → ∃ t, exec (.drillLi 0 x) s = .next t ∧
        only s t { Q with pc := first, loops := (first, Q.pc + 1, r, n, i + 1) :: rest, g := if r = 0 then Q.g else tset Q.g r 0 (.ofNat 64 (i + 1)) }) ∧
    (∀ (rg : BitVec 3) (o : BitVec 12), let region : Nat × Nat := if rg = 0 then (Q.pkt.toNat, 64)
        else if rg = 1 then (Q.qbase.toNat / 64 * 64, 64 * 2 ^ Q.lsz)
        else ((tget Q.qwin (rg.toNat - 2) 0).toNat / 64 * 64, (tget Q.qwlen (rg.toNat - 2) 0).toNat)
      let off := ((g b).toNat + 4 * o.toNat) % 2 ^ 64
      let va := (region.1 + off) % 2 ^ 64
      let inside (size : Nat) : Prop := rg.toNat ≤ 5 ∧ off + size ≤ region.2 ∧ (size = 4 ∨ va % 8 = 0);
      (∀ p ∈ ([(.drillLdw a b rg o, 4), (.drillLdd a b rg o, 8)] : List (Instr × Nat)),
        (∀ bs u, inside p.2 → frontAcquire s s.dq va p.2 = some (bs, u) → let q := u.queue s.dq
          plain q (q.pc + 1) → ∃ t, exec p.1 s = .next t ∧ only u t { put q a (.ofNat 64 (ofBytes bs)) with pc := q.pc + 1 }) ∧
        (¬inside p.2 ∨ frontAcquire s s.dq va p.2 = none → exec p.1 s = .next (fault 4))) ∧
      (∀ p ∈ ([(.drillStw a b rg o, 4), (.drillStd a b rg o, 8)] : List (Instr × Nat)), let bytes := toBytes p.2 (g a).toNat;
        (∀ u, inside p.2 → frontWrite s s.dq va bytes = some u → plain (u.queue s.dq) ((u.queue s.dq).pc + 1) →
          ∃ t, exec p.1 s = .next t ∧ on u t) ∧
        (¬inside p.2 ∨ frontWrite s s.dq va bytes = none → exec p.1 s = .next (fault 4)))) ∧
    (let r := dispatch s s.dq (g a) Q.qrd none
      let q := r.2.queue s.dq
      plain q (q.pc + 1) → ∃ t, exec (.drillLaunch a b) s = .next t ∧ only r.2 t { put q b (.ofNat 64 r.1) with pc := q.pc + 1 }) ∧
    (∀ i : BitVec 16, let node := (g a).toNat + 64 * i.toNat;
      (readNode s s.dq node = none → plain Q (Q.pc + 1) → ∃ t, exec (.drillNode a i) s = .next t ∧ on s t) ∧
      (∀ nd, readNode s s.dq node = some nd → let u := launchSheaf s s.dq node nd Q.qrd
        plain (u.queue s.dq) ((u.queue s.dq).pc + 1) → ∃ t, exec (.drillNode a i) s = .next t ∧ on u t)) ∧
    ((g a).toNat % 8 ≠ 0 → exec (.drillSignal a b) s = .next (fault 4) ∧ ∀ c, exec (.drillWaitsig a b c) s = .next (fault 4)) ∧
    ((g a).toNat % 8 = 0 →
      (∀ u, frontRelease s s.dq (g a).toNat (toBytes 8 (g b).toNat) (s.die (s.dq / 64)).pts = some u →
        plain (u.queue s.dq) ((u.queue s.dq).pc + 1) → ∃ t, exec (.drillSignal a b) s = .next t ∧ on u t) ∧
      (∀ bs u, frontAcquire s s.dq (g a).toNat 8 = some (bs, u) → let m := BitVec.ofNat 64 (ofBytes bs)
        ∀ p ∈ ([(0, decide (m = g b)), (1, decide (m ≠ g b)), (2, decide ((g b).toNat ≤ m.toNat))] : List (BitVec 2 × Bool)),
          (p.2 = false → exec (.drillWaitsig a b p.1) s = .next u) ∧
          (p.2 = true → plain (u.queue s.dq) ((u.queue s.dq).pc + 1) → ∃ t, exec (.drillWaitsig a b p.1) s = .next t ∧ on u t))) ∧
    (let waits := s.launches.any fun x => x.2.queue == s.dq && x.2.sheaf.isNone && !x.2.signalled;
      (waits = true → exec .drillFence s = .next s) ∧ (waits = false → plain Q (Q.pc + 1) → ∃ t, exec .drillFence s = .next t ∧ on s t)) ∧
    (Q.levels.length < 4 → 1 ≤ (g b).toNat → (g b).toNat ≤ 65535 → (g a).toNat % 64 = 0 →
      let l : Level := { left := (g b).toNat, index := 0, g1 := g 1, g2 := g 2, pkt := Q.pkt, pc := Q.pc + 1, loops := Q.loops }
      ∃ t, exec (.drillIndirect a b) s = .next t ∧
        only s t { Q with inPacket := true, pc := 0, pkt := g a, loops := [], levels := l :: Q.levels, g := tset (tset Q.g 1 0 (g a)) 2 0 0 }) ∧
    (4 ≤ Q.levels.length → exec (.drillIndirect a b) s = .next (fault 5)) ∧
    (Q.levels.length < 4 → (g b = 0 ∨ 65535 < (g b).toNat ∨ (g a).toNat % 64 ≠ 0) → exec (.drillIndirect a b) s = .next (fault 4)) ∧
    (Q.levels = [] → exec .drillRet s = .next (retirePacket s s.dq) ∧ exec .drillNext s = .next (retirePacket s s.dq)) ∧
    (∀ l rest, Q.levels = l :: rest →
      (1 < l.left → ∃ t, exec .drillNext s = .next t ∧ only s t
        { Q with inPacket := true, pc := 0, pkt := Q.pkt + 64, loops := [], levels := { l with left := l.left - 1, index := l.index + 1 } :: rest,
                 g := tset (tset Q.g 1 0 (Q.pkt + 64)) 2 0 (.ofNat 64 (l.index + 1)) }) ∧
      (plain { Q with loops := l.loops } l.pc → ∀ i ∈ (.drillRet :: if l.left ≤ 1 then [.drillNext] else [] : List Instr),
        ∃ t, exec i s = .next t ∧ only s t { Q with levels := rest, pc := l.pc, loops := l.loops, pkt := l.pkt, g := tset (tset Q.g 1 0 l.g1) 2 0 l.g2 })) ∧
    (let at_ := Q.qbmap.toNat / 64 * 64 + Q.qrd.toNat % 2 ^ Q.lsz / 8
      ∀ b k, frontPeek s s.dq at_ 1 = some [b] → frontPlace s s.dq at_ 1 .write = some k → let t := retirePacket s s.dq
      let m := (recallLine (frontUse s s.dq at_ .write 2 1) (k / 64)).mem
      t.queue s.dq = { Q with inPacket := false, pc := 0, loops := [], levels := [], qrd := Q.qrd + 1 } ∧
      readByte t.mem k = b &&& ~~~((1 : Byte) <<< (Q.qrd.toNat % 2 ^ Q.lsz % 8)) ∧ ∀ j, j ≠ k → readByte t.mem j = readByte m j)

/-- 06 R162, R163, R169 to R174, 11 R258 to R260, R262, R263: reads, renewals, stores and atomics at a line's home or in the exclusive copy, the completion of
loads, stores and atomics with the registers they write (an element in `early` received its value before, 06 R171, and keeps what stands there), the recall of an exclusive line, and the filling of an L1 of 2,048 lines.
The model's choices among this: a fill older than the line's copy brings none, and which older copies go (log entry 67); what a grant does to the
other copies of the cluster (log entry 35). -/
def Obligations.MemoryEvents : Prop :=
  (∀ (s : State) (op line : Nat) (o : Op), s.op op = some o →
    let f := s.furrow o.furrow
    let older := olderOps s o
    let free := (tget s.lines line {}).owner = none
    let may (load : Bool) (a : Acc) : Bool := !o.refused && !a.done && a.loc / 64 == line && mayPerform older load a && bankFree s o a
    let clean := ∀ w, tget s.memMark w .clean ≠ .uncorrectable
    let past (ids : List Nat) : Prop := ∀ i ∈ ids, opDone s i = true
    let written (t : State) (d n : Nat) (x : Nat → Acc → Word) (acc : Nat → Option Acc) : Prop := ∀ r u, u < 64 →
      (t.furrow o.furrow).vget r u = if r < 128 ∧ 64 * r + u ∈ o.early then f.vget r u else if r ≠ 0 ∧ d ≤ r ∧ r < d + n ∧ u < f.width then
        (if o.zero.getLsbD u then 0 else if o.act.getLsbD u then ((acc u).map (x (r - d))).getD (f.vget r u) else f.vget r u) else f.vget r u
    let own (u : Nat) : Option Acc := o.accs.find? fun a => a.thr == u
    let word (i : Nat) (a : Acc) : Word := .ofNat 32 (ofBytes ((a.data.drop (4 * i)).take 4));
    (o.kind = .load → free → line < 2 ^ 51 → clean → (∃ a ∈ o.accs, may true a = true) →
      let renewal := (∃ a ∈ o.accs, may true a = true ∧ a.l1 = true) ∧ f.stream = false ∧ ∃ x ∈ (s.core f.gcore).l1, x.line = line
      let reads (t : State) : Prop := t.mem = s.mem ∧ t.furrows = s.furrows ∧
        (let w := if stamped (64 * line) then (s.line (64 * line)).wts else 0
          let own := unseen older w
          ∃ heard, t.op op = some { o with
            accs := o.accs.map fun a => if may true a then
              { a with data := forwarded own a.loc (readBytes s.mem a.loc a.size), done := true,
                       marks := (List.range ((a.loc % 4 + a.size + 3) / 4)).map fun i => let w := a.loc / 4 + i
                         !(own.any fun b => decide (b.loc ≤ 4 * w ∧ 4 * w + 4 ≤ b.loc + b.size)) && tget s.memMark w .clean == .poisoned } else a,
            rmax := smax o.rmax w, heard }) ∧
        (stamped (64 * line) = true → let l := s.line (64 * line)
          let d := s.die (homeDie (64 * line))
          let lease := BitVec.ofNat 48 d.lease
          1 ≤ d.lease → d.lease ≤ 2 ^ 20 → t.line (64 * line) = { l with rts := smax l.rts (smax (l.wts + lease) (o.pts + lease)) })
      (¬renewal → (∃ t, exec (.homeRead op line) s = .next t ∧ reads t) ∧ exec (.homeRenewal op line) s = .next s) ∧
      (renewal → (∃ t, exec (.homeRenewal op line) s = .next t ∧ reads t) ∧ exec (.homeRead op line) s = .next s)) ∧
    (o.kind = .load → o.done = false → (∀ a ∈ o.accs, a.done = true) → past o.after → (∀ x ∈ (s.core f.gcore).fills, x.op ≠ op) →
      (tfind s.furrows o.furrow).isSome → ∃ t, exec (.loadComplete op) s = .next t ∧ t.mem = s.mem ∧ opDone t op = true ∧
        (∀ (sp : BitVec 3) (w : BitVec 2) (d a : BitVec 7) (x : BitVec 6),
          (o.instr = .ld sp w d a x → written t d.toNat (2 ^ w.toNat) word (fun u => if sp = 5 ∧ o.accs.length = 1 then o.accs.head? else own u)) ∧
          (o.instr = .ldsw sp w d a x → written t d.toNat 1
            (fun _ a => if w = 0 then .ofNat 32 (ofBytes (a.data.take 1)) else if w = 1 then (BitVec.ofNat 8 (ofBytes (a.data.take 1))).signExtend 32
              else if w = 2 then .ofNat 32 (ofBytes (a.data.take 2)) else (BitVec.ofNat 16 (ofBytes (a.data.take 2))).signExtend 32)
            (fun u => if sp = 5 then o.accs.head? else own u)) ∧
          (o.instr = .ldu sp w d a x → ∀ c, o.accs.head? = some c → ∀ r, (t.furrow o.furrow).sget r =
            if 8192 + r ∈ o.early then f.sget r else if r ≠ 0 ∧ d.toNat ≤ r ∧ r < d.toNat + 2 ^ w.toNat then word (r - d.toNat) c else f.sget r)) ∧
        (∀ (d a : BitVec 7) (sc : BitVec 3), (o.instr = .lda d a sc → written t d.toNat 1 word own) ∧
          (o.instr = .barq d a sc → ∀ c, o.accs.head? = some c → ∀ r, (t.furrow o.furrow).sget r =
            if 8192 + r ∈ o.early then f.sget r else if r ≠ 0 ∧ r = d.toNat then word 0 c else f.sget r))) ∧
    (o.kind = .store → past o.after → lineFree s f line = true → (∃ a ∈ o.accs, may false a = true) →
      ∃ t, exec (.homeStore op line) s = .next t ∧
        (∃ pts wmax w, t.op op = some { o with accs := o.accs.map (fun a => if may false a then { a with done := true, stamp := w, prior := (s.line (64 * line)).wts } else a), begun := true, pts, wmax }) ∧
        (∀ k, (t.furrow k).v = (s.furrow k).v ∧ (t.furrow k).s = (s.furrow k).s) ∧
        (free → t.mem = (o.accs.filter (may false)).foldl (fun m a => writeBytes m a.loc a.data) s.mem) ∧
        (¬free → (l1Find s f.gcore line).isSome → t.mem = s.mem)) ∧
    (o.kind = .store → o.done = false → (∀ a ∈ o.accs, a.done = true) → past o.after →
      ∃ t, exec (.storeComplete op) s = .next t ∧ t.mem = s.mem ∧ opDone t op = true ∧ ∀ k, (t.furrow k).v = (s.furrow k).v ∧ (t.furrow k).s = (s.furrow k).s) ∧
    (∀ a, o.kind = .atomic → o.accs = [a] → a.done = false → a.loc % 4 = 0 → a.loc / 64 = line → mayPerform older false a = true → bankFree s o a = true →
      tget s.memMark (a.loc / 4) .clean = .clean → free →
      let new := toBytes 4 (atomicNew o.instr (.ofNat 32 (ofBytes (readBytes s.mem a.loc 4))) (tget o.targs (8 * a.thr) 0) (tget o.targs (8 * a.thr + 1) 0)).toNat;
      (stamped (64 * line) = true → o.refused = false → (s.core f.gcore).l1.length < 2048 → ∃ t, exec (.exclusiveGrant op line) s = .next t ∧ t.mem = s.mem ∧
        (tget t.lines line {}).owner = some f.gcore ∧ (l1Find t f.gcore line).map (·.data) = some
          ((readBytes s.mem (64 * line) 64).take (a.loc % 64) ++ new ++ (readBytes s.mem (64 * line) 64).drop (a.loc % 64 + 4)) ∧
        (t.op op).map (·.accs) = some [{ a with data := readBytes s.mem a.loc 4, marks := [false], done := true }]) ∧
      (stamped a.loc = false → o.done = false → ∃ t, exec (.atomicComplete op) s = .next t ∧ t.mem = writeBytes s.mem a.loc new ∧ opDone t op = true)) ∧
    (o.kind = .atomic → o.done = false → (∀ a ∈ o.accs, a.done = true) → (tfind s.furrows o.furrow).isSome →
      ∃ t, exec (.atomicComplete op) s = .next t ∧ t.mem = s.mem ∧ opDone t op = true ∧ written t (atomicDest o.instr) 1 word own)) ∧
  (∀ (s : State) (line : Nat), ∃ t, exec (.recall line) s = .next t ∧ (tget t.lines line {}).owner = none ∧
    (∀ c x, (tget s.lines line {}).owner = some c → (s.core c).l1.find? (fun x => x.line == line && x.exclusive) = some x →
      t.mem = writeBytes s.mem (64 * line) x.data ∧ tget t.lines line {} = { wts := x.wts, rts := x.rts, owner := none } ∧
      ∀ y ∈ (t.core c).l1, y.line = line → y.exclusive = false) ∧
    ((tget s.lines line {}).owner = none → t = s)) ∧
  (∀ (s : State) (core line : Nat) (x : Fill), (s.core core).fills.find? (·.line == line) = some x → ∃ t, exec (.l1Fill core line) s = .next t ∧
    let there := l1Find s core line
    let rest := (s.core core).l1.filter fun y => y.line != line
    t.furrows = s.furrows ∧ (t.core core).fills = (s.core core).fills.filter (fun y => !(y.op == x.op && y.line == x.line)) ∧
    ((s.core core).l1.length ≤ 2048 → (t.core core).l1.length ≤ 2048) ∧
    ((s.core core).l1.length < 2048 → t.mem = s.mem ∧ t.lines = s.lines ∧ (∀ c, c ≠ core → t.core c = s.core c) ∧
      (t.core core).l1 =
        if there.any (·.exclusive) then (s.core core).l1
        else if x.dropped || there.any (fun y => decide (x.wts.toNat < y.wts.toNat)) then rest
        else { line := line, data := x.data, wts := x.wts, rts := x.rts } :: rest))

/-- 06 R179 to R183, 11 R253, R254, R261, R264, R270 to R274, R278 to R281, 05 R133: what the events of barriers, `waitw`, messages, the scope table, page walks,
the fault ring, replies, TLB invalidations, retired slices, the partition and the rebase do. The model's choices among this: the rebase is due within
2^20 of 2^47 and the stamps of saved work are rebased too (log entry 48); a write of dpart while one is applied is ignored, and a retirement is one
step (log entry 47); tlbinv is one step (log entry 60), and one with code 4 to 15 drops nothing (log entry 83);
an arrival and a `waitw` at a poisoned word take the bytes as they stand (log entry 40). -/
def Obligations.SyncEvents : Prop :=
  (∀ (s : State) (op line : Nat) (o : Op) (a : Acc), s.op op = some o → o.accs = [a] →
    let f := s.furrow o.furrow
    let free := (tget s.lines (a.loc / 64) {}).owner = none
    let here := (tfind s.furrows o.furrow).isSome = true
    let clean := ∀ w, tget s.memMark w .clean ≠ .uncorrectable
    let past := ∀ i ∈ o.after, opDone s i = true
    let renamed (t : State) (w : Wait) : Prop := (t.furrow o.furrow).entries = f.entries.map fun e =>
      { e with waits := e.waits.map fun x => if Wait.names op x then w else x }
    let begins (t : State) (as : List Acc) : Prop := t.mem = s.mem ∧ renamed t (.operation op) ∧
      ∃ rmax heard, t.op op = some { o with accs := as, parked := false, begun := true, after := acquireSet s o.furrow, rmax, heard }
    let scalar (t : State) (d : Nat) (x : Word) : Prop := here → ∀ r, (t.furrow o.furrow).sget r = if r ≠ 0 ∧ r = d then x else f.sget r;
    (o.kind = .arrival → o.done = false → o.parked = false → o.begun = false → o.refused = false → past → free → mayPerform (olderOps s o) false a = true →
      bankFree s o a = true → let w := ofBytes (readBytes s.mem a.loc 8)
      let applied := arrive w (if f.stream then none else some f.fidx)
      let info : Word := .ofNat 32 (3 * 2 ^ 12 + a.addr.toNat % 4096);
      (∀ w', applied = some w' → ∃ t, exec (.barrierArrival op) s = .next t ∧ t.mem = writeBytes s.mem a.loc (toBytes 8 w') ∧
        (o.path = none → (t.op op).map (·.parked) = some true ∧ renamed t (.parked op a.loc (fld w 24 1 == 1))) ∧
        (∀ d x sc, o.path.isSome → o.instr = .bara d x sc → opDone t op = true ∧ scalar t d.toNat (.ofNat 32 (fld w 24 1)))) ∧
      (applied = none → o.path.isSome → here → ∃ t, exec (.barrierArrival op) s = .next t ∧ t.mem = s.mem ∧ opDone t op = true ∧
        (t.furrow o.furrow).late = f.late ++ [{ cause := 0x09, info }]) ∧
      (applied = none → o.path = none → exec (.barrierArrival op) s = .next (trapAtOp (releaseStamp s o) o 0x09 info))) ∧
    (∀ furrow entry w, parkedOp s furrow entry = some (o, w) → o.parked = true →
      (∀ x loc ph, w = .parked x loc ph → o.kind = .arrival →
        (o.begun = true → overflowWaiter s o = false → ∃ t, exec (.barrierWake furrow entry) s = .next t ∧ begins t [a]) ∧
        (overflowWaiter s o = true → (s.line loc).owner = none → phaseAt s.mem loc ≠ ph →
          ∃ t, exec (.barrierReread furrow entry) s = .next t ∧ begins t [a]) ∧
        (phaseAt s.mem loc = ph → exec (.barrierReread furrow entry) s = .next s))) ∧
    (∀ d x q sc, o.kind = .waitw → o.instr = .waitw d x q sc → clean → free →
      let m := read32 s.mem a.loc
      let y := o.args.headD 0
      let settled := ∀ x ∈ s.ops, x.furrow = o.furrow → x.done = false → x.kind = .waitw ∨ ∀ b ∈ x.accs, b.done = true ∨ a.overlaps b = false
      let met := if q = 0 then m = y else if q = 1 then m ≠ y else y.toNat ≤ m.toNat
      let reads (t : State) : Prop := (met → begins t [{ a with done := true }]) ∧
        (¬met → t.mem = s.mem ∧ (∃ heard, t.op op = some { o with parked := true, begun := false, heard }) ∧ renamed t (.word op a.loc))
      (settled → o.parked = false → o.refused = false → a.done = false → line = a.loc / 64 → mayPerform (olderOps s o) false a = true → bankFree s o a = true →
        ∃ t, exec (.homeRead op line) s = .next t ∧ reads t) ∧
      (∀ furrow entry w, parkedOp s furrow entry = some (o, w) → o.parked = true → o.begun = true → settled →
        (overflowWaiter s o = false → (∃ t, exec (.waitwWake furrow entry) s = .next t ∧ reads t) ∧ exec (.waitwPoll furrow entry) s = .next s) ∧
        (overflowWaiter s o = true → (∃ t, exec (.waitwPoll furrow entry) s = .next t ∧ reads t) ∧ exec (.waitwWake furrow entry) s = .next s))) ∧
    (∀ d x n, o.kind = .scopeset → o.instr = .scopeset d x n → o.done = false → o.refused = false → earlierScopeset s o = false → free →
      mayPerform (olderOps s o) true a = true → bankFree s o a = true → a.loc < 2 ^ 57 →
      let r := ofBytes (forwarded (unseen (olderOps s o) (if stamped a.loc then (s.line a.loc).wts else 0)) a.loc (readBytes s.mem a.loc 64))
      let bad := r / 2 ^ 276 ≠ 0 ∨ r / 2 ^ 268 % 16 ≠ 0 ∨ r / 2 ^ 261 % 8 ≠ 0
      let old := tget (s.ctx f.ctx).scopes o.scope {}
      let new : Scope := { map := .ofNat 256 r, obs := .ofNat 5 (r / 2 ^ 256), pgrp := .ofNat 4 (r / 2 ^ 264), gen := old.gen + 1 }
      ∃ t, exec (.scopeInstall op) s = .next t ∧ t.mem = s.mem ∧ opDone t op = true ∧
        (bad → t.ctxs = s.ctxs ∧ t.clusters = s.clusters ∧ scalar t d.toNat 0xFFFFFFFF) ∧
        (¬bad → scalar t d.toNat (new.gen.setWidth 32) ∧ tget (t.ctx f.ctx).scopes o.scope {} = new ∧
          ∀ c, (tget (s.cluster c).scopes (8 * f.ctx + o.scope) none).isSome →
            tget (t.cluster c).scopes (8 * f.ctx + o.scope) none = some new))) ∧
  (∀ (s : State) (op : Nat) (o : Op) (d a : BitVec 7), s.op op = some o → o.kind = .message → o.instr = .msg d a → o.done = false → o.args.length = 10 →
    messageReady s o = true → (tfind s.furrows o.furrow).isSome →
    let f := s.furrow o.furrow
    let target := (nth o.args 9 0).toNat % 256
    let tag := nth o.args 8 0
    let c := s.cluster target
    ∃ t, exec (.messageArrival op) s = .next t ∧ opDone t op = true ∧
      let result (x : Word) : Prop := ∀ r, (t.furrow o.furrow).sget r = if r = d.toNat + 1 then x else f.sget r;
      (∀ x, c.posted.find? (fun x => x.takes f.cluster tag) = some x → x.loc % 64 = 0 → result 0 ∧ (t.cluster target).posted = c.posted.erase x ∧
        readBytes t.mem x.loc 44 = bytesOf (o.args.take 8) ++ toBytes 4 tag.toNat ++ toBytes 4 f.cluster ++ toBytes 4 1) ∧
      ((∀ x ∈ c.posted, x.takes f.cluster tag = false) →
        (c.overflow.length < 64 → result 1 ∧ t.mem = s.mem ∧
          ∃ pts, (t.cluster target).overflow = c.overflow ++ [{ source := f.cluster, tag, payload := o.args.take 8, pts }]) ∧
        (64 ≤ c.overflow.length → result 2 ∧ (t.cluster target).overflow = c.overflow))) ∧
  (∀ (s : State) (ctx furrow : Nat) (v : BitVec 64) (va : BitVec 56) (acc : BitVec 3),
    (∀ r rest, (s.ctx ctx).faults = r :: rest → (s.ctx ctx).fring ≠ 0 → let c := s.ctx ctx
      let n := 2 ^ (c.fring.toNat % 32);
      (n ≤ (latest32 s c.fringw.toNat - latest32 s (c.fringw.toNat + 8)).toNat → exec (.faultRecordWrite ctx) s = .next s) ∧
      ((latest32 s c.fringw.toNat - latest32 s (c.fringw.toNat + 8)).toNat < n → ∃ u,
        ringPut s (c.fring.toNat / 32 * 32) c.fringw.toNat n (bytesOf r) 0 = .done u ∧
        exec (.faultRecordWrite ctx) s = .next (u.modCtx ctx fun c => { c with faults := rest }))) ∧
    (∃ t, exec (.fresume ctx) s = .next t ∧ t = { s with furrows := t.furrows } ∧ ∀ k, t.furrow k = if (s.furrow k).ctx = ctx then
      { s.furrow k with entries := (s.furrow k).entries.map fun e => { e with waits := e.waits.filter fun w => match w with
        | .replay _ _ => false
        | _ => true } } else s.furrow k) ∧
    (let x := v.toNat
      let key := if x / 2 ^ 16 % 2 = 1 then streamKey (x / 2 ^ 24 % 256) (x / 2 ^ 17 % 32) else furrowKey (4 * (x / 2 ^ 24 % 256) + x / 2 ^ 22 % 4) (x / 2 ^ 17 % 32)
      ∀ f r, tfind s.furrows key = some f → f.ctx = ctx → f.stream = (x / 2 ^ 16 % 2 == 1) →
        (∃ e ∈ f.entries, Wait.service r ∈ e.waits) → (∀ e ∈ f.entries, ∀ q, Wait.service q ∈ e.waits → q = r) →
        ∃ t, exec (.svcrep ctx v) s = .next t ∧ t = { s with furrows := t.furrows } ∧ (∀ k, k ≠ key → t.furrow k = s.furrow k) ∧
          t.furrow key = { f.sset r.toNat (.ofNat 32 (x / 2 ^ 32)) with
            entries := f.entries.map fun e => { e with waits := e.waits.filter fun w => !isService w } }) ∧
    (let x := v.toNat
      let bits := if x % 16 = 0 then 16 else if x % 16 = 1 then 26 else 36
      let base := x / 2 ^ 16 % 2 ^ 40 * 65536 / 2 ^ bits * 2 ^ bits
      let hit (e : TlbEntry) : Bool := decide (e.ctx = ctx ∧ (x % 16 = 3 ∨ x % 16 < 3 ∧ e.base < base + 2 ^ bits ∧ base < e.base + 2 ^ e.bits))
      ∃ t, exec (.tlbinv ctx v) s = .next t ∧ t.mem = s.mem ∧ t.furrows = s.furrows ∧
        ∀ c, (t.core c).tlb = (s.core c).tlb.filter (fun e => !hit e) ∧ (t.cluster c).tlb = (s.cluster c).tlb.filter (fun e => !hit e) ∧
          (t.die c).walks = (s.die c).walks.filter fun e => !hit { ctx := e.ctx, base := e.pre * 2 ^ (e.sh + 10), bits := e.sh + 10, pte := 0 }) ∧
    (let f := s.furrow furrow
      let a : Dword := va.setWidth 64
      let need : Need := if acc = 1 ∨ acc = 2 then .write else if acc = 3 then .exec else .read;
      (walker f a acc = none → exec (.pageWalkComplete furrow va acc) s = .next s) ∧
      (∀ id thr pkt, walker f a acc = some (id, thr, pkt) → let p := resolve s (agentOf s f) (tlbOf s (agentOf s f)) thr a.toNat 1 need;
        (∀ c, p = .fail c → exec (.pageWalkComplete furrow va acc) s =
          .next ((walkReads s (agentOf s f).die f.ctx a.toNat).modFurrow furrow fun f => endWalk f id a acc [])) ∧
        (p ≠ .miss → (∀ c, p ≠ .fail c) → exec (.pageWalkComplete furrow va acc) s =
          .next ((usePlace s (agentOf s f) need p).modFurrow furrow fun f => endWalk f id a acc [])) ∧
        (p = .miss → ∃ t r, exec (.pageWalkComplete furrow va acc) s = .next t ∧ t.mem = s.mem ∧ (t.ctx f.ctx).faults = (s.ctx f.ctx).faults ++ [r] ∧
          r.length = 8 ∧ t.furrow furrow = endWalk f id a acc [.replay a acc])))) ∧
  (∀ (s : State) (op die slice : Nat) (v : BitVec 32),
    (∃ t, exec (.retireResend op) s = .next t ∧ t = { s with ops := t.ops } ∧
      ∀ x, t.op x = (s.op x).map fun o => if x = op then { o with refused := false } else o) ∧
    (die < 4 → slice < 64 → slice ∉ (s.die die).retired → ∃ t, exec (.l2SliceRetire die slice) s = .next t ∧
      ((s.die die).retired.length < 8 → (t.die die).retired = (s.die die).retired ++ [slice] ∧
        ∀ b, b < 4096 → sliceOf (t.die die) b ≠ slice ∧ (sliceOf (s.die die) b ≠ slice → sliceOf (t.die die) b = sliceOf (s.die die) b)) ∧
      (8 ≤ (s.die die).retired.length → (t.die die).retired = (s.die die).retired ∧ (t.die die).buckets = (s.die die).buckets)) ∧
    (let code := v.toNat % 16
      let inside (k : Nat) : Prop := 2 ^ 56 + die * 2 ^ 29 ≤ k ∧ k < 2 ^ 56 + (die + 1) * 2 ^ 29;
      (die < 4 → code ≤ 8 → dieBusy s die = false → (s.die die).busy = false →
        exec (.dpartWrite die v) s = .next (s.modDie die fun d => { d with busy := true, dnext := code })) ∧
      (4 ≤ die ∨ 8 < code ∨ dieBusy s die = true ∨ (s.die die).busy = true → exec (.dpartWrite die v) s = .next s) ∧
      (let t := applyPartition s die;
        (t.die die).dpart = (s.die die).dnext ∧ (t.die die).busy = false ∧ (∀ k, inside k → readByte t.mem k = 0) ∧
        ((∀ l ∈ s.lines, l.2.owner = none) → ∀ k, ¬inside k → readByte t.mem k = readByte s.mem k))) ∧
    (let due := (∃ l ∈ s.lines, 2 ^ 47 ≤ l.2.rts.toNat + 2 ^ 20 + 1) ∧ (∀ o ∈ s.ops, o.done = true ∨ o.parked = true) ∧
        ∀ c ∈ s.clusters, c.2.run = none;
      (due → ∃ t, exec .stampRebase s = .next t ∧ t.lines = [] ∧ (∀ k, (t.furrow k).pts = 0 ∧ (t.furrow k).seen = 0 ∧ (t.furrow k).maxw = 0) ∧
        (∀ c, (t.core c).l1 = [] ∧ (t.core c).horizon = 0) ∧ (∀ d, (t.die d).pts = 0 ∧ (t.die d).maxw = 0 ∧ (t.die d).floors = []) ∧
        ((∀ l ∈ s.lines, l.2.owner = none) → t.mem = s.mem)) ∧
      (¬due → exec .stampRebase s = .next s)))

/-- 08 R208, R211, R218, R221, R223 to R227; 09 R234 to R246; 13 R312, R322, R323, R325; 15 R332 to R335, R339, R345, R350 to R357, R359: the copy engine, the
matrix engine, the key units, the queues, and the life of plots, streams and launches. A plot or a stream is saved where its record fits the save area's room and its pages can be
written (R356), and refused with kind 7 else. The model's choices among this: a destroy of an idle queue acts as one of a running queue, and a
second one does nothing (log entry 45); one poison record for each mma (log entry 38); the moment at which a stream may be saved (log entry 43);
a command moves all its bytes in one step (log entry 58); a save record's length
beyond the state's size is free (log entry 44); the order in which launches are placed (log entry 42). -/
def Obligations.EngineAndQueueEvents : Prop :=
  (∀ (s : State) (cl i : Nat) (c : CopyCmd) (rest : List CopyCmd), i < 5 → let X := s.cluster cl
    let q := (X.lastQueue + 1 + i) % 5
    let empty (q : Nat) : Prop := if q = 4 then ∀ m ∈ X.moves, m.copied = true else (s.core (4 * cl + q)).copyq = []
    let pts := ((s.op c.op).getD {}).pts
    let next := X.run = none ∧ q < 4 ∧ (s.core (4 * cl + q)).copyq = c :: rest ∧ ∀ j, j < i → empty ((X.lastQueue + 1 + j) % 5)
    let one := c.targets = none ∧ c.rows = 1 ∧ c.keep = false ∧ plotStopped s c.plot = false ∧ c.engineError = false ∧ copyCheck s c = none;
    (X.run ≠ none → exec (.copyCommandStart cl) s = .next s) ∧
    (next → ∃ t r, exec (.copyCommandStart cl) s = .next t ∧ (t.cluster cl).run = some r ∧ r.cmd = c ∧ (t.cluster cl).lastQueue = q ∧
      (t.core (4 * cl + q)).copyq = rest ∧ (plotStopped s c.plot = true → r.status = 5 ∧ t.mem = s.mem) ∧
      (plotStopped s c.plot = false → c.engineError = true → r.status = 6 ∧ t.mem = s.mem) ∧
      (∀ e, plotStopped s c.plot = false → c.engineError = false → copyCheck s c = some e → r.status = e.1 ∧ r.fc = e.2 ∧ r.count = 0 ∧ t.mem = s.mem) ∧
      (∀ k u, one → c.kind = 1 → enginePlace s c .write c.dadr c.len = .ok (k, u) → c.dadr % 65536 + c.len ≤ 65536 → k % 64 + c.len ≤ 64 →
        r.status = 0 ∧ r.count = c.len ∧ ∀ j, j < c.len → readByte t.mem (k + j) = .ofNat 8 (c.bits / 2 ^ (8 * ((c.dadr + j) % 4)))) ∧
      (∀ k u k' u', one → c.kind = 0 → enginePlace s c .read c.sadr c.len = .ok (k, u) → c.sadr % 65536 + c.len ≤ 65536 → k % 64 + c.len ≤ 64 →
        enginePlace s c .write c.dadr c.len = .ok (k', u') → c.dadr % 65536 + c.len ≤ 65536 → k' % 64 + c.len ≤ 64 →
        r.status = 0 ∧ r.count = c.len ∧ ∀ j, j < c.len → readByte t.mem (k' + j) = readByte (recallLine u (k / 64)).mem (k + j))) ∧
    (X.run = none → exec (.copyCommandEnd cl) s = .next s) ∧
    (∀ r, X.run = some r → r.inbound = [] → let silent := if r.status = 0 then c.wantsRecord = false ∨ c.kind = 2 else False
      r.cmd = c → silent → ∃ t, exec (.copyCommandEnd cl) s = .next t ∧ (t.cluster cl).run = none ∧ t.mem = s.mem ∧ opDone t c.op = true ∧
        (c.kind = 2 → (tfind s.plots c.plot).isSome → (t.plot c.plot).ring = some (.ofNat 64 c.dadr, c.len, .ofNat 64 c.sadr))) ∧
    (∀ r : CopyRun, r.status < 256 → r.fc < 256 → let x := ofBytes (recordBytes r)
      x % 256 = r.status ∧ x / 2 ^ 8 % 256 = r.fc ∧ x / 2 ^ 16 % 2 ^ 24 = r.addr % 2 ^ 24 ∧ x / 2 ^ 40 % 2 = (if r.pois then 1 else 0) ∧
      x / 2 ^ 41 % 4 = r.cmd.core % 4 ∧ x / 2 ^ 43 % 32 = r.cmd.slot % 32 ∧ x / 2 ^ 48 % 2 ^ 16 = r.cmd.tag ∧ x / 2 ^ 64 % 2 ^ 32 = r.count % 2 ^ 32 ∧
      x / 2 ^ 96 = r.cmd.pkt.toNat)) ∧
  (∀ (s : State) (cl k op : Nat) (m : MatrixOp) (rest : List MatrixOp) (o : Op), let X := s.cluster cl
    let ks := waitingStreams s cl
    let rank (j : Nat) : Int := (headCharge s j : Int) - 8 * (s.furrow j).passed
    let e := headCharge s k
    let f := s.furrow k
    let cold := (s.die (cl / 64)).hot = false;
    ((s.die (cl / 64)).hot = true → exec (.matrixOpStart cl) s = .next s) ∧
    (cold → X.chosen = none → k ∈ ks → (∀ j ∈ ks, rank k < rank j ∨ rank k = rank j ∧ k ≤ j) → f.mqueue = m :: rest →
      ∃ t, exec (.matrixOpStart cl) s = .next t ∧ (t.furrow k).passed = 0 ∧
        (∀ j ∈ ks, j ≠ k → (t.furrow j).passed = min 255 ((s.furrow j).passed + 1)) ∧
        (e ≤ X.budget.toNat ∨ X.ceil.toNat < e ∧ X.ceil.toNat ≤ X.budget.toNat →
          (t.furrow k).mqueue = rest ∧ (t.cluster cl).chosen = none ∧ (t.cluster cl).budget = (if e ≤ X.budget.toNat then X.budget - .ofNat 32 e else 0)) ∧
        (¬(e ≤ X.budget.toNat ∨ X.ceil.toNat < e ∧ X.ceil.toNat ≤ X.budget.toNat) →
          (t.furrow k).mqueue = m :: rest ∧ (t.cluster cl).chosen = some k ∧ (t.cluster cl).budget = X.budget ∧ t.mem = s.mem)) ∧
    (let r := runMatrix s k m
      let at_ (j : Nat) : Nat := 2 ^ 55 + f.cluster * 2 ^ 22 + m.offset.toNat + j;
      (∀ n, m.instr = .mzero n → ∀ j, tget (r.1.furrow k).tc j 0 = if 4096 * n.toNat ≤ j ∧ j < 4096 * n.toNat + 4096 then 0 else tget f.tc j 0) ∧
      (∀ n a, m.instr = .mst n a → (∀ j, j < 4096 → readByte r.1.mem (at_ j) = tget f.tc (4096 * n.toNat + j) 0) ∧
        ∀ x, (x < at_ 0 ∨ at_ 4096 ≤ x) → readByte r.1.mem x = readByte s.mem x) ∧
      (∀ n a, m.instr = .mlda n a → (∀ w, tget s.memMark w .clean ≠ .uncorrectable) →
        ∀ j, tget (r.1.furrow k).ta j 0 = if 8192 * n.toNat ≤ j ∧ j < 8192 * n.toNat + 8192 then readByte s.mem (at_ (j - 8192 * n.toNat)) else tget f.ta j 0) ∧
      (m.instr = .mrls → r.1 = s.setFurrow k { f with latch := none }) ∧
      (∀ h keep acc tc ta b, m.instr = .mma h keep acc tc ta b → let sh := shapeOf h.toNat
        r.1.mem = s.mem ∧ (r.1.furrow k).ta = f.ta ∧ ∀ i j, i < sh.m → j < sh.n → let key := (accPlace tc.toNat i j).1
          let start := if acc = 1 ∧ tget f.tileMark (65536 + key / 4) .clean ≠ .clean then (0x7FC00000 : Word) else tileRead f.tc key
          tileRead (r.1.furrow k).tc key = (List.range sh.kb).foldl (fun w kb =>
            (blockStep sh.cls (aUnit f sh ta.toNat i kb) (bUnit s f sh m.offset.toNat kb j) (acc == 1 || kb != 0) w).1) start)) ∧
    (s.op op = some o →
      (o.kind = .matrix → o.begun = true → o.done = false → (tfind s.furrows o.furrow).isSome → ∃ t, exec (.matrixOpComplete op) s = .next t ∧
        opDone t op = true ∧ (t.furrow o.furrow).mev = (s.furrow o.furrow).mev ||| o.args.headD 0 ∧ t.mem = s.mem ∧
        (t.furrow o.furrow).poisonTrap = (s.furrow o.furrow).poisonTrap ++ ((o.args[1]?).map fun x =>
          ((s.ops.filter fun x => x.furrow == o.furrow && x.kind == .matrix && decide (o.id < x.id)).length, x)).toList) ∧
      (o.kind = .tile → o.done = false → let w := (s.furrow o.furrow).width
        let st := (o.args.headD 0).toNat
        let W := 8 * w;
        (∀ d t' p, o.instr = .twr d t' p → (tfind s.furrows st).isSome → ∃ t, exec (.tileTransferComplete op) s = .next t ∧ opDone t op = true ∧
          ∀ u, u < w → u < 64 → o.act.getLsbD u = true → ∀ r, r < 8 → let key := 8192 * t'.toNat + 4 * (W * p.toNat + w * r + u)
            tileRead (t.furrow st).ta key = if 8 * u + r ∈ o.early then tileRead (s.furrow st).ta key else tget o.targs (8 * u + r) 0) ∧
        (∀ d t' p, o.instr = .trd d t' p → (tfind s.furrows o.furrow).isSome → ∃ t, exec (.tileTransferComplete op) s = .next t ∧ opDone t op = true ∧
          ∀ u, u < 64 → ∀ r, (t.furrow o.furrow).vget r u = if r < 128 ∧ 64 * r + u ∈ o.early then (s.furrow o.furrow).vget r u
            else if r ≠ 0 ∧ d.toNat ≤ r ∧ r < d.toNat + 8 ∧ u < w then
            (if o.zero.getLsbD u then 0 else if o.act.getLsbD u then
              tileRead (s.furrow st).tc (4096 * t'.toNat + 4 * (W * p.toNat + w * (r - d.toNat) + u)) else (s.furrow o.furrow).vget r u)
            else (s.furrow o.furrow).vget r u)))) ∧
  (∀ (s : State) (op : Nat) (o : Op), s.op op = some o → o.kind = .key → o.done = false → let f := s.furrow o.furrow;
    (∀ u o', keyFinished s o = false → keyProgress s o = some u → u.op op = some o' →
      exec (.keyRequest op) s = .next (if keyFinished u o' then finishKey u o' else u)) ∧
    (keyFinished s o = false → keyProgress s o = none → exec (.keyRequest op) s = .next s) ∧
    (keyFinished s o = true → (tfind s.furrows o.furrow).isSome → ∃ t, exec (.keyRequest op) s = .next t ∧ opDone t op = true ∧
      (∀ d a, ∀ p ∈ ([(.klook d a, 8), (.knbr d a, 8), (.kpin d a, 8), (.kunpin d a, 2), (.kcost d a, 2)] : List (Instr × Nat)), o.instr = p.1 →
        ∀ r u, u < 64 → (t.furrow o.furrow).vget r u = if r < 128 ∧ 64 * r + u ∈ o.early then f.vget r u
          else if r ≠ 0 ∧ d.toNat ≤ r ∧ r < d.toNat + p.2 ∧ u < f.width then
          (if o.zero.getLsbD u then 0 else if o.act.getLsbD u then tget o.results (8 * u + (r - d.toNat)) 0 else f.vget r u) else f.vget r u) ∧
      (∀ d a n, ∀ p ∈ ([(.kiter d a, 8), (.kcut d a n, 8), (.kref d a, 1), (.kmrg d a, 1), (.kbal d a, 1), (.kacre d a, 1)] : List (Instr × Nat)),
        o.instr = p.1 → ∀ r, (t.furrow o.furrow).sget r = if 8192 + r ∈ o.early then f.sget r
          else if r ≠ 0 ∧ d.toNat ≤ r ∧ r < d.toNat + p.2 then tget o.results (r - d.toNat) 0 else f.sget r))) ∧
  (∀ (s : State) (ctx no cl : Nat) (key : BitVec 64),
    ((∀ x ∈ (s.cluster cl).moves, ¬(x.ctx = ctx ∧ x.acre = no ∧ x.key = key ∧ x.copied = true)) → exec (.leafHandover ctx no cl key) s = .next s) ∧
    (∀ m, (s.cluster cl).moves.find? (fun m => m.ctx == ctx && m.acre == no && m.key == key && m.copied) = some m →
      let u := s.modCluster cl fun c => { c with moves := c.moves.filter fun x => x != m };
      (unitAt u ctx no m.op = none → exec (.leafHandover ctx no cl key) s = .next u) ∧
      (∀ k, unitAt u ctx no m.op = some k → k.acre.err = true → exec (.leafHandover ctx no cl key) s = .next u) ∧
      (∀ k t, unitAt u ctx no m.op = some k → k.acre.err = false → handOver u cl m k = some t → exec (.leafHandover ctx no cl key) s = .next t) ∧
      (∀ k, unitAt u ctx no m.op = some k → k.acre.err = false → handOver u cl m k = none → exec (.leafHandover ctx no cl key) s = .next (failBal u k cl))) ∧
    (drainReady s ctx no = false → exec (.kbalDrain ctx no) s = .next s) ∧
    (∀ x v t a, unitAt s ctx no 0 = some x → drainReady s ctx no = true → let u := { x with done := x.acre.agent }
      eachDir (unitMarks s u ((List.range 256).map (dirRange s u))) u (fun _ es => es.filter fun e => e.st != 3) = some v →
      readAst v u 0 = some a → writeAst v u 0 { a with bal := 0 } = some t → exec (.kbalDrain ctx no) s = .next t)) ∧
  (∀ (s : State) (q : Nat) (cfg : BitVec 32), let Q := s.queue q
    let set (x : Queue) : Queue := { x with lsz := cfg.toNat % 16, pri := cfg.toNat / 16 % 8, ctx := cfg.toNat / 128 % 64 };
    (Q.qstat ≠ 1 ∨ 2 ^ Q.lsz ≤ (Q.qtk - Q.qrd).toNat → exec (.qresRead q) s = .next s ∧ (reserve s q).1 = 2 ^ 63) ∧
    (Q.qstat = 1 → (Q.qtk - Q.qrd).toNat < 2 ^ Q.lsz → exec (.qresRead q) s = .next (s.modQueue q fun Q => { Q with qtk := Q.qtk + 1 }) ∧
      (reserve s q).1 = Q.qtk.setWidth 64) ∧
    (Q.en = true ∨ 256 ≤ q → exec (.queueEnable q cfg) s = .next s) ∧
    (Q.en = false → q < 256 → let u := s.modQueue q set
      let l := cfg.toNat % 16;
      (cfg.getLsbD 13 = false ∨ l < 4 ∨ 12 < l ∨ booted s = false → exec (.queueEnable q cfg) s = .next u) ∧
      (cfg.getLsbD 13 = true → 4 ≤ l → l ≤ 12 → booted s = true → let r := programWords u q (Q.qprog.toNat / 4 * 4) Q.qplen
        let p := r.1
        let v := if Q.qplen < 1 ∨ 1024 < Q.qplen then u else r.2;
        (1 ≤ Q.qplen → Q.qplen ≤ 1024 → p.length = Q.qplen → programFault p = none → ∃ t, exec (.queueEnable q cfg) s = .next t ∧
          (t.queue q).en = true ∧ (t.queue q).qstat = 1 ∧ (t.queue q).qtk = 0 ∧ (t.queue q).qrd = 0 ∧ (t.queue q).program = p ∧
          (t.queue q).inPacket = false ∧ ∀ k, k ≠ q → t.queue k = s.queue k) ∧
        (∀ i, (if Q.qplen < 1 ∨ 1024 < Q.qplen then some 0 else if p.length < Q.qplen then some p.length else programFault p) = some i →
          exec (.queueEnable q cfg) s = .next (queueNote (v.modQueue q fun Q => { Q with qstat := 5 }) q 6 false none none none none none none none (some (.ofNat 32 i)) (some i))))) ∧
    (Q.qstat = 1 → exec (.qctlPreempt q) s = .next (s.modQueue q fun Q => { Q with qstat := 3, drillStopped := true })) ∧
    (Q.qstat ≠ 1 → exec (.qctlPreempt q) s = .next s) ∧ (Q.qstat ≠ 4 → exec (.qctlResume q) s = .next s) ∧
    (Q.qstat = 4 → ∃ t, exec (.qctlResume q) s = .next t ∧ (t.queue q).qstat = 1 ∧ (t.queue q).drillStopped = false ∧
      (t.queue q).refusedSaves = [] ∧ (t.queue q).saved = 0) ∧
    (Q.qstat = 2 ∨ 256 ≤ q → exec (.qctlDestroy q) s = .next s) ∧
    (Q.qstat ≠ 2 → q < 256 → ∃ t, exec (.qctlDestroy q) s = .next t ∧ (t.queue q).qstat = 2 ∧ (t.queue q).drillStopped = true ∧
      (t.queue q).inPacket = false ∧ (t.queue q).levels = [] ∧ (t.queue q).loops = []) ∧
    (let bit := Q.qrd.toNat % 2 ^ Q.lsz
      let may := Q.en = true ∧ Q.qstat = 1 ∧ Q.drillStopped = false ∧ Q.held = [] ∧ queueRingFull s q = false ∧ Q.inPacket = false
      let word := frontAcquire s q (Q.qbmap.toNat / 64 * 64 + bit / 8) 1;
      (¬may → exec (.drillPacketStart q) s = .next s) ∧ (may → word = none → exec (.drillPacketStart q) s = .next (stickQueue s q)) ∧
      (∀ bs u, may → word = some (bs, u) → (ofBytes bs).testBit (bit % 8) = false → exec (.drillPacketStart q) s = .next u) ∧
      (∀ bs u, may → word = some (bs, u) → (ofBytes bs).testBit (bit % 8) = true → let pkt : Dword := .ofNat 64 (Q.qbase.toNat / 64 * 64 + 64 * bit)
        ∃ t, exec (.drillPacketStart q) s = .next t ∧ t = { u with queues := t.queues } ∧
          t.queue q = { u.queue q with inPacket := true, pc := 0, pkt, loops := [], g := tset (tset (u.queue q).g 1 0 pkt) 2 0 (.ofNat 64 Q.qrd.toNat) })) ∧
    (Q.held = [] → exec (.queueFaultRingSpace q) s = .next s) ∧
    (∀ r rest u, Q.held = r :: rest → queueRecordNow s q (bytesOf r) = .done u →
      exec (.queueFaultRingSpace q) s = .next (u.modQueue q fun Q => { Q with held := rest }))) ∧
  (∀ (s : State) (k id n : Nat) (p : Plot) (l : Launch) (o : Op) (f : Furrow),
    let saveAt (s : State) (q : Nat) : Nat := (s.queue q).qsave.toNat / 4096 * 4096 + (s.queue q).saved
    let room (s : State) (q : Nat) : Nat := (s.queue q).qslen.toNat * 1024 - (s.queue q).saved
    let fits (s : State) (q len : Nat) : Prop := len ≤ room s q ∧ (frontSpan s q (saveAt s q) .write (len / 65536 + 2) len).isSome = true
    let ticked (s : State) (n : Nat) : State := { s with tick := s.tick + n };
    (tfind s.plots k = some p → p.id = k → (p.phase ≠ .placed → exec (.plotAdmit k) s = .next s) ∧
      (p.phase = .placed → ∃ t, exec (.plotAdmit k) s = .next t ∧ (t.plot k).phase = .running ∧ (t.plot k).savedFurrows = []) ∧
      (saveReady s p = false → exec (.plotSave k) s = .next s) ∧
      (saveReady s p = true → let l := s.launch p.launch
        let content := ((p.furrows.filterMap (tfind s.furrows ·)).map furrowBytes).sum + p.scrSize + 16 * laneBytes p +
          (if emptiesCroft s (s.croft p.croft) (some k) then l.record.cmem else 0)
        let len := saveLength s content
        let at_ := saveAt s l.queue
        let refuse (u : State) : Nat → Option Nat → State := refuseSave u l.queue k false none p.core p.cluster l.ticket (.ofNat 32 p.index)
        (fits s l.queue len → ∃ t, exec (.plotSave k) s = .next t ∧ (t.plot k).phase = .saved ∧ (t.plot k).furrows = [] ∧
          (t.plot k).savedFurrows = p.furrows.filterMap (tfind s.furrows ·) ∧ (t.queue l.queue).saved = (s.queue l.queue).saved + len ∧
          ∀ x m ps, frontSpan s l.queue at_ .write (len / 65536 + 2) len = some ((x, m) :: ps) → 64 ≤ m → x % 64 = 0 → x + 64 ≤ 2 ^ 53 →
            (∀ p ∈ ps, p.1 + p.2 ≤ x ∨ x + 64 ≤ p.1) → ofBytes (readBytes t.mem x 64) =
            p.furrows.length % 64 * 2 ^ 16 + p.core % 4 * 2 ^ 22 + p.cluster % 256 * 2 ^ 24 + l.addr.toNat * 2 ^ 32 + p.index % 2 ^ 32 * 2 ^ 96 +
              p.pins.toNat * 2 ^ 128 + len % 2 ^ 32 * 2 ^ 160) ∧
        (room s l.queue < len → exec (.plotSave k) s = .next (refuse (ticked s 1) ((len - room s l.queue + 1023) / 1024) none)) ∧
        (len ≤ room s l.queue → ¬fits s l.queue len →
          ∃ hole, exec (.plotSave k) s = .next (refuse (ticked s 1) 0 (some hole))))) ∧
    (releaseReady s k = false → exec (.furrowRelease k) s = .next s) ∧
    (releaseReady s k = true → (s.furrow k).stream = false → ∃ t, exec (.furrowRelease k) s = .next t ∧ tfind t.furrows k = none ∧ ∀ o ∈ t.ops, o.furrow ≠ k) ∧
    (releaseReady s k = true → (s.furrow k).stream = true → ∃ t, exec (.furrowRelease k) s = .next t ∧ (t.furrow k).valid = false ∧ ∀ o ∈ t.ops, o.furrow ≠ k) ∧
    (tfind s.furrows k = some f → (streamSaveReady s k = false → exec (.streamSave k) s = .next s) ∧
      (streamSaveReady s k = true → (tfind s.crofts f.croft).isSome → (s.croft f.croft).id = f.croft → let c := s.croft f.croft
        let l := s.launch c.launch
        let len := saveLength s (4 * f.scount + 16 * 8192 + 16 * 4096 + 2 * 8192 + 128 + if c.savedMem.isNone then l.record.cmem else 0)
        let at_ := saveAt s l.queue
        let refuse (u : State) : Nat → Option Nat → State :=
          refuseSave u l.queue (2 ^ 60 + f.croft) true (some f.slot) 0 f.cluster l.ticket 0xFFFFFFFF
        (fits s l.queue len → ∃ t, exec (.streamSave k) s = .next t ∧ (t.croft f.croft).savedStream = some f ∧ (t.croft f.croft).stream = none ∧
          tfind t.furrows k = none ∧ (t.queue l.queue).saved = (s.queue l.queue).saved + len ∧
          ∀ x m ps, frontSpan s l.queue at_ .write (len / 65536 + 2) len = some ((x, m) :: ps) → 64 ≤ m → x % 64 = 0 → x + 64 ≤ 2 ^ 53 →
            (∀ p ∈ ps, p.1 + p.2 ≤ x ∨ x + 64 ≤ p.1) → ofBytes (readBytes t.mem x 64) =
            2 ^ 8 + 2 ^ 16 + f.cluster % 256 * 2 ^ 24 + l.addr.toNat * 2 ^ 32 + 0xFFFFFFFF * 2 ^ 96 + len % 2 ^ 32 * 2 ^ 160) ∧
        (room s l.queue < len → exec (.streamSave k) s = .next (refuse (ticked s 1) ((len - room s l.queue + 1023) / 1024) none)) ∧
        (len ≤ room s l.queue → ¬fits s l.queue len →
          ∃ hole, exec (.streamSave k) s = .next (refuse (ticked s 1) 0 (some hole))))) ∧
    (tfind s.launches id = some l →
      (launchOver s l = false ∨ (s.queue l.queue).overs.head? ≠ some l.id → exec (.launchSignal id) s = .next s) ∧
      (launchOver s l = true → (s.queue l.queue).overs.head? = some l.id → l.sheaf = none →
        let end_ (u : State) : State :=
          (u.modQueue l.queue fun Q => { Q with overs := Q.overs.drop 1 }).modLaunch id fun l => { l with signalled := true }
        let status := if l.aborted then 1 else if l.faulted then 2 else if l.halted then 4 else 0;
        (l.record.sig = 0 → exec (.launchSignal id) s = .next (end_ s)) ∧
        (∀ u, l.record.sig ≠ 0 → frontRelease s l.queue l.record.sig.toNat (toBytes 8 (l.record.sval.toNat + 2 ^ 32 * status)) l.maxw = some u →
          exec (.launchSignal id) s = .next (end_ u))) ∧
      (∀ x t, placeable s (placementOrder s (l.queue / 64)) = some x → x.id = l.id → tryPlace s l = some t → exec (.plotPlace id) s = .next t) ∧
      ((∀ x, placeable s (placementOrder s (l.queue / 64)) = some x → x.id ≠ l.id) → exec (.plotPlace id) s = .next s) ∧
      (timerReady s l n = false → exec (.sheafTimerExpire id n) s = .next s) ∧
      (∀ nd, timerReady s l n = true → readNode s l.queue (l.record.graph.toNat + 64 * n) = some nd →
        exec (.sheafTimerExpire id n) s = .next (launchSheaf s l.queue (l.record.graph.toNat + 64 * n) nd l.ticket))) ∧
    (∀ d a, s.op k = some o → o.instr = .emit d a → emitReady s o = true → (tfind s.furrows o.furrow).isSome →
      let u := releaseStamp s o
      let r := offerRecord u (launchOf u (u.furrow o.furrow)) ((nth o.args 8 0).toNat % 2 ^ 16) (bytesOf (o.args.take 8)) (u.furrow o.furrow).pts
      ∃ t, exec (.sheafRecordOffer k) s = .next t ∧ opDone t k = true ∧ ∀ x, r.1 = some x → ∀ i, (t.furrow o.furrow).sget i =
        if i ≠ 0 ∧ i = d.toNat then x else (s.furrow o.furrow).sget i) ∧
    (∀ cl j t, seatPlot s cl p = some t → j < 4 → (t.plot p.id).core = j → (t.plot p.id).phase = .placed ∧ (t.plot p.id).cluster = cl ∧
      (∃ b, fitsCore s (4 * cl + j) (plotNeed s p) = some b ∧ (t.plot p.id).scrBase = b.1 ∧ (t.plot p.id).laneBase = b.2) ∧
      ∀ i, i < j → fitsCore s (4 * cl + i) (plotNeed s p) = none))

/-- 17 R362, R367, R368, R370 to R379, R381: resets, the steps of the boot and what survives them, signing, power and thermal control, bridges, RAS counters, BAR0 reads and writes, and the host's
memory requests. The offsets of registers within a block (log entry 17), bytes that read zero
after reset (entry 2) and that a field written out of its range takes some value of it (entry 20) are the model's choice, as are the older bytes of lines that the L2 held dirty at a warm reset (entry 50),
the crossing of 100 degrees from below, the 1,000th measurement in a row and the rounding of rates (entry 49), when a context is active (entry 61),
the one line of a host's request (entry 62), the steps of the boot with the code that goes first, and SHA-256 and HSS as their standards have them (entry 68),
the RAS unit of a bridge (entry 12), and a threshold of 0, which reports nothing (entry 23). -/
def Obligations.PackageEvents : Prop :=
  (∀ (s : State), let p := s.pkg
    let host (k : Nat) : Prop := 2 ^ 51 ≤ k ∧ k < 2 ^ 53
    let empty (t : State) : Prop := t.furrows = [] ∧ t.ops = [] ∧ t.plots = [] ∧ t.crofts = [] ∧ t.launches = [] ∧ t.queues = [] ∧ t.ctxs = [] ∧
      t.cores = [] ∧ t.clusters = [] ∧ t.lines = [] ∧ t.fab = State.reset.fab;
    (∀ (fail : BitVec 8) (signed : SignedManifest) (components : List Component),
      (p.thermalHold = true → exec (.coldReset fail signed components) s = .next s) ∧
      (p.thermalHold = false → ∃ t, exec (.coldReset fail signed components) s = .next t ∧ empty t ∧ t.memMark = [] ∧
        (∀ k, (host k → readByte t.mem k = readByte s.mem k) ∧ (¬host k → readByte t.mem k = 0)) ∧
        t.pkg = { State.reset.pkg with
          bootst := 1
          slots := p.slots
          security := p.security
          signNext := p.signReserved
          signReserved := p.signReserved
          boot := some { fail := if fail.toNat ∈ [1, 6, 7, 8, 9, 10, 11] then fail.toNat else 0, image := { signed with components } } })) ∧
    (∀ b : Boot, p.boot = some b → let step := p.bootst.toNat
      let x := b.image
      let verify := if b.fail = 1 ∨ x.key.length ≠ 60 ∨ x.signature.length ≠ 5396 then 1
        else if sha256 x.key ≠ Config.rootDigest then 2
        else if hssVerifies x.key x.manifest x.signature = false then 3
        else if (List.range 5).any (fun i => nth x.digests i 0 != sha256 (nth x.components i [])) then 4
        else if x.version < p.security then 5 else if b.fail = 6 then 6 else 0
      let code := if step = 1 ∧ b.fail = 11 then 11 else if step = 2 then verify
        else if step = 4 ∧ 7 ≤ b.fail ∧ b.fail ≤ 10 then b.fail else 0
      (code ≠ 0 → bootNext s = { s with pkg := { p with bootst := .ofNat 16 (0x80 + code * 256), boot := none } }) ∧
      (code = 0 → bootNext s = { s with pkg := { p with
        bootst := .ofNat 16 (step + 1)
        security := if step = 2 then x.version else p.security
        slots := if step = 3 then sha256 x.manifest :: (List.range 5).map (fun i => sha256 (nth x.components i [])) else p.slots
        boot := if step = 4 then none else some b } })) ∧
    (∀ zero : Bool, (p.power = false ∨ p.thermalHold = true ∨ p.boot ≠ none → exec (.warmReset zero) s = .next s) ∧
      (p.power = true → p.thermalHold = false → p.boot = none → ∃ t, exec (.warmReset zero) s = .next t ∧ empty t ∧
        (∀ k, host k → readByte t.mem k = readByte s.mem k) ∧ (∀ k, ¬host k → zero = true ∨ 0x3000000000 ≤ k → readByte t.mem k = 0) ∧
        (∀ k, zero = false → k < 0x3000000000 → readByte t.mem k =
          if k / 64 ∈ dirtyLines s ∧ byteBacked s k = false ∧ Config.writtenBack s.tick (k / 64) = false then Config.olderByte s.tick k else readByte s.mem k) ∧
        t.pkg = { State.reset.pkg with bootst := p.bootst, slots := p.slots, sessions := p.sessions, security := p.security, signNext := p.signNext,
                                       signReserved := p.signReserved, lowReported := p.lowReported, bridges := p.bridges })) ∧
    exec .functionLevelReset s = .next { s with pkg := { p with cxlio := 0 } } ∧
    (∃ t, exec .powerLoss s = .next t ∧ empty t ∧ t.memMark = [] ∧ t.dies = [] ∧ (∀ k, readByte t.mem k = if host k then readByte s.mem k else 0) ∧
      t.pkg = { State.reset.pkg with slots := p.slots, security := p.security, signNext := p.signReserved, signReserved := p.signReserved, power := false, bootst := 0 }) ∧
    (exec (.spdmGetMeasurements false) s = .next s) ∧
    (p.power = false ∨ p.thermalHold = true ∨ 2 ^ 30 ≤ p.signNext → exec (.spdmGetMeasurements true) s = .next s) ∧
    (p.power = true → p.thermalHold = false → p.signNext < 2 ^ 30 → ∃ t, exec (.spdmGetMeasurements true) s = .next t ∧ t.pkg.signNext = p.signNext + 1 ∧
      t.pkg.signReserved = (if p.signNext = p.signReserved then p.signReserved + 64 else p.signReserved) ∧ t.pkg.slots = p.slots ∧
      (2 ^ 20 + p.signNext + 1 ≤ 2 ^ 30 → t.mem = s.mem ∧ t.pkg.lowReported = p.lowReported)) ∧
    (∀ v : BitVec 64, let idle := p.power = true ∧ p.thermalHold = false ∧ (∀ q ∈ s.queues, q.2.en = false) ∧ ∀ l ∈ s.launches, l.2.signalled = true;
      (idle → exec (.devnoWrite v) s = .next { s with pkg := { p with devno := v.setWidth 16 } }) ∧ (¬idle → exec (.devnoWrite v) s = .next s)) ∧
    (∀ u : Nat, ∃ t, exec (.rasCounterClear u) s = .next t ∧ t = { s with pkg := { p with ras := t.pkg.ras, rasReported := t.pkg.rasReported } } ∧
      ∀ x, tget t.pkg.ras x 0 = (if x = u then 0 else tget p.ras x 0) ∧ tget t.pkg.rasReported x false = (if x = u then false else tget p.rasReported x false)) ∧
    (∀ b : Nat, ∀ e ∈ ([(.bridgeHalfFailure b, 1), (.bridgeFailure b, 2)] : List (Instr × Nat)),
      (6 ≤ b ∨ e.2 ≤ tget p.bridges b 0 → exec e.1 s = .next s) ∧
      (b < 6 → tget p.bridges b 0 < e.2 → ∃ t, exec e.1 s = .next t ∧ tget t.pkg.bridges b 0 = e.2 ∧
        let u := 2176 + b
        let n : Word := if tget p.ras u 0 = 0xFFFFFFFF then 0xFFFFFFFF else tget p.ras u 0 + 1
        let full := tget p.rasThreshold u 0 ≠ 0 ∧ (tget p.rasThreshold u 0).toNat ≤ n.toNat ∧ tget p.rasReported u false = false
        tget t.pkg.ras u 0 = n ∧ t.pkg.evSeq = p.evSeq + (if full then 2 else 1))) ∧
    (∀ cl : Nat, (256 ≤ cl → exec (.budgetAddition cl) s = .next s) ∧ (cl < 256 → ∃ t, exec (.budgetAddition cl) s = .next t ∧
      t = { s with clusters := t.clusters, pkg := { p with cap := p.pwrcap } } ∧ (∀ c, c ≠ cl → t.cluster c = s.cluster c) ∧ let X := s.cluster cl
      let rate := if X.base = X.cbrate then X.rate else X.cbrate
      t.cluster cl = { X with rate, base := X.cbrate, ceil := X.cbceil, budget := .ofNat 32 (min X.cbceil.toNat (X.budget.toNat + rate)) })) ∧
    (∀ mw : Nat, let cap := p.cap * 1000
      ∃ t, ∃ up : Bool, exec (.powerMeasure mw) s = .next t ∧ let step (c : Nat) : Nat := (s.cluster c).base / 16 + (if up ∧ (s.cluster c).base % 16 ≠ 0 then 1 else 0);
      (cap < mw → t.pkg.above = (p.above + 1) % 1000 ∧ ∀ c, c < 256 → (t.cluster c).rate = (s.cluster c).rate - step c) ∧
      (mw ≤ cap → t.pkg.above = 0) ∧
      (mw * 100 < cap * 95 → ∀ c, c < 256 → (t.cluster c).rate = max (s.cluster c).rate (min (s.cluster c).base ((s.cluster c).rate + step c))) ∧
      (cap * 95 ≤ mw * 100 → mw ≤ cap → t.clusters = s.clusters)) ∧
    (∀ d x : Nat, (4 ≤ d ∨ p.power = false → exec (.thermalLimit d x) s = .next s) ∧ (d < 4 → p.power = true → ∃ t, exec (.thermalLimit d x) s = .next t ∧
      (t.die d).celsius = x ∧ (t.die d).hot = decide (110 ≤ x) ∧ (p.thermalHold = false → 120 ≤ x → empty t ∧ t.pkg.thermalHold = true ∧ t.pkg.bootst = 0) ∧
      (p.thermalHold = true → t = { s with dies := t.dies }) ∧
      (p.thermalHold = false → x < 120 → ((s.die d).celsius < 100 ∧ 100 ≤ x) → ∃ up : Bool, ∀ i, i < 64 → let r := (s.cluster (64 * d + i)).rate;
        (t.cluster (64 * d + i)).rate = r / 2 + (if up ∧ r % 2 ≠ 0 then 1 else 0)) ∧
      (x < 120 → ¬((s.die d).celsius < 100 ∧ 100 ≤ x) → t.clusters = s.clusters ∧ t.pkg = s.pkg)))) ∧
  (∀ (s : State) (v : BitVec 64) (n : Nat), let x := v.toNat;
    (s.pkg.power = false ∨ s.pkg.thermalHold = true → exec (.registerWrite n v) s = .next s) ∧ (n % 8 ≠ 0 → exec (.registerWrite n v) s = .next s) ∧
    (s.pkg.power = true → s.pkg.thermalHold = false → let w (off : Nat) : Result := exec (.registerWrite off v) s;
      w 0x18 = .next { s with pkg := { s.pkg with pwrcap := max 500 (min 5000 (x % 2 ^ 13)) } } ∧
      (12 ≤ x % 32 ∧ x % 32 ≤ 20 → w 0x58 = .next { s with fab := { s.fab with grantsz := x % 32 } }) ∧
      (¬(12 ≤ x % 32 ∧ x % 32 ≤ 20) → ∃ y, 12 ≤ y ∧ y ≤ 20 ∧ w 0x58 = .next { s with tick := s.tick + 1, fab := { s.fab with grantsz := y } }) ∧
      (n < 4 → (1 ≤ x → x ≤ 2 ^ 20 → w (0x100008 + 0x10000 * n) = .next (s.modDie n fun d => { d with lease := x })) ∧
        (¬(1 ≤ x ∧ x ≤ 2 ^ 20) → ∃ y, 1 ≤ y ∧ y ≤ 2 ^ 20 ∧
          w (0x100008 + 0x10000 * n) = .next (({ s with tick := s.tick + 1 } : State).modDie n fun d => { d with lease := y }))) ∧
      (n < 256 → w (0x200000 + 0x1000 * n) = .next (s.modCluster n fun c => { c with cbrate := x % 2 ^ 20 }) ∧
        w (0x200008 + 0x1000 * n) = .next (s.modCluster n fun c => { c with cbceil := .ofNat 32 x })) ∧
      (n < 64 → w (0x1000000 + 0x1000 * n) = .next (s.modCtx n fun c => { c with ptbase := .ofNat 64 (x / 2 ^ 13 % 2 ^ 39 * 2 ^ 13) }) ∧
        (6 ≤ x % 32 → x % 32 ≤ 16 → w (0x1000008 + 0x1000 * n) = .next (s.modCtx n fun c => { c with fring := v })) ∧
        (x = 0 → w (0x1000008 + 0x1000 * n) = .next (s.modCtx n fun c => { c with fring := 0 }))) ∧
      (n < 256 → w (0x2000000 + 0x10000 * n) = .next (if (s.queue n).en then s else s.modQueue n fun q => { q with qbase := .ofNat 64 (x / 64 * 64) })))) ∧
  (∀ (s : State) (off n : Nat), let on := s.pkg.power = true ∧ s.pkg.thermalHold = false
    let read (off : Nat) : Nat := ofBytes (hostReadBytes s off 8)
    (n ≠ 8 ∨ off % 8 ≠ 0 → hostReadBytes s off n = List.replicate n (if on ∧
      (0x2000000 ≤ off ∧ off < 0x3000000 ∧ 0x80 ≤ off % 0x10000 ∧ off % 0x10000 < 0x88 ∨
        0x3000000 ≤ off ∧ off < 0x4000000 ∧ off % 0x10000 < 8) then 0xFF else 0)) ∧
    (on → read 0 = s.pkg.bootst.toNat ∧ read 8 = s.pkg.devno.toNat ∧ read 0x18 = s.pkg.pwrcap % 2 ^ 64 ∧
      (n < 256 → read (0x2000080 + 0x10000 * n) = (reserve s n).1.toNat ∧ read (0x3000000 + 0x10000 * n) = (reserve s n).1.toNat ∧
        read (0x2000088 + 0x10000 * n) = (s.queue n).qrd.toNat) ∧
      (n < 4 → read (0x100018 + 0x10000 * n) = (tget s.pkg.ras (2048 + n) 0).toNat ∧
        read (0x100028 + 0x10000 * n) = (s.die n).retired.length * ((16 - (s.die n).dpart) * 0x4000000 / 64) % 2 ^ 64))) ∧
  (∀ (s : State) (a : Nat) (bs : List Byte), let n := bs.length
    let ok := (a + n ≤ 0x3000000000 ∧ s.pkg.power = true ∧ s.pkg.bootst = 5 ∨ 2 ^ 51 ≤ a ∧ a + n ≤ 2 ^ 52) ∧ n ≠ 0 ∧ a / 64 = (a + n - 1) / 64
    let m := (recallLine s (a / 64)).mem
    let result (kind : CxlKind) (byte : Nat → Byte) : Prop := ∃ t, exec (.cxlMemRequest kind a bs) s = .next t ∧
      ∀ k, readByte t.mem k = if a ≤ k ∧ k < a + n then byte (k - a) else readByte m k;
    (¬ok → ∀ kind, exec (.cxlMemRequest kind a bs) s = .next s) ∧
    (ok → result .read (fun i => readByte m (a + i)) ∧ result .write (fun i => nth bs i 0) ∧ result .atomicOr (fun i => readByte m (a + i) ||| nth bs i 0)))

/-- 18 R384, R386 to R389, R391, R392, R397, R402, R403, R405, R408, R411 to R416: flits and sessions, light and rotor slots, requests served and answered, and
the records of bulk transfers. That a gap or a full relay is told in a control flit is log entry 51. What a RemoteReply's codes mean for a transfer is log entry 18.
The model's choices among this, too: a laser number of 48 or more is one port, and a beacon counts only while its group awaits one (log entry 57); a
pause saves one record at a step, and xstat reads 1 until the last is saved (log entry 56); a part of a reduction that comes before this device's own `rred` is held
(log entry 54); an abort drops a receiver's record, and a deferred request is sent again from its start (log entry 55). -/
def Obligations.FabricEvents : Prop :=
  (∀ (s : State) (port : Nat) (bytes : List Byte), let me := s.pkg.devno.toNat
    let head := ofBytes (bytes.take 16)
    let tail := ofBytes (bytes.drop 496)
    let crc := (crc64 (bytes.take 504)).toNat
    let g := port / 8
    let type := head / 2 ^ 92 % 16
    let src := head / 2 ^ 96 % 2 ^ 16
    let dst := head / 2 ^ 112 % 2 ^ 16
    let counted (s : State) (h : Port → Port) : State := { s with fab := { s.fab with ports := tset s.fab.ports port {} (h (tget s.fab.ports port {})) } }
    let back := head / 2 ^ 90 % 2 = 1
    let peer := if back then currentPeer s g else some src
    let seq : Word := .ofNat 32 tail
    let in_ := port < 96 ∧ me < 4096
    let good := in_ ∧ bytes.length = 512 ∧ crc = tail / 2 ^ 64 % 2 ^ 64
    let payload := (bytes.drop 16).take 480
    let run := exec (.flitReceive port true bytes) s
    let cut := head / 2 ^ 91 % 2 = 1 ∧ ¬back ∧ dst ≠ me ∧ relayRoom s ≠ 0;
    (exec (.flitReceive port false bytes) s = .next s) ∧ (¬in_ → exec (.flitReceive port true bytes) s = .next s) ∧
    (in_ → bytes.length ≠ 512 ∨ crc ≠ tail / 2 ^ 64 % 2 ^ 64 → let u := counted s fun p => { p with crcErrors := p.crcErrors + 1 }
      if bytes.length = 512 ∧ 2 ^ 64 - 1 - crc = tail / 2 ^ 64 % 2 ^ 64 then run = .next s
      else run = .next (stompOnward u head payload) ∧ (stompOnward u head payload).fab.sessions = s.fab.sessions ∧
        (¬cut → run = .next u)) ∧
    (good → (∀ p, peer = some p → 4096 ≤ p) → run = .next (counted s fun p => { p with discarded := p.discarded + 1 })) ∧
    (∀ p, good → peer = some p → p < 4096 → let S := tget s.fab.sessions (4096 * g + p) {}
      let u := takeAck s g p (.ofNat 32 (tail / 2 ^ 32))
      let inOrder := seq = S.rxNext
      let accepted (t : State) : Prop := t = { u with fab := { u.fab with sessions := t.fab.sessions } } ∧
        ∀ k, tget t.fab.sessions k {} = if k = 4096 * g + p then { tget u.fab.sessions k {} with
            rxNext := S.rxNext + 1
            owed := if type = 5 then max S.owed 1 else 2
            gap := false }
          else tget u.fab.sessions k {};
      (type = 0 → run = .next u) ∧
      (2 ≤ type → ¬inOrder → S.gap = true ∨ 2 ^ 31 ≤ (seq - S.rxNext).toNat → run = .next s) ∧
      (2 ≤ type → ¬inOrder → S.gap = false → (seq - S.rxNext).toNat < 2 ^ 31 → ∃ t, run = .next t ∧
        tget t.fab.sessions (4096 * g + p) {} = { S with gap := true } ∧
        tget t.fab.sendq (8 * p + 4) [] = tget s.fab.sendq (8 * p + 4) [] ++ [{ flits := [{ type := 10, dst := p, src := me, note := .gap }] }]) ∧
      (2 ≤ type → type < 10 → (type = 5 → head / 2 ^ 86 % 16 = 0) → inOrder → dst = me → ∃ t, run = .next t ∧ accepted t) ∧
      (2 ≤ type → type < 11 → inOrder → dst ≠ me → head / 2 ^ 91 % 2 = 1 → ¬back →
        relayRoom s = 0 ∨ relayRoom s ≤ s.fab.relay.length ∧ (∀ h, h < 12 → (tget s.fab.groups h {}).lit = false) → ∃ t, run = .next t ∧
          tget t.fab.sessions (4096 * g + p) {} = { S with gap := true } ∧
          tget t.fab.sendq (8 * p + 4) [] = tget s.fab.sendq (8 * p + 4) [] ++ [{ flits := [{ type := 10, dst := p, src := me, note := .full }] }]))) ∧
  (∀ (s : State) (g p port w : Nat) (positions : BitVec 16) (laser : BitVec 8) (seed : BitVec 9), let me := s.pkg.devno.toNat
    let P := tget s.fab.ports port {}
    let G := tget s.fab.groups g {}
    let S := tget s.fab.sessions (4096 * g + p) {}
    let portNow (t : State) : Port := tget t.fab.ports port {}
    let groupNow (t : State) : Group := tget t.fab.groups g {}
    let bit : BitVec 16 := .ofNat 16 (2 ^ w);
    (g < 12 → p < 4096 → ∃ t, exec (.replayTimeout g p) s = .next t ∧
      tget t.fab.sessions (4096 * g + p) {} = (if S.left = 0 then S else { S with
          replays := S.replays + 1
          sent := 0 })) ∧
    (port < 96 → 48 ≤ laser.toNat → ∃ t, exec (.lossOfLight port positions laser) s = .next t ∧ (portNow t).txMask = P.txMask &&& ~~~positions ∧
      (positions &&& (P.txMask ||| P.reported) = 0 → t = s) ∧ (positions &&& (P.txMask ||| P.reported) ≠ 0 → t.pkg.evSeq = s.pkg.evSeq + 1)) ∧
    (port < 96 → positions = 0xFFFF → ∃ t, exec (.darkPositionDetect port positions) s = .next t ∧ portNow t = { P with headland := true }) ∧
    (port < 96 → positions ≠ 0xFFFF → ∃ t, exec (.darkPositionDetect port positions) s = .next t ∧ (portNow t).rxMask = P.rxMask &&& ~~~positions) ∧
    (port < 96 → P.headland = true → ∃ t, exec (.headlandTimeout port) s = .next t ∧ (portNow t).headland = false ∧ (portNow t).rxMask = 0) ∧
    (P.headland = false → exec (.headlandTimeout port) s = .next s) ∧
    (port < 96 → w < 16 → P.rxMask.getLsbD w = true → ∃ t, exec (.wavelengthRetrain port w) s = .next t ∧
      portNow t = { P with rxMask := P.rxMask &&& ~~~bit, retraining := P.retraining ||| bit, symbols := tset P.symbols w 0 0 }) ∧
    (port < 96 → w < 16 → P.retraining.getLsbD w = true →
      (∃ t, exec (.wavelengthRejoin port w true) s = .next t ∧
        portNow t = { P with rxMask := P.rxMask ||| bit, retraining := P.retraining &&& ~~~bit, fails := tset P.fails w 0 0 }) ∧
      ∃ t, exec (.wavelengthRejoin port w false) s = .next t ∧ let n := tget P.fails w 0 + 1
        portNow t = { P with fails := tset P.fails w 0 n, retraining := if n < 3 then P.retraining else P.retraining &&& ~~~bit }) ∧
    (P.retraining.getLsbD w = false → ∀ ok, exec (.wavelengthRejoin port w ok) s = .next s) ∧
    (g < 12 → me < 4096 → slotTable s ≠ [] → ∃ t, exec (.lightReturn g) s = .next t ∧ groupNow t = { G with awaiting := true, lit := false }) ∧
    (g < 12 → ∃ t, exec (.slotClose g) s = .next t ∧ groupNow t = { G with awaiting := false, lit := false } ∧
      ∀ q, currentPeer s g = some q → let X := tget t.fab.sessions (4096 * g + q) {}
        ∀ x ∈ X.unacked.drop X.left, 4 ≤ x.2.cls ∨ x.2.cont = true) ∧
    (port < 96 → p < 4096 → me < 4096 → slotTable s ≠ [] → let n := (slotTable s).length
      let h := port / 8
      let H := tget s.fab.groups h {}
      let after (t : State) : Group := tget t.fab.groups h {}
      let start := ((H.entry.map (· + 1)).getD 0)
      ∃ t, exec (.beaconReceive port p seed) s = .next t ∧ tget t.fab.seeds p 0 = seed.toNat ∧
        (∀ q, tget t.fab.ports q {} = if q = port then { P with headland := false } else tget s.fab.ports q {}) ∧ (H.awaiting = false → after t = H) ∧
        (∀ i, H.awaiting = true → i < n → slotPeer (nth (slotTable s) ((start + i) % n) 0) h = p →
          (∀ j, j < i → slotPeer (nth (slotTable s) ((start + j) % n) 0) h ≠ p) →
          (after t).entry = some ((start + i) % n) ∧ (after t).lit = true ∧ (after t).awaiting = false) ∧
        (H.awaiting = true → (∀ i, i < n → slotPeer (nth (slotTable s) i 0) h ≠ p) → after t = { H with awaiting := false, lit := false, misses := H.misses + 1 }))) ∧
  (∀ (s : State) (source agent : Nat) (tag : BitVec 16) (ord : Bool) (body : RemoteBody), let key := 2 ^ 64 * source + agent % 2 ^ 64
    let r := serveFor s key none 0 body;
    (r.s.fab.ordered = tset s.fab.ordered key 0 r.pts) ∧
    (exec (.remoteRequest source agent tag ord body) s = .next (post r.s source 4 tag.toNat 0 (.reply r.fail r.values r.marks))) ∧
    (∀ pa : BitVec 52, body = .read [pa] → let m := (recallLine s (pa.toNat / 64)).mem;
      (admits s pa.toNat 4 true false false = false → r.fail = [5] ∧ r.s = { s with fab := r.s.fab }) ∧
      (admits s pa.toNat 4 true false false = true → pa.toNat % 4 = 0 → tget s.memMark (pa.toNat / 4) .clean = .clean →
        r.fail = [0] ∧ r.values = [read32 m pa.toNat] ∧ r.marks = [false] ∧ r.s.mem = m)) ∧
    (∀ (c : BitVec 4) (pa : BitVec 52) (x y : Word), body = .atom [(c, pa, x, y)] → let m := (recallLine s (pa.toNat / 64)).mem;
      (admits s pa.toNat 4 false false true = false → r.fail = [5] ∧ r.s = { s with fab := r.s.fab }) ∧
      (admits s pa.toNat 4 false false true = true → pa.toNat % 4 = 0 → tget s.memMark (pa.toNat / 4) .clean = .clean →
        r.fail = [0] ∧ r.values = [read32 m pa.toNat] ∧
        r.s.mem = writeBytes m pa.toNat (toBytes 4 (atomicNew (ratomFunction c.toNat) (read32 m pa.toNat) x y).toNat))) ∧
    (∀ (pa flag : BitVec 52) (bs : List Byte), body = .put pa bs flag →
      (admits s pa.toNat bs.length false true false = false ∨ flag ≠ 0 ∧ admits s flag.toNat 4 false true true = false → r.fail = [5] ∧ r.s = { s with fab := r.s.fab }) ∧
      (admits s pa.toNat bs.length false true false = true → flag = 0 → pa.toNat % 64 + bs.length ≤ 64 → bs ≠ [] →
        r.fail = [0] ∧ r.s.mem = writeBytes (recallLine s (pa.toNat / 64)).mem pa.toNat bs))) ∧
  (∀ (s : State) (op source : Nat) (tag : BitVec 16) (o : Op) (q : Asked) (d a : BitVec 7) (r : BitVec 1) (sc : BitVec 3) (vs : List Word),
    let asked := s.fab.asked.find? fun a => a.peer == source && a.tag == tag;
    (asked = none → ∀ fs ms, exec (.remoteReply (.request source tag) fs vs ms) s = .next s) ∧
    (s.op op = some o → o.kind = .remote → o.done = false → (tfind s.furrows o.furrow).isSome → let f := s.furrow o.furrow
    let ts := threads 64 o.act
    let answers := asked = some q ∧ q.op = op;
    (o.instr = .rld d a r sc → vs.length = ts.length → ts ≠ [] →
      (answers → q.thrs = ts → ∃ t, exec (.remoteReply (.request source tag) (ts.map fun _ => 0) vs (ts.map fun _ => false)) s = .next t ∧
        opDone t op = true ∧ (∀ x ∈ t.fab.asked, x ≠ q) ∧ ∀ x u, u < 64 →
        (t.furrow o.furrow).vget x u = if x < 128 ∧ 64 * x + u ∈ o.early then f.vget x u else if x ≠ 0 ∧ x = d.toNat ∧ u < f.width then
          (if o.zero.getLsbD u then 0 else if o.act.getLsbD u then nth vs (ts.findIdx (· == u)) 0 else f.vget x u) else f.vget x u) ∧
      ((∀ t ∈ ts, tget o.results (8 * t) 0 = 0) → ∀ t0, ts.head? = some t0 → ∃ t, exec (.remoteTimeout op) s = .next t ∧ opDone t op = true ∧
        (t.furrow o.furrow).late = f.late ++ [{ cause := 0x0C, info := .ofNat 32 (t0 * 2 ^ 18 + 6) }])) ∧
    (o.instr = .rst d a r sc → let status (t : State) (n : Nat) : Prop := opDone t op = true ∧ (∀ x ∈ t.fab.asked, x ≠ q ∨ q.op ≠ op) ∧
        ∀ x, (t.furrow o.furrow).sget x = if x ≠ 0 ∧ x = d.toNat then .ofNat 32 n else f.sget x
      (answers → (∃ t, exec (.remoteReply (.request source tag) [0] [] []) s = .next t ∧ status t 0) ∧
        ∃ t, exec (.remoteReply (.request source tag) [5] [] []) s = .next t ∧ status t 5) ∧
      ∃ t, exec (.remoteTimeout op) s = .next t ∧ status t 6))) ∧
  (∀ (s : State) (ctx id member mode opcode : Nat) (vs : List Word), (∀ x ∈ s.fab.reductions, ¬(x.ctx = ctx ∧ x.id = id)) →
    exec (.reductionCombine ctx id member mode opcode vs) s = .next { s with fab := { s.fab with
      reductions := s.fab.reductions ++ [{ ctx, id, opcode, count := vs.length, relaxed := mode == 1, got := [(member, vs)] }] } } ∧
    ∀ fs ms, exec (.remoteReply (.reduction ctx id) fs vs ms) s = .next s) ∧
  (∀ (s : State) (source ctx tag unit index port : Nat) (dest flag : BitVec 52) (len off : BitVec 32) (att : BitVec 6) (bs : List Byte) (x : Xfer),
    let answer (n : Note) : Result := .next (post s source 10 tag ctx n)
    let request := exec (.bulkRequest source ctx tag dest flag len unit att bs) s
    let seed := bs.take len.toNat
    let records := s.fab.xfers.filter fun x => x.receiver && x.savedAt.isNone
    let refused := windowCtx s dest.toNat len.toNat false true false = none ∨ flag ≠ 0 ∧ admits s flag.toNat 4 false true true = false;
    (refused → request = answer .refused) ∧
    (∀ w, ¬refused → windowCtx s dest.toNat len.toNat false true false = some w →
      let full := (s.ctx w).xstat ≠ 0 ∨ (receiverOf s source ctx tag).isSome ∨ 4096 ≤ records.length ∨
        s.fab.seedpool * 2 ^ 20 < (records.map (·.seed)).sum + seed.length;
      (full → request = answer .deferred) ∧
      (¬full → seed.length < len.toNat → ∃ t y, request = .next t ∧ t.fab.xfers = s.fab.xfers ++ [y] ∧ y.receiver = true ∧ y.peer = source ∧
        y.sctx = ctx ∧ y.tag = .ofNat 16 tag ∧ y.ctx = w ∧ y.len = len.toNat ∧ y.done = seed.length ∧ y.st = 2 ∧ y.unit = unit ∧ y.grants = [] ∧
        y.ungranted = [(seed.length, len.toNat - seed.length)])) ∧
    let discarded := exec (.bulkDataReceive ⟨source, port⟩ ctx tag off bs) s = .next { s with fab := { s.fab with
      ports := tset s.fab.ports port {} { tget s.fab.ports port {} with discarded := (tget s.fab.ports port {}).discarded + 1 } } };
    (receiverOf s source ctx tag = none → discarded) ∧
    (receiverOf s source ctx tag = some x → s.xfer x.id = some x →
      (x.savedAt ≠ none ∨ x.len < off.toNat + bs.length → discarded) ∧
      (x.savedAt = none → x.grants = [{ off := off.toNat, size := bs.length, missing := [(off.toNat, bs.length)] }] → bs ≠ [] →
        x.done + bs.length < x.len → off.toNat + bs.length ≤ x.len → (x.la.toNat + off.toNat) % 64 + bs.length ≤ 64 → let k := x.la.toNat + off.toNat
        ∃ t y, exec (.bulkDataReceive ⟨source, port⟩ ctx tag off bs) s = .next t ∧ t.xfer x.id = some y ∧ y.done = x.done + bs.length ∧ y.grants = [] ∧ y.nexp = 0 ∧
          t.mem = writeBytes (recallLine s (k / 64)).mem k bs) ∧
      (x.held = true ∨ x.savedAt ≠ none ∨ x.grants[index]? = none → exec (.grantExpiry source ctx tag index) s = .next s) ∧
      (∀ g, x.held = false → x.savedAt = none → x.grants[index]? = some g → x.nexp < 3 → ∃ t, exec (.grantExpiry source ctx tag index) s = .next t ∧
        t.xfer x.id = some { x with
          ungranted := g.missing.foldl (fun r m => addRange r m.1 m.2) x.ungranted
          grants := x.grants.eraseIdx index
          nexp := x.nexp + 1
          ecnt := x.ecnt + 1 }) ∧
      (∀ g, x.held = false → x.savedAt = none → x.grants[index]? = some g → 3 ≤ x.nexp → ∃ t, exec (.grantExpiry source ctx tag index) s = .next t ∧
        t.xfer x.id = none)) ∧
    (grantCandidates s unit = [] → exec (.grantIssue unit) s = .next s) ∧
    (x ∈ grantCandidates s unit → s.xfer x.id = some x → (∀ y ∈ grantCandidates s unit, y = x ∨ grantClass s y < grantClass s x ∨
        grantClass s y = grantClass s x ∧ x.ungr < y.ungr) → ∀ o n rest, x.ungranted = (o, n) :: rest → let z := min (2 ^ s.fab.grantsz) n
      ∃ t, exec (.grantIssue unit) s = .next t ∧ t.xfer x.id = some
        { x with pass := 0, gcnt := x.gcnt + 1, ungranted := cutRange x.ungranted o (o + z), grants := x.grants ++ [⟨o, z, [(o, z)]⟩] })) ∧
  (∀ (s : State) (peer ctx tag : Nat) (off size : BitVec 32) (x : Xfer) (b : Bool),
    let at_ (i : Instr) (h : Xfer → Xfer) : Prop := exec i s = .next (s.modXfer x.id h);
    (senderTo s peer ctx tag = none → exec (.grantReceive peer ctx tag off size) s = .next s ∧ exec (.doneReceive peer ctx tag) s = .next s) ∧
    (senderTo s peer ctx tag = some x →
      (size = 0 ∨ x.len < off.toNat + size.toNat → exec (.grantReceive peer ctx tag off size) s = .next s) ∧
      (size ≠ 0 → off.toNat + size.toNat ≤ x.len → let o := off.toNat
        let z := size.toNat
        at_ (.grantReceive peer ctx tag off size) fun x => { x with
          st := 2
          gcnt := x.gcnt + 1
          ecnt := if coveredBytes x.tosend o (o + z) < coveredBytes x.granted o (o + z) then x.ecnt + 1 else x.ecnt
          granted := addRange x.granted o z
          tosend := cutRange x.tosend o (o + z) ++ [(o, z)] }) ∧
      at_ (.doneReceive peer ctx tag) (fun x => { x with st := 3, done := x.len, tosend := [] }) ∧
      at_ (.abortReceive peer ctx ⟨.sender, tag⟩) (fun x => { x with st := 4, tosend := [] }) ∧
      at_ (.pauseNotice peer ctx ⟨.sender, tag⟩ b) (fun x => { x with heldPeer := b })) ∧
    (receiverOf s peer ctx tag = some x →
      exec (.abortReceive peer ctx ⟨.receiver, tag⟩) s = .next (dropXfer s x.id) ∧
      at_ (.pauseNotice peer ctx ⟨.receiver, tag⟩ b) (fun x => { x with heldPeer := b })) ∧
    (senderTo s peer ctx tag = none → exec (.abortReceive peer ctx ⟨.sender, tag⟩) s = .next s ∧ exec (.pauseNotice peer ctx ⟨.sender, tag⟩ b) s = .next s) ∧
    (receiverOf s peer ctx tag = none →
      exec (.abortReceive peer ctx ⟨.receiver, tag⟩) s = .next s ∧ exec (.pauseNotice peer ctx ⟨.receiver, tag⟩ b) s = .next s) ∧
    (sender s ctx (.ofNat 16 tag) = some x →
      (x.live = true → x.requested = true → x.held = false → at_ (.senderSilenceTimeout ctx tag) fun x => { x with st := 4, tosend := [] }) ∧
      (x.live = false ∨ x.requested = false ∨ x.held = true → exec (.senderSilenceTimeout ctx tag) s = .next s) ∧
      (x.st = 6 → x.held = false → at_ (.deferResend ctx tag) fun x => { x with st := 1, requested := false, seedSent := 0, done := 0 }) ∧
      (x.st ≠ 6 ∨ x.held = true → exec (.deferResend ctx tag) s = .next s)) ∧
    (∀ n, senderTo s peer ctx tag = some x → x.st = 1 → x.requested = true →
      exec (.remoteReply (.transfer peer ctx tag) [n] [] []) s = .next (s.modXfer x.id fun x => { x with st := if n = 0 then 2 else if n = 1 then 6 else 7 })) ∧
    ((s.ctx ctx).xstat ≠ 0 → exec (.xctlPause ctx) s = .next s) ∧ ((s.ctx ctx).xstat = 0 → exec (.xctlResume ctx) s = .next s) ∧
    ((s.ctx ctx).xstat = 0 → ∃ t, exec (.xctlPause ctx) s = .next t ∧ (t.ctx ctx).xstat = 1 ∧
      ∀ y ∈ t.fab.xfers, y.ctx = ctx → y.live = true → y.heldOwn = true) ∧
    ((∀ y ∈ s.fab.xfers, y.ctx = ctx → y.live = true → y.heldOwn = true → y.savedAt ≠ none) →
      savePaused s ctx = s.modCtx ctx fun c => { c with xstat := 2 }) ∧
    (∀ i, s.fab.xfers.find? (fun y => y.ctx == ctx && y.live && y.heldOwn && y.savedAt.isNone) = some x → s.xfer x.id = some x →
      i < (s.ctx ctx).xslen.toNat * 16 → (∀ y ∈ s.fab.xfers, y.ctx = ctx → y.savedAt ≠ some i) →
      (∀ j, j < i → ∃ y ∈ s.fab.xfers, y.ctx = ctx ∧ y.savedAt = some j) → let t := savePaused s ctx
      let k := (s.ctx ctx).xsave.toNat + 64 * i
      t.xfer x.id = some { x with savedAt := some i } ∧ (k % 64 = 0 → readBytes t.mem k 64 = x.bytes)) ∧
    ((s.ctx ctx).xstat ≠ 0 → ∃ t, exec (.xctlResume ctx) s = .next t ∧ (t.ctx ctx).xstat = 0 ∧ ∀ y ∈ t.fab.xfers, y.ctx = ctx → y.heldOwn = false))
end

