-- ==== Sys2Proof/Laws/State.lean ====
section
/-! SUPPORT. What each named update leaves of every field of the state, by reduction. -/

namespace Sys2Proof.Machine

variable (s : State)

@[simp] theorem setFurrow_agenda (k : Nat) (f : Furrow) : (s.setFurrow k f).agenda = s.agenda := rfl
@[simp] theorem setFurrow_upsets (k : Nat) (f : Furrow) : (s.setFurrow k f).upsets = s.upsets := rfl
@[simp] theorem setFurrow_tick (k : Nat) (f : Furrow) : (s.setFurrow k f).tick = s.tick := rfl
@[simp] theorem setFurrow_iss (k : Nat) (f : Furrow) : (s.setFurrow k f).iss = s.iss := rfl
@[simp] theorem setFurrow_held (k : Nat) (f : Furrow) : (s.setFurrow k f).held = s.held := rfl
@[simp] theorem setFurrow_pre (k : Nat) (f : Furrow) : (s.setFurrow k f).pre = s.pre := rfl
@[simp] theorem setFurrow_cur (k : Nat) (f : Furrow) : (s.setFurrow k f).cur = s.cur := rfl
@[simp] theorem setFurrow_mem (k : Nat) (f : Furrow) : (s.setFurrow k f).mem = s.mem := rfl
@[simp] theorem setFurrow_memMark (k : Nat) (f : Furrow) : (s.setFurrow k f).memMark = s.memMark := rfl
@[simp] theorem setFurrow_backed (k : Nat) (f : Furrow) : (s.setFurrow k f).backed = s.backed := rfl
@[simp] theorem setFurrow_lines (k : Nat) (f : Furrow) : (s.setFurrow k f).lines = s.lines := rfl
@[simp] theorem setFurrow_plots (k : Nat) (f : Furrow) : (s.setFurrow k f).plots = s.plots := rfl
@[simp] theorem setFurrow_crofts (k : Nat) (f : Furrow) : (s.setFurrow k f).crofts = s.crofts := rfl
@[simp] theorem setFurrow_launches (k : Nat) (f : Furrow) : (s.setFurrow k f).launches = s.launches := rfl
@[simp] theorem setFurrow_ops (k : Nat) (f : Furrow) : (s.setFurrow k f).ops = s.ops := rfl
@[simp] theorem setFurrow_nextId (k : Nat) (f : Furrow) : (s.setFurrow k f).nextId = s.nextId := rfl
@[simp] theorem setFurrow_cores (k : Nat) (f : Furrow) : (s.setFurrow k f).cores = s.cores := rfl
@[simp] theorem setFurrow_clusters (k : Nat) (f : Furrow) : (s.setFurrow k f).clusters = s.clusters := rfl
@[simp] theorem setFurrow_dies (k : Nat) (f : Furrow) : (s.setFurrow k f).dies = s.dies := rfl
@[simp] theorem setFurrow_ctxs (k : Nat) (f : Furrow) : (s.setFurrow k f).ctxs = s.ctxs := rfl
@[simp] theorem setFurrow_queues (k : Nat) (f : Furrow) : (s.setFurrow k f).queues = s.queues := rfl
@[simp] theorem setFurrow_dq (k : Nat) (f : Furrow) : (s.setFurrow k f).dq = s.dq := rfl
@[simp] theorem setFurrow_pkg (k : Nat) (f : Furrow) : (s.setFurrow k f).pkg = s.pkg := rfl
@[simp] theorem setFurrow_fab (k : Nat) (f : Furrow) : (s.setFurrow k f).fab = s.fab := rfl

@[simp] theorem modFurrow_agenda (k : Nat) (g : Furrow → Furrow) : (s.modFurrow k g).agenda = s.agenda := rfl
@[simp] theorem modFurrow_upsets (k : Nat) (g : Furrow → Furrow) : (s.modFurrow k g).upsets = s.upsets := rfl
@[simp] theorem modFurrow_tick (k : Nat) (g : Furrow → Furrow) : (s.modFurrow k g).tick = s.tick := rfl
@[simp] theorem modFurrow_iss (k : Nat) (g : Furrow → Furrow) : (s.modFurrow k g).iss = s.iss := rfl
@[simp] theorem modFurrow_held (k : Nat) (g : Furrow → Furrow) : (s.modFurrow k g).held = s.held := rfl
@[simp] theorem modFurrow_pre (k : Nat) (g : Furrow → Furrow) : (s.modFurrow k g).pre = s.pre := rfl
@[simp] theorem modFurrow_cur (k : Nat) (g : Furrow → Furrow) : (s.modFurrow k g).cur = s.cur := rfl
@[simp] theorem modFurrow_mem (k : Nat) (g : Furrow → Furrow) : (s.modFurrow k g).mem = s.mem := rfl
@[simp] theorem modFurrow_memMark (k : Nat) (g : Furrow → Furrow) : (s.modFurrow k g).memMark = s.memMark := rfl
@[simp] theorem modFurrow_backed (k : Nat) (g : Furrow → Furrow) : (s.modFurrow k g).backed = s.backed := rfl
@[simp] theorem modFurrow_lines (k : Nat) (g : Furrow → Furrow) : (s.modFurrow k g).lines = s.lines := rfl
@[simp] theorem modFurrow_plots (k : Nat) (g : Furrow → Furrow) : (s.modFurrow k g).plots = s.plots := rfl
@[simp] theorem modFurrow_crofts (k : Nat) (g : Furrow → Furrow) : (s.modFurrow k g).crofts = s.crofts := rfl
@[simp] theorem modFurrow_launches (k : Nat) (g : Furrow → Furrow) : (s.modFurrow k g).launches = s.launches := rfl
@[simp] theorem modFurrow_ops (k : Nat) (g : Furrow → Furrow) : (s.modFurrow k g).ops = s.ops := rfl
@[simp] theorem modFurrow_nextId (k : Nat) (g : Furrow → Furrow) : (s.modFurrow k g).nextId = s.nextId := rfl
@[simp] theorem modFurrow_cores (k : Nat) (g : Furrow → Furrow) : (s.modFurrow k g).cores = s.cores := rfl
@[simp] theorem modFurrow_clusters (k : Nat) (g : Furrow → Furrow) : (s.modFurrow k g).clusters = s.clusters := rfl
@[simp] theorem modFurrow_dies (k : Nat) (g : Furrow → Furrow) : (s.modFurrow k g).dies = s.dies := rfl
@[simp] theorem modFurrow_ctxs (k : Nat) (g : Furrow → Furrow) : (s.modFurrow k g).ctxs = s.ctxs := rfl
@[simp] theorem modFurrow_queues (k : Nat) (g : Furrow → Furrow) : (s.modFurrow k g).queues = s.queues := rfl
@[simp] theorem modFurrow_dq (k : Nat) (g : Furrow → Furrow) : (s.modFurrow k g).dq = s.dq := rfl
@[simp] theorem modFurrow_pkg (k : Nat) (g : Furrow → Furrow) : (s.modFurrow k g).pkg = s.pkg := rfl
@[simp] theorem modFurrow_fab (k : Nat) (g : Furrow → Furrow) : (s.modFurrow k g).fab = s.fab := rfl

@[simp] theorem modCore_agenda (k : Nat) (g : Core → Core) : (s.modCore k g).agenda = s.agenda := rfl
@[simp] theorem modCore_upsets (k : Nat) (g : Core → Core) : (s.modCore k g).upsets = s.upsets := rfl
@[simp] theorem modCore_tick (k : Nat) (g : Core → Core) : (s.modCore k g).tick = s.tick := rfl
@[simp] theorem modCore_iss (k : Nat) (g : Core → Core) : (s.modCore k g).iss = s.iss := rfl
@[simp] theorem modCore_held (k : Nat) (g : Core → Core) : (s.modCore k g).held = s.held := rfl
@[simp] theorem modCore_pre (k : Nat) (g : Core → Core) : (s.modCore k g).pre = s.pre := rfl
@[simp] theorem modCore_cur (k : Nat) (g : Core → Core) : (s.modCore k g).cur = s.cur := rfl
@[simp] theorem modCore_mem (k : Nat) (g : Core → Core) : (s.modCore k g).mem = s.mem := rfl
@[simp] theorem modCore_memMark (k : Nat) (g : Core → Core) : (s.modCore k g).memMark = s.memMark := rfl
@[simp] theorem modCore_backed (k : Nat) (g : Core → Core) : (s.modCore k g).backed = s.backed := rfl
@[simp] theorem modCore_lines (k : Nat) (g : Core → Core) : (s.modCore k g).lines = s.lines := rfl
@[simp] theorem modCore_furrows (k : Nat) (g : Core → Core) : (s.modCore k g).furrows = s.furrows := rfl
@[simp] theorem modCore_plots (k : Nat) (g : Core → Core) : (s.modCore k g).plots = s.plots := rfl
@[simp] theorem modCore_crofts (k : Nat) (g : Core → Core) : (s.modCore k g).crofts = s.crofts := rfl
@[simp] theorem modCore_launches (k : Nat) (g : Core → Core) : (s.modCore k g).launches = s.launches := rfl
@[simp] theorem modCore_ops (k : Nat) (g : Core → Core) : (s.modCore k g).ops = s.ops := rfl
@[simp] theorem modCore_nextId (k : Nat) (g : Core → Core) : (s.modCore k g).nextId = s.nextId := rfl
@[simp] theorem modCore_clusters (k : Nat) (g : Core → Core) : (s.modCore k g).clusters = s.clusters := rfl
@[simp] theorem modCore_dies (k : Nat) (g : Core → Core) : (s.modCore k g).dies = s.dies := rfl
@[simp] theorem modCore_ctxs (k : Nat) (g : Core → Core) : (s.modCore k g).ctxs = s.ctxs := rfl
@[simp] theorem modCore_queues (k : Nat) (g : Core → Core) : (s.modCore k g).queues = s.queues := rfl
@[simp] theorem modCore_dq (k : Nat) (g : Core → Core) : (s.modCore k g).dq = s.dq := rfl
@[simp] theorem modCore_pkg (k : Nat) (g : Core → Core) : (s.modCore k g).pkg = s.pkg := rfl
@[simp] theorem modCore_fab (k : Nat) (g : Core → Core) : (s.modCore k g).fab = s.fab := rfl

@[simp] theorem modCluster_agenda (k : Nat) (g : Cluster → Cluster) : (s.modCluster k g).agenda = s.agenda := rfl
@[simp] theorem modCluster_upsets (k : Nat) (g : Cluster → Cluster) : (s.modCluster k g).upsets = s.upsets := rfl
@[simp] theorem modCluster_tick (k : Nat) (g : Cluster → Cluster) : (s.modCluster k g).tick = s.tick := rfl
@[simp] theorem modCluster_iss (k : Nat) (g : Cluster → Cluster) : (s.modCluster k g).iss = s.iss := rfl
@[simp] theorem modCluster_held (k : Nat) (g : Cluster → Cluster) : (s.modCluster k g).held = s.held := rfl
@[simp] theorem modCluster_pre (k : Nat) (g : Cluster → Cluster) : (s.modCluster k g).pre = s.pre := rfl
@[simp] theorem modCluster_cur (k : Nat) (g : Cluster → Cluster) : (s.modCluster k g).cur = s.cur := rfl
@[simp] theorem modCluster_mem (k : Nat) (g : Cluster → Cluster) : (s.modCluster k g).mem = s.mem := rfl
@[simp] theorem modCluster_memMark (k : Nat) (g : Cluster → Cluster) : (s.modCluster k g).memMark = s.memMark := rfl
@[simp] theorem modCluster_backed (k : Nat) (g : Cluster → Cluster) : (s.modCluster k g).backed = s.backed := rfl
@[simp] theorem modCluster_lines (k : Nat) (g : Cluster → Cluster) : (s.modCluster k g).lines = s.lines := rfl
@[simp] theorem modCluster_furrows (k : Nat) (g : Cluster → Cluster) : (s.modCluster k g).furrows = s.furrows := rfl
@[simp] theorem modCluster_plots (k : Nat) (g : Cluster → Cluster) : (s.modCluster k g).plots = s.plots := rfl
@[simp] theorem modCluster_crofts (k : Nat) (g : Cluster → Cluster) : (s.modCluster k g).crofts = s.crofts := rfl
@[simp] theorem modCluster_launches (k : Nat) (g : Cluster → Cluster) : (s.modCluster k g).launches = s.launches := rfl
@[simp] theorem modCluster_ops (k : Nat) (g : Cluster → Cluster) : (s.modCluster k g).ops = s.ops := rfl
@[simp] theorem modCluster_nextId (k : Nat) (g : Cluster → Cluster) : (s.modCluster k g).nextId = s.nextId := rfl
@[simp] theorem modCluster_cores (k : Nat) (g : Cluster → Cluster) : (s.modCluster k g).cores = s.cores := rfl
@[simp] theorem modCluster_dies (k : Nat) (g : Cluster → Cluster) : (s.modCluster k g).dies = s.dies := rfl
@[simp] theorem modCluster_ctxs (k : Nat) (g : Cluster → Cluster) : (s.modCluster k g).ctxs = s.ctxs := rfl
@[simp] theorem modCluster_queues (k : Nat) (g : Cluster → Cluster) : (s.modCluster k g).queues = s.queues := rfl
@[simp] theorem modCluster_dq (k : Nat) (g : Cluster → Cluster) : (s.modCluster k g).dq = s.dq := rfl
@[simp] theorem modCluster_pkg (k : Nat) (g : Cluster → Cluster) : (s.modCluster k g).pkg = s.pkg := rfl
@[simp] theorem modCluster_fab (k : Nat) (g : Cluster → Cluster) : (s.modCluster k g).fab = s.fab := rfl

@[simp] theorem modDie_agenda (k : Nat) (g : Die → Die) : (s.modDie k g).agenda = s.agenda := rfl
@[simp] theorem modDie_upsets (k : Nat) (g : Die → Die) : (s.modDie k g).upsets = s.upsets := rfl
@[simp] theorem modDie_tick (k : Nat) (g : Die → Die) : (s.modDie k g).tick = s.tick := rfl
@[simp] theorem modDie_iss (k : Nat) (g : Die → Die) : (s.modDie k g).iss = s.iss := rfl
@[simp] theorem modDie_held (k : Nat) (g : Die → Die) : (s.modDie k g).held = s.held := rfl
@[simp] theorem modDie_pre (k : Nat) (g : Die → Die) : (s.modDie k g).pre = s.pre := rfl
@[simp] theorem modDie_cur (k : Nat) (g : Die → Die) : (s.modDie k g).cur = s.cur := rfl
@[simp] theorem modDie_mem (k : Nat) (g : Die → Die) : (s.modDie k g).mem = s.mem := rfl
@[simp] theorem modDie_memMark (k : Nat) (g : Die → Die) : (s.modDie k g).memMark = s.memMark := rfl
@[simp] theorem modDie_backed (k : Nat) (g : Die → Die) : (s.modDie k g).backed = s.backed := rfl
@[simp] theorem modDie_lines (k : Nat) (g : Die → Die) : (s.modDie k g).lines = s.lines := rfl
@[simp] theorem modDie_furrows (k : Nat) (g : Die → Die) : (s.modDie k g).furrows = s.furrows := rfl
@[simp] theorem modDie_plots (k : Nat) (g : Die → Die) : (s.modDie k g).plots = s.plots := rfl
@[simp] theorem modDie_crofts (k : Nat) (g : Die → Die) : (s.modDie k g).crofts = s.crofts := rfl
@[simp] theorem modDie_launches (k : Nat) (g : Die → Die) : (s.modDie k g).launches = s.launches := rfl
@[simp] theorem modDie_ops (k : Nat) (g : Die → Die) : (s.modDie k g).ops = s.ops := rfl
@[simp] theorem modDie_nextId (k : Nat) (g : Die → Die) : (s.modDie k g).nextId = s.nextId := rfl
@[simp] theorem modDie_cores (k : Nat) (g : Die → Die) : (s.modDie k g).cores = s.cores := rfl
@[simp] theorem modDie_clusters (k : Nat) (g : Die → Die) : (s.modDie k g).clusters = s.clusters := rfl
@[simp] theorem modDie_ctxs (k : Nat) (g : Die → Die) : (s.modDie k g).ctxs = s.ctxs := rfl
@[simp] theorem modDie_queues (k : Nat) (g : Die → Die) : (s.modDie k g).queues = s.queues := rfl
@[simp] theorem modDie_dq (k : Nat) (g : Die → Die) : (s.modDie k g).dq = s.dq := rfl
@[simp] theorem modDie_pkg (k : Nat) (g : Die → Die) : (s.modDie k g).pkg = s.pkg := rfl
@[simp] theorem modDie_fab (k : Nat) (g : Die → Die) : (s.modDie k g).fab = s.fab := rfl

@[simp] theorem modCtx_agenda (k : Nat) (g : Ctx → Ctx) : (s.modCtx k g).agenda = s.agenda := rfl
@[simp] theorem modCtx_upsets (k : Nat) (g : Ctx → Ctx) : (s.modCtx k g).upsets = s.upsets := rfl
@[simp] theorem modCtx_tick (k : Nat) (g : Ctx → Ctx) : (s.modCtx k g).tick = s.tick := rfl
@[simp] theorem modCtx_iss (k : Nat) (g : Ctx → Ctx) : (s.modCtx k g).iss = s.iss := rfl
@[simp] theorem modCtx_held (k : Nat) (g : Ctx → Ctx) : (s.modCtx k g).held = s.held := rfl
@[simp] theorem modCtx_pre (k : Nat) (g : Ctx → Ctx) : (s.modCtx k g).pre = s.pre := rfl
@[simp] theorem modCtx_cur (k : Nat) (g : Ctx → Ctx) : (s.modCtx k g).cur = s.cur := rfl
@[simp] theorem modCtx_mem (k : Nat) (g : Ctx → Ctx) : (s.modCtx k g).mem = s.mem := rfl
@[simp] theorem modCtx_memMark (k : Nat) (g : Ctx → Ctx) : (s.modCtx k g).memMark = s.memMark := rfl
@[simp] theorem modCtx_backed (k : Nat) (g : Ctx → Ctx) : (s.modCtx k g).backed = s.backed := rfl
@[simp] theorem modCtx_lines (k : Nat) (g : Ctx → Ctx) : (s.modCtx k g).lines = s.lines := rfl
@[simp] theorem modCtx_furrows (k : Nat) (g : Ctx → Ctx) : (s.modCtx k g).furrows = s.furrows := rfl
@[simp] theorem modCtx_plots (k : Nat) (g : Ctx → Ctx) : (s.modCtx k g).plots = s.plots := rfl
@[simp] theorem modCtx_crofts (k : Nat) (g : Ctx → Ctx) : (s.modCtx k g).crofts = s.crofts := rfl
@[simp] theorem modCtx_launches (k : Nat) (g : Ctx → Ctx) : (s.modCtx k g).launches = s.launches := rfl
@[simp] theorem modCtx_ops (k : Nat) (g : Ctx → Ctx) : (s.modCtx k g).ops = s.ops := rfl
@[simp] theorem modCtx_nextId (k : Nat) (g : Ctx → Ctx) : (s.modCtx k g).nextId = s.nextId := rfl
@[simp] theorem modCtx_cores (k : Nat) (g : Ctx → Ctx) : (s.modCtx k g).cores = s.cores := rfl
@[simp] theorem modCtx_clusters (k : Nat) (g : Ctx → Ctx) : (s.modCtx k g).clusters = s.clusters := rfl
@[simp] theorem modCtx_dies (k : Nat) (g : Ctx → Ctx) : (s.modCtx k g).dies = s.dies := rfl
@[simp] theorem modCtx_queues (k : Nat) (g : Ctx → Ctx) : (s.modCtx k g).queues = s.queues := rfl
@[simp] theorem modCtx_dq (k : Nat) (g : Ctx → Ctx) : (s.modCtx k g).dq = s.dq := rfl
@[simp] theorem modCtx_pkg (k : Nat) (g : Ctx → Ctx) : (s.modCtx k g).pkg = s.pkg := rfl
@[simp] theorem modCtx_fab (k : Nat) (g : Ctx → Ctx) : (s.modCtx k g).fab = s.fab := rfl

@[simp] theorem modQueue_agenda (k : Nat) (g : Queue → Queue) : (s.modQueue k g).agenda = s.agenda := rfl
@[simp] theorem modQueue_upsets (k : Nat) (g : Queue → Queue) : (s.modQueue k g).upsets = s.upsets := rfl
@[simp] theorem modQueue_tick (k : Nat) (g : Queue → Queue) : (s.modQueue k g).tick = s.tick := rfl
@[simp] theorem modQueue_iss (k : Nat) (g : Queue → Queue) : (s.modQueue k g).iss = s.iss := rfl
@[simp] theorem modQueue_held (k : Nat) (g : Queue → Queue) : (s.modQueue k g).held = s.held := rfl
@[simp] theorem modQueue_pre (k : Nat) (g : Queue → Queue) : (s.modQueue k g).pre = s.pre := rfl
@[simp] theorem modQueue_cur (k : Nat) (g : Queue → Queue) : (s.modQueue k g).cur = s.cur := rfl
@[simp] theorem modQueue_mem (k : Nat) (g : Queue → Queue) : (s.modQueue k g).mem = s.mem := rfl
@[simp] theorem modQueue_memMark (k : Nat) (g : Queue → Queue) : (s.modQueue k g).memMark = s.memMark := rfl
@[simp] theorem modQueue_backed (k : Nat) (g : Queue → Queue) : (s.modQueue k g).backed = s.backed := rfl
@[simp] theorem modQueue_lines (k : Nat) (g : Queue → Queue) : (s.modQueue k g).lines = s.lines := rfl
@[simp] theorem modQueue_furrows (k : Nat) (g : Queue → Queue) : (s.modQueue k g).furrows = s.furrows := rfl
@[simp] theorem modQueue_plots (k : Nat) (g : Queue → Queue) : (s.modQueue k g).plots = s.plots := rfl
@[simp] theorem modQueue_crofts (k : Nat) (g : Queue → Queue) : (s.modQueue k g).crofts = s.crofts := rfl
@[simp] theorem modQueue_launches (k : Nat) (g : Queue → Queue) : (s.modQueue k g).launches = s.launches := rfl
@[simp] theorem modQueue_ops (k : Nat) (g : Queue → Queue) : (s.modQueue k g).ops = s.ops := rfl
@[simp] theorem modQueue_nextId (k : Nat) (g : Queue → Queue) : (s.modQueue k g).nextId = s.nextId := rfl
@[simp] theorem modQueue_cores (k : Nat) (g : Queue → Queue) : (s.modQueue k g).cores = s.cores := rfl
@[simp] theorem modQueue_clusters (k : Nat) (g : Queue → Queue) : (s.modQueue k g).clusters = s.clusters := rfl
@[simp] theorem modQueue_dies (k : Nat) (g : Queue → Queue) : (s.modQueue k g).dies = s.dies := rfl
@[simp] theorem modQueue_ctxs (k : Nat) (g : Queue → Queue) : (s.modQueue k g).ctxs = s.ctxs := rfl
@[simp] theorem modQueue_dq (k : Nat) (g : Queue → Queue) : (s.modQueue k g).dq = s.dq := rfl
@[simp] theorem modQueue_pkg (k : Nat) (g : Queue → Queue) : (s.modQueue k g).pkg = s.pkg := rfl
@[simp] theorem modQueue_fab (k : Nat) (g : Queue → Queue) : (s.modQueue k g).fab = s.fab := rfl

@[simp] theorem modPlot_agenda (k : Nat) (g : Plot → Plot) : (s.modPlot k g).agenda = s.agenda := rfl
@[simp] theorem modPlot_upsets (k : Nat) (g : Plot → Plot) : (s.modPlot k g).upsets = s.upsets := rfl
@[simp] theorem modPlot_tick (k : Nat) (g : Plot → Plot) : (s.modPlot k g).tick = s.tick := rfl
@[simp] theorem modPlot_iss (k : Nat) (g : Plot → Plot) : (s.modPlot k g).iss = s.iss := rfl
@[simp] theorem modPlot_held (k : Nat) (g : Plot → Plot) : (s.modPlot k g).held = s.held := rfl
@[simp] theorem modPlot_pre (k : Nat) (g : Plot → Plot) : (s.modPlot k g).pre = s.pre := rfl
@[simp] theorem modPlot_cur (k : Nat) (g : Plot → Plot) : (s.modPlot k g).cur = s.cur := rfl
@[simp] theorem modPlot_mem (k : Nat) (g : Plot → Plot) : (s.modPlot k g).mem = s.mem := rfl
@[simp] theorem modPlot_memMark (k : Nat) (g : Plot → Plot) : (s.modPlot k g).memMark = s.memMark := rfl
@[simp] theorem modPlot_backed (k : Nat) (g : Plot → Plot) : (s.modPlot k g).backed = s.backed := rfl
@[simp] theorem modPlot_lines (k : Nat) (g : Plot → Plot) : (s.modPlot k g).lines = s.lines := rfl
@[simp] theorem modPlot_furrows (k : Nat) (g : Plot → Plot) : (s.modPlot k g).furrows = s.furrows := rfl
@[simp] theorem modPlot_crofts (k : Nat) (g : Plot → Plot) : (s.modPlot k g).crofts = s.crofts := rfl
@[simp] theorem modPlot_launches (k : Nat) (g : Plot → Plot) : (s.modPlot k g).launches = s.launches := rfl
@[simp] theorem modPlot_ops (k : Nat) (g : Plot → Plot) : (s.modPlot k g).ops = s.ops := rfl
@[simp] theorem modPlot_nextId (k : Nat) (g : Plot → Plot) : (s.modPlot k g).nextId = s.nextId := rfl
@[simp] theorem modPlot_cores (k : Nat) (g : Plot → Plot) : (s.modPlot k g).cores = s.cores := rfl
@[simp] theorem modPlot_clusters (k : Nat) (g : Plot → Plot) : (s.modPlot k g).clusters = s.clusters := rfl
@[simp] theorem modPlot_dies (k : Nat) (g : Plot → Plot) : (s.modPlot k g).dies = s.dies := rfl
@[simp] theorem modPlot_ctxs (k : Nat) (g : Plot → Plot) : (s.modPlot k g).ctxs = s.ctxs := rfl
@[simp] theorem modPlot_queues (k : Nat) (g : Plot → Plot) : (s.modPlot k g).queues = s.queues := rfl
@[simp] theorem modPlot_dq (k : Nat) (g : Plot → Plot) : (s.modPlot k g).dq = s.dq := rfl
@[simp] theorem modPlot_pkg (k : Nat) (g : Plot → Plot) : (s.modPlot k g).pkg = s.pkg := rfl
@[simp] theorem modPlot_fab (k : Nat) (g : Plot → Plot) : (s.modPlot k g).fab = s.fab := rfl

@[simp] theorem modCroft_agenda (k : Nat) (g : Croft → Croft) : (s.modCroft k g).agenda = s.agenda := rfl
@[simp] theorem modCroft_upsets (k : Nat) (g : Croft → Croft) : (s.modCroft k g).upsets = s.upsets := rfl
@[simp] theorem modCroft_tick (k : Nat) (g : Croft → Croft) : (s.modCroft k g).tick = s.tick := rfl
@[simp] theorem modCroft_iss (k : Nat) (g : Croft → Croft) : (s.modCroft k g).iss = s.iss := rfl
@[simp] theorem modCroft_held (k : Nat) (g : Croft → Croft) : (s.modCroft k g).held = s.held := rfl
@[simp] theorem modCroft_pre (k : Nat) (g : Croft → Croft) : (s.modCroft k g).pre = s.pre := rfl
@[simp] theorem modCroft_cur (k : Nat) (g : Croft → Croft) : (s.modCroft k g).cur = s.cur := rfl
@[simp] theorem modCroft_mem (k : Nat) (g : Croft → Croft) : (s.modCroft k g).mem = s.mem := rfl
@[simp] theorem modCroft_memMark (k : Nat) (g : Croft → Croft) : (s.modCroft k g).memMark = s.memMark := rfl
@[simp] theorem modCroft_backed (k : Nat) (g : Croft → Croft) : (s.modCroft k g).backed = s.backed := rfl
@[simp] theorem modCroft_lines (k : Nat) (g : Croft → Croft) : (s.modCroft k g).lines = s.lines := rfl
@[simp] theorem modCroft_furrows (k : Nat) (g : Croft → Croft) : (s.modCroft k g).furrows = s.furrows := rfl
@[simp] theorem modCroft_plots (k : Nat) (g : Croft → Croft) : (s.modCroft k g).plots = s.plots := rfl
@[simp] theorem modCroft_launches (k : Nat) (g : Croft → Croft) : (s.modCroft k g).launches = s.launches := rfl
@[simp] theorem modCroft_ops (k : Nat) (g : Croft → Croft) : (s.modCroft k g).ops = s.ops := rfl
@[simp] theorem modCroft_nextId (k : Nat) (g : Croft → Croft) : (s.modCroft k g).nextId = s.nextId := rfl
@[simp] theorem modCroft_cores (k : Nat) (g : Croft → Croft) : (s.modCroft k g).cores = s.cores := rfl
@[simp] theorem modCroft_clusters (k : Nat) (g : Croft → Croft) : (s.modCroft k g).clusters = s.clusters := rfl
@[simp] theorem modCroft_dies (k : Nat) (g : Croft → Croft) : (s.modCroft k g).dies = s.dies := rfl
@[simp] theorem modCroft_ctxs (k : Nat) (g : Croft → Croft) : (s.modCroft k g).ctxs = s.ctxs := rfl
@[simp] theorem modCroft_queues (k : Nat) (g : Croft → Croft) : (s.modCroft k g).queues = s.queues := rfl
@[simp] theorem modCroft_dq (k : Nat) (g : Croft → Croft) : (s.modCroft k g).dq = s.dq := rfl
@[simp] theorem modCroft_pkg (k : Nat) (g : Croft → Croft) : (s.modCroft k g).pkg = s.pkg := rfl
@[simp] theorem modCroft_fab (k : Nat) (g : Croft → Croft) : (s.modCroft k g).fab = s.fab := rfl

@[simp] theorem modLaunch_agenda (k : Nat) (g : Launch → Launch) : (s.modLaunch k g).agenda = s.agenda := rfl
@[simp] theorem modLaunch_upsets (k : Nat) (g : Launch → Launch) : (s.modLaunch k g).upsets = s.upsets := rfl
@[simp] theorem modLaunch_tick (k : Nat) (g : Launch → Launch) : (s.modLaunch k g).tick = s.tick := rfl
@[simp] theorem modLaunch_iss (k : Nat) (g : Launch → Launch) : (s.modLaunch k g).iss = s.iss := rfl
@[simp] theorem modLaunch_held (k : Nat) (g : Launch → Launch) : (s.modLaunch k g).held = s.held := rfl
@[simp] theorem modLaunch_pre (k : Nat) (g : Launch → Launch) : (s.modLaunch k g).pre = s.pre := rfl
@[simp] theorem modLaunch_cur (k : Nat) (g : Launch → Launch) : (s.modLaunch k g).cur = s.cur := rfl
@[simp] theorem modLaunch_mem (k : Nat) (g : Launch → Launch) : (s.modLaunch k g).mem = s.mem := rfl
@[simp] theorem modLaunch_memMark (k : Nat) (g : Launch → Launch) : (s.modLaunch k g).memMark = s.memMark := rfl
@[simp] theorem modLaunch_backed (k : Nat) (g : Launch → Launch) : (s.modLaunch k g).backed = s.backed := rfl
@[simp] theorem modLaunch_lines (k : Nat) (g : Launch → Launch) : (s.modLaunch k g).lines = s.lines := rfl
@[simp] theorem modLaunch_furrows (k : Nat) (g : Launch → Launch) : (s.modLaunch k g).furrows = s.furrows := rfl
@[simp] theorem modLaunch_plots (k : Nat) (g : Launch → Launch) : (s.modLaunch k g).plots = s.plots := rfl
@[simp] theorem modLaunch_crofts (k : Nat) (g : Launch → Launch) : (s.modLaunch k g).crofts = s.crofts := rfl
@[simp] theorem modLaunch_ops (k : Nat) (g : Launch → Launch) : (s.modLaunch k g).ops = s.ops := rfl
@[simp] theorem modLaunch_nextId (k : Nat) (g : Launch → Launch) : (s.modLaunch k g).nextId = s.nextId := rfl
@[simp] theorem modLaunch_cores (k : Nat) (g : Launch → Launch) : (s.modLaunch k g).cores = s.cores := rfl
@[simp] theorem modLaunch_clusters (k : Nat) (g : Launch → Launch) : (s.modLaunch k g).clusters = s.clusters := rfl
@[simp] theorem modLaunch_dies (k : Nat) (g : Launch → Launch) : (s.modLaunch k g).dies = s.dies := rfl
@[simp] theorem modLaunch_ctxs (k : Nat) (g : Launch → Launch) : (s.modLaunch k g).ctxs = s.ctxs := rfl
@[simp] theorem modLaunch_queues (k : Nat) (g : Launch → Launch) : (s.modLaunch k g).queues = s.queues := rfl
@[simp] theorem modLaunch_dq (k : Nat) (g : Launch → Launch) : (s.modLaunch k g).dq = s.dq := rfl
@[simp] theorem modLaunch_pkg (k : Nat) (g : Launch → Launch) : (s.modLaunch k g).pkg = s.pkg := rfl
@[simp] theorem modLaunch_fab (k : Nat) (g : Launch → Launch) : (s.modLaunch k g).fab = s.fab := rfl

@[simp] theorem modOp_agenda (k : Nat) (g : Op → Op) : (s.modOp k g).agenda = s.agenda := rfl
@[simp] theorem modOp_upsets (k : Nat) (g : Op → Op) : (s.modOp k g).upsets = s.upsets := rfl
@[simp] theorem modOp_tick (k : Nat) (g : Op → Op) : (s.modOp k g).tick = s.tick := rfl
@[simp] theorem modOp_iss (k : Nat) (g : Op → Op) : (s.modOp k g).iss = s.iss := rfl
@[simp] theorem modOp_held (k : Nat) (g : Op → Op) : (s.modOp k g).held = s.held := rfl
@[simp] theorem modOp_pre (k : Nat) (g : Op → Op) : (s.modOp k g).pre = s.pre := rfl
@[simp] theorem modOp_cur (k : Nat) (g : Op → Op) : (s.modOp k g).cur = s.cur := rfl
@[simp] theorem modOp_mem (k : Nat) (g : Op → Op) : (s.modOp k g).mem = s.mem := rfl
@[simp] theorem modOp_memMark (k : Nat) (g : Op → Op) : (s.modOp k g).memMark = s.memMark := rfl
@[simp] theorem modOp_backed (k : Nat) (g : Op → Op) : (s.modOp k g).backed = s.backed := rfl
@[simp] theorem modOp_lines (k : Nat) (g : Op → Op) : (s.modOp k g).lines = s.lines := rfl
@[simp] theorem modOp_furrows (k : Nat) (g : Op → Op) : (s.modOp k g).furrows = s.furrows := rfl
@[simp] theorem modOp_plots (k : Nat) (g : Op → Op) : (s.modOp k g).plots = s.plots := rfl
@[simp] theorem modOp_crofts (k : Nat) (g : Op → Op) : (s.modOp k g).crofts = s.crofts := rfl
@[simp] theorem modOp_launches (k : Nat) (g : Op → Op) : (s.modOp k g).launches = s.launches := rfl
@[simp] theorem modOp_nextId (k : Nat) (g : Op → Op) : (s.modOp k g).nextId = s.nextId := rfl
@[simp] theorem modOp_cores (k : Nat) (g : Op → Op) : (s.modOp k g).cores = s.cores := rfl
@[simp] theorem modOp_clusters (k : Nat) (g : Op → Op) : (s.modOp k g).clusters = s.clusters := rfl
@[simp] theorem modOp_dies (k : Nat) (g : Op → Op) : (s.modOp k g).dies = s.dies := rfl
@[simp] theorem modOp_ctxs (k : Nat) (g : Op → Op) : (s.modOp k g).ctxs = s.ctxs := rfl
@[simp] theorem modOp_queues (k : Nat) (g : Op → Op) : (s.modOp k g).queues = s.queues := rfl
@[simp] theorem modOp_dq (k : Nat) (g : Op → Op) : (s.modOp k g).dq = s.dq := rfl
@[simp] theorem modOp_pkg (k : Nat) (g : Op → Op) : (s.modOp k g).pkg = s.pkg := rfl
@[simp] theorem modOp_fab (k : Nat) (g : Op → Op) : (s.modOp k g).fab = s.fab := rfl

@[simp] theorem setS_agenda (d : BitVec 7) (x : Word) : (setS s d x).agenda = s.agenda := rfl
@[simp] theorem setS_upsets (d : BitVec 7) (x : Word) : (setS s d x).upsets = s.upsets := rfl
@[simp] theorem setS_tick (d : BitVec 7) (x : Word) : (setS s d x).tick = s.tick := rfl
@[simp] theorem setS_iss (d : BitVec 7) (x : Word) : (setS s d x).iss = s.iss := rfl
@[simp] theorem setS_held (d : BitVec 7) (x : Word) : (setS s d x).held = s.held := rfl
@[simp] theorem setS_pre (d : BitVec 7) (x : Word) : (setS s d x).pre = s.pre := rfl
@[simp] theorem setS_mem (d : BitVec 7) (x : Word) : (setS s d x).mem = s.mem := rfl
@[simp] theorem setS_memMark (d : BitVec 7) (x : Word) : (setS s d x).memMark = s.memMark := rfl
@[simp] theorem setS_backed (d : BitVec 7) (x : Word) : (setS s d x).backed = s.backed := rfl
@[simp] theorem setS_lines (d : BitVec 7) (x : Word) : (setS s d x).lines = s.lines := rfl
@[simp] theorem setS_furrows (d : BitVec 7) (x : Word) : (setS s d x).furrows = s.furrows := rfl
@[simp] theorem setS_plots (d : BitVec 7) (x : Word) : (setS s d x).plots = s.plots := rfl
@[simp] theorem setS_crofts (d : BitVec 7) (x : Word) : (setS s d x).crofts = s.crofts := rfl
@[simp] theorem setS_launches (d : BitVec 7) (x : Word) : (setS s d x).launches = s.launches := rfl
@[simp] theorem setS_ops (d : BitVec 7) (x : Word) : (setS s d x).ops = s.ops := rfl
@[simp] theorem setS_nextId (d : BitVec 7) (x : Word) : (setS s d x).nextId = s.nextId := rfl
@[simp] theorem setS_cores (d : BitVec 7) (x : Word) : (setS s d x).cores = s.cores := rfl
@[simp] theorem setS_clusters (d : BitVec 7) (x : Word) : (setS s d x).clusters = s.clusters := rfl
@[simp] theorem setS_dies (d : BitVec 7) (x : Word) : (setS s d x).dies = s.dies := rfl
@[simp] theorem setS_ctxs (d : BitVec 7) (x : Word) : (setS s d x).ctxs = s.ctxs := rfl
@[simp] theorem setS_queues (d : BitVec 7) (x : Word) : (setS s d x).queues = s.queues := rfl
@[simp] theorem setS_dq (d : BitVec 7) (x : Word) : (setS s d x).dq = s.dq := rfl
@[simp] theorem setS_pkg (d : BitVec 7) (x : Word) : (setS s d x).pkg = s.pkg := rfl
@[simp] theorem setS_fab (d : BitVec 7) (x : Word) : (setS s d x).fab = s.fab := rfl

@[simp] theorem setCtl_agenda (c : Ctl) : (setCtl s c).agenda = s.agenda := rfl
@[simp] theorem setCtl_upsets (c : Ctl) : (setCtl s c).upsets = s.upsets := rfl
@[simp] theorem setCtl_tick (c : Ctl) : (setCtl s c).tick = s.tick := rfl
@[simp] theorem setCtl_held (c : Ctl) : (setCtl s c).held = s.held := rfl
@[simp] theorem setCtl_pre (c : Ctl) : (setCtl s c).pre = s.pre := rfl
@[simp] theorem setCtl_cur (c : Ctl) : (setCtl s c).cur = s.cur := rfl
@[simp] theorem setCtl_mem (c : Ctl) : (setCtl s c).mem = s.mem := rfl
@[simp] theorem setCtl_memMark (c : Ctl) : (setCtl s c).memMark = s.memMark := rfl
@[simp] theorem setCtl_backed (c : Ctl) : (setCtl s c).backed = s.backed := rfl
@[simp] theorem setCtl_lines (c : Ctl) : (setCtl s c).lines = s.lines := rfl
@[simp] theorem setCtl_furrows (c : Ctl) : (setCtl s c).furrows = s.furrows := rfl
@[simp] theorem setCtl_plots (c : Ctl) : (setCtl s c).plots = s.plots := rfl
@[simp] theorem setCtl_crofts (c : Ctl) : (setCtl s c).crofts = s.crofts := rfl
@[simp] theorem setCtl_launches (c : Ctl) : (setCtl s c).launches = s.launches := rfl
@[simp] theorem setCtl_ops (c : Ctl) : (setCtl s c).ops = s.ops := rfl
@[simp] theorem setCtl_nextId (c : Ctl) : (setCtl s c).nextId = s.nextId := rfl
@[simp] theorem setCtl_cores (c : Ctl) : (setCtl s c).cores = s.cores := rfl
@[simp] theorem setCtl_clusters (c : Ctl) : (setCtl s c).clusters = s.clusters := rfl
@[simp] theorem setCtl_dies (c : Ctl) : (setCtl s c).dies = s.dies := rfl
@[simp] theorem setCtl_ctxs (c : Ctl) : (setCtl s c).ctxs = s.ctxs := rfl
@[simp] theorem setCtl_queues (c : Ctl) : (setCtl s c).queues = s.queues := rfl
@[simp] theorem setCtl_dq (c : Ctl) : (setCtl s c).dq = s.dq := rfl
@[simp] theorem setCtl_pkg (c : Ctl) : (setCtl s c).pkg = s.pkg := rfl
@[simp] theorem setCtl_fab (c : Ctl) : (setCtl s c).fab = s.fab := rfl

@[simp] theorem stallWait_agenda : (stallWait s).agenda = s.agenda := rfl
@[simp] theorem stallWait_upsets : (stallWait s).upsets = s.upsets := rfl
@[simp] theorem stallWait_tick : (stallWait s).tick = s.tick := rfl
@[simp] theorem stallWait_held : (stallWait s).held = s.held := rfl
@[simp] theorem stallWait_pre : (stallWait s).pre = s.pre := rfl
@[simp] theorem stallWait_cur : (stallWait s).cur = s.cur := rfl
@[simp] theorem stallWait_mem : (stallWait s).mem = s.mem := rfl
@[simp] theorem stallWait_memMark : (stallWait s).memMark = s.memMark := rfl
@[simp] theorem stallWait_backed : (stallWait s).backed = s.backed := rfl
@[simp] theorem stallWait_lines : (stallWait s).lines = s.lines := rfl
@[simp] theorem stallWait_furrows : (stallWait s).furrows = s.furrows := rfl
@[simp] theorem stallWait_plots : (stallWait s).plots = s.plots := rfl
@[simp] theorem stallWait_crofts : (stallWait s).crofts = s.crofts := rfl
@[simp] theorem stallWait_launches : (stallWait s).launches = s.launches := rfl
@[simp] theorem stallWait_ops : (stallWait s).ops = s.ops := rfl
@[simp] theorem stallWait_nextId : (stallWait s).nextId = s.nextId := rfl
@[simp] theorem stallWait_cores : (stallWait s).cores = s.cores := rfl
@[simp] theorem stallWait_clusters : (stallWait s).clusters = s.clusters := rfl
@[simp] theorem stallWait_dies : (stallWait s).dies = s.dies := rfl
@[simp] theorem stallWait_ctxs : (stallWait s).ctxs = s.ctxs := rfl
@[simp] theorem stallWait_queues : (stallWait s).queues = s.queues := rfl
@[simp] theorem stallWait_dq : (stallWait s).dq = s.dq := rfl
@[simp] theorem stallWait_pkg : (stallWait s).pkg = s.pkg := rfl
@[simp] theorem stallWait_fab : (stallWait s).fab = s.fab := rfl

@[simp] theorem stallHold_agenda : (stallHold s).agenda = s.agenda := rfl
@[simp] theorem stallHold_upsets : (stallHold s).upsets = s.upsets := rfl
@[simp] theorem stallHold_tick : (stallHold s).tick = s.tick := rfl
@[simp] theorem stallHold_held : (stallHold s).held = s.held := rfl
@[simp] theorem stallHold_pre : (stallHold s).pre = s.pre := rfl
@[simp] theorem stallHold_cur : (stallHold s).cur = s.cur := rfl
@[simp] theorem stallHold_mem : (stallHold s).mem = s.mem := rfl
@[simp] theorem stallHold_memMark : (stallHold s).memMark = s.memMark := rfl
@[simp] theorem stallHold_backed : (stallHold s).backed = s.backed := rfl
@[simp] theorem stallHold_lines : (stallHold s).lines = s.lines := rfl
@[simp] theorem stallHold_furrows : (stallHold s).furrows = s.furrows := rfl
@[simp] theorem stallHold_plots : (stallHold s).plots = s.plots := rfl
@[simp] theorem stallHold_crofts : (stallHold s).crofts = s.crofts := rfl
@[simp] theorem stallHold_launches : (stallHold s).launches = s.launches := rfl
@[simp] theorem stallHold_ops : (stallHold s).ops = s.ops := rfl
@[simp] theorem stallHold_nextId : (stallHold s).nextId = s.nextId := rfl
@[simp] theorem stallHold_cores : (stallHold s).cores = s.cores := rfl
@[simp] theorem stallHold_clusters : (stallHold s).clusters = s.clusters := rfl
@[simp] theorem stallHold_dies : (stallHold s).dies = s.dies := rfl
@[simp] theorem stallHold_ctxs : (stallHold s).ctxs = s.ctxs := rfl
@[simp] theorem stallHold_queues : (stallHold s).queues = s.queues := rfl
@[simp] theorem stallHold_dq : (stallHold s).dq = s.dq := rfl
@[simp] theorem stallHold_pkg : (stallHold s).pkg = s.pkg := rfl
@[simp] theorem stallHold_fab : (stallHold s).fab = s.fab := rfl

@[simp] theorem parkEntry_agenda (w : Wait) : (parkEntry s w).agenda = s.agenda := rfl
@[simp] theorem parkEntry_upsets (w : Wait) : (parkEntry s w).upsets = s.upsets := rfl
@[simp] theorem parkEntry_tick (w : Wait) : (parkEntry s w).tick = s.tick := rfl
@[simp] theorem parkEntry_held (w : Wait) : (parkEntry s w).held = s.held := rfl
@[simp] theorem parkEntry_pre (w : Wait) : (parkEntry s w).pre = s.pre := rfl
@[simp] theorem parkEntry_cur (w : Wait) : (parkEntry s w).cur = s.cur := rfl
@[simp] theorem parkEntry_mem (w : Wait) : (parkEntry s w).mem = s.mem := rfl
@[simp] theorem parkEntry_memMark (w : Wait) : (parkEntry s w).memMark = s.memMark := rfl
@[simp] theorem parkEntry_backed (w : Wait) : (parkEntry s w).backed = s.backed := rfl
@[simp] theorem parkEntry_lines (w : Wait) : (parkEntry s w).lines = s.lines := rfl
@[simp] theorem parkEntry_furrows (w : Wait) : (parkEntry s w).furrows = s.furrows := rfl
@[simp] theorem parkEntry_plots (w : Wait) : (parkEntry s w).plots = s.plots := rfl
@[simp] theorem parkEntry_crofts (w : Wait) : (parkEntry s w).crofts = s.crofts := rfl
@[simp] theorem parkEntry_launches (w : Wait) : (parkEntry s w).launches = s.launches := rfl
@[simp] theorem parkEntry_ops (w : Wait) : (parkEntry s w).ops = s.ops := rfl
@[simp] theorem parkEntry_nextId (w : Wait) : (parkEntry s w).nextId = s.nextId := rfl
@[simp] theorem parkEntry_cores (w : Wait) : (parkEntry s w).cores = s.cores := rfl
@[simp] theorem parkEntry_clusters (w : Wait) : (parkEntry s w).clusters = s.clusters := rfl
@[simp] theorem parkEntry_dies (w : Wait) : (parkEntry s w).dies = s.dies := rfl
@[simp] theorem parkEntry_ctxs (w : Wait) : (parkEntry s w).ctxs = s.ctxs := rfl
@[simp] theorem parkEntry_queues (w : Wait) : (parkEntry s w).queues = s.queues := rfl
@[simp] theorem parkEntry_dq (w : Wait) : (parkEntry s w).dq = s.dq := rfl
@[simp] theorem parkEntry_pkg (w : Wait) : (parkEntry s w).pkg = s.pkg := rfl
@[simp] theorem parkEntry_fab (w : Wait) : (parkEntry s w).fab = s.fab := rfl

@[simp] theorem fresh_fst : s.fresh.1 = s.nextId := rfl
@[simp] theorem fresh_snd : s.fresh.2 = { s with nextId := s.nextId + 1 } := rfl
@[simp] theorem draw_fst : s.draw.1 = Config.pick s.tick := rfl
@[simp] theorem draw_snd : s.draw.2 = { s with tick := s.tick + 1 } := rfl
@[simp] theorem setS_cur (d : BitVec 7) (x : Word) : (setS s d x).cur = s.cur.sset d.toNat x := rfl
@[simp] theorem setCtl_ctl (c : Ctl) : (setCtl s c).iss.ctl = c := rfl
@[simp] theorem stallWait_stall : (stallWait s).iss.stall = .wait := rfl
@[simp] theorem stallHold_stall : (stallHold s).iss.stall = .hold := rfl
@[simp] theorem modOp_ops (k : Nat) (g : Op → Op) : (s.modOp k g).ops = s.ops.map fun o => if o.id = k then g o else o := rfl

end Sys2Proof.Machine
end

