-- ==== Sys2Proof/Laws/Table.lean ====
section
/-! SUPPORT. Laws of sparse tables: read after write at every key, and the canonical form. None needs the table to be sorted. -/

namespace Sys2Proof.Machine

variable {α : Type}

theorem tfind_tput (m : NMap α) (k j : Nat) (v : α) : tfind (tput m k v) j = if k = j then some v else tfind m j := by
  induction m with
  | nil => simp [tput, tfind]
  | cons x m ih =>
    obtain ⟨i, y⟩ := x
    simp only [tput]
    split
    · subst_vars; simp only [tfind]; split <;> rfl
    · split
      · simp only [tfind]
      · simp only [tfind, ih]; split
        · subst_vars; rw [if_neg (by omega)]
        · rfl

theorem tfind_terase (m : NMap α) (k j : Nat) : tfind (terase m k) j = if k = j then none else tfind m j := by
  induction m with
  | nil => simp [terase, tfind]
  | cons x m ih =>
    obtain ⟨i, y⟩ := x
    simp only [terase]
    split
    · subst_vars; rw [ih]; simp only [tfind]; split <;> rfl
    · simp only [tfind, ih]; split
      · subst_vars; rw [if_neg (by omega)]
      · rfl

theorem tfind_tmod (m : NMap α) (k j : Nat) (f : α → α) :
    tfind (tmod m k f) j = if k = j then (tfind m j).map f else tfind m j := by
  induction m with
  | nil => simp [tmod, tfind]
  | cons x m ih =>
    obtain ⟨i, y⟩ := x
    simp only [tmod]
    split
    · subst_vars; simp only [tfind]; split <;> simp_all
    · simp only [tfind, ih]; split
      · subst_vars; rw [if_neg (by omega)]
      · rfl

theorem tget_tput (m : NMap α) (k j : Nat) (v d : α) : tget (tput m k v) j d = if k = j then v else tget m j d := by
  simp only [tget, tfind_tput]; split <;> rfl

/-- Reading any key after a write. -/
theorem tget_tset [DecidableEq α] (m : NMap α) (k j : Nat) (d v : α) : tget (tset m k d v) j d = if k = j then v else tget m j d := by
  unfold tset
  split
  · subst_vars; simp only [tget, tfind_terase]; split <;> rfl
  · exact tget_tput m k j v d

/-! ### The canonical form -/

theorem tsorted_tail {x : Nat × α} {m : NMap α} (h : tsorted (x :: m) = true) : tsorted m = true := by
  cases m with
  | nil => rfl
  | cons y m => obtain ⟨i, a⟩ := x; obtain ⟨j, b⟩ := y; simp only [tsorted, Bool.and_eq_true] at h; exact h.2

/-- Sorted: the head's key is below every key of the tail. -/
theorem tsorted_cons {x : Nat × α} {m : NMap α} : tsorted (x :: m) = true ↔ (∀ y ∈ m, x.1 < y.1) ∧ tsorted m = true := by
  induction m generalizing x with
  | nil => simp [tsorted]
  | cons z m ih =>
    obtain ⟨i, a⟩ := x; obtain ⟨j, b⟩ := z
    simp only [tsorted, Bool.and_eq_true, decide_eq_true_eq, List.mem_cons, forall_eq_or_imp]
    constructor
    · rintro ⟨h1, h2⟩
      exact ⟨⟨h1, fun y hy => Nat.lt_trans h1 ((ih.1 h2).1 y hy)⟩, h2⟩
    · rintro ⟨⟨h1, _⟩, h2⟩
      exact ⟨h1, h2⟩

theorem mem_tput {m : NMap α} {k : Nat} {v : α} {y : Nat × α} (h : y ∈ tput m k v) : y = (k, v) ∨ y ∈ m := by
  induction m with
  | nil => simpa [tput] using h
  | cons x m ih =>
    obtain ⟨j, a⟩ := x
    simp only [tput] at h
    split at h
    · rcases List.mem_cons.1 h with h | h
      · exact .inl h
      · exact .inr (List.mem_cons_of_mem _ h)
    · split at h
      · rcases List.mem_cons.1 h with h | h
        · exact .inl h
        · exact .inr h
      · rcases List.mem_cons.1 h with h | h
        · exact .inr (h ▸ List.mem_cons_self)
        · exact (ih h).imp id (List.mem_cons_of_mem _)

theorem mem_terase {m : NMap α} {k : Nat} {y : Nat × α} (h : y ∈ terase m k) : y ∈ m := by
  induction m with
  | nil => simpa [terase] using h
  | cons x m ih =>
    obtain ⟨j, a⟩ := x
    simp only [terase] at h
    split at h
    · exact List.mem_cons_of_mem _ (ih h)
    · rcases List.mem_cons.1 h with h | h
      · exact h ▸ List.mem_cons_self
      · exact List.mem_cons_of_mem _ (ih h)

theorem tsorted_tput {m : NMap α} (k : Nat) (v : α) (h : tsorted m = true) : tsorted (tput m k v) = true := by
  induction m with
  | nil => rfl
  | cons x m ih =>
    obtain ⟨j, a⟩ := x
    have hc := tsorted_cons.1 h
    simp only [tput]
    split
    · subst_vars; exact tsorted_cons.2 hc
    · split
      · rename_i h1 h2
        refine tsorted_cons.2 ⟨fun y hy => ?_, h⟩
        rcases List.mem_cons.1 hy with hy | hy
        · subst hy; exact h2
        · exact Nat.lt_trans h2 (hc.1 y hy)
      · rename_i h1 h2
        refine tsorted_cons.2 ⟨fun y hy => ?_, ih hc.2⟩
        rcases mem_tput hy with hy | hy
        · subst hy; simp only; omega
        · exact hc.1 y hy

theorem tsorted_terase {m : NMap α} (k : Nat) (h : tsorted m = true) : tsorted (terase m k) = true := by
  induction m with
  | nil => rfl
  | cons x m ih =>
    obtain ⟨j, a⟩ := x
    have hc := tsorted_cons.1 h
    simp only [terase]
    split
    · exact ih hc.2
    · exact tsorted_cons.2 ⟨fun y hy => hc.1 y (mem_terase hy), ih hc.2⟩

theorem tsorted_filter {m : NMap α} (p : Nat × α → Bool) (h : tsorted m = true) : tsorted (m.filter p) = true := by
  induction m with
  | nil => rfl
  | cons x m ih =>
    have hc := tsorted_cons.1 h
    simp only [List.filter_cons]
    split
    · exact tsorted_cons.2 ⟨fun y hy => hc.1 y (List.mem_of_mem_filter hy), ih hc.2⟩
    · exact ih hc.2

variable [DecidableEq α]

/-- A write keeps the canonical form. -/
theorem tcanon_tset {m : NMap α} {d : α} (k : Nat) (v : α) (h : tcanon m d = true) : tcanon (tset m k d v) d = true := by
  simp only [tcanon, Bool.and_eq_true, List.all_eq_true, decide_eq_true_eq] at h ⊢
  unfold tset
  split
  · exact ⟨tsorted_terase k h.1, fun y hy => h.2 y (mem_terase hy)⟩
  · rename_i hv
    refine ⟨tsorted_tput k v h.1, fun y hy => ?_⟩
    rcases mem_tput hy with hy | hy
    · subst hy; exact hv
    · exact h.2 y hy

/-- Entries may be left out of a table in canonical form. -/
theorem tcanon_filter {m : NMap α} {d : α} (p : Nat × α → Bool) (h : tcanon m d = true) : tcanon (m.filter p) d = true := by
  simp only [tcanon, Bool.and_eq_true, List.all_eq_true] at h ⊢
  exact ⟨tsorted_filter p h.1, fun y hy => h.2 y (List.mem_of_mem_filter hy)⟩

end Sys2Proof.Machine
end

