-- ==== Sys2Proof/Laws/Homes.lean ====
section
/-! SUPPORT. What reads, writes and records at homes leave alone, and that every write to memory keeps its canonical form. -/

namespace Sys2Proof.Machine

/-! ### Memory -/

/-- Reading any byte after a write of one. -/
theorem readByte_writeByte (m : Memory) (k j : Nat) (b : Byte) :
    readByte (writeByte m k b) j = if k = j then b else readByte m j := tget_tset m k j 0 b

/-- Reading any byte after a write of several. -/
theorem readByte_writeBytes (m : Memory) (k j : Nat) (bs : List Byte) :
    readByte (writeBytes m k bs) j = if k ≤ j ∧ j < k + bs.length then nth bs (j - k) 0 else readByte m j := by
  induction bs generalizing m k with
  | nil => simp only [writeBytes, List.length_nil, Nat.add_zero]; rw [if_neg (by omega)]
  | cons b bs ih =>
    simp only [writeBytes, ih, readByte_writeByte, List.length_cons]
    by_cases h : k = j
    · subst h
      rw [if_neg (by omega), if_pos rfl, if_pos (by omega)]
      simp [nth]
    · by_cases h2 : k + 1 ≤ j ∧ j < k + 1 + bs.length
      · rw [if_pos h2, if_pos (by omega)]
        obtain ⟨i, rfl⟩ : ∃ i, j = k + 1 + i := ⟨j - (k + 1), by omega⟩
        simp only [nth, show k + 1 + i - (k + 1) = i by omega, show k + 1 + i - k = i + 1 by omega, List.getElem?_cons_succ]
      · rw [if_neg h2, if_neg h, if_neg (by omega)]

/-- A write of a byte keeps memory canonical. -/
theorem wf_writeByte {m : Memory} (k : Nat) (b : Byte) (h : Memory.wf m = true) : Memory.wf (writeByte m k b) = true := tcanon_tset k b h

/-- A write of several bytes keeps memory canonical. -/
theorem wf_writeBytes {m : Memory} (k : Nat) (bs : List Byte) (h : Memory.wf m = true) : Memory.wf (writeBytes m k bs) = true := by
  induction bs generalizing m k with
  | nil => exact h
  | cons b bs ih => exact ih _ (wf_writeByte k b h)

/-- Bytes may be left out of a canonical memory. -/
theorem wf_filter {m : Memory} (p : Host.Cell → Bool) (h : Memory.wf m = true) : Memory.wf (m.filter p) = true := tcanon_filter p h

/-! ### What homes change -/

/-- Only memory, its marks and stamps, the cores' copies and logs, the waiters and the package's records differ. -/
def OnlyHomes (s t : State) : Prop :=
  t = { s with mem := t.mem, memMark := t.memMark, backed := t.backed, lines := t.lines, cores := t.cores, ops := t.ops, pkg := t.pkg, tick := t.tick }

theorem OnlyHomes.refl (s : State) : OnlyHomes s s := rfl

theorem OnlyHomes.trans {a b c : State} (h : OnlyHomes a b) (k : OnlyHomes b c) : OnlyHomes a c := by
  unfold OnlyHomes at h k ⊢
  rw [h] at k
  exact k

/-- Homes leave a field alone that is not among theirs. -/
theorem OnlyHomes.pre {s t : State} (h : OnlyHomes s t) : t.pre = s.pre := by rw [h]
theorem OnlyHomes.iss {s t : State} (h : OnlyHomes s t) : t.iss = s.iss := by rw [h]
theorem OnlyHomes.cur {s t : State} (h : OnlyHomes s t) : t.cur = s.cur := by rw [h]
theorem OnlyHomes.furrows {s t : State} (h : OnlyHomes s t) : t.furrows = s.furrows := by rw [h]
theorem OnlyHomes.plots {s t : State} (h : OnlyHomes s t) : t.plots = s.plots := by rw [h]
theorem OnlyHomes.queues {s t : State} (h : OnlyHomes s t) : t.queues = s.queues := by rw [h]

/-- A step of the homes that keeps memory canonical. -/
def HomeStep (s t : State) : Prop := OnlyHomes s t ∧ (Memory.wf s.mem = true → Memory.wf t.mem = true)

theorem HomeStep.refl (s : State) : HomeStep s s := ⟨rfl, id⟩
theorem HomeStep.trans {a b c : State} (h : HomeStep a b) (k : HomeStep b c) : HomeStep a c := ⟨h.1.trans k.1, k.2 ∘ h.2⟩

/-- A fold of home steps is one. -/
theorem HomeStep.foldl {γ : Type} (f : State → γ → State) (l : List γ) (hf : ∀ s x, HomeStep s (f s x)) (s : State) :
    HomeStep s (l.foldl f s) := by
  induction l generalizing s with
  | nil => exact .refl s
  | cons x l ih => exact (hf s x).trans (ih _)

theorem homeStep_modCore (s : State) (k : Nat) (g : Core → Core) : HomeStep s (s.modCore k g) := ⟨rfl, id⟩

theorem homeStep_dropCopies (s : State) (cs : List Nat) (line : Nat) : HomeStep s (dropCopies s cs line) := by
  unfold dropCopies
  refine HomeStep.foldl _ _ (fun s c => ?_) s
  split
  · exact homeStep_modCore ..
  · exact .refl s

theorem homeStep_dropOlder (s : State) (c : Option Nat) (line : Nat) (w : BitVec 48) : HomeStep s (dropOlder s c line w) := by
  unfold dropOlder
  split
  · exact .refl s
  · refine HomeStep.foldl _ _ (fun s k => ?_) s
    dsimp only
    split
    · exact homeStep_modCore ..
    · exact .refl s

theorem homeStep_stampWrite (s : State) (k : Nat) (pts : BitVec 48) : HomeStep s (stampWrite s k pts).2 := by
  unfold stampWrite
  split
  · exact ⟨rfl, id⟩
  · exact .refl s

theorem homeStep_stampRead (s : State) (k : Nat) (pts : BitVec 48) : HomeStep s (stampRead s k pts).2 := by
  unfold stampRead
  split
  · exact ⟨rfl, id⟩
  · exact .refl s

theorem homeStep_putBytes (s : State) (k : Nat) (bs : List Byte) : HomeStep s (putBytes s k bs) := ⟨rfl, wf_writeBytes k bs⟩

theorem homeStep_recallLine (s : State) (line : Nat) : HomeStep s (recallLine s line) := by
  unfold recallLine
  split
  · exact .refl s
  · split
    · exact ⟨rfl, id⟩
    · exact ⟨rfl, wf_writeBytes _ _⟩

/-- The same of a fold that carries a value with the state. -/
theorem HomeStep.foldPair {β γ : Type} (f : β × State → γ → β × State) (l : List γ) (hf : ∀ st x, HomeStep st.2 (f st x).2)
    (st : β × State) : HomeStep st.2 (l.foldl f st).2 := by
  induction l generalizing st with
  | nil => exact .refl _
  | cons x l ih => exact (hf st x).trans (ih _)

/-- A write to one line by a unit that is no L1. -/
theorem homeStep_agentWriteLine (s : State) (c : Option Nat) (pts : BitVec 48) (k : Nat) (bs : List Byte) :
    HomeStep s (agentWriteLine s c pts k bs).2 := by
  have h1 := homeStep_recallLine s (lineOf k)
  have h2 : ∀ s : State, HomeStep s (match c with
      | some c => if stamped k then dropCopies s ((upto 4).map (4 * c + ·)) (lineOf k) else s
      | none => s) := by
    intro s
    split
    · split
      · exact homeStep_dropCopies ..
      · exact .refl s
    · exact .refl s
  exact ((h1.trans (h2 _)).trans (homeStep_stampWrite _ k pts)).trans (homeStep_putBytes ..)

/-- A write by an engine, a front end or the host. -/
theorem homeStep_agentWrite (s : State) (c : Option Nat) (pts : BitVec 48) (k : Nat) (bs : List Byte) :
    HomeStep s (agentWrite s c pts k bs).2 := by
  unfold agentWrite
  refine HomeStep.foldPair _ _ (fun st p => ?_) (0, s)
  exact homeStep_agentWriteLine st.2 c pts p.1 _

theorem homeStep_pkg (s : State) (p : Pkg) : HomeStep s { s with pkg := p } := ⟨rfl, id⟩
theorem homeStep_tick (s : State) (n : Nat) : HomeStep s { s with tick := n } := ⟨rfl, id⟩

theorem homeStep_hostEvent (s : State) (kind unit data : Nat) : HomeStep s (hostEvent s kind unit data) := homeStep_pkg s _

theorem homeStep_hostEventOpen (s : State) (kind unit : Nat) : HomeStep s (hostEventOpen s kind unit) :=
  (homeStep_tick s (s.tick + 4)).trans (homeStep_hostEvent ..)

/-- A RAS counter raised. -/
theorem homeStep_rasCount (s : State) (unit : Nat) : HomeStep s (rasCount s unit) := by
  unfold rasCount
  dsimp only
  generalize (if tget s.pkg.ras unit 0 = 0xFFFFFFFF then _ else _ : Word) = n
  split
  · split
    · exact ((homeStep_pkg s _).trans (homeStep_hostEventOpen ..)).trans (homeStep_hostEventOpen ..)
    · exact (homeStep_pkg s _).trans (homeStep_hostEventOpen ..)
  · exact homeStep_pkg s _

/-- A core's log takes an entry. -/
theorem homeStep_logError (s : State) (core : Nat) (e : Dword) : HomeStep s (logError s core e) := by
  unfold logError cycleNow
  dsimp only
  exact ((homeStep_tick s (s.tick + 1)).trans (homeStep_modCore ..)).trans (homeStep_modCore ..)

/-- An error of a memory word logged. -/
theorem homeStep_logMemory (s : State) (k : Nat) (cons : Bool) : HomeStep s (logMemory s k cons) := by
  have put : ∀ core e unit, HomeStep s (rasCount (logError s core e) unit) := fun core e unit =>
    (homeStep_logError s core e).trans (homeStep_rasCount ..)
  unfold logMemory
  generalize (if cons then (0x800000000000 : Dword) else 0) = c
  dsimp only
  repeat' split
  · exact .refl s
  · exact homeStep_rasCount ..
  · exact homeStep_rasCount ..
  · exact put ..
  · exact put ..
  · exact put ..

/-- The errors that a read detects. -/
theorem homeStep_detect (s : State) (k n : Nat) : HomeStep s (detect s k n) :=
  HomeStep.foldl _ _ (fun s w =>
    (show HomeStep s { s with memMark := tset s.memMark w .clean .poisoned } from ⟨rfl, id⟩).trans (homeStep_logMemory ..)) s

/-- A read of words without an error not found before detects nothing. -/
theorem detect_of_clean {s : State} {k n : Nat} (h : ∀ w, k / 4 ≤ w → w < k / 4 + (k % 4 + n + 3) / 4 → tget s.memMark w .clean ≠ .uncorrectable) :
    detect s k n = s := by
  have hl : latentWords s k n = [] := by
    unfold latentWords
    split
    · rfl
    · rw [List.filter_eq_nil_iff]
      intro w hw
      simp only [List.mem_map, upto, List.mem_range] at hw
      obtain ⟨i, hi, rfl⟩ := hw
      simpa using h (k / 4 + i) (by omega) (by omega)
  simp [detect, hl]

/-- Only the marks of memory words, the cores' logs, the counters and their records differ; the L1s hold what they held. -/
def Detects (s t : State) : Prop :=
  t = { s with memMark := t.memMark, cores := t.cores, pkg := t.pkg, tick := t.tick } ∧ ∀ c, (t.core c).l1 = (s.core c).l1

theorem Detects.refl (s : State) : Detects s s := ⟨rfl, fun _ => rfl⟩

theorem Detects.trans {a b c : State} (h : Detects a b) (k : Detects b c) : Detects a c := by
  obtain ⟨h, h'⟩ := h
  obtain ⟨k, k'⟩ := k
  refine ⟨?_, fun n => (k' n).trans (h' n)⟩
  rw [h] at k
  exact k

theorem detects_modCore (s : State) (k : Nat) (g : Core → Core) (hg : ∀ x, (g x).l1 = x.l1) : Detects s (s.modCore k g) := by
  refine ⟨rfl, fun c => ?_⟩
  simp only [State.core, State.modCore, tget_tput]
  split
  · subst_vars; exact hg _
  · rfl

theorem detects_rasCount (s : State) (unit : Nat) : Detects s (rasCount s unit) := by
  have ev : ∀ (s : State) k u, Detects s (hostEventOpen s k u) := fun _ _ _ => ⟨rfl, fun _ => rfl⟩
  have pk : ∀ (s : State) p, Detects s { s with pkg := p } := fun _ _ => ⟨rfl, fun _ => rfl⟩
  unfold rasCount
  dsimp only
  generalize (if tget s.pkg.ras unit 0 = 0xFFFFFFFF then _ else _ : Word) = n
  split
  · split
    · exact ((pk s _).trans (ev ..)).trans (ev ..)
    · exact (pk s _).trans (ev ..)
  · exact pk s _

theorem detects_logMemory (s : State) (k : Nat) (cons : Bool) : Detects s (logMemory s k cons) := by
  have log : ∀ core e, Detects s (logError s core e) := by
    intro core e
    have t : Detects s { s with tick := s.tick + 1 } := ⟨rfl, fun _ => rfl⟩
    have c : Detects s (cycleNow s core).2 := by
      unfold cycleNow
      dsimp only
      refine t.trans (detects_modCore _ core _ ?_)
      intro _
      rfl
    unfold logError
    generalize cycleNow s core = r at c
    refine c.trans (detects_modCore _ core _ ?_)
    intro x
    split <;> rfl
  have put : ∀ core e unit, Detects s (rasCount (logError s core e) unit) := fun core e unit => (log core e).trans (detects_rasCount ..)
  unfold logMemory
  generalize (if cons then (0x800000000000 : Dword) else 0) = c
  dsimp only
  repeat' split
  · exact .refl s
  · exact detects_rasCount ..
  · exact detects_rasCount ..
  · exact put ..
  · exact put ..
  · exact put ..

/-- What a read that detects errors changes. -/
theorem detects_detect (s : State) (k n : Nat) : Detects s (detect s k n) := by
  unfold detect
  generalize latentWords s k n = l
  induction l generalizing s with
  | nil => exact .refl s
  | cons w l ih =>
    have m : Detects s { s with memMark := tset s.memMark w .clean .poisoned } := ⟨rfl, fun _ => rfl⟩
    exact (m.trans (detects_logMemory ..)).trans (ih _)

/-- A read's detection leaves memory as it is. -/
@[simp] theorem detect_mem (s : State) (k n : Nat) : (detect s k n).mem = s.mem := by rw [(detects_detect s k n).1]

/-- A read's detection does not change what a recall brings home. -/
theorem recallLine_detect_mem (s : State) (k n line : Nat) : (recallLine (detect s k n) line).mem = (recallLine s line).mem := by
  have h := detects_detect s k n
  have hl : (detect s k n).lines = s.lines := by rw [h.1]
  unfold recallLine
  rw [hl]
  split
  · exact detect_mem ..
  · rw [h.2]
    split
    · exact detect_mem ..
    · simp only [touchWaiters, detect_mem]

/-- The table entries that a walk reads. -/
theorem homeStep_walkReads (s : State) (die ctx va : Nat) : HomeStep s (walkReads s die ctx va) :=
  HomeStep.foldl _ _ (fun s k => homeStep_detect s k 8) s

/-- A read by an engine, a front end or the host. -/
theorem homeStep_agentRead (s : State) (c : Option Nat) (k n : Nat) (pts : BitVec 48) : HomeStep s (agentRead s c k n pts).2.2 := by
  unfold agentRead agentStamp
  refine (homeStep_detect s k n).trans ?_
  refine HomeStep.foldPair (fun (st : BitVec 48 × State) (p : Nat × Nat) =>
    let r := stampRead (recallLine st.2 (lineOf p.1)) p.1 pts
    ((smax st.1 r.1.wts, dropOlder r.2 c (lineOf p.1) r.1.wts) : BitVec 48 × State)) _ (fun st p => ?_) (0, detect s k n)
  exact ((homeStep_recallLine st.2 (lineOf p.1)).trans (homeStep_stampRead _ p.1 pts)).trans (homeStep_dropOlder ..)

/-- The walker's OR into a leaf. -/
theorem homeStep_markLeaf (s : State) (k : Nat) (n : Need) : HomeStep s (markLeaf s k n) := by
  unfold markLeaf
  dsimp only
  generalize nth (latest s (k + 1) 1) 0 0 ||| (if n = Need.write then (12 : Byte) else 4) = b
  split
  · exact .refl s
  · exact homeStep_agentWrite s none 0 (k + 1) [b]

/-- A record put into a ring of the host. -/
theorem homeStep_ringPut {s t : State} {base word n : Nat} {bs : List Byte} {pts : BitVec 48}
    (h : ringPut s base word n bs pts = .done t) : HomeStep s t := by
  unfold ringPut at h
  split at h
  · cases h
  · simp only [Ring.done.injEq] at h
    subst h
    exact ((homeStep_detect s word 12).trans (homeStep_agentWrite ..)).trans (homeStep_agentWrite ..)

/-- An event record to the host. -/
theorem homeStep_writeEvent (s : State) (bs : List Byte) : HomeStep s (writeEvent s bs) := by
  unfold writeEvent
  split
  · exact homeStep_pkg s _
  · split
    · rename_i h; exact homeStep_ringPut h
    · dsimp only
      have h := homeStep_agentWrite s none 0 (s.pkg.evringw.toNat + 4) (toBytes 4 (latest32 s (s.pkg.evringw.toNat + 4) + 1).toNat)
      generalize agentWrite s none 0 (s.pkg.evringw.toNat + 4) (toBytes 4 (latest32 s (s.pkg.evringw.toNat + 4) + 1).toNat) = r at h
      exact h.trans (homeStep_pkg r.2 _)

/-- A record that becomes visible in the event ring. -/
theorem homeStep_showEvent (s : State) (i : Nat) : HomeStep s (showEvent s i) := by
  unfold showEvent
  split
  · exact .refl s
  · exact (homeStep_pkg s _).trans (homeStep_writeEvent ..)

/-- Bytes put at the places of a span. -/
theorem homeStep_putSpan (pts : BitVec 48) (l : List (Nat × Nat)) (s : State) (bs : List Byte) : HomeStep s (putSpan s pts l bs).2 := by
  induction l generalizing s bs with
  | nil => exact .refl s
  | cons x l ih => exact (homeStep_agentWrite s none pts x.1 (bs.take x.2)).trans (ih (agentWrite s none pts x.1 (bs.take x.2)).2 (bs.drop x.2))

/-! ### Translations used, and what a front end writes -/

theorem addWalks_mem (s : State) (die ctx va : Nat) : (addWalks s die ctx va).mem = s.mem := by
  unfold addWalks
  dsimp only
  split <;> rfl

/-- A used place leaves memory canonical: only the marks of its leaf differ. -/
theorem wf_usePlace (s : State) (ag : Agent) (n : Need) (p : Place) (hw : Memory.wf s.mem = true) : Memory.wf (usePlace s ag n p).mem = true := by
  have leaf : ∀ pte k base bits, Memory.wf (useLeaf s ag n pte k base bits).mem = true := by
    intro pte k base bits
    have h := (homeStep_markLeaf (addWalks (walkReads s ag.die ag.ctx base) ag.die ag.ctx base) k n).2
      (by rw [addWalks_mem]; exact (homeStep_walkReads ..).2 hw)
    unfold useLeaf
    dsimp only
    generalize markLeaf (addWalks (walkReads s ag.die ag.ctx base) ag.die ag.ctx base) k n = u at h ⊢
    split
    · split <;> exact h
    · exact h
  unfold usePlace
  split
  · exact leaf ..
  · exact leaf ..
  · exact leaf ..
  · exact hw

/-- The pages of a range marked leave memory canonical. -/
theorem wf_spanUse (ag : Agent) (need : Need) (fuel : Nat) (s : State) (va n : Nat) (hw : Memory.wf s.mem = true) :
    Memory.wf (spanUse s ag need va fuel n).mem = true := by
  induction fuel generalizing s va n with
  | zero => exact hw
  | succ fuel ih =>
    match n with
    | 0 => exact hw
    | n + 1 =>
      simp only [spanUse]
      refine ih _ _ _ ?_
      split
      · exact (homeStep_walkReads ..).2 hw
      · exact wf_usePlace _ _ _ _ hw

theorem wf_frontUse (q : Nat) (need : Need) (fuel : Nat) (s : State) (va n : Nat) (hw : Memory.wf s.mem = true) :
    Memory.wf (frontUse s q va need fuel n).mem = true := wf_spanUse _ _ _ _ _ _ hw

/-- Bytes written by a front end leave memory canonical. -/
theorem wf_frontWrite {s t : State} {q va : Nat} {bs : List Byte} (h : frontWrite s q va bs = some t) (hw : Memory.wf s.mem = true) :
    Memory.wf t.mem = true := by
  unfold frontWrite at h
  obtain ⟨l, -, rfl⟩ := Option.map_eq_some_iff.1 h
  have h1 := (homeStep_putSpan (s.die (q / 64)).pts l (frontUse s q va .write (bs.length / 65536 + 2) bs.length) bs).2 (wf_frontUse _ _ _ _ _ _ hw)
  generalize putSpan (frontUse s q va .write (bs.length / 65536 + 2) bs.length) (s.die (q / 64)).pts l bs = r at h1 ⊢
  exact h1

/-! ### Queue fault records and traps -/

/-- One attempt to write a queue fault record leaves memory canonical. -/
theorem wf_queueRecordNow {s t : State} {q : Nat} {bs : List Byte} (h : queueRecordNow s q bs = .done t)
    (hw : Memory.wf s.mem = true) : Memory.wf t.mem = true := by
  unfold queueRecordNow at h
  dsimp only at h
  split at h
  · cases h; exact hw
  · split at h
    · cases h; exact hw
    · split at h
      · cases h
      · split at h
        · cases h; exact hw
        · rename_i u hu
          cases h
          obtain ⟨v, hv, hv'⟩ := Option.bind_eq_some_iff.1 hu
          exact wf_frontWrite hv' (wf_frontWrite hv hw)

/-- A queue fault record, written, held or counted, leaves memory canonical. -/
theorem wf_queueRecord (s : State) (q : Nat) (bs : List Byte) (hw : Memory.wf s.mem = true) : Memory.wf (queueRecord s q bs).mem = true := by
  unfold queueRecord
  split
  · exact hw
  · split
    · rename_i h; exact wf_queueRecordNow h hw
    · exact hw

/-- Stopping a plot changes no memory. -/
theorem stopPlot_mem (s : State) (p : Nat) : (stopPlot s p).mem = s.mem := by
  unfold stopPlot
  dsimp only
  generalize (s.plot p).furrows = l
  induction l generalizing s with
  | nil => rfl
  | cons x l ih => exact ih _

/-- A plot fault leaves memory canonical. -/
theorem wf_plotFault (s : State) (epc : Option Word) (c : BitVec 6) (info : Word) (aux : Option Nat) (hw : Memory.wf s.mem = true) :
    Memory.wf (plotFault s epc c info aux).mem = true := by
  have h1 : Memory.wf (reportRecord s s.cur 1 (some c) epc (some info) aux).mem = true := wf_queueRecord _ _ _ hw
  unfold plotFault
  dsimp only
  split
  · exact h1
  · simpa [stopPlot_mem] using h1

/-- A trap taken leaves memory canonical. -/
theorem wf_takeTrapAt (s : State) (id : Nat) (pkt : Word) (slot : Nat) (c : BitVec 6) (info : Word) (hw : Memory.wf s.mem = true) :
    Memory.wf (takeTrapAt s id pkt slot c info).mem = true := by
  unfold takeTrapAt
  dsimp only
  split
  · exact wf_plotFault _ _ _ _ _ hw
  · exact hw

/-- A member that traps leaves memory canonical. -/
theorem wf_raise (s : State) (c : BitVec 6) (info : Word) (hw : Memory.wf s.mem = true) : Memory.wf (raise s c info).mem = true :=
  wf_takeTrapAt _ _ _ _ _ _ hw

@[simp] theorem raise_trapped (s : State) (c : BitVec 6) (info : Word) : (raise s c info).iss.trapped = true := rfl

/-- A trap that is taken, outside runtime mode with a handler inside the code, changes the working furrow alone (05 R146). -/
theorem raise_taken (s : State) (c : BitVec 6) (info : Word) (h : s.cur.rt = false) (ht : s.cur.tvec ≠ 0)
    (hc : insideCode s.cur (trapPacket s.cur.tvec c) = true) :
    raise s c info =
      { s with
        cur := ({ s.cur with epc := epcOf s.iss.pkt s.iss.slot, cause := .ofNat 32 c.toNat, info := info, rt := true, handler := s.iss.entry } :
            Furrow).modEntry s.iss.entry fun e => { e with pc := .ofNat 32 (trapPacket s.cur.tvec c), slot := 0 },
        iss := { s.iss with trapped := true } } := by
  unfold raise takeTrapAt
  dsimp only
  have ht' : ¬ s.cur.tvec = 0#32 := ht
  rw [if_neg (by simp [h, ht', hc])]

end Sys2Proof.Machine
end

