-- ==== Sys2Proof/Laws/Operands.lean ====
section
/-! SUPPORT. What the checks of a member, its register writes and its results do, said once each. -/

namespace Sys2Proof.Machine

/-! ### Registers -/

theorem vget_vset (f : Furrow) (r t q u : Nat) (x : Word) (ht : t < 64) (hu : u < 64) :
    (f.vset r t x).vget q u = if q = r ∧ u = t ∧ r ≠ 0 then x else f.vget q u := by
  unfold Furrow.vset
  split
  · subst_vars; rw [if_neg (by omega)]
  · simp only [Furrow.vget, tget_tset]
    split
    · rw [if_neg (by omega)]
    · split
      · rename_i h; rw [if_pos (by omega)]
      · rename_i h; rw [if_neg (by omega)]

theorem sget_sset (f : Furrow) (r q : Nat) (x : Word) :
    (f.sset r x).sget q = if q = r ∧ r ≠ 0 then x else f.sget q := by
  unfold Furrow.sset
  split
  · subst_vars; rw [if_neg (by omega)]
  · simp only [Furrow.sget, tget_tset]
    split
    · rw [if_neg (by omega)]
    · split
      · rw [if_pos (by omega)]
      · rw [if_neg (by omega)]

theorem vset_eq (f : Furrow) (r t : Nat) (x : Word) :
    f.vset r t x = { f with v := (f.vset r t x).v, vMark := (f.vset r t x).vMark } := by
  unfold Furrow.vset; split <;> rfl

/-- The mark of any element after a write of one. -/
theorem vMark_vset (f : Furrow) (r t q u : Nat) (x : Word) (ht : t < 64) (hu : u < 64) :
    tget (f.vset r t x).vMark (64 * q + u) .clean =
      if q = r ∧ u = t ∧ r ≠ 0 then .clean else tget f.vMark (64 * q + u) .clean := by
  unfold Furrow.vset
  split
  · subst_vars; rw [if_neg (by omega)]
  · simp only [tget_tset]
    split
    · rw [if_pos (by omega)]
    · rw [if_neg (by omega)]

/-! ### The checks of a member -/

/-! ### Elements read and not consumed (01 R34) -/

/-- Only the marks of the working furrow's registers differ, beside what homes change: the log, or a stream's RAS record. -/
def OnlyMarks (s t : State) : Prop :=
  OnlyHomes { s with cur := { s.cur with vMark := t.cur.vMark, sMark := t.cur.sMark, kMark := t.cur.kMark } } t ∧
    (Memory.wf s.mem = true → Memory.wf t.mem = true)

theorem OnlyMarks.refl (s : State) : OnlyMarks s s := ⟨rfl, id⟩

theorem OnlyMarks.trans {a b c : State} (h : OnlyMarks a b) (k : OnlyMarks b c) : OnlyMarks a c := by
  obtain ⟨h1, h2⟩ := h
  obtain ⟨k1, k2⟩ := k
  refine ⟨?_, k2 ∘ h2⟩
  unfold OnlyHomes at h1 k1 ⊢
  rw [h1] at k1
  exact k1

theorem OnlyMarks.of_homes {s t : State} (h : HomeStep s t) : OnlyMarks s t := by
  refine ⟨?_, h.2⟩
  have hc := h.1.cur
  rw [hc]
  exact h.1

theorem homeStep_logRegister (s : State) (cons : Bool) (file reg thr : Nat) : HomeStep s (logRegister s cons file reg thr) := by
  unfold logRegister
  dsimp only
  split
  · exact homeStep_rasCount ..
  · exact (homeStep_logError ..).trans (homeStep_rasCount ..)

/-- What noting does: marks and the log (01 R34). -/
theorem onlyMarks_noteUnconsumed (s : State) (a : Mask) (os : List Opd) : OnlyMarks s (noteUnconsumed s a os) := by
  unfold noteUnconsumed
  have inner : ∀ (file : Nat) (l : List (Nat × Nat × Mark)) (u : State), OnlyMarks u (l.foldl (fun s m =>
        let s := logRegister s false file m.1 m.2.1
        let key := if file = 0 then 64 * m.1 + m.2.1 else m.1
        let up (t : NMap Mark) : NMap Mark :=
          if tget t key .clean = .uncorrectable then tset t key .clean .poisoned else t
        { s with cur := if file = 0 then { s.cur with vMark := up s.cur.vMark }
            else if file = 1 then { s.cur with sMark := up s.cur.sMark } else { s.cur with kMark := up s.cur.kMark } }) u) := by
    intro file l
    induction l with
    | nil => exact .refl
    | cons m l ih =>
      intro u
      refine OnlyMarks.trans ?_ (ih _)
      refine (OnlyMarks.of_homes (homeStep_logRegister u false file m.1 m.2.1)).trans ?_
      dsimp only
      split
      · exact ⟨rfl, id⟩
      · split <;> exact ⟨rfl, id⟩
  simp only [List.foldl_cons, List.foldl_nil]
  exact ((inner ..).trans (inner ..)).trans (inner ..)

theorem noteUnconsumed_pre (s : State) (a : Mask) (os : List Opd) : (noteUnconsumed s a os).pre = s.pre :=
  (onlyMarks_noteUnconsumed s a os).1.pre

/-- What a member's notes leave of the state. -/
theorem onlyMarks_Noted (s : State) (os : List Opd) : OnlyMarks s (Noted s os) := onlyMarks_noteUnconsumed ..
@[simp] theorem Noted_pre (s : State) (os : List Opd) : (Noted s os).pre = s.pre := (onlyMarks_Noted s os).1.pre
@[simp] theorem Noted_iss (s : State) (os : List Opd) : (Noted s os).iss = s.iss := (onlyMarks_Noted s os).1.iss
@[simp] theorem Noted_v (s : State) (os : List Opd) : (Noted s os).cur.v = s.cur.v := by rw [(onlyMarks_Noted s os).1.cur]
@[simp] theorem Noted_s (s : State) (os : List Opd) : (Noted s os).cur.s = s.cur.s := by rw [(onlyMarks_Noted s os).1.cur]
@[simp] theorem Noted_k (s : State) (os : List Opd) : (Noted s os).cur.k = s.cur.k := by rw [(onlyMarks_Noted s os).1.cur]
@[simp] theorem Noted_rng (s : State) (os : List Opd) : (Noted s os).cur.rng = s.cur.rng := by rw [(onlyMarks_Noted s os).1.cur]
@[simp] theorem Noted_status (s : State) (os : List Opd) : (Noted s os).cur.status = s.cur.status := by rw [(onlyMarks_Noted s os).1.cur]
@[simp] theorem Noted_furrows (s : State) (os : List Opd) : (Noted s os).furrows = s.furrows := (onlyMarks_Noted s os).1.furrows

@[simp] theorem Noted_pfxOf (s : State) (os : List Opd) : pfxOf (Noted s os) = pfxOf s := by unfold pfxOf; rw [Noted_iss]
@[simp] theorem Noted_act (s : State) (os : List Opd) : act (Noted s os) = act s := by
  unfold act entryMask; rw [Noted_pfxOf, Noted_pre, Noted_iss]
@[simp] theorem Noted_zeroed (s : State) (os : List Opd) : zeroed (Noted s os) = zeroed s := by
  unfold zeroed entryMask; rw [Noted_pfxOf, Noted_act, Noted_pre, Noted_iss]
@[simp] theorem Noted_V (s : State) (os : List Opd) (r : BitVec 7) (i t : Nat) : V (Noted s os) r i t = V s r i t := by
  unfold V; rw [Noted_pre]
@[simp] theorem Noted_S (s : State) (os : List Opd) (r : BitVec 7) : S (Noted s os) r = S s r := by unfold S; rw [Noted_pre]
@[simp] theorem Noted_fxOf (s : State) (os : List Opd) : fxOf (Noted s os) = fxOf s := by
  unfold fxOf roundMode; rw [Noted_pfxOf, Noted_rng, Noted_status]

/-- A member that passes its checks takes its effect. -/
theorem guarded_ready {s : State} {os : List Opd} (h : Ready s os) (k : State → State) : guarded s none os k = k (Noted s os) := by
  simp only [guarded, h.1, Noted]
  rw [noteUnconsumed_pre, h.2]

/-- Every element that an operand reads is consumed: scalar and mask operands, and destinations. -/
def Opd.whole (o : Opd) : Bool := o.reads == 0 || (o.file != 0 && decide (o.reads ≤ o.used) && o.thr.getLsbD 0 && o.per.isEmpty)

theorem foldl_id {β γ : Type} (l : List γ) (f : β → γ → β) (b : β) (h : l = []) : l.foldl f b = b := by subst h; rfl

/-- With operands read as a whole there is nothing to note. -/
theorem noteUnconsumed_whole (s : State) (a : Mask) (os : List Opd) (h : os.all Opd.whole = true) : noteUnconsumed s a os = s := by
  have key : ∀ file m, m ∈ marksOf s.pre file → isRead a os file m.1 m.2.1 = true →
      (os.any fun o => o.file == file && o.consumes m.1 m.2.1) = true := by
    intro file m hm hr
    simp only [isRead, List.any_eq_true, Bool.and_eq_true] at hr ⊢
    obtain ⟨o, ho, ⟨h1, h2⟩, h3⟩ := hr
    refine ⟨o, ho, h1, ?_⟩
    have hw := List.all_eq_true.1 h o ho
    simp only [Opd.readsReg, Bool.and_eq_true, decide_eq_true_eq] at h2
    simp only [Opd.whole, Bool.or_eq_true, Bool.and_eq_true, beq_iff_eq, bne_iff_ne, decide_eq_true_eq] at hw
    rcases hw with hw | ⟨⟨⟨hf, hu⟩, ht⟩, hp⟩
    · omega
    · simp only [beq_iff_eq] at h1
      subst h1
      have : m.2.1 = 0 := by
        simp only [marksOf, hf, ↓reduceIte] at hm
        split at hm <;> (obtain ⟨x, -, rfl⟩ := List.mem_map.1 hm; rfl)
      simp only [Opd.consumes, List.isEmpty_iff.1 hp, nth, List.getElem?_nil, Option.getD_none, Bool.and_eq_true, decide_eq_true_eq, this, ht,
        and_true]
      exact ⟨h2.1, by omega⟩
  have empty : ∀ file, ((marksOf s.pre file).filter fun m => m.2.2 == .uncorrectable && isRead a os file m.1 m.2.1
      && !os.any fun o => o.file == file && o.consumes m.1 m.2.1) = [] := by
    intro file
    simp only [List.filter_eq_nil_iff, Bool.and_eq_true, not_and, Bool.not_eq_true', Bool.not_eq_false]
    rintro m hm ⟨-, hr⟩
    exact key file m hm hr
  simp only [noteUnconsumed, List.foldl_cons, List.foldl_nil, empty]

theorem maskPrefix_whole (s : State) : (maskPrefixOpd s).all Opd.whole = true := by
  unfold maskPrefixOpd
  dsimp only
  split
  · rfl
  · simp [Opd.whole]

theorem Noted_whole (s : State) (os : List Opd) (h : os.all Opd.whole = true) : Noted s os = s := by
  apply noteUnconsumed_whole
  rw [List.all_append, maskPrefix_whole, h]; rfl

/-- A member whose operands are scalars or masks: its effect, on the state as it stands. -/
theorem guarded_whole {s : State} {os : List Opd} (h : Ready s os) (hw : os.all Opd.whole = true) (k : State → State) :
    guarded s none os k = k s := by
  rw [guarded_ready h, Noted_whole s os hw]

/-! ### Vector results (01 R9) -/

/-- Elements of one thread written one after another. -/
theorem vset_run (t d : Nat) (ht : t < 64) (x : Nat → Word) (n : Nat) (f : Furrow) :
    let g := (upto n).foldl (fun f i => f.vset (d + i) t (x i)) f
    (∀ r u, u < 64 → g.vget r u = if r ≠ 0 ∧ d ≤ r ∧ r < d + n ∧ u = t then x (r - d) else f.vget r u) ∧
    (∀ r u, u < 64 → tget g.vMark (64 * r + u) .clean =
      if r ≠ 0 ∧ d ≤ r ∧ r < d + n ∧ u = t then .clean else tget f.vMark (64 * r + u) .clean) ∧
    g = { f with v := g.v, vMark := g.vMark } := by
  intro g
  induction n with
  | zero =>
    refine ⟨fun r u _ => ?_, fun r u _ => ?_, rfl⟩ <;> (rw [if_neg (by omega)]; rfl)
  | succ n ih =>
    obtain ⟨h1, h2, h3⟩ := ih
    have hg : g = ((upto n).foldl (fun f i => f.vset (d + i) t (x i)) f).vset (d + n) t (x n) := by
      simp only [g, upto, List.range_succ, List.foldl_append, List.foldl_cons, List.foldl_nil]
    generalize (upto n).foldl (fun f i => f.vset (d + i) t (x i)) f = e at *
    refine ⟨fun r u hu => ?_, fun r u hu => ?_, ?_⟩
    · rw [hg, vget_vset _ _ _ _ _ _ ht hu, h1 r u hu]
      by_cases hr : r = d + n ∧ u = t ∧ d + n ≠ 0
      · rw [if_pos hr, if_pos (by omega)]; congr 1; omega
      · rw [if_neg hr]
        by_cases h : r ≠ 0 ∧ d ≤ r ∧ r < d + n ∧ u = t
        · rw [if_pos h, if_pos (by omega)]
        · rw [if_neg h, if_neg (by omega)]
    · rw [hg, vMark_vset _ _ _ _ _ _ ht hu, h2 r u hu]
      by_cases hr : r = d + n ∧ u = t ∧ d + n ≠ 0
      · rw [if_pos hr, if_pos (by omega)]
      · rw [if_neg hr]
        by_cases h : r ≠ 0 ∧ d ≤ r ∧ r < d + n ∧ u = t
        · rw [if_pos h, if_pos (by omega)]
        · rw [if_neg h, if_neg (by omega)]
    · have h4 : g = { e with v := g.v, vMark := g.vMark } := by rw [hg]; exact vset_eq ..
      clear_value g
      rw [h3] at h4
      exact h4

/-- The same for every thread of a list. -/
theorem vset_runs (d n : Nat) (x : Nat → Nat → Word) (ts : List Nat) (hts : ∀ t ∈ ts, t < 64) (f : Furrow) :
    let g := ts.foldl (fun f t => (upto n).foldl (fun f i => f.vset (d + i) t (x i t)) f) f
    (∀ r u, u < 64 → g.vget r u = if r ≠ 0 ∧ d ≤ r ∧ r < d + n ∧ u ∈ ts then x (r - d) u else f.vget r u) ∧
    (∀ r u, u < 64 → tget g.vMark (64 * r + u) .clean =
      if r ≠ 0 ∧ d ≤ r ∧ r < d + n ∧ u ∈ ts then .clean else tget f.vMark (64 * r + u) .clean) ∧
    g = { f with v := g.v, vMark := g.vMark } := by
  induction ts generalizing f with
  | nil =>
    refine ⟨fun r u _ => ?_, fun r u _ => ?_, rfl⟩ <;> (rw [if_neg (by simp)]; rfl)
  | cons a ts ih =>
    intro g
    obtain ⟨a1, a2, a3⟩ := vset_run a d (hts a List.mem_cons_self) (x · a) n f
    obtain ⟨h1, h2, h3⟩ := ih (fun t ht => hts t (List.mem_cons_of_mem _ ht))
      ((upto n).foldl (fun f i => f.vset (d + i) a (x i a)) f)
    have hg : g = ts.foldl (fun f t => (upto n).foldl (fun f i => f.vset (d + i) t (x i t)) f)
        ((upto n).foldl (fun f i => f.vset (d + i) a (x i a)) f) := rfl
    rw [← hg] at h1 h2 h3
    generalize (upto n).foldl (fun f i => f.vset (d + i) a (x i a)) f = e at *
    refine ⟨fun r u hu => ?_, fun r u hu => ?_, ?_⟩
    · rw [h1 r u hu, a1 r u hu]
      by_cases hm : u ∈ ts
      · simp only [hm, List.mem_cons, or_true]
        split
        · rfl
        · rw [if_neg (by tauto)]
      · by_cases ha : u = a
        · subst ha; simp [hm]
        · simp [hm, ha]
    · rw [h2 r u hu, a2 r u hu]
      by_cases hm : u ∈ ts
      · simp only [hm, List.mem_cons, or_true]
        split
        · rfl
        · rw [if_neg (by tauto)]
      · by_cases ha : u = a
        · subst ha; simp [hm]
        · simp [hm, ha]
    · clear_value g
      rw [a3] at h3
      exact h3

theorem mem_threads {w : Nat} {m : Mask} {t : Nat} : t ∈ threads w m ↔ t < w ∧ m.getLsbD t = true := by
  simp [threads, upto]

theorem threads_lt {w : Nat} {m : Mask} {t : Nat} (h : t ∈ threads w m) : t < 64 := by
  have := (mem_threads.1 h).2
  by_contra hc
  rw [BitVec.getLsbD_of_ge _ _ (by omega)] at this
  cases this

/-- An element function without flags or draws changes no `Fx`. -/
theorem eachElem_pure (ts : List Nat) (n d : Nat) (x : Nat → Nat → Word) (f : Furrow) (fx : Fx) :
    eachElem ts n d (fun t i fx => (x i t, fx)) f fx =
      (ts.foldl (fun f t => (upto n).foldl (fun f i => f.vset (d + i) t (x i t)) f) f, fx) := by
  unfold eachElem
  have inner : ∀ (t : Nat) (l : List Nat) (st : Furrow × Fx),
      l.foldl (fun st i => (st.1.vset (d + i) t (x i t), st.2)) st = (l.foldl (fun f i => f.vset (d + i) t (x i t)) st.1, st.2) := by
    intro t l
    induction l with
    | nil => intro st; rfl
    | cons i l ih => intro st; simp only [List.foldl_cons, ih]
  induction ts generalizing f with
  | nil => rfl
  | cons t ts ih => simp only [List.foldl_cons] at ih ⊢; rw [inner]; exact ih _

/-- A vector result whose values need neither flags nor draws (01 R9, R35). -/
theorem vectorResult_pure (s : State) (d : BitVec 7) (n : Nat) (x : Nat → Nat → Word) :
    Delivered s s (vectorResult s d n fun t i fx => (x i t, fx)) d.toNat n x := by
  unfold vectorResult
  rw [eachElem_pure]
  obtain ⟨a1, a2, a3⟩ := vset_runs d.toNat n x (threads s.pre.width (act s)) (fun _ => threads_lt) s.cur
  generalize hg : (threads s.pre.width (act s)).foldl (fun f t => (upto n).foldl (fun f i => f.vset (d.toNat + i) t (x i t)) f) s.cur = g at *
  have hp : putFx s g (fxOf s) = { s with cur := g } := by
    unfold putFx fxOf
    rw [a3]
    simp
  dsimp only
  rw [hp]
  unfold zeroElems
  obtain ⟨z1, z2, z3⟩ := vset_runs d.toNat n (fun _ _ => 0) (threads s.pre.width (zeroed s)) (fun _ => threads_lt) g
  have hz : zeroed { s with cur := g } = zeroed s := rfl
  rw [hz]
  dsimp only
  generalize (threads s.pre.width (zeroed s)).foldl (fun f t => (upto n).foldl (fun f i => f.vset (d.toNat + i) t 0) f) g = e at *
  have apart : ∀ u, (act s).getLsbD u = true → (zeroed s).getLsbD u = true → False := by
    intro u h1 h2
    unfold zeroed at h2
    split at h2
    · simp [h1] at h2
    · simp at h2
  refine ⟨fun r u hu => ?_, fun r u hu => ?_, ?_⟩
  · dsimp only
    rw [z1 r u hu, a1 r u hu]
    simp only [mem_threads]
    by_cases hr : r ≠ 0 ∧ d.toNat ≤ r ∧ r < d.toNat + n ∧ u < s.pre.width
    · obtain ⟨h1, h2, h3, h4⟩ := hr
      simp only [h1, h2, h3, h4, true_and, ne_eq, not_false_eq_true, and_self, ↓reduceIte]
      by_cases hz : (zeroed s).getLsbD u = true
      · have : ¬ (act s).getLsbD u = true := fun h => apart u h hz
        simp [hz, this]
      · simp [hz]
    · rw [if_neg hr, if_neg (by tauto), if_neg (by tauto)]
  · dsimp only
    rw [z2 r u hu, a2 r u hu]
    simp only [mem_threads]
    by_cases h1 : r ≠ 0 ∧ d.toNat ≤ r ∧ r < d.toNat + n ∧ u < s.pre.width ∧ ((act s).getLsbD u = true ∨ (zeroed s).getLsbD u = true)
    · rw [if_pos h1]; split
      · rfl
      · rw [if_pos (by tauto)]
    · rw [if_neg h1, if_neg (by tauto), if_neg (by tauto)]
  · dsimp only
    rw [a3] at z3
    conv_lhs => rw [z3]

/-- The vector result of a member that passed its checks. -/
theorem Delivered.of_noted {s n t : State} {os : List Opd} {d k : Nat} {x : Nat → Nat → Word} (hn : n = Noted s os)
    (h : Delivered n n t d k x) : Delivered s n t d k x := by
  subst hn
  exact ⟨by simpa using h.value, by simpa using h.mark, h.rest⟩

end Sys2Proof.Machine
end

