-- ==== Sys2Proof/Laws/PerInstr.lean ====
section
/-! SUPPORT. What holds of each instruction as syntax. Family `ChainBit`: the encoder leaves the chain bit of a word to
the group, but for PFX and LIM, which have no other form (02 R40, R53, R56). -/

namespace Sys2Proof.Laws

/-- A word that is attached to the base word above it. -/
def ChainBit.attached : Instr → Bool
  | .pfx _ _ _ _ _ _ _ _ => true
  | .lim _ => true
  | _ => false

/-- Bit 31 of the instruction's word. -/
def ChainBit.Statement (i : Instr) : Prop := ∀ w, encode i = some w → w.getLsbD 31 = ChainBit.attached i

theorem ChainBit.clear_of_lt {n : Nat} {w : Word} (h : BitVec.ofNat 32 n = w) (hn : n < 2 ^ 31) : w.getLsbD 31 = false := by
  subst h
  simp only [BitVec.getLsbD_ofNat, Nat.testBit_lt_two_pow hn, Bool.and_false]

theorem ChainBit.set_of_le {n : Nat} {w : Word} (h : BitVec.ofNat 32 n = w) (hn : 2 ^ 31 ≤ n) (hm : n < 2 ^ 32) : w.getLsbD 31 = true := by
  subst h
  have ht : n.testBit 31 = true := by
    rw [Nat.testBit_eq_decide_div_mod_eq]
    simp only [decide_eq_true_eq]
    omega
  simp [BitVec.getLsbD_ofNat, ht]

theorem ChainBit.trap : ∀ i, ChainBit.Statement (.trap i) :=
  fun i _ hw => ChainBit.clear_of_lt (Option.some.inj hw) (by have := i.isLt; omega)
theorem ChainBit.rte : ∀ i, ChainBit.Statement (.rte i) :=
  fun i _ hw => ChainBit.clear_of_lt (Option.some.inj hw) (by have := i.isLt; omega)
theorem ChainBit.rdsr : ∀ d n, ChainBit.Statement (.rdsr d n) :=
  fun d n _ hw => ChainBit.clear_of_lt (Option.some.inj hw) (by have := d.isLt; have := n.isLt; omega)
theorem ChainBit.wrsr : ∀ a n, ChainBit.Statement (.wrsr a n) :=
  fun a n _ hw => ChainBit.clear_of_lt (Option.some.inj hw) (by have := a.isLt; have := n.isLt; omega)
theorem ChainBit.rdcnt : ∀ d p, ChainBit.Statement (.rdcnt d p) :=
  fun d p _ hw => ChainBit.clear_of_lt (Option.some.inj hw) (by have := d.isLt; have := p.isLt; omega)
theorem ChainBit.sysc : ∀ d a n, ChainBit.Statement (.sysc d a n) :=
  fun d a n _ hw => ChainBit.clear_of_lt (Option.some.inj hw) (by have := d.isLt; have := a.isLt; have := n.isLt; omega)
theorem ChainBit.halt : ∀ a, ChainBit.Statement (.halt a) :=
  fun a _ hw => ChainBit.clear_of_lt (Option.some.inj hw) (by have := a.isLt; omega)
theorem ChainBit.spawn : ∀ d a e, ChainBit.Statement (.spawn d a e) :=
  fun d a e _ hw => ChainBit.clear_of_lt (Option.some.inj hw) (by have := d.isLt; have := a.isLt; have := e.isLt; omega)
theorem ChainBit.brkpt : ∀ i, ChainBit.Statement (.brkpt i) :=
  fun i _ hw => ChainBit.clear_of_lt (Option.some.inj hw) (by have := i.isLt; omega)
theorem ChainBit.waitc : ∀ l s p m, ChainBit.Statement (.waitc l s p m) :=
  fun l s p m _ hw => ChainBit.clear_of_lt (Option.some.inj hw) (by have := l.isLt; have := s.isLt; have := p.isLt; have := m.isLt; omega)
theorem ChainBit.br : ∀ k r o, ChainBit.Statement (.br k r o) :=
  fun k r o _ hw => ChainBit.clear_of_lt (Option.some.inj hw) (by have := k.isLt; have := r.isLt; have := o.isLt; omega)
theorem ChainBit.brk : ∀ k r o, ChainBit.Statement (.brk k r o) :=
  fun k r o _ hw => ChainBit.clear_of_lt (Option.some.inj hw) (by have := k.isLt; have := r.isLt; have := o.isLt; omega)
theorem ChainBit.call : ∀ r o, ChainBit.Statement (.call r o) :=
  fun r o _ hw => ChainBit.clear_of_lt (Option.some.inj hw) (by have := r.isLt; have := o.isLt; omega)
theorem ChainBit.loop : ∀ r o, ChainBit.Statement (.loop r o) :=
  fun r o _ hw => ChainBit.clear_of_lt (Option.some.inj hw) (by have := r.isLt; have := o.isLt; omega)
theorem ChainBit.sadd : ∀ d a b, ChainBit.Statement (.sadd d a b) :=
  fun d a b _ hw => ChainBit.clear_of_lt (Option.some.inj hw) (by have := d.isLt; have := a.isLt; have := b.isLt; omega)
theorem ChainBit.ssub : ∀ d a b, ChainBit.Statement (.ssub d a b) :=
  fun d a b _ hw => ChainBit.clear_of_lt (Option.some.inj hw) (by have := d.isLt; have := a.isLt; have := b.isLt; omega)
theorem ChainBit.smul : ∀ d a b, ChainBit.Statement (.smul d a b) :=
  fun d a b _ hw => ChainBit.clear_of_lt (Option.some.inj hw) (by have := d.isLt; have := a.isLt; have := b.isLt; omega)
theorem ChainBit.smulh : ∀ d a b, ChainBit.Statement (.smulh d a b) :=
  fun d a b _ hw => ChainBit.clear_of_lt (Option.some.inj hw) (by have := d.isLt; have := a.isLt; have := b.isLt; omega)
theorem ChainBit.sand : ∀ d a b, ChainBit.Statement (.sand d a b) :=
  fun d a b _ hw => ChainBit.clear_of_lt (Option.some.inj hw) (by have := d.isLt; have := a.isLt; have := b.isLt; omega)
theorem ChainBit.sor : ∀ d a b, ChainBit.Statement (.sor d a b) :=
  fun d a b _ hw => ChainBit.clear_of_lt (Option.some.inj hw) (by have := d.isLt; have := a.isLt; have := b.isLt; omega)
theorem ChainBit.sxor : ∀ d a b, ChainBit.Statement (.sxor d a b) :=
  fun d a b _ hw => ChainBit.clear_of_lt (Option.some.inj hw) (by have := d.isLt; have := a.isLt; have := b.isLt; omega)
theorem ChainBit.sandn : ∀ d a b, ChainBit.Statement (.sandn d a b) :=
  fun d a b _ hw => ChainBit.clear_of_lt (Option.some.inj hw) (by have := d.isLt; have := a.isLt; have := b.isLt; omega)
theorem ChainBit.sshl : ∀ d a b, ChainBit.Statement (.sshl d a b) :=
  fun d a b _ hw => ChainBit.clear_of_lt (Option.some.inj hw) (by have := d.isLt; have := a.isLt; have := b.isLt; omega)
theorem ChainBit.sshr : ∀ d a b, ChainBit.Statement (.sshr d a b) :=
  fun d a b _ hw => ChainBit.clear_of_lt (Option.some.inj hw) (by have := d.isLt; have := a.isLt; have := b.isLt; omega)
theorem ChainBit.ssra : ∀ d a b, ChainBit.Statement (.ssra d a b) :=
  fun d a b _ hw => ChainBit.clear_of_lt (Option.some.inj hw) (by have := d.isLt; have := a.isLt; have := b.isLt; omega)
theorem ChainBit.srot : ∀ d a b, ChainBit.Statement (.srot d a b) :=
  fun d a b _ hw => ChainBit.clear_of_lt (Option.some.inj hw) (by have := d.isLt; have := a.isLt; have := b.isLt; omega)
theorem ChainBit.sshli : ∀ d a b, ChainBit.Statement (.sshli d a b) :=
  fun d a b _ hw => ChainBit.clear_of_lt (Option.some.inj hw) (by have := d.isLt; have := a.isLt; have := b.isLt; omega)
theorem ChainBit.sshri : ∀ d a b, ChainBit.Statement (.sshri d a b) :=
  fun d a b _ hw => ChainBit.clear_of_lt (Option.some.inj hw) (by have := d.isLt; have := a.isLt; have := b.isLt; omega)
theorem ChainBit.ssrai : ∀ d a b, ChainBit.Statement (.ssrai d a b) :=
  fun d a b _ hw => ChainBit.clear_of_lt (Option.some.inj hw) (by have := d.isLt; have := a.isLt; have := b.isLt; omega)
theorem ChainBit.sroti : ∀ d a b, ChainBit.Statement (.sroti d a b) :=
  fun d a b _ hw => ChainBit.clear_of_lt (Option.some.inj hw) (by have := d.isLt; have := a.isLt; have := b.isLt; omega)
theorem ChainBit.smin : ∀ d a b, ChainBit.Statement (.smin d a b) :=
  fun d a b _ hw => ChainBit.clear_of_lt (Option.some.inj hw) (by have := d.isLt; have := a.isLt; have := b.isLt; omega)
theorem ChainBit.smax : ∀ d a b, ChainBit.Statement (.smax d a b) :=
  fun d a b _ hw => ChainBit.clear_of_lt (Option.some.inj hw) (by have := d.isLt; have := a.isLt; have := b.isLt; omega)
theorem ChainBit.sminn : ∀ d a b, ChainBit.Statement (.sminn d a b) :=
  fun d a b _ hw => ChainBit.clear_of_lt (Option.some.inj hw) (by have := d.isLt; have := a.isLt; have := b.isLt; omega)
theorem ChainBit.smaxn : ∀ d a b, ChainBit.Statement (.smaxn d a b) :=
  fun d a b _ hw => ChainBit.clear_of_lt (Option.some.inj hw) (by have := d.isLt; have := a.isLt; have := b.isLt; omega)
theorem ChainBit.sseq : ∀ d a b, ChainBit.Statement (.sseq d a b) :=
  fun d a b _ hw => ChainBit.clear_of_lt (Option.some.inj hw) (by have := d.isLt; have := a.isLt; have := b.isLt; omega)
theorem ChainBit.sslt : ∀ d a b, ChainBit.Statement (.sslt d a b) :=
  fun d a b _ hw => ChainBit.clear_of_lt (Option.some.inj hw) (by have := d.isLt; have := a.isLt; have := b.isLt; omega)
theorem ChainBit.ssltn : ∀ d a b, ChainBit.Statement (.ssltn d a b) :=
  fun d a b _ hw => ChainBit.clear_of_lt (Option.some.inj hw) (by have := d.isLt; have := a.isLt; have := b.isLt; omega)
theorem ChainBit.ssne : ∀ d a b, ChainBit.Statement (.ssne d a b) :=
  fun d a b _ hw => ChainBit.clear_of_lt (Option.some.inj hw) (by have := d.isLt; have := a.isLt; have := b.isLt; omega)
theorem ChainBit.smov : ∀ d a, ChainBit.Statement (.smov d a) :=
  fun d a _ hw => ChainBit.clear_of_lt (Option.some.inj hw) (by have := d.isLt; have := a.isLt; omega)
theorem ChainBit.ssel : ∀ d a b, ChainBit.Statement (.ssel d a b) :=
  fun d a b _ hw => ChainBit.clear_of_lt (Option.some.inj hw) (by have := d.isLt; have := a.isLt; have := b.isLt; omega)
theorem ChainBit.sclz : ∀ d a, ChainBit.Statement (.sclz d a) :=
  fun d a _ hw => ChainBit.clear_of_lt (Option.some.inj hw) (by have := d.isLt; have := a.isLt; omega)
theorem ChainBit.spopc : ∀ d a, ChainBit.Statement (.spopc d a) :=
  fun d a _ hw => ChainBit.clear_of_lt (Option.some.inj hw) (by have := d.isLt; have := a.isLt; omega)
theorem ChainBit.saddi : ∀ d a i, ChainBit.Statement (.saddi d a i) :=
  fun d a i _ hw => ChainBit.clear_of_lt (Option.some.inj hw) (by have := d.isLt; have := a.isLt; have := i.isLt; omega)
theorem ChainBit.sli : ∀ d i, ChainBit.Statement (.sli d i) :=
  fun d i _ hw => ChainBit.clear_of_lt (Option.some.inj hw) (by have := d.isLt; have := i.isLt; omega)
theorem ChainBit.slui : ∀ d i, ChainBit.Statement (.slui d i) :=
  fun d i _ hw => ChainBit.clear_of_lt (Option.some.inj hw) (by have := d.isLt; have := i.isLt; omega)
theorem ChainBit.jmp : ∀ a, ChainBit.Statement (.jmp a) :=
  fun a _ hw => ChainBit.clear_of_lt (Option.some.inj hw) (by have := a.isLt; omega)
theorem ChainBit.callr : ∀ d a, ChainBit.Statement (.callr d a) :=
  fun d a _ hw => ChainBit.clear_of_lt (Option.some.inj hw) (by have := d.isLt; have := a.isLt; omega)
theorem ChainBit.vadd : ∀ w0 d a b, ChainBit.Statement (.vadd w0 d a b) :=
  fun w0 d a b _ hw => ChainBit.clear_of_lt (Option.some.inj hw) (by have := w0.isLt; have := d.isLt; have := a.isLt; have := b.isLt; omega)
theorem ChainBit.vsub : ∀ w0 d a b, ChainBit.Statement (.vsub w0 d a b) :=
  fun w0 d a b _ hw => ChainBit.clear_of_lt (Option.some.inj hw) (by have := w0.isLt; have := d.isLt; have := a.isLt; have := b.isLt; omega)
theorem ChainBit.vmul : ∀ w0 d a b, ChainBit.Statement (.vmul w0 d a b) :=
  fun w0 d a b _ hw => ChainBit.clear_of_lt (Option.some.inj hw) (by have := w0.isLt; have := d.isLt; have := a.isLt; have := b.isLt; omega)
theorem ChainBit.vmulh : ∀ w0 d a b, ChainBit.Statement (.vmulh w0 d a b) :=
  fun w0 d a b _ hw => ChainBit.clear_of_lt (Option.some.inj hw) (by have := w0.isLt; have := d.isLt; have := a.isLt; have := b.isLt; omega)
theorem ChainBit.vmulhn : ∀ w0 d a b, ChainBit.Statement (.vmulhn w0 d a b) :=
  fun w0 d a b _ hw => ChainBit.clear_of_lt (Option.some.inj hw) (by have := w0.isLt; have := d.isLt; have := a.isLt; have := b.isLt; omega)
theorem ChainBit.vaddc : ∀ w0 d a b, ChainBit.Statement (.vaddc w0 d a b) :=
  fun w0 d a b _ hw => ChainBit.clear_of_lt (Option.some.inj hw) (by have := w0.isLt; have := d.isLt; have := a.isLt; have := b.isLt; omega)
theorem ChainBit.vsadd : ∀ w0 d a b, ChainBit.Statement (.vsadd w0 d a b) :=
  fun w0 d a b _ hw => ChainBit.clear_of_lt (Option.some.inj hw) (by have := w0.isLt; have := d.isLt; have := a.isLt; have := b.isLt; omega)
theorem ChainBit.vssub : ∀ w0 d a b, ChainBit.Statement (.vssub w0 d a b) :=
  fun w0 d a b _ hw => ChainBit.clear_of_lt (Option.some.inj hw) (by have := w0.isLt; have := d.isLt; have := a.isLt; have := b.isLt; omega)
theorem ChainBit.vand : ∀ w0 d a b, ChainBit.Statement (.vand w0 d a b) :=
  fun w0 d a b _ hw => ChainBit.clear_of_lt (Option.some.inj hw) (by have := w0.isLt; have := d.isLt; have := a.isLt; have := b.isLt; omega)
theorem ChainBit.vor : ∀ w0 d a b, ChainBit.Statement (.vor w0 d a b) :=
  fun w0 d a b _ hw => ChainBit.clear_of_lt (Option.some.inj hw) (by have := w0.isLt; have := d.isLt; have := a.isLt; have := b.isLt; omega)
theorem ChainBit.vxor : ∀ w0 d a b, ChainBit.Statement (.vxor w0 d a b) :=
  fun w0 d a b _ hw => ChainBit.clear_of_lt (Option.some.inj hw) (by have := w0.isLt; have := d.isLt; have := a.isLt; have := b.isLt; omega)
theorem ChainBit.vandn : ∀ w0 d a b, ChainBit.Statement (.vandn w0 d a b) :=
  fun w0 d a b _ hw => ChainBit.clear_of_lt (Option.some.inj hw) (by have := w0.isLt; have := d.isLt; have := a.isLt; have := b.isLt; omega)
theorem ChainBit.vshl : ∀ w0 d a b, ChainBit.Statement (.vshl w0 d a b) :=
  fun w0 d a b _ hw => ChainBit.clear_of_lt (Option.some.inj hw) (by have := w0.isLt; have := d.isLt; have := a.isLt; have := b.isLt; omega)
theorem ChainBit.vshr : ∀ w0 d a b, ChainBit.Statement (.vshr w0 d a b) :=
  fun w0 d a b _ hw => ChainBit.clear_of_lt (Option.some.inj hw) (by have := w0.isLt; have := d.isLt; have := a.isLt; have := b.isLt; omega)
theorem ChainBit.vsra : ∀ w0 d a b, ChainBit.Statement (.vsra w0 d a b) :=
  fun w0 d a b _ hw => ChainBit.clear_of_lt (Option.some.inj hw) (by have := w0.isLt; have := d.isLt; have := a.isLt; have := b.isLt; omega)
theorem ChainBit.vrot : ∀ w0 d a b, ChainBit.Statement (.vrot w0 d a b) :=
  fun w0 d a b _ hw => ChainBit.clear_of_lt (Option.some.inj hw) (by have := w0.isLt; have := d.isLt; have := a.isLt; have := b.isLt; omega)
theorem ChainBit.vshli : ∀ w0 d a b, ChainBit.Statement (.vshli w0 d a b) :=
  fun w0 d a b _ hw => ChainBit.clear_of_lt (Option.some.inj hw) (by have := w0.isLt; have := d.isLt; have := a.isLt; have := b.isLt; omega)
theorem ChainBit.vshri : ∀ w0 d a b, ChainBit.Statement (.vshri w0 d a b) :=
  fun w0 d a b _ hw => ChainBit.clear_of_lt (Option.some.inj hw) (by have := w0.isLt; have := d.isLt; have := a.isLt; have := b.isLt; omega)
theorem ChainBit.vsrai : ∀ w0 d a b, ChainBit.Statement (.vsrai w0 d a b) :=
  fun w0 d a b _ hw => ChainBit.clear_of_lt (Option.some.inj hw) (by have := w0.isLt; have := d.isLt; have := a.isLt; have := b.isLt; omega)
theorem ChainBit.vroti : ∀ w0 d a b, ChainBit.Statement (.vroti w0 d a b) :=
  fun w0 d a b _ hw => ChainBit.clear_of_lt (Option.some.inj hw) (by have := w0.isLt; have := d.isLt; have := a.isLt; have := b.isLt; omega)
theorem ChainBit.vmin : ∀ w0 d a b, ChainBit.Statement (.vmin w0 d a b) :=
  fun w0 d a b _ hw => ChainBit.clear_of_lt (Option.some.inj hw) (by have := w0.isLt; have := d.isLt; have := a.isLt; have := b.isLt; omega)
theorem ChainBit.vmax : ∀ w0 d a b, ChainBit.Statement (.vmax w0 d a b) :=
  fun w0 d a b _ hw => ChainBit.clear_of_lt (Option.some.inj hw) (by have := w0.isLt; have := d.isLt; have := a.isLt; have := b.isLt; omega)
theorem ChainBit.vminn : ∀ w0 d a b, ChainBit.Statement (.vminn w0 d a b) :=
  fun w0 d a b _ hw => ChainBit.clear_of_lt (Option.some.inj hw) (by have := w0.isLt; have := d.isLt; have := a.isLt; have := b.isLt; omega)
theorem ChainBit.vmaxn : ∀ w0 d a b, ChainBit.Statement (.vmaxn w0 d a b) :=
  fun w0 d a b _ hw => ChainBit.clear_of_lt (Option.some.inj hw) (by have := w0.isLt; have := d.isLt; have := a.isLt; have := b.isLt; omega)
theorem ChainBit.vclz : ∀ w0 d a, ChainBit.Statement (.vclz w0 d a) :=
  fun w0 d a _ hw => ChainBit.clear_of_lt (Option.some.inj hw) (by have := w0.isLt; have := d.isLt; have := a.isLt; omega)
theorem ChainBit.vpopc : ∀ w0 d a, ChainBit.Statement (.vpopc w0 d a) :=
  fun w0 d a _ hw => ChainBit.clear_of_lt (Option.some.inj hw) (by have := w0.isLt; have := d.isLt; have := a.isLt; omega)
theorem ChainBit.vbrev : ∀ w0 d a, ChainBit.Statement (.vbrev w0 d a) :=
  fun w0 d a _ hw => ChainBit.clear_of_lt (Option.some.inj hw) (by have := w0.isLt; have := d.isLt; have := a.isLt; omega)
theorem ChainBit.vabs : ∀ w0 d a, ChainBit.Statement (.vabs w0 d a) :=
  fun w0 d a _ hw => ChainBit.clear_of_lt (Option.some.inj hw) (by have := w0.isLt; have := d.isLt; have := a.isLt; omega)
theorem ChainBit.vbfe : ∀ w0 d a b, ChainBit.Statement (.vbfe w0 d a b) :=
  fun w0 d a b _ hw => ChainBit.clear_of_lt (Option.some.inj hw) (by have := w0.isLt; have := d.isLt; have := a.isLt; have := b.isLt; omega)
theorem ChainBit.vbfen : ∀ w0 d a b, ChainBit.Statement (.vbfen w0 d a b) :=
  fun w0 d a b _ hw => ChainBit.clear_of_lt (Option.some.inj hw) (by have := w0.isLt; have := d.isLt; have := a.isLt; have := b.isLt; omega)
theorem ChainBit.vbfi : ∀ w0 d a b, ChainBit.Statement (.vbfi w0 d a b) :=
  fun w0 d a b _ hw => ChainBit.clear_of_lt (Option.some.inj hw) (by have := w0.isLt; have := d.isLt; have := a.isLt; have := b.isLt; omega)
theorem ChainBit.vprmb : ∀ w0 d a b, ChainBit.Statement (.vprmb w0 d a b) :=
  fun w0 d a b _ hw => ChainBit.clear_of_lt (Option.some.inj hw) (by have := w0.isLt; have := d.isLt; have := a.isLt; have := b.isLt; omega)
theorem ChainBit.vmad : ∀ w0 d a b, ChainBit.Statement (.vmad w0 d a b) :=
  fun w0 d a b _ hw => ChainBit.clear_of_lt (Option.some.inj hw) (by have := w0.isLt; have := d.isLt; have := a.isLt; have := b.isLt; omega)
theorem ChainBit.vdot4 : ∀ w0 d a b, ChainBit.Statement (.vdot4 w0 d a b) :=
  fun w0 d a b _ hw => ChainBit.clear_of_lt (Option.some.inj hw) (by have := w0.isLt; have := d.isLt; have := a.isLt; have := b.isLt; omega)
theorem ChainBit.vdot4n : ∀ w0 d a b, ChainBit.Statement (.vdot4n w0 d a b) :=
  fun w0 d a b _ hw => ChainBit.clear_of_lt (Option.some.inj hw) (by have := w0.isLt; have := d.isLt; have := a.isLt; have := b.isLt; omega)
theorem ChainBit.vsad : ∀ w0 d a b, ChainBit.Statement (.vsad w0 d a b) :=
  fun w0 d a b _ hw => ChainBit.clear_of_lt (Option.some.inj hw) (by have := w0.isLt; have := d.isLt; have := a.isLt; have := b.isLt; omega)
theorem ChainBit.vaddi : ∀ d a i, ChainBit.Statement (.vaddi d a i) :=
  fun d a i _ hw => ChainBit.clear_of_lt (Option.some.inj hw) (by have := d.isLt; have := a.isLt; have := i.isLt; omega)
theorem ChainBit.vli : ∀ d i, ChainBit.Statement (.vli d i) :=
  fun d i _ hw => ChainBit.clear_of_lt (Option.some.inj hw) (by have := d.isLt; have := i.isLt; omega)
theorem ChainBit.vceq : ∀ d a b, ChainBit.Statement (.vceq d a b) :=
  fun d a b _ hw => ChainBit.clear_of_lt (Option.some.inj hw) (by have := d.isLt; have := a.isLt; have := b.isLt; omega)
theorem ChainBit.vclt : ∀ d a b, ChainBit.Statement (.vclt d a b) :=
  fun d a b _ hw => ChainBit.clear_of_lt (Option.some.inj hw) (by have := d.isLt; have := a.isLt; have := b.isLt; omega)
theorem ChainBit.vcltn : ∀ d a b, ChainBit.Statement (.vcltn d a b) :=
  fun d a b _ hw => ChainBit.clear_of_lt (Option.some.inj hw) (by have := d.isLt; have := a.isLt; have := b.isLt; omega)
theorem ChainBit.vcne : ∀ d a b, ChainBit.Statement (.vcne d a b) :=
  fun d a b _ hw => ChainBit.clear_of_lt (Option.some.inj hw) (by have := d.isLt; have := a.isLt; have := b.isLt; omega)
theorem ChainBit.vsel : ∀ k d a b, ChainBit.Statement (.vsel k d a b) :=
  fun k d a b _ hw => ChainBit.clear_of_lt (Option.some.inj hw) (by have := k.isLt; have := d.isLt; have := a.isLt; have := b.isLt; omega)
theorem ChainBit.vmov : ∀ w0 d a, ChainBit.Statement (.vmov w0 d a) :=
  fun w0 d a _ hw => ChainBit.clear_of_lt (Option.some.inj hw) (by have := w0.isLt; have := d.isLt; have := a.isLt; omega)
theorem ChainBit.vmovs : ∀ d a, ChainBit.Statement (.vmovs d a) :=
  fun d a _ hw => ChainBit.clear_of_lt (Option.some.inj hw) (by have := d.isLt; have := a.isLt; omega)
theorem ChainBit.vrdl : ∀ d a b, ChainBit.Statement (.vrdl d a b) :=
  fun d a b _ hw => ChainBit.clear_of_lt (Option.some.inj hw) (by have := d.isLt; have := a.isLt; have := b.isLt; omega)
theorem ChainBit.vwrl : ∀ d a b, ChainBit.Statement (.vwrl d a b) :=
  fun d a b _ hw => ChainBit.clear_of_lt (Option.some.inj hw) (by have := d.isLt; have := a.isLt; have := b.isLt; omega)
theorem ChainBit.fadd : ∀ w0 d a b, ChainBit.Statement (.fadd w0 d a b) :=
  fun w0 d a b _ hw => ChainBit.clear_of_lt (Option.some.inj hw) (by have := w0.isLt; have := d.isLt; have := a.isLt; have := b.isLt; omega)
theorem ChainBit.fsub : ∀ w0 d a b, ChainBit.Statement (.fsub w0 d a b) :=
  fun w0 d a b _ hw => ChainBit.clear_of_lt (Option.some.inj hw) (by have := w0.isLt; have := d.isLt; have := a.isLt; have := b.isLt; omega)
theorem ChainBit.fmul : ∀ w0 d a b, ChainBit.Statement (.fmul w0 d a b) :=
  fun w0 d a b _ hw => ChainBit.clear_of_lt (Option.some.inj hw) (by have := w0.isLt; have := d.isLt; have := a.isLt; have := b.isLt; omega)
theorem ChainBit.fmac : ∀ w0 d a b, ChainBit.Statement (.fmac w0 d a b) :=
  fun w0 d a b _ hw => ChainBit.clear_of_lt (Option.some.inj hw) (by have := w0.isLt; have := d.isLt; have := a.isLt; have := b.isLt; omega)
theorem ChainBit.fmin : ∀ w0 d a b, ChainBit.Statement (.fmin w0 d a b) :=
  fun w0 d a b _ hw => ChainBit.clear_of_lt (Option.some.inj hw) (by have := w0.isLt; have := d.isLt; have := a.isLt; have := b.isLt; omega)
theorem ChainBit.fmax : ∀ w0 d a b, ChainBit.Statement (.fmax w0 d a b) :=
  fun w0 d a b _ hw => ChainBit.clear_of_lt (Option.some.inj hw) (by have := w0.isLt; have := d.isLt; have := a.isLt; have := b.isLt; omega)
theorem ChainBit.fcpys : ∀ w0 d a b, ChainBit.Statement (.fcpys w0 d a b) :=
  fun w0 d a b _ hw => ChainBit.clear_of_lt (Option.some.inj hw) (by have := w0.isLt; have := d.isLt; have := a.isLt; have := b.isLt; omega)
theorem ChainBit.fscal : ∀ w0 d a b, ChainBit.Statement (.fscal w0 d a b) :=
  fun w0 d a b _ hw => ChainBit.clear_of_lt (Option.some.inj hw) (by have := w0.isLt; have := d.isLt; have := a.isLt; have := b.isLt; omega)
theorem ChainBit.fceq : ∀ d a b, ChainBit.Statement (.fceq d a b) :=
  fun d a b _ hw => ChainBit.clear_of_lt (Option.some.inj hw) (by have := d.isLt; have := a.isLt; have := b.isLt; omega)
theorem ChainBit.fclt : ∀ d a b, ChainBit.Statement (.fclt d a b) :=
  fun d a b _ hw => ChainBit.clear_of_lt (Option.some.inj hw) (by have := d.isLt; have := a.isLt; have := b.isLt; omega)
theorem ChainBit.fcle : ∀ d a b, ChainBit.Statement (.fcle d a b) :=
  fun d a b _ hw => ChainBit.clear_of_lt (Option.some.inj hw) (by have := d.isLt; have := a.isLt; have := b.isLt; omega)
theorem ChainBit.fcun : ∀ d a b, ChainBit.Statement (.fcun d a b) :=
  fun d a b _ hw => ChainBit.clear_of_lt (Option.some.inj hw) (by have := d.isLt; have := a.isLt; have := b.isLt; omega)
theorem ChainBit.frcp : ∀ w0 d a, ChainBit.Statement (.frcp w0 d a) :=
  fun w0 d a _ hw => ChainBit.clear_of_lt (Option.some.inj hw) (by have := w0.isLt; have := d.isLt; have := a.isLt; omega)
theorem ChainBit.frsq : ∀ w0 d a, ChainBit.Statement (.frsq w0 d a) :=
  fun w0 d a _ hw => ChainBit.clear_of_lt (Option.some.inj hw) (by have := w0.isLt; have := d.isLt; have := a.isLt; omega)
theorem ChainBit.fsqrt : ∀ w0 d a, ChainBit.Statement (.fsqrt w0 d a) :=
  fun w0 d a _ hw => ChainBit.clear_of_lt (Option.some.inj hw) (by have := w0.isLt; have := d.isLt; have := a.isLt; omega)
theorem ChainBit.fexp2 : ∀ w0 d a, ChainBit.Statement (.fexp2 w0 d a) :=
  fun w0 d a _ hw => ChainBit.clear_of_lt (Option.some.inj hw) (by have := w0.isLt; have := d.isLt; have := a.isLt; omega)
theorem ChainBit.flog2 : ∀ w0 d a, ChainBit.Statement (.flog2 w0 d a) :=
  fun w0 d a _ hw => ChainBit.clear_of_lt (Option.some.inj hw) (by have := w0.isLt; have := d.isLt; have := a.isLt; omega)
theorem ChainBit.fsin : ∀ w0 d a, ChainBit.Statement (.fsin w0 d a) :=
  fun w0 d a _ hw => ChainBit.clear_of_lt (Option.some.inj hw) (by have := w0.isLt; have := d.isLt; have := a.isLt; omega)
theorem ChainBit.fcos : ∀ w0 d a, ChainBit.Statement (.fcos w0 d a) :=
  fun w0 d a _ hw => ChainBit.clear_of_lt (Option.some.inj hw) (by have := w0.isLt; have := d.isLt; have := a.isLt; omega)
theorem ChainBit.ftanh : ∀ w0 d a, ChainBit.Statement (.ftanh w0 d a) :=
  fun w0 d a _ hw => ChainBit.clear_of_lt (Option.some.inj hw) (by have := w0.isLt; have := d.isLt; have := a.isLt; omega)
theorem ChainBit.cvtf : ∀ w0 d a b, ChainBit.Statement (.cvtf w0 d a b) :=
  fun w0 d a b _ hw => ChainBit.clear_of_lt (Option.some.inj hw) (by have := w0.isLt; have := d.isLt; have := a.isLt; have := b.isLt; omega)
theorem ChainBit.cvti : ∀ w0 d a b, ChainBit.Statement (.cvti w0 d a b) :=
  fun w0 d a b _ hw => ChainBit.clear_of_lt (Option.some.inj hw) (by have := w0.isLt; have := d.isLt; have := a.isLt; have := b.isLt; omega)
theorem ChainBit.frnd : ∀ w0 d a, ChainBit.Statement (.frnd w0 d a) :=
  fun w0 d a _ hw => ChainBit.clear_of_lt (Option.some.inj hw) (by have := w0.isLt; have := d.isLt; have := a.isLt; omega)
theorem ChainBit.cvtn : ∀ w0 d a b, ChainBit.Statement (.cvtn w0 d a b) :=
  fun w0 d a b _ hw => ChainBit.clear_of_lt (Option.some.inj hw) (by have := w0.isLt; have := d.isLt; have := a.isLt; have := b.isLt; omega)
theorem ChainBit.qpack : ∀ d a b, ChainBit.Statement (.qpack d a b) :=
  fun d a b _ hw => ChainBit.clear_of_lt (Option.some.inj hw) (by have := d.isLt; have := a.isLt; have := b.isLt; omega)
theorem ChainBit.qunpk : ∀ d a, ChainBit.Statement (.qunpk d a) :=
  fun d a _ hw => ChainBit.clear_of_lt (Option.some.inj hw) (by have := d.isLt; have := a.isLt; omega)
theorem ChainBit.qscal : ∀ d a b, ChainBit.Statement (.qscal d a b) :=
  fun d a b _ hw => ChainBit.clear_of_lt (Option.some.inj hw) (by have := d.isLt; have := a.isLt; have := b.isLt; omega)
theorem ChainBit.qretag : ∀ d a b, ChainBit.Statement (.qretag d a b) :=
  fun d a b _ hw => ChainBit.clear_of_lt (Option.some.inj hw) (by have := d.isLt; have := a.isLt; have := b.isLt; omega)
theorem ChainBit.kand : ∀ d a b, ChainBit.Statement (.kand d a b) :=
  fun d a b _ hw => ChainBit.clear_of_lt (Option.some.inj hw) (by have := d.isLt; have := a.isLt; have := b.isLt; omega)
theorem ChainBit.kor : ∀ d a b, ChainBit.Statement (.kor d a b) :=
  fun d a b _ hw => ChainBit.clear_of_lt (Option.some.inj hw) (by have := d.isLt; have := a.isLt; have := b.isLt; omega)
theorem ChainBit.kxor : ∀ d a b, ChainBit.Statement (.kxor d a b) :=
  fun d a b _ hw => ChainBit.clear_of_lt (Option.some.inj hw) (by have := d.isLt; have := a.isLt; have := b.isLt; omega)
theorem ChainBit.kandn : ∀ d a b, ChainBit.Statement (.kandn d a b) :=
  fun d a b _ hw => ChainBit.clear_of_lt (Option.some.inj hw) (by have := d.isLt; have := a.isLt; have := b.isLt; omega)
theorem ChainBit.kpopc : ∀ d a, ChainBit.Statement (.kpopc d a) :=
  fun d a _ hw => ChainBit.clear_of_lt (Option.some.inj hw) (by have := d.isLt; have := a.isLt; omega)
theorem ChainBit.kffs : ∀ d a, ChainBit.Statement (.kffs d a) :=
  fun d a _ hw => ChainBit.clear_of_lt (Option.some.inj hw) (by have := d.isLt; have := a.isLt; omega)
theorem ChainBit.ktos : ∀ d a, ChainBit.Statement (.ktos d a) :=
  fun d a _ hw => ChainBit.clear_of_lt (Option.some.inj hw) (by have := d.isLt; have := a.isLt; omega)
theorem ChainBit.kfrs : ∀ d a, ChainBit.Statement (.kfrs d a) :=
  fun d a _ hw => ChainBit.clear_of_lt (Option.some.inj hw) (by have := d.isLt; have := a.isLt; omega)
theorem ChainBit.shfli : ∀ w0 d a b, ChainBit.Statement (.shfli w0 d a b) :=
  fun w0 d a b _ hw => ChainBit.clear_of_lt (Option.some.inj hw) (by have := w0.isLt; have := d.isLt; have := a.isLt; have := b.isLt; omega)
theorem ChainBit.shflu : ∀ w0 d a b, ChainBit.Statement (.shflu w0 d a b) :=
  fun w0 d a b _ hw => ChainBit.clear_of_lt (Option.some.inj hw) (by have := w0.isLt; have := d.isLt; have := a.isLt; have := b.isLt; omega)
theorem ChainBit.shfld : ∀ w0 d a b, ChainBit.Statement (.shfld w0 d a b) :=
  fun w0 d a b _ hw => ChainBit.clear_of_lt (Option.some.inj hw) (by have := w0.isLt; have := d.isLt; have := a.isLt; have := b.isLt; omega)
theorem ChainBit.shflx : ∀ w0 d a b, ChainBit.Statement (.shflx w0 d a b) :=
  fun w0 d a b _ hw => ChainBit.clear_of_lt (Option.some.inj hw) (by have := w0.isLt; have := d.isLt; have := a.isLt; have := b.isLt; omega)
theorem ChainBit.redadd : ∀ t d a, ChainBit.Statement (.redadd t d a) :=
  fun t d a _ hw => ChainBit.clear_of_lt (Option.some.inj hw) (by have := t.isLt; have := d.isLt; have := a.isLt; omega)
theorem ChainBit.redmin : ∀ t d a, ChainBit.Statement (.redmin t d a) :=
  fun t d a _ hw => ChainBit.clear_of_lt (Option.some.inj hw) (by have := t.isLt; have := d.isLt; have := a.isLt; omega)
theorem ChainBit.redmax : ∀ t d a, ChainBit.Statement (.redmax t d a) :=
  fun t d a _ hw => ChainBit.clear_of_lt (Option.some.inj hw) (by have := t.isLt; have := d.isLt; have := a.isLt; omega)
theorem ChainBit.redor : ∀ d a, ChainBit.Statement (.redor d a) :=
  fun d a _ hw => ChainBit.clear_of_lt (Option.some.inj hw) (by have := d.isLt; have := a.isLt; omega)
theorem ChainBit.scanadd : ∀ t d a, ChainBit.Statement (.scanadd t d a) :=
  fun t d a _ hw => ChainBit.clear_of_lt (Option.some.inj hw) (by have := t.isLt; have := d.isLt; have := a.isLt; omega)
theorem ChainBit.scanmin : ∀ t d a, ChainBit.Statement (.scanmin t d a) :=
  fun t d a _ hw => ChainBit.clear_of_lt (Option.some.inj hw) (by have := t.isLt; have := d.isLt; have := a.isLt; omega)
theorem ChainBit.scanmax : ∀ t d a, ChainBit.Statement (.scanmax t d a) :=
  fun t d a _ hw => ChainBit.clear_of_lt (Option.some.inj hw) (by have := t.isLt; have := d.isLt; have := a.isLt; omega)
theorem ChainBit.scanaddx : ∀ t d a, ChainBit.Statement (.scanaddx t d a) :=
  fun t d a _ hw => ChainBit.clear_of_lt (Option.some.inj hw) (by have := t.isLt; have := d.isLt; have := a.isLt; omega)
theorem ChainBit.mred : ∀ k d a b, ChainBit.Statement (.mred k d a b) :=
  fun k d a b _ hw => ChainBit.clear_of_lt (Option.some.inj hw) (by have := k.isLt; have := d.isLt; have := a.isLt; have := b.isLt; omega)
theorem ChainBit.mredf : ∀ k d a b, ChainBit.Statement (.mredf k d a b) :=
  fun k d a b _ hw => ChainBit.clear_of_lt (Option.some.inj hw) (by have := k.isLt; have := d.isLt; have := a.isLt; have := b.isLt; omega)
theorem ChainBit.mredm : ∀ k d a b, ChainBit.Statement (.mredm k d a b) :=
  fun k d a b _ hw => ChainBit.clear_of_lt (Option.some.inj hw) (by have := k.isLt; have := d.isLt; have := a.isLt; have := b.isLt; omega)
theorem ChainBit.ld : ∀ s w0 d a o, ChainBit.Statement (.ld s w0 d a o) :=
  fun s w0 d a o _ hw => ChainBit.clear_of_lt (Option.some.inj hw) (by have := s.isLt; have := w0.isLt; have := d.isLt; have := a.isLt; have := o.isLt; omega)
theorem ChainBit.st : ∀ s w0 d a o, ChainBit.Statement (.st s w0 d a o) :=
  fun s w0 d a o _ hw => ChainBit.clear_of_lt (Option.some.inj hw) (by have := s.isLt; have := w0.isLt; have := d.isLt; have := a.isLt; have := o.isLt; omega)
theorem ChainBit.ldsw : ∀ s w0 d a o, ChainBit.Statement (.ldsw s w0 d a o) :=
  fun s w0 d a o _ hw => ChainBit.clear_of_lt (Option.some.inj hw) (by have := s.isLt; have := w0.isLt; have := d.isLt; have := a.isLt; have := o.isLt; omega)
theorem ChainBit.stsw : ∀ s w0 d a o, ChainBit.Statement (.stsw s w0 d a o) :=
  fun s w0 d a o _ hw => ChainBit.clear_of_lt (Option.some.inj hw) (by have := s.isLt; have := w0.isLt; have := d.isLt; have := a.isLt; have := o.isLt; omega)
theorem ChainBit.ldu : ∀ s w0 d a o, ChainBit.Statement (.ldu s w0 d a o) :=
  fun s w0 d a o _ hw => ChainBit.clear_of_lt (Option.some.inj hw) (by have := s.isLt; have := w0.isLt; have := d.isLt; have := a.isLt; have := o.isLt; omega)
theorem ChainBit.stu : ∀ s w0 d a o, ChainBit.Statement (.stu s w0 d a o) :=
  fun s w0 d a o _ hw => ChainBit.clear_of_lt (Option.some.inj hw) (by have := s.isLt; have := w0.isLt; have := d.isLt; have := a.isLt; have := o.isLt; omega)
theorem ChainBit.atadd : ∀ s d a b, ChainBit.Statement (.atadd s d a b) :=
  fun s d a b _ hw => ChainBit.clear_of_lt (Option.some.inj hw) (by have := s.isLt; have := d.isLt; have := a.isLt; have := b.isLt; omega)
theorem ChainBit.atand : ∀ s d a b, ChainBit.Statement (.atand s d a b) :=
  fun s d a b _ hw => ChainBit.clear_of_lt (Option.some.inj hw) (by have := s.isLt; have := d.isLt; have := a.isLt; have := b.isLt; omega)
theorem ChainBit.ator : ∀ s d a b, ChainBit.Statement (.ator s d a b) :=
  fun s d a b _ hw => ChainBit.clear_of_lt (Option.some.inj hw) (by have := s.isLt; have := d.isLt; have := a.isLt; have := b.isLt; omega)
theorem ChainBit.atxor : ∀ s d a b, ChainBit.Statement (.atxor s d a b) :=
  fun s d a b _ hw => ChainBit.clear_of_lt (Option.some.inj hw) (by have := s.isLt; have := d.isLt; have := a.isLt; have := b.isLt; omega)
theorem ChainBit.atmin : ∀ s d a b, ChainBit.Statement (.atmin s d a b) :=
  fun s d a b _ hw => ChainBit.clear_of_lt (Option.some.inj hw) (by have := s.isLt; have := d.isLt; have := a.isLt; have := b.isLt; omega)
theorem ChainBit.atmax : ∀ s d a b, ChainBit.Statement (.atmax s d a b) :=
  fun s d a b _ hw => ChainBit.clear_of_lt (Option.some.inj hw) (by have := s.isLt; have := d.isLt; have := a.isLt; have := b.isLt; omega)
theorem ChainBit.atminn : ∀ s d a b, ChainBit.Statement (.atminn s d a b) :=
  fun s d a b _ hw => ChainBit.clear_of_lt (Option.some.inj hw) (by have := s.isLt; have := d.isLt; have := a.isLt; have := b.isLt; omega)
theorem ChainBit.atmaxn : ∀ s d a b, ChainBit.Statement (.atmaxn s d a b) :=
  fun s d a b _ hw => ChainBit.clear_of_lt (Option.some.inj hw) (by have := s.isLt; have := d.isLt; have := a.isLt; have := b.isLt; omega)
theorem ChainBit.atexch : ∀ s d a b, ChainBit.Statement (.atexch s d a b) :=
  fun s d a b _ hw => ChainBit.clear_of_lt (Option.some.inj hw) (by have := s.isLt; have := d.isLt; have := a.isLt; have := b.isLt; omega)
theorem ChainBit.atcas : ∀ s d a b, ChainBit.Statement (.atcas s d a b) :=
  fun s d a b _ hw => ChainBit.clear_of_lt (Option.some.inj hw) (by have := s.isLt; have := d.isLt; have := a.isLt; have := b.isLt; omega)
theorem ChainBit.atfadd : ∀ s d a b, ChainBit.Statement (.atfadd s d a b) :=
  fun s d a b _ hw => ChainBit.clear_of_lt (Option.some.inj hw) (by have := s.isLt; have := d.isLt; have := a.isLt; have := b.isLt; omega)
theorem ChainBit.atincw : ∀ s d a b, ChainBit.Statement (.atincw s d a b) :=
  fun s d a b _ hw => ChainBit.clear_of_lt (Option.some.inj hw) (by have := s.isLt; have := d.isLt; have := a.isLt; have := b.isLt; omega)
theorem ChainBit.fenceAcq : ∀ s, ChainBit.Statement (.fenceAcq s) :=
  fun s _ hw => ChainBit.clear_of_lt (Option.some.inj hw) (by have := s.isLt; omega)
theorem ChainBit.fenceRel : ∀ s, ChainBit.Statement (.fenceRel s) :=
  fun s _ hw => ChainBit.clear_of_lt (Option.some.inj hw) (by have := s.isLt; omega)
theorem ChainBit.fenceAr : ∀ s, ChainBit.Statement (.fenceAr s) :=
  fun s _ hw => ChainBit.clear_of_lt (Option.some.inj hw) (by have := s.isLt; omega)
theorem ChainBit.fenceSc : ∀ s, ChainBit.Statement (.fenceSc s) :=
  fun s _ hw => ChainBit.clear_of_lt (Option.some.inj hw) (by have := s.isLt; omega)
theorem ChainBit.lda : ∀ d a s, ChainBit.Statement (.lda d a s) :=
  fun d a s _ hw => ChainBit.clear_of_lt (Option.some.inj hw) (by have := d.isLt; have := a.isLt; have := s.isLt; omega)
theorem ChainBit.stl : ∀ d a s, ChainBit.Statement (.stl d a s) :=
  fun d a s _ hw => ChainBit.clear_of_lt (Option.some.inj hw) (by have := d.isLt; have := a.isLt; have := s.isLt; omega)
theorem ChainBit.barw : ∀ a s, ChainBit.Statement (.barw a s) :=
  fun a s _ hw => ChainBit.clear_of_lt (Option.some.inj hw) (by have := a.isLt; have := s.isLt; omega)
theorem ChainBit.bara : ∀ d a s, ChainBit.Statement (.bara d a s) :=
  fun d a s _ hw => ChainBit.clear_of_lt (Option.some.inj hw) (by have := d.isLt; have := a.isLt; have := s.isLt; omega)
theorem ChainBit.barq : ∀ d a s, ChainBit.Statement (.barq d a s) :=
  fun d a s _ hw => ChainBit.clear_of_lt (Option.some.inj hw) (by have := d.isLt; have := a.isLt; have := s.isLt; omega)
theorem ChainBit.bari : ∀ d a s, ChainBit.Statement (.bari d a s) :=
  fun d a s _ hw => ChainBit.clear_of_lt (Option.some.inj hw) (by have := d.isLt; have := a.isLt; have := s.isLt; omega)
theorem ChainBit.waitp : ∀ a p, ChainBit.Statement (.waitp a p) :=
  fun a p _ hw => ChainBit.clear_of_lt (Option.some.inj hw) (by have := a.isLt; have := p.isLt; omega)
theorem ChainBit.waitw : ∀ d a q s, ChainBit.Statement (.waitw d a q s) :=
  fun d a q s _ hw => ChainBit.clear_of_lt (Option.some.inj hw) (by have := d.isLt; have := a.isLt; have := q.isLt; have := s.isLt; omega)
theorem ChainBit.pref : ∀ a l, ChainBit.Statement (.pref a l) :=
  fun a l _ hw => ChainBit.clear_of_lt (Option.some.inj hw) (by have := a.isLt; have := l.isLt; omega)
theorem ChainBit.wbl : ∀ a, ChainBit.Statement (.wbl a) :=
  fun a _ hw => ChainBit.clear_of_lt (Option.some.inj hw) (by have := a.isLt; omega)
theorem ChainBit.invl : ∀ a, ChainBit.Statement (.invl a) :=
  fun a _ hw => ChainBit.clear_of_lt (Option.some.inj hw) (by have := a.isLt; omega)
theorem ChainBit.scopeset : ∀ d a n, ChainBit.Statement (.scopeset d a n) :=
  fun d a n _ hw => ChainBit.clear_of_lt (Option.some.inj hw) (by have := d.isLt; have := a.isLt; have := n.isLt; omega)
theorem ChainBit.scoperd : ∀ a n, ChainBit.Statement (.scoperd a n) :=
  fun a n _ hw => ChainBit.clear_of_lt (Option.some.inj hw) (by have := a.isLt; have := n.isLt; omega)
theorem ChainBit.cpy : ∀ a, ChainBit.Statement (.cpy a) :=
  fun a _ hw => ChainBit.clear_of_lt (Option.some.inj hw) (by have := a.isLt; omega)
theorem ChainBit.cpym : ∀ d a, ChainBit.Statement (.cpym d a) :=
  fun d a _ hw => ChainBit.clear_of_lt (Option.some.inj hw) (by have := d.isLt; have := a.isLt; omega)
theorem ChainBit.msg : ∀ d a, ChainBit.Statement (.msg d a) :=
  fun d a _ hw => ChainBit.clear_of_lt (Option.some.inj hw) (by have := d.isLt; have := a.isLt; omega)
theorem ChainBit.mpost : ∀ d a, ChainBit.Statement (.mpost d a) :=
  fun d a _ hw => ChainBit.clear_of_lt (Option.some.inj hw) (by have := d.isLt; have := a.isLt; omega)
theorem ChainBit.mprobe : ∀ d a, ChainBit.Statement (.mprobe d a) :=
  fun d a _ hw => ChainBit.clear_of_lt (Option.some.inj hw) (by have := d.isLt; have := a.isLt; omega)
theorem ChainBit.emit : ∀ d a, ChainBit.Statement (.emit d a) :=
  fun d a _ hw => ChainBit.clear_of_lt (Option.some.inj hw) (by have := d.isLt; have := a.isLt; omega)
theorem ChainBit.klook : ∀ d a, ChainBit.Statement (.klook d a) :=
  fun d a _ hw => ChainBit.clear_of_lt (Option.some.inj hw) (by have := d.isLt; have := a.isLt; omega)
theorem ChainBit.knbr : ∀ d a, ChainBit.Statement (.knbr d a) :=
  fun d a _ hw => ChainBit.clear_of_lt (Option.some.inj hw) (by have := d.isLt; have := a.isLt; omega)
theorem ChainBit.kref : ∀ d a, ChainBit.Statement (.kref d a) :=
  fun d a _ hw => ChainBit.clear_of_lt (Option.some.inj hw) (by have := d.isLt; have := a.isLt; omega)
theorem ChainBit.kmrg : ∀ d a, ChainBit.Statement (.kmrg d a) :=
  fun d a _ hw => ChainBit.clear_of_lt (Option.some.inj hw) (by have := d.isLt; have := a.isLt; omega)
theorem ChainBit.kpin : ∀ d a, ChainBit.Statement (.kpin d a) :=
  fun d a _ hw => ChainBit.clear_of_lt (Option.some.inj hw) (by have := d.isLt; have := a.isLt; omega)
theorem ChainBit.kunpin : ∀ d a, ChainBit.Statement (.kunpin d a) :=
  fun d a _ hw => ChainBit.clear_of_lt (Option.some.inj hw) (by have := d.isLt; have := a.isLt; omega)
theorem ChainBit.kcost : ∀ d a, ChainBit.Statement (.kcost d a) :=
  fun d a _ hw => ChainBit.clear_of_lt (Option.some.inj hw) (by have := d.isLt; have := a.isLt; omega)
theorem ChainBit.kbal : ∀ d a, ChainBit.Statement (.kbal d a) :=
  fun d a _ hw => ChainBit.clear_of_lt (Option.some.inj hw) (by have := d.isLt; have := a.isLt; omega)
theorem ChainBit.kiter : ∀ d a, ChainBit.Statement (.kiter d a) :=
  fun d a _ hw => ChainBit.clear_of_lt (Option.some.inj hw) (by have := d.isLt; have := a.isLt; omega)
theorem ChainBit.kcut : ∀ d a n, ChainBit.Statement (.kcut d a n) :=
  fun d a n _ hw => ChainBit.clear_of_lt (Option.some.inj hw) (by have := d.isLt; have := a.isLt; have := n.isLt; omega)
theorem ChainBit.kacre : ∀ d a, ChainBit.Statement (.kacre d a) :=
  fun d a _ hw => ChainBit.clear_of_lt (Option.some.inj hw) (by have := d.isLt; have := a.isLt; omega)
theorem ChainBit.kenc : ∀ d a b, ChainBit.Statement (.kenc d a b) :=
  fun d a b _ hw => ChainBit.clear_of_lt (Option.some.inj hw) (by have := d.isLt; have := a.isLt; have := b.isLt; omega)
theorem ChainBit.kdec : ∀ d a b, ChainBit.Statement (.kdec d a b) :=
  fun d a b _ hw => ChainBit.clear_of_lt (Option.some.inj hw) (by have := d.isLt; have := a.isLt; have := b.isLt; omega)
theorem ChainBit.kpar : ∀ d a b, ChainBit.Statement (.kpar d a b) :=
  fun d a b _ hw => ChainBit.clear_of_lt (Option.some.inj hw) (by have := d.isLt; have := a.isLt; have := b.isLt; omega)
theorem ChainBit.kchd : ∀ d a b, ChainBit.Statement (.kchd d a b) :=
  fun d a b _ hw => ChainBit.clear_of_lt (Option.some.inj hw) (by have := d.isLt; have := a.isLt; have := b.isLt; omega)
theorem ChainBit.rld : ∀ d a r s, ChainBit.Statement (.rld d a r s) :=
  fun d a r s _ hw => ChainBit.clear_of_lt (Option.some.inj hw) (by have := d.isLt; have := a.isLt; have := r.isLt; have := s.isLt; omega)
theorem ChainBit.rst : ∀ d a r s, ChainBit.Statement (.rst d a r s) :=
  fun d a r s _ hw => ChainBit.clear_of_lt (Option.some.inj hw) (by have := d.isLt; have := a.isLt; have := r.isLt; have := s.isLt; omega)
theorem ChainBit.ratom : ∀ d a r s, ChainBit.Statement (.ratom d a r s) :=
  fun d a r s _ hw => ChainBit.clear_of_lt (Option.some.inj hw) (by have := d.isLt; have := a.isLt; have := r.isLt; have := s.isLt; omega)
theorem ChainBit.xsend : ∀ d a r s, ChainBit.Statement (.xsend d a r s) :=
  fun d a r s _ hw => ChainBit.clear_of_lt (Option.some.inj hw) (by have := d.isLt; have := a.isLt; have := r.isLt; have := s.isLt; omega)
theorem ChainBit.xpoll : ∀ d a, ChainBit.Statement (.xpoll d a) :=
  fun d a _ hw => ChainBit.clear_of_lt (Option.some.inj hw) (by have := d.isLt; have := a.isLt; omega)
theorem ChainBit.rred : ∀ d a r s, ChainBit.Statement (.rred d a r s) :=
  fun d a r s _ hw => ChainBit.clear_of_lt (Option.some.inj hw) (by have := d.isLt; have := a.isLt; have := r.isLt; have := s.isLt; omega)
theorem ChainBit.rfence : ∀ s, ChainBit.Statement (.rfence s) :=
  fun s _ hw => ChainBit.clear_of_lt (Option.some.inj hw) (by have := s.isLt; omega)
theorem ChainBit.rpath : ∀ d a, ChainBit.Statement (.rpath d a) :=
  fun d a _ hw => ChainBit.clear_of_lt (Option.some.inj hw) (by have := d.isLt; have := a.isLt; omega)
theorem ChainBit.mma : ∀ h0 k e t u s, ChainBit.Statement (.mma h0 k e t u s) :=
  fun h0 k e t u s _ hw => ChainBit.clear_of_lt (Option.some.inj hw) (by have := h0.isLt; have := k.isLt; have := e.isLt; have := t.isLt; have := u.isLt; have := s.isLt; omega)
theorem ChainBit.mlda : ∀ t a, ChainBit.Statement (.mlda t a) :=
  fun t a _ hw => ChainBit.clear_of_lt (Option.some.inj hw) (by have := t.isLt; have := a.isLt; omega)
theorem ChainBit.mzero : ∀ t, ChainBit.Statement (.mzero t) :=
  fun t _ hw => ChainBit.clear_of_lt (Option.some.inj hw) (by have := t.isLt; omega)
theorem ChainBit.mst : ∀ t a, ChainBit.Statement (.mst t a) :=
  fun t a _ hw => ChainBit.clear_of_lt (Option.some.inj hw) (by have := t.isLt; have := a.isLt; omega)
theorem ChainBit.mest : ∀ d i, ChainBit.Statement (.mest d i) :=
  fun d i _ hw => ChainBit.clear_of_lt (Option.some.inj hw) (by have := d.isLt; have := i.isLt; omega)
theorem ChainBit.twr : ∀ d t p, ChainBit.Statement (.twr d t p) :=
  fun d t p _ hw => ChainBit.clear_of_lt (Option.some.inj hw) (by have := d.isLt; have := t.isLt; have := p.isLt; omega)
theorem ChainBit.trd : ∀ d t p, ChainBit.Statement (.trd d t p) :=
  fun d t p _ hw => ChainBit.clear_of_lt (Option.some.inj hw) (by have := d.isLt; have := t.isLt; have := p.isLt; omega)
theorem ChainBit.pfx : ∀ k r z f w0 n s x, ChainBit.Statement (.pfx k r z f w0 n s x) :=
  fun k r z f w0 n s x _ hw => ChainBit.set_of_le (Option.some.inj hw) (by omega) (by have := k.isLt; have := r.isLt; have := z.isLt; have := f.isLt; have := w0.isLt; have := n.isLt; have := s.isLt; have := x.isLt; omega)
theorem ChainBit.lim : ∀ i, ChainBit.Statement (.lim i) :=
  fun i _ hw => ChainBit.set_of_le (Option.some.inj hw) (by omega) (by have := i.isLt; omega)
theorem ChainBit.drillLi : ∀ a i, ChainBit.Statement (.drillLi a i) :=
  fun a i _ hw => ChainBit.clear_of_lt (Option.some.inj hw) (by have := a.isLt; have := i.isLt; omega)
theorem ChainBit.drillLih : ∀ a i, ChainBit.Statement (.drillLih a i) :=
  fun a i _ hw => ChainBit.clear_of_lt (Option.some.inj hw) (by have := a.isLt; have := i.isLt; omega)
theorem ChainBit.drillLdw : ∀ a b g o, ChainBit.Statement (.drillLdw a b g o) :=
  fun a b g o _ hw => ChainBit.clear_of_lt (Option.some.inj hw) (by have := a.isLt; have := b.isLt; have := g.isLt; have := o.isLt; omega)
theorem ChainBit.drillLdd : ∀ a b g o, ChainBit.Statement (.drillLdd a b g o) :=
  fun a b g o _ hw => ChainBit.clear_of_lt (Option.some.inj hw) (by have := a.isLt; have := b.isLt; have := g.isLt; have := o.isLt; omega)
theorem ChainBit.drillStw : ∀ a b g o, ChainBit.Statement (.drillStw a b g o) :=
  fun a b g o _ hw => ChainBit.clear_of_lt (Option.some.inj hw) (by have := a.isLt; have := b.isLt; have := g.isLt; have := o.isLt; omega)
theorem ChainBit.drillStd : ∀ a b g o, ChainBit.Statement (.drillStd a b g o) :=
  fun a b g o _ hw => ChainBit.clear_of_lt (Option.some.inj hw) (by have := a.isLt; have := b.isLt; have := g.isLt; have := o.isLt; omega)
theorem ChainBit.drillAdd : ∀ a b, ChainBit.Statement (.drillAdd a b) :=
  fun a b _ hw => ChainBit.clear_of_lt (Option.some.inj hw) (by have := a.isLt; have := b.isLt; omega)
theorem ChainBit.drillSub : ∀ a b, ChainBit.Statement (.drillSub a b) :=
  fun a b _ hw => ChainBit.clear_of_lt (Option.some.inj hw) (by have := a.isLt; have := b.isLt; omega)
theorem ChainBit.drillAnd : ∀ a b, ChainBit.Statement (.drillAnd a b) :=
  fun a b _ hw => ChainBit.clear_of_lt (Option.some.inj hw) (by have := a.isLt; have := b.isLt; omega)
theorem ChainBit.drillOr : ∀ a b, ChainBit.Statement (.drillOr a b) :=
  fun a b _ hw => ChainBit.clear_of_lt (Option.some.inj hw) (by have := a.isLt; have := b.isLt; omega)
theorem ChainBit.drillXor : ∀ a b, ChainBit.Statement (.drillXor a b) :=
  fun a b _ hw => ChainBit.clear_of_lt (Option.some.inj hw) (by have := a.isLt; have := b.isLt; omega)
theorem ChainBit.drillShl : ∀ a s, ChainBit.Statement (.drillShl a s) :=
  fun a s _ hw => ChainBit.clear_of_lt (Option.some.inj hw) (by have := a.isLt; have := s.isLt; omega)
theorem ChainBit.drillShr : ∀ a s, ChainBit.Statement (.drillShr a s) :=
  fun a s _ hw => ChainBit.clear_of_lt (Option.some.inj hw) (by have := a.isLt; have := s.isLt; omega)
theorem ChainBit.drillAddi : ∀ a i, ChainBit.Statement (.drillAddi a i) :=
  fun a i _ hw => ChainBit.clear_of_lt (Option.some.inj hw) (by have := a.isLt; have := i.isLt; omega)
theorem ChainBit.drillBeq : ∀ a b i, ChainBit.Statement (.drillBeq a b i) :=
  fun a b i _ hw => ChainBit.clear_of_lt (Option.some.inj hw) (by have := a.isLt; have := b.isLt; have := i.isLt; omega)
theorem ChainBit.drillBne : ∀ a b i, ChainBit.Statement (.drillBne a b i) :=
  fun a b i _ hw => ChainBit.clear_of_lt (Option.some.inj hw) (by have := a.isLt; have := b.isLt; have := i.isLt; omega)
theorem ChainBit.drillBltu : ∀ a b i, ChainBit.Statement (.drillBltu a b i) :=
  fun a b i _ hw => ChainBit.clear_of_lt (Option.some.inj hw) (by have := a.isLt; have := b.isLt; have := i.isLt; omega)
theorem ChainBit.drillLoop : ∀ a l n, ChainBit.Statement (.drillLoop a l n) :=
  fun a l n _ hw => ChainBit.clear_of_lt (Option.some.inj hw) (by have := a.isLt; have := l.isLt; have := n.isLt; omega)
theorem ChainBit.drillLaunch : ∀ a b, ChainBit.Statement (.drillLaunch a b) :=
  fun a b _ hw => ChainBit.clear_of_lt (Option.some.inj hw) (by have := a.isLt; have := b.isLt; omega)
theorem ChainBit.drillNode : ∀ a i, ChainBit.Statement (.drillNode a i) :=
  fun a i _ hw => ChainBit.clear_of_lt (Option.some.inj hw) (by have := a.isLt; have := i.isLt; omega)
theorem ChainBit.drillSignal : ∀ a b, ChainBit.Statement (.drillSignal a b) :=
  fun a b _ hw => ChainBit.clear_of_lt (Option.some.inj hw) (by have := a.isLt; have := b.isLt; omega)
theorem ChainBit.drillWaitsig : ∀ a b c, ChainBit.Statement (.drillWaitsig a b c) :=
  fun a b c _ hw => ChainBit.clear_of_lt (Option.some.inj hw) (by have := a.isLt; have := b.isLt; have := c.isLt; omega)
theorem ChainBit.drillIndirect : ∀ a b, ChainBit.Statement (.drillIndirect a b) :=
  fun a b _ hw => ChainBit.clear_of_lt (Option.some.inj hw) (by have := a.isLt; have := b.isLt; omega)
theorem ChainBit.nop : ChainBit.Statement .nop :=
  fun _ hw => ChainBit.clear_of_lt (Option.some.inj hw) (by omega)
theorem ChainBit.exit : ChainBit.Statement .exit :=
  fun _ hw => ChainBit.clear_of_lt (Option.some.inj hw) (by omega)
theorem ChainBit.yield : ChainBit.Statement .yield :=
  fun _ hw => ChainBit.clear_of_lt (Option.some.inj hw) (by omega)
theorem ChainBit.invlAll : ChainBit.Statement .invlAll :=
  fun _ hw => ChainBit.clear_of_lt (Option.some.inj hw) (by omega)
theorem ChainBit.mrls : ChainBit.Statement .mrls :=
  fun _ hw => ChainBit.clear_of_lt (Option.some.inj hw) (by omega)
theorem ChainBit.illegalPattern : ∀ cause slot word, ChainBit.Statement (.illegalPattern cause slot word) :=
  fun _ _ _ _ h => nomatch (h : (none : Option Word) = some _)
theorem ChainBit.plotAdmit : ∀ plot, ChainBit.Statement (.plotAdmit plot) :=
  fun _ _ h => nomatch (h : (none : Option Word) = some _)
theorem ChainBit.furrowRelease : ∀ furrow, ChainBit.Statement (.furrowRelease furrow) :=
  fun _ _ h => nomatch (h : (none : Option Word) = some _)
theorem ChainBit.loadComplete : ∀ op, ChainBit.Statement (.loadComplete op) :=
  fun _ _ h => nomatch (h : (none : Option Word) = some _)
theorem ChainBit.storeComplete : ∀ op, ChainBit.Statement (.storeComplete op) :=
  fun _ _ h => nomatch (h : (none : Option Word) = some _)
theorem ChainBit.atomicComplete : ∀ op, ChainBit.Statement (.atomicComplete op) :=
  fun _ _ h => nomatch (h : (none : Option Word) = some _)
theorem ChainBit.l1Fill : ∀ core line, ChainBit.Statement (.l1Fill core line) :=
  fun _ _ _ h => nomatch (h : (none : Option Word) = some _)
theorem ChainBit.homeRead : ∀ op line, ChainBit.Statement (.homeRead op line) :=
  fun _ _ _ h => nomatch (h : (none : Option Word) = some _)
theorem ChainBit.homeRenewal : ∀ op line, ChainBit.Statement (.homeRenewal op line) :=
  fun _ _ _ h => nomatch (h : (none : Option Word) = some _)
theorem ChainBit.homeStore : ∀ op line, ChainBit.Statement (.homeStore op line) :=
  fun _ _ _ h => nomatch (h : (none : Option Word) = some _)
theorem ChainBit.exclusiveGrant : ∀ op line, ChainBit.Statement (.exclusiveGrant op line) :=
  fun _ _ _ h => nomatch (h : (none : Option Word) = some _)
theorem ChainBit.recall : ∀ line, ChainBit.Statement (.recall line) :=
  fun _ _ h => nomatch (h : (none : Option Word) = some _)
theorem ChainBit.stampRebase : ChainBit.Statement .stampRebase :=
  fun _ h => nomatch (h : (none : Option Word) = some _)
theorem ChainBit.barrierArrival : ∀ op, ChainBit.Statement (.barrierArrival op) :=
  fun _ _ h => nomatch (h : (none : Option Word) = some _)
theorem ChainBit.barrierWake : ∀ furrow entry, ChainBit.Statement (.barrierWake furrow entry) :=
  fun _ _ _ h => nomatch (h : (none : Option Word) = some _)
theorem ChainBit.barrierReread : ∀ furrow entry, ChainBit.Statement (.barrierReread furrow entry) :=
  fun _ _ _ h => nomatch (h : (none : Option Word) = some _)
theorem ChainBit.waitwWake : ∀ furrow entry, ChainBit.Statement (.waitwWake furrow entry) :=
  fun _ _ _ h => nomatch (h : (none : Option Word) = some _)
theorem ChainBit.waitwPoll : ∀ furrow entry, ChainBit.Statement (.waitwPoll furrow entry) :=
  fun _ _ _ h => nomatch (h : (none : Option Word) = some _)
theorem ChainBit.faultRecordWrite : ∀ ctx, ChainBit.Statement (.faultRecordWrite ctx) :=
  fun _ _ h => nomatch (h : (none : Option Word) = some _)
theorem ChainBit.fresume : ∀ ctx, ChainBit.Statement (.fresume ctx) :=
  fun _ _ h => nomatch (h : (none : Option Word) = some _)
theorem ChainBit.svcrep : ∀ ctx value, ChainBit.Statement (.svcrep ctx value) :=
  fun _ _ _ h => nomatch (h : (none : Option Word) = some _)
theorem ChainBit.tlbinv : ∀ ctx value, ChainBit.Statement (.tlbinv ctx value) :=
  fun _ _ _ h => nomatch (h : (none : Option Word) = some _)
theorem ChainBit.messageArrival : ∀ op, ChainBit.Statement (.messageArrival op) :=
  fun _ _ h => nomatch (h : (none : Option Word) = some _)
theorem ChainBit.scopeInstall : ∀ op, ChainBit.Statement (.scopeInstall op) :=
  fun _ _ h => nomatch (h : (none : Option Word) = some _)
theorem ChainBit.l2SliceRetire : ∀ die slice, ChainBit.Statement (.l2SliceRetire die slice) :=
  fun _ _ _ h => nomatch (h : (none : Option Word) = some _)
theorem ChainBit.retireResend : ∀ op, ChainBit.Statement (.retireResend op) :=
  fun _ _ h => nomatch (h : (none : Option Word) = some _)
theorem ChainBit.dpartWrite : ∀ die value, ChainBit.Statement (.dpartWrite die value) :=
  fun _ _ _ h => nomatch (h : (none : Option Word) = some _)
theorem ChainBit.copyCommandStart : ∀ cluster, ChainBit.Statement (.copyCommandStart cluster) :=
  fun _ _ h => nomatch (h : (none : Option Word) = some _)
theorem ChainBit.copyCommandEnd : ∀ cluster, ChainBit.Statement (.copyCommandEnd cluster) :=
  fun _ _ h => nomatch (h : (none : Option Word) = some _)
theorem ChainBit.matrixOpStart : ∀ cluster, ChainBit.Statement (.matrixOpStart cluster) :=
  fun _ _ h => nomatch (h : (none : Option Word) = some _)
theorem ChainBit.matrixOpComplete : ∀ op, ChainBit.Statement (.matrixOpComplete op) :=
  fun _ _ h => nomatch (h : (none : Option Word) = some _)
theorem ChainBit.budgetAddition : ∀ cluster, ChainBit.Statement (.budgetAddition cluster) :=
  fun _ _ h => nomatch (h : (none : Option Word) = some _)
theorem ChainBit.powerMeasure : ∀ milliwatts, ChainBit.Statement (.powerMeasure milliwatts) :=
  fun _ _ h => nomatch (h : (none : Option Word) = some _)
theorem ChainBit.thermalLimit : ∀ die celsius, ChainBit.Statement (.thermalLimit die celsius) :=
  fun _ _ _ h => nomatch (h : (none : Option Word) = some _)
theorem ChainBit.keyRequest : ∀ op, ChainBit.Statement (.keyRequest op) :=
  fun _ _ h => nomatch (h : (none : Option Word) = some _)
theorem ChainBit.leafHandover : ∀ ctx acre cluster key, ChainBit.Statement (.leafHandover ctx acre cluster key) :=
  fun _ _ _ _ _ h => nomatch (h : (none : Option Word) = some _)
theorem ChainBit.kbalDrain : ∀ ctx acre, ChainBit.Statement (.kbalDrain ctx acre) :=
  fun _ _ _ h => nomatch (h : (none : Option Word) = some _)
theorem ChainBit.qresRead : ∀ queue, ChainBit.Statement (.qresRead queue) :=
  fun _ _ h => nomatch (h : (none : Option Word) = some _)
theorem ChainBit.queueEnable : ∀ queue cfg, ChainBit.Statement (.queueEnable queue cfg) :=
  fun _ _ _ h => nomatch (h : (none : Option Word) = some _)
theorem ChainBit.qctlPreempt : ∀ queue, ChainBit.Statement (.qctlPreempt queue) :=
  fun _ _ h => nomatch (h : (none : Option Word) = some _)
theorem ChainBit.qctlResume : ∀ queue, ChainBit.Statement (.qctlResume queue) :=
  fun _ _ h => nomatch (h : (none : Option Word) = some _)
theorem ChainBit.qctlDestroy : ∀ queue, ChainBit.Statement (.qctlDestroy queue) :=
  fun _ _ h => nomatch (h : (none : Option Word) = some _)
theorem ChainBit.drillPacketStart : ∀ queue, ChainBit.Statement (.drillPacketStart queue) :=
  fun _ _ h => nomatch (h : (none : Option Word) = some _)
theorem ChainBit.drillRet : ChainBit.Statement .drillRet :=
  fun _ hw => ChainBit.clear_of_lt (Option.some.inj hw) (by omega)
theorem ChainBit.drillFence : ChainBit.Statement .drillFence :=
  fun _ hw => ChainBit.clear_of_lt (Option.some.inj hw) (by omega)
theorem ChainBit.drillNext : ChainBit.Statement .drillNext :=
  fun _ hw => ChainBit.clear_of_lt (Option.some.inj hw) (by omega)
theorem ChainBit.plotPlace : ∀ launch, ChainBit.Statement (.plotPlace launch) :=
  fun _ _ h => nomatch (h : (none : Option Word) = some _)
theorem ChainBit.launchSignal : ∀ launch, ChainBit.Statement (.launchSignal launch) :=
  fun _ _ h => nomatch (h : (none : Option Word) = some _)
theorem ChainBit.plotSave : ∀ plot, ChainBit.Statement (.plotSave plot) :=
  fun _ _ h => nomatch (h : (none : Option Word) = some _)
theorem ChainBit.streamSave : ∀ furrow, ChainBit.Statement (.streamSave furrow) :=
  fun _ _ h => nomatch (h : (none : Option Word) = some _)
theorem ChainBit.sheafRecordOffer : ∀ op, ChainBit.Statement (.sheafRecordOffer op) :=
  fun _ _ h => nomatch (h : (none : Option Word) = some _)
theorem ChainBit.sheafTimerExpire : ∀ launch node, ChainBit.Statement (.sheafTimerExpire launch node) :=
  fun _ _ _ h => nomatch (h : (none : Option Word) = some _)
theorem ChainBit.coldReset : ∀ fail signed components, ChainBit.Statement (.coldReset fail signed components) :=
  fun _ _ _ _ h => nomatch (h : (none : Option Word) = some _)
theorem ChainBit.warmReset : ∀ zeroGddr, ChainBit.Statement (.warmReset zeroGddr) :=
  fun _ _ h => nomatch (h : (none : Option Word) = some _)
theorem ChainBit.functionLevelReset : ChainBit.Statement .functionLevelReset :=
  fun _ h => nomatch (h : (none : Option Word) = some _)
theorem ChainBit.spdmGetMeasurements : ∀ signed, ChainBit.Statement (.spdmGetMeasurements signed) :=
  fun _ _ h => nomatch (h : (none : Option Word) = some _)
theorem ChainBit.devnoWrite : ∀ value, ChainBit.Statement (.devnoWrite value) :=
  fun _ _ h => nomatch (h : (none : Option Word) = some _)
theorem ChainBit.rasCounterClear : ∀ unit, ChainBit.Statement (.rasCounterClear unit) :=
  fun _ _ h => nomatch (h : (none : Option Word) = some _)
theorem ChainBit.bridgeHalfFailure : ∀ bridge, ChainBit.Statement (.bridgeHalfFailure bridge) :=
  fun _ _ h => nomatch (h : (none : Option Word) = some _)
theorem ChainBit.bridgeFailure : ∀ bridge, ChainBit.Statement (.bridgeFailure bridge) :=
  fun _ _ h => nomatch (h : (none : Option Word) = some _)
theorem ChainBit.registerWrite : ∀ offset value, ChainBit.Statement (.registerWrite offset value) :=
  fun _ _ _ h => nomatch (h : (none : Option Word) = some _)
theorem ChainBit.flitReceive : ∀ port usable bytes, ChainBit.Statement (.flitReceive port usable bytes) :=
  fun _ _ _ _ h => nomatch (h : (none : Option Word) = some _)
theorem ChainBit.replayTimeout : ∀ group peer, ChainBit.Statement (.replayTimeout group peer) :=
  fun _ _ _ h => nomatch (h : (none : Option Word) = some _)
theorem ChainBit.lossOfLight : ∀ port positions laser, ChainBit.Statement (.lossOfLight port positions laser) :=
  fun _ _ _ _ h => nomatch (h : (none : Option Word) = some _)
theorem ChainBit.darkPositionDetect : ∀ port positions, ChainBit.Statement (.darkPositionDetect port positions) :=
  fun _ _ _ h => nomatch (h : (none : Option Word) = some _)
theorem ChainBit.headlandTimeout : ∀ port, ChainBit.Statement (.headlandTimeout port) :=
  fun _ _ h => nomatch (h : (none : Option Word) = some _)
theorem ChainBit.wavelengthRetrain : ∀ port position, ChainBit.Statement (.wavelengthRetrain port position) :=
  fun _ _ _ h => nomatch (h : (none : Option Word) = some _)
theorem ChainBit.wavelengthRejoin : ∀ port position ok, ChainBit.Statement (.wavelengthRejoin port position ok) :=
  fun _ _ _ _ h => nomatch (h : (none : Option Word) = some _)
theorem ChainBit.beaconReceive : ∀ port source seed, ChainBit.Statement (.beaconReceive port source seed) :=
  fun _ _ _ _ h => nomatch (h : (none : Option Word) = some _)
theorem ChainBit.lightReturn : ∀ group, ChainBit.Statement (.lightReturn group) :=
  fun _ _ h => nomatch (h : (none : Option Word) = some _)
theorem ChainBit.slotClose : ∀ group, ChainBit.Statement (.slotClose group) :=
  fun _ _ h => nomatch (h : (none : Option Word) = some _)
theorem ChainBit.remoteRequest : ∀ source agent tag ordered body, ChainBit.Statement (.remoteRequest source agent tag ordered body) :=
  fun _ _ _ _ _ _ h => nomatch (h : (none : Option Word) = some _)
theorem ChainBit.remoteReply : ∀ about fail values marks, ChainBit.Statement (.remoteReply about fail values marks) :=
  fun _ _ _ _ _ h => nomatch (h : (none : Option Word) = some _)
theorem ChainBit.remoteTimeout : ∀ op, ChainBit.Statement (.remoteTimeout op) :=
  fun _ _ h => nomatch (h : (none : Option Word) = some _)
theorem ChainBit.reductionCombine : ∀ ctx id member mode opcode values, ChainBit.Statement (.reductionCombine ctx id member mode opcode values) :=
  fun _ _ _ _ _ _ _ h => nomatch (h : (none : Option Word) = some _)
theorem ChainBit.bulkRequest : ∀ source ctx tag dest flag length unit attributes seed, ChainBit.Statement (.bulkRequest source ctx tag dest flag length unit attributes seed) :=
  fun _ _ _ _ _ _ _ _ _ _ h => nomatch (h : (none : Option Word) = some _)
theorem ChainBit.grantIssue : ∀ unit, ChainBit.Statement (.grantIssue unit) :=
  fun _ _ h => nomatch (h : (none : Option Word) = some _)
theorem ChainBit.grantReceive : ∀ peer ctx tag offset size, ChainBit.Statement (.grantReceive peer ctx tag offset size) :=
  fun _ _ _ _ _ _ h => nomatch (h : (none : Option Word) = some _)
theorem ChainBit.bulkDataReceive : ∀ link ctx tag offset bytes, ChainBit.Statement (.bulkDataReceive link ctx tag offset bytes) :=
  fun _ _ _ _ _ _ h => nomatch (h : (none : Option Word) = some _)
theorem ChainBit.grantExpiry : ∀ source ctx tag index, ChainBit.Statement (.grantExpiry source ctx tag index) :=
  fun _ _ _ _ _ h => nomatch (h : (none : Option Word) = some _)
theorem ChainBit.senderSilenceTimeout : ∀ ctx tag, ChainBit.Statement (.senderSilenceTimeout ctx tag) :=
  fun _ _ _ h => nomatch (h : (none : Option Word) = some _)
theorem ChainBit.doneReceive : ∀ peer ctx tag, ChainBit.Statement (.doneReceive peer ctx tag) :=
  fun _ _ _ _ h => nomatch (h : (none : Option Word) = some _)
theorem ChainBit.abortReceive : ∀ peer ctx tag, ChainBit.Statement (.abortReceive peer ctx tag) :=
  fun _ _ _ _ h => nomatch (h : (none : Option Word) = some _)
theorem ChainBit.deferResend : ∀ ctx tag, ChainBit.Statement (.deferResend ctx tag) :=
  fun _ _ _ h => nomatch (h : (none : Option Word) = some _)
theorem ChainBit.xctlPause : ∀ ctx, ChainBit.Statement (.xctlPause ctx) :=
  fun _ _ h => nomatch (h : (none : Option Word) = some _)
theorem ChainBit.xctlResume : ∀ ctx, ChainBit.Statement (.xctlResume ctx) :=
  fun _ _ h => nomatch (h : (none : Option Word) = some _)
theorem ChainBit.pauseNotice : ∀ peer ctx tag paused, ChainBit.Statement (.pauseNotice peer ctx tag paused) :=
  fun _ _ _ _ _ h => nomatch (h : (none : Option Word) = some _)
theorem ChainBit.pageWalkComplete : ∀ furrow va access, ChainBit.Statement (.pageWalkComplete furrow va access) :=
  fun _ _ _ _ h => nomatch (h : (none : Option Word) = some _)
theorem ChainBit.tileTransferComplete : ∀ op, ChainBit.Statement (.tileTransferComplete op) :=
  fun _ _ h => nomatch (h : (none : Option Word) = some _)
theorem ChainBit.queueFaultRingSpace : ∀ queue, ChainBit.Statement (.queueFaultRingSpace queue) :=
  fun _ _ h => nomatch (h : (none : Option Word) = some _)
theorem ChainBit.cxlMemRequest : ∀ kind address bytes, ChainBit.Statement (.cxlMemRequest kind address bytes) :=
  fun _ _ _ _ h => nomatch (h : (none : Option Word) = some _)
theorem ChainBit.powerLoss : ChainBit.Statement .powerLoss :=
  fun _ h => nomatch (h : (none : Option Word) = some _)

end Sys2Proof.Laws
end

