-- ==== Sys2Proof/Tests/Slice0.lean ====
section
/-! SUPPORT. Tests: ill-formed terms, words of the manual's encodings, the worked numbers of the manual, and for each statement of
Certificates/Slice0/Obligations.lean states and operands that meet its hypotheses (the theorems named test_meets_…). -/

namespace Sys2Proof.Tests
open Sys2Proof Sys2Proof.Machine

-- one theorem after another: evaluated together they take more memory than a check has
set_option Elab.async false

/-! ### Well-formedness: for each check of a constructor a term that it refuses -/

theorem test_ill_formed_1 : ([.rdsr 0 29, .wrsr 0 20, .rdcnt 0 6, .sysc 0 2 0, .br 7 0 0, .brk 5 0 0, .loop 0 0, .vadd 1 7 8 8, .vadd 1 0 8 8, .vadd 1 8 7 8, .vadd 1 8 0 8,
    .vadd 1 8 8 7, .vadd 1 8 8 0, .vsub 1 7 8 8, .vsub 1 8 7 8, .vsub 1 8 8 7, .vmul 1 7 8 8, .vmul 1 8 7 8, .vmul 1 8 8 7, .vmulh 1 7 8 8,
    .vmulh 1 8 7 8, .vmulh 1 8 8 7, .vmulhn 1 7 8 8, .vmulhn 1 8 7 8, .vmulhn 1 8 8 7, .vaddc 1 7 8 8, .vaddc 1 8 7 8, .vaddc 1 8 8 7, .vsadd 1 7 8 8,
    .vsadd 1 8 7 8, .vsadd 1 8 8 7, .vssub 1 7 8 8, .vssub 1 8 7 8, .vssub 1 8 8 7, .vand 1 7 8 8, .vand 1 8 7 8, .vand 1 8 8 7, .vor 1 7 8 8,
    .vor 1 8 7 8, .vor 1 8 8 7, .vxor 1 7 8 8, .vxor 1 8 7 8, .vxor 1 8 8 7, .vandn 1 7 8 8, .vandn 1 8 7 8, .vandn 1 8 8 7, .vshl 1 7 8 8,
    .vshl 1 8 7 8, .vshl 1 8 8 7, .vshr 1 7 8 8, .vshr 1 8 7 8, .vshr 1 8 8 7, .vsra 1 7 8 8, .vsra 1 8 7 8] : List Instr).all (fun i => !wellFormed i) = true := by decide

theorem test_ill_formed_2 : ([.vsra 1 8 8 7, .vrot 1 7 8 8, .vrot 1 8 7 8, .vrot 1 8 8 7, .vshli 1 7 8 0, .vshli 1 8 7 0, .vshri 1 7 8 0, .vshri 1 8 7 0, .vsrai 1 7 8 0,
    .vsrai 1 8 7 0, .vroti 1 7 8 0, .vroti 1 8 7 0, .vmin 1 7 8 8, .vmin 1 8 7 8, .vmin 1 8 8 7, .vmax 1 7 8 8, .vmax 1 8 7 8, .vmax 1 8 8 7,
    .vminn 1 7 8 8, .vminn 1 8 7 8, .vminn 1 8 8 7, .vmaxn 1 7 8 8, .vmaxn 1 8 7 8, .vmaxn 1 8 8 7, .vclz 1 7 8, .vclz 1 8 7, .vpopc 1 7 8, .vpopc 1 8 7,
    .vbrev 1 7 8, .vbrev 1 8 7, .vabs 1 7 8, .vabs 1 8 7, .vbfe 1 7 8 8, .vbfe 1 8 7 8, .vbfe 1 8 8 7, .vbfen 1 7 8 8, .vbfen 1 8 7 8, .vbfen 1 8 8 7,
    .vbfi 1 7 8 8, .vbfi 1 8 7 8, .vbfi 1 8 8 7, .vprmb 1 7 8 8, .vprmb 1 8 7 8, .vprmb 1 8 8 7, .vmad 1 7 8 8, .vmad 1 8 7 8, .vmad 1 8 8 7,
    .vdot4 1 7 8 8, .vdot4 1 8 7 8, .vdot4 1 8 8 7, .vdot4n 1 7 8 8, .vdot4n 1 8 7 8, .vdot4n 1 8 8 7, .vsad 1 7 8 8] : List Instr).all (fun i => !wellFormed i) = true := by decide

theorem test_ill_formed_3 : ([.vsad 1 8 7 8, .vsad 1 8 8 7, .vmov 1 7 8, .vmov 1 8 7, .fadd 1 7 8 8, .fadd 1 8 7 8, .fadd 1 8 8 7, .fsub 1 7 8 8, .fsub 1 8 7 8, .fsub 1 8 8 7,
    .fmul 1 7 8 8, .fmul 1 8 7 8, .fmul 1 8 8 7, .fmac 1 7 8 8, .fmac 1 8 7 8, .fmac 1 8 8 7, .fmin 1 7 8 8, .fmin 1 8 7 8, .fmin 1 8 8 7, .fmax 1 7 8 8,
    .fmax 1 8 7 8, .fmax 1 8 8 7, .fcpys 1 7 8 8, .fcpys 1 8 7 8, .fcpys 1 8 8 7, .fscal 1 7 8 8, .fscal 1 8 7 8, .fscal 1 8 8 7, .frcp 1 7 8,
    .frcp 1 8 7, .frsq 1 7 8, .frsq 1 8 7, .fsqrt 1 7 8, .fsqrt 1 8 7, .fexp2 1 7 8, .fexp2 1 8 7, .flog2 1 7 8, .flog2 1 8 7, .fsin 1 7 8, .fsin 1 8 7,
    .fcos 1 7 8, .fcos 1 8 7, .ftanh 1 7 8, .ftanh 1 8 7, .cvtf 1 7 8 0, .cvtf 1 8 7 0, .cvti 1 7 8 0, .cvti 1 8 7 0, .frnd 1 7 8, .frnd 1 8 7,
    .cvtn 1 7 8 0, .cvtn 1 8 7 0, .qpack 0 2 8, .qpack 0 8 0] : List Instr).all (fun i => !wellFormed i) = true := by decide

theorem test_ill_formed_4 : ([.qunpk 2 0, .qretag 0 0 0, .ktos 1 0, .kfrs 0 1, .shfli 1 7 8 0, .shfli 1 8 7 0, .shflu 1 7 8 0, .shflu 1 8 7 0, .shfld 1 7 8 0, .shfld 1 8 7 0,
    .shflx 1 7 8 0, .shflx 1 8 7 0, .redadd 1 0 0, .redmin 3 0 0, .redmax 3 0 0, .scanadd 1 0 0, .scanmin 3 0 0, .scanmax 3 0 0, .scanaddx 1 0 0,
    .ld 6 0 8 8 0, .ld 0 0 8 1 0, .ld 5 0 8 1 0, .ld 0 1 7 8 0, .st 6 0 8 8 0, .st 0 1 7 8 0, .ldsw 6 0 0 8 0, .stsw 6 0 0 8 0, .ldu 0 0 8 8 0,
    .ldu 1 0 8 8 0, .ldu 5 0 8 1 0, .ldu 0 1 7 8 0, .stu 0 0 8 8 0, .stu 0 1 7 8 0, .atadd 0 0 0 0, .atand 0 0 0 0, .ator 0 0 0 0, .atxor 0 0 0 0,
    .atmin 0 0 0 0, .atmax 0 0 0 0, .atminn 0 0 0 0, .atmaxn 0 0 0 0, .atexch 0 0 0 0, .atcas 0 0 0 8, .atcas 0 0 8 1, .atfadd 0 0 0 0, .atincw 0 0 0 0,
    .lda 0 1 0, .stl 0 1 0, .barw 1 0, .bara 0 1 0, .barq 0 1 0, .bari 0 1 0, .waitp 0 6, .waitw 0 8 3 0] : List Instr).all (fun i => !wellFormed i) = true := by decide

theorem test_ill_formed_5 : ([.waitw 0 1 0 0, .pref 1 0, .wbl 1, .invl 1, .scopeset 0 8 0, .scopeset 0 1 1, .scoperd 1 0, .cpy 4, .cpym 2 8, .cpym 8 4, .msg 1 8, .msg 8 4,
    .mpost 0 2, .mprobe 0 2, .emit 0 4, .klook 4 8, .klook 8 2, .knbr 4 8, .knbr 8 2, .kref 0 2, .kmrg 0 2, .kpin 4 8, .kpin 8 2, .kunpin 1 8,
    .kunpin 8 2, .kcost 1 8, .kcost 8 2, .kbal 0 2, .kiter 4 8, .kiter 8 2, .kcut 4 8 0, .kcut 8 1 0, .kcut 8 8 3, .kacre 0 1, .kenc 1 8 0, .kenc 8 2 0,
    .kdec 2 8 0, .kdec 8 1 0, .kpar 1 8 0, .kpar 8 1 0, .kchd 1 8 0, .kchd 8 1 0, .rld 0 1 0 0, .rst 0 4 0 0, .ratom 0 2 0 0, .xsend 0 4 0 0, .xpoll 2 0,
    .rred 0 4 0 0, .rpath 2 0, .mma 18 0 0 0 0 0, .twr 4 0 0, .trd 4 0 0, .pfx 0 7 0 0 0 0 0 0, .drillLi 16 1] : List Instr).all (fun i => !wellFormed i) = true := by decide

theorem test_ill_formed_6 : ([.drillLih 16 1, .drillLdw 16 1 1 1, .drillLdw 1 16 1 1, .drillLdw 1 1 6 1, .drillLdd 16 1 1 1, .drillLdd 1 16 1 1, .drillLdd 1 1 6 1,
    .drillStw 16 1 1 1, .drillStw 1 16 1 1, .drillStw 1 1 6 1, .drillStd 16 1 1 1, .drillStd 1 16 1 1, .drillStd 1 1 6 1, .drillAdd 16 1, .drillAdd 1 16,
    .drillSub 16 1, .drillSub 1 16, .drillAnd 16 1, .drillAnd 1 16, .drillOr 16 1, .drillOr 1 16, .drillXor 16 1, .drillXor 1 16, .drillShl 16 1,
    .drillShr 16 1, .drillAddi 16 1, .drillBeq 16 1 1, .drillBeq 1 16 1, .drillBeq 1 1 0, .drillBne 16 1 1, .drillBne 1 16 1, .drillBne 1 1 0,
    .drillBltu 16 1 1, .drillBltu 1 16 1, .drillBltu 1 1 0, .drillLoop 16 1 1, .drillLoop 1 0 1, .drillLoop 1 1 0, .drillLaunch 16 1, .drillLaunch 1 16,
    .drillNode 16 1, .drillSignal 16 1, .drillSignal 1 16, .drillWaitsig 16 1 1, .drillWaitsig 1 16 1, .drillWaitsig 1 1 3, .drillIndirect 16 1,
    .drillIndirect 1 16, .br 0 1 0, .mma 6 0 0 1 0 0, .mma 7 0 0 1 0 0, .mma 7 0 0 0 1 0] : List Instr).all (fun i => !wellFormed i) = true := by decide

/-! ### Decoding: every constructor's word, those of the manual's worked examples where it has one, the others put together from the fields
of its encoding (02 R39, R57, R58, R60; 04 R91; 06 R165; 15 R336) -/

/-- A word reads as an instruction. -/
def reads (r : Except DecodeError Instr) (i : Instr) : Bool :=
  match r with
  | .ok j => decide (j = i)
  | .error _ => false

theorem test_decode_worked_1 : ([(0x00143142, .spawn 5 6 2), (0x0203FFFF, .waitc 0 63 63 63), (0x04413FFF, .br 2 4 0x3FFF), (0x06204002, .brk 1 1 2), (0x8C014307, .sadd 5 6 7),
    (0x1A244EA0, .saddi 9 9 0x6A0), (0x3E02048A, .fadd 0 8 9 10), (0x56418205, .mred 2 6 4 5), (0x5C808244, .ld 2 0 4 9 4),
    (0x6931408B, .ator 3 10 1 11), (0x6E000004, .fenceAcq 4), (0x6E000024, .fenceRel 4), (0x6E000040, .fenceAr 0), (0x6E000062, .fenceSc 2),
    (0x6E281083, .lda 10 2 3), (0x6E2C10A3, .stl 11 2 3), (0x6E0040C4, .barw 8 4), (0x6E003944, .waitp 7 4), (0x6E144171, .waitw 5 8 2 1),
    (0x6E1441E4, .scopeset 5 8 4)] : List (Word × Instr)).all (fun p => reads (decodeWord p.1) p.2) = true := by decide

theorem test_decode_worked_2 : ([(0x6E004204, .scoperd 8 4), (0x6E004220, .cpy 8), (0x6E404240, .cpym 16 8), (0x6E184260, .msg 6 8), (0x6E146280, .mpost 5 12),
    (0x6E1462A0, .mprobe 5 12), (0x6E1842C0, .emit 6 8), (0x70402000, .klook 16 4), (0x70504040, .kref 20 8), (0x70505060, .kmrg 20 10),
    (0x705040E0, .kbal 20 8), (0x70404100, .kiter 16 8), (0x70404121, .kcut 16 8 1), (0x70504140, .kacre 20 8), (0x72228208, .kenc 10 4 8),
    (0x72A40708, .kdec 16 14 8), (0x73230508, .kpar 12 10 8), (0x73A38609, .kchd 14 12 9), (0x74281005, .rld 10 2 0 5), (0x74504025, .rst 20 8 0 5)] : List (Word × Instr)).all (fun p => reads (decodeWord p.1) p.2) = true := by decide

theorem test_decode_worked_3 : ([(0x7430204D, .ratom 12 4 1 5), (0x7454406D, .xsend 21 8 1 5), (0x7460B080, .xpoll 24 22), (0x745040A5, .rred 20 8 0 5), (0x740000C5, .rfence 5),
    (0x7460B0E0, .rpath 24 22), (0x760CC440, .mma 0 1 1 3 1 8), (0x78084800, .mlda 2 9), (0x78000020, .mzero 0), (0x780C5040, .mst 3 10),
    (0x78000060, .mrls), (0x78140080, .mest 5 0), (0x7A200000, .twr 8 0 0), (0x7A400021, .trd 16 0 1), (0xFC660000, .pfx 3 1 1 0 0 0 0 0),
    (0xFE000030, .lim 0x30)] : List (Word × Instr)).all (fun p => reads (decodeWord p.1) p.2) = true := by decide

theorem test_decode_1 : ([(0x00000000, .nop), (0x00000020, .exit), (0x00000040, .yield), (0x00000075, .trap 21), (0x00000081, .rte 1), (0x003400B5, .rdsr 13 21),
    (0x000128D5, .wrsr 37 21), (0x003400E3, .rdcnt 13 3), (0x00352915, .sysc 13 37 21), (0x00012920, .halt 37), (0x00000175, .brkpt 21),
    (0x0802401A, .call 9 26), (0x0A02401A, .loop 9 26), (0x0C8352D6, .ssub 13 37 86), (0x0D0352D6, .smul 13 37 86), (0x0D8352D6, .smulh 13 37 86),
    (0x0E0352D6, .sand 13 37 86), (0x0E8352D6, .sor 13 37 86), (0x0F0352D6, .sxor 13 37 86), (0x0F8352D6, .sandn 13 37 86)] : List (Word × Instr)).all (fun p => reads (decodeWord p.1) p.2) = true := by decide

theorem test_decode_2 : ([(0x100352D6, .sshl 13 37 86), (0x108352D6, .sshr 13 37 86), (0x110352D6, .ssra 13 37 86), (0x118352D6, .srot 13 37 86),
    (0x12035296, .sshli 13 37 22), (0x12835296, .sshri 13 37 22), (0x13035296, .ssrai 13 37 22), (0x13835296, .sroti 13 37 22),
    (0x140352D6, .smin 13 37 86), (0x148352D6, .smax 13 37 86), (0x150352D6, .sminn 13 37 86), (0x158352D6, .smaxn 13 37 86),
    (0x160352D6, .sseq 13 37 86), (0x168352D6, .sslt 13 37 86), (0x170352D6, .ssltn 13 37 86), (0x178352D6, .ssne 13 37 86), (0x18035280, .smov 13 37),
    (0x188352D6, .ssel 13 37 86), (0x19035280, .sclz 13 37), (0x19835280, .spopc 13 37)] : List (Word × Instr)).all (fun p => reads (decodeWord p.1) p.2) = true := by decide

theorem test_decode_3 : ([(0x1C340555, .sli 13 1365), (0x1E340555, .slui 13 1365), (0x20012800, .jmp 37), (0x20352820, .callr 13 37), (0x222352D6, .vadd 1 13 37 86),
    (0x22A352D6, .vsub 1 13 37 86), (0x232352D6, .vmul 1 13 37 86), (0x23A352D6, .vmulh 1 13 37 86), (0x242352D6, .vmulhn 1 13 37 86),
    (0x24A352D6, .vaddc 1 13 37 86), (0x252352D6, .vsadd 1 13 37 86), (0x25A352D6, .vssub 1 13 37 86), (0x262352D6, .vand 1 13 37 86),
    (0x26A352D6, .vor 1 13 37 86), (0x272352D6, .vxor 1 13 37 86), (0x27A352D6, .vandn 1 13 37 86), (0x282352D6, .vshl 1 13 37 86),
    (0x28A352D6, .vshr 1 13 37 86), (0x292352D6, .vsra 1 13 37 86), (0x29A352D6, .vrot 1 13 37 86)] : List (Word × Instr)).all (fun p => reads (decodeWord p.1) p.2) = true := by decide

theorem test_decode_4 : ([(0x2A235296, .vshli 1 13 37 22), (0x2AA35296, .vshri 1 13 37 22), (0x2B235296, .vsrai 1 13 37 22), (0x2BA35296, .vroti 1 13 37 22),
    (0x2C2352D6, .vmin 1 13 37 86), (0x2CA352D6, .vmax 1 13 37 86), (0x2D2352D6, .vminn 1 13 37 86), (0x2DA352D6, .vmaxn 1 13 37 86),
    (0x2E235280, .vclz 1 13 37), (0x2EA35280, .vpopc 1 13 37), (0x2F235280, .vbrev 1 13 37), (0x2FA35280, .vabs 1 13 37), (0x302352D6, .vbfe 1 13 37 86),
    (0x30A352D6, .vbfen 1 13 37 86), (0x312352D6, .vbfi 1 13 37 86), (0x31A352D6, .vprmb 1 13 37 86), (0x322352D6, .vmad 1 13 37 86),
    (0x32A352D6, .vdot4 1 13 37 86), (0x332352D6, .vdot4n 1 13 37 86), (0x33A352D6, .vsad 1 13 37 86)] : List (Word × Instr)).all (fun p => reads (decodeWord p.1) p.2) = true := by decide

theorem test_decode_5 : ([(0x34352D55, .vaddi 13 37 1365), (0x36340555, .vli 13 1365), (0x380352D6, .vceq 13 37 86), (0x388352D6, .vclt 13 37 86),
    (0x390352D6, .vcltn 13 37 86), (0x398352D6, .vcne 13 37 86), (0x3AA352D6, .vsel 5 13 37 86), (0x3C235280, .vmov 1 13 37), (0x3C835280, .vmovs 13 37),
    (0x3D0352D6, .vrdl 13 37 86), (0x3D8352D6, .vwrl 13 37 86), (0x3EA352D6, .fsub 1 13 37 86), (0x3F2352D6, .fmul 1 13 37 86),
    (0x3FA352D6, .fmac 1 13 37 86), (0x402352D6, .fmin 1 13 37 86), (0x40A352D6, .fmax 1 13 37 86), (0x412352D6, .fcpys 1 13 37 86),
    (0x41A352D6, .fscal 1 13 37 86), (0x420352D6, .fceq 13 37 86), (0x428352D6, .fclt 13 37 86)] : List (Word × Instr)).all (fun p => reads (decodeWord p.1) p.2) = true := by decide

theorem test_decode_6 : ([(0x430352D6, .fcle 13 37 86), (0x438352D6, .fcun 13 37 86), (0x44235280, .frcp 1 13 37), (0x44A35280, .frsq 1 13 37), (0x45235280, .fsqrt 1 13 37),
    (0x45A35280, .fexp2 1 13 37), (0x46235280, .flog2 1 13 37), (0x46A35280, .fsin 1 13 37), (0x47235280, .fcos 1 13 37), (0x47A35280, .ftanh 1 13 37),
    (0x48235280, .cvtf 1 13 37 0), (0x48A35280, .cvti 1 13 37 0), (0x49235280, .frnd 1 13 37), (0x49A35286, .cvtn 1 13 37 6),
    (0x4A435282, .qpack 13 37 2), (0x4AC35280, .qunpk 13 37), (0x4B0352D6, .qscal 13 37 86), (0x4B835282, .qretag 13 37 2), (0x4C034286, .kand 13 5 6),
    (0x4C834286, .kor 13 5 6)] : List (Word × Instr)).all (fun p => reads (decodeWord p.1) p.2) = true := by decide

theorem test_decode_7 : ([(0x4D034286, .kxor 13 5 6), (0x4D834286, .kandn 13 5 6), (0x4E034280, .kpopc 13 5), (0x4E834280, .kffs 13 5), (0x4F234280, .ktos 13 5),
    (0x4FA35280, .kfrs 13 37), (0x502352D6, .shfli 1 13 37 86), (0x50A35296, .shflu 1 13 37 22), (0x51235296, .shfld 1 13 37 22),
    (0x51A35296, .shflx 1 13 37 22), (0x52435280, .redadd 2 13 37), (0x52C35280, .redmin 2 13 37), (0x53435280, .redmax 2 13 37),
    (0x53835280, .redor 13 37), (0x54435280, .scanadd 2 13 37), (0x54C35280, .scanmin 2 13 37), (0x55435280, .scanmax 2 13 37),
    (0x55C35280, .scanaddx 2 13 37), (0x58A352D6, .mredf 5 13 37 86), (0x5AA352D6, .mredm 5 13 37 86)] : List (Word × Instr)).all (fun p => reads (decodeWord p.1) p.2) = true := by decide

theorem test_decode_8 : ([(0x5E91A95A, .st 2 1 13 37 26), (0x6091A95A, .ldsw 2 1 13 37 26), (0x6291A95A, .stsw 2 1 13 37 26), (0x6491A95A, .ldu 2 1 13 37 26),
    (0x6691A95A, .stu 2 1 13 37 26), (0x6821B2D6, .atadd 2 13 37 86), (0x68A1B2D6, .atand 2 13 37 86), (0x69A1B2D6, .atxor 2 13 37 86),
    (0x6A21B2D6, .atmin 2 13 37 86), (0x6AA1B2D6, .atmax 2 13 37 86), (0x6B21B2D6, .atminn 2 13 37 86), (0x6BA1B2D6, .atmaxn 2 13 37 86),
    (0x6C21B2D6, .atexch 2 13 37 86), (0x6CA1B2D6, .atcas 2 13 37 86), (0x6D21B2D6, .atfadd 2 13 37 86), (0x6DA1B2D6, .atincw 2 13 37 86),
    (0x6E3528E2, .bara 13 37 2), (0x6E352902, .barq 13 37 2), (0x6E352922, .bari 13 37 2), (0x6E012981, .pref 37 1)] : List (Word × Instr)).all (fun p => reads (decodeWord p.1) p.2) = true := by decide

theorem test_decode_9 : ([(0x6E0129A0, .wbl 37), (0x6E0129C0, .invl 37), (0x6E0001C1, .invlAll), (0x70352820, .knbr 13 37), (0x70352880, .kpin 13 37),
    (0x703528A0, .kunpin 13 37), (0x703528C0, .kcost 13 37)] : List (Word × Instr)).all (fun p => reads (decodeWord p.1) p.2) = true := by decide

theorem test_decode_drill : ([(0x00A00555, .drillLi 5 1365), (0x04A00555, .drillLih 5 1365), (0x08B6501A, .drillLdw 5 22 5 26), (0x0C600002, .drillLdd 3 0 0 2),
    (0x10B6501A, .drillStw 5 22 5 26), (0x14B6501A, .drillStd 5 22 5 26), (0x18B60000, .drillAdd 5 22), (0x1CB60000, .drillSub 5 22),
    (0x20B60000, .drillAnd 5 22), (0x24B60000, .drillOr 5 22), (0x28B60000, .drillXor 5 22), (0x2CA00002, .drillShl 5 2), (0x30A00002, .drillShr 5 2),
    (0x34A00555, .drillAddi 5 1365), (0x38B60555, .drillBeq 5 22 1365), (0x3CB60555, .drillBne 5 22 1365), (0x40B60555, .drillBltu 5 22 1365),
    (0x44A02115, .drillLoop 5 33 21), (0x48640000, .drillLaunch 3 4), (0x4CA00555, .drillNode 5 1365), (0x50B60000, .drillSignal 5 22),
    (0x54B60001, .drillWaitsig 5 22 1), (0x58B60000, .drillIndirect 5 22), (0x5C000000, .drillRet), (0x60000000, .drillFence), (0x64000000, .drillNext)] : List (Word × Instr)).all (fun p => reads (decodeDrill p.1) p.2) = true := by decide

/-- 02 R61: reserved codes of the X majors, and a `nop` word with another bit set, are no instructions. -/
theorem test_decode_reserved : ([0x00000001, 0x00000800, 0x00000180, 0x20000040, 0x6E0002E0, 0x70000160, 0x74000100, 0x780000A0, 0x7A000040] : List Word).all (fun w =>
    match decodeWord w with
    | .ok _ => false
    | .error _ => true) = true := by decide

/-! ### Numbers that the manual works out -/

/-- 03 R82: the CRC-16 of "123456789" is 0x29B1. -/
theorem test_crc16 : crc16 [0x31, 0x32, 0x33, 0x34, 0x35, 0x36, 0x37, 0x38, 0x39] = 0x29B1 := by decide +kernel

/-- 17 R371, R372: the digest of "abc" that FIPS 180-4 works out. -/
theorem test_sha256 : sha256 [0x61, 0x62, 0x63] = 0xBA7816BF8F01CFEA414140DE5DAE2223B00361A396177A9CB410FF61F20015AD := by decide +kernel

/-- 18 R386: the CRC-64 of "123456789" is 0x6C40DF5F0B497347. -/
theorem test_crc64 : crc64 [0x31, 0x32, 0x33, 0x34, 0x35, 0x36, 0x37, 0x38, 0x39] = 0x6C40DF5F0B497347 := by decide +kernel

/-! ### States for the hypotheses of the statements -/

/-- A furrow of 16 threads, all active, with the given vector and scalar registers, that issues at slot 0 of packet 0 (one page over the low
64 GiB; see `placeWord`). -/
def unit (v s : NMap Word) : State :=
  let b := placeWord State.reset 0 false
  let f : Furrow := { placedFurrow false with v, s }
  { b with furrows := [(furrowKey 0 0, f)], pre := f, cur := f, iss := { furrow := furrowKey 0 0 } }

/-- Thread 0 of v1 holds 5, thread 0 of v2 the least integer; s1 holds 7, s2 holds 9. -/
def one : State := unit [(64, 5), (128, 0x80000000)] [(1, 7), (2, 9)]

/-- As `one`, under a prefix that takes no active thread in zero mode (k5 is zero), or that asks for `rsr`, or with a LIM word. -/
def none_ : State := { one with iss := { one.iss with pfx := some (.pfx 5 0 1 0 0 0 0 0) } }
def drawing : State := { one with iss := { one.iss with pfx := some (.pfx 0 5 0 0 0 0 0 0) } }
def longer : State := { one with iss := { one.iss with lim := some (.lim 0x1FFFFFF) } }

/-- The bounds in RegisterFiles, ImmediateForms, ScalarMoves, VectorThirdSources, VectorMoves, BitFields, DrawsOnce and RoundsTowardZero, and the two
cases of ImmediateForms. -/
theorem test_meets_bounds : ((63 : Nat) < 64 ∧ (31 : Nat) < 32 ∧ (11 : Nat) ≤ 11 ∧ (18 : Nat) ≤ 18 ∧ (1 : Word) ≠ 0 ∧ (1 : Nat) ≠ 0) ∧
    one.iss.lim = none ∧ longer.iss.lim = some (.lim 0x1FFFFFF) := by decide

/-- ScalarArithmetic and ScalarMoves: their operands, s0 and s127 among them. -/
theorem test_meets_scalar_operands : Ready one [.s 0 1, .s 1 2, .ds 127] ∧ Ready one [.s 0 0, .s 1 0, .ds 0] ∧ Ready one [.s 0 1, .ds 3] ∧
    Ready one [.s 0 1, .s 1 2, .s 3 3] ∧ Ready one [.ds 3] ∧ Ready one [.s 0 127] ∧ Ready one [] ∧ Ready one [.s 3 1] := by
  unfold Ready; decide

/-- VectorArithmetic, VectorThirdSources, VectorMoves, BitFields and FloatElements: with every thread active, with none, with a fourth operand, and at
the last register. -/
theorem test_meets_vector_operands :
    (Ready one [.v 0 1 1 (act one), .v 1 2 1 (act one), .dv 127] ∧ Ready one [.v 0 4 4 (act one), .v 1 8 4 (act one), .dv 12] ∧
      Ready one [.v 0 1 1 (act one), .v 1 2 1 (act one), .v 2 (pfxOf one).c4 1 (act one), .dv 3] ∧
      Ready one [.v 0 1 1 (act one), .v 1 2 1 (act one), .v 3 3 1 (act one)] ∧ Ready one [.v 0 1 1 (act one), .dv 0] ∧ act one ≠ 0) ∧
    Ready none_ [.v 0 1 1 (act none_), .v 1 2 1 (act none_), .dv 3] ∧ act none_ = 0 ∧ zeroed none_ ≠ 0 := by
  unfold Ready; decide

theorem test_meets_VectorMoves : Ready one [.dv 3] ∧ Ready one [.v 0 1 1 (act one), .v 1 2 1 (act one), .dv 3, .k 3 1 (act one != 0)] := by
  unfold Ready; decide

theorem test_meets_LaneAccess : Ready one [{ Opd.s 0 1 with thr := if act one = 0 then 0 else 1 }, .dv 3] ∧
    Ready one [.v 0 1 1 (if act one != 0 then 1 <<< ((S one 2).toNat % 64) else 0), { Opd.s 1 2 with thr := if act one != 0 then 1 else 0 }, .ds 3] ∧
    Ready none_ [.v 0 1 1 (if act none_ != 0 then 1 <<< ((S none_ 2).toNat % 64) else 0), { Opd.s 1 2 with thr := if act none_ != 0 then 1 else 0 }, .ds 3] ∧
    Ready one [{ Opd.s 0 1 with thr := if act one = 0 then 0 else 1 }, { Opd.s 1 2 with thr := if act one = 0 then 0 else 1 }, .dv 3] := by
  unfold Ready; decide

/-- IntegerCompares, FloatCompares and MaskLogic. -/
theorem test_meets_mask_operands : Ready one [.v 0 1 1 (act one), .v 1 2 1 (act one)] ∧ Ready one [.k 0 1 (act one != 0), .k 1 15 (act one != 0)] ∧
    Ready one [.k 0 1 (act one != 0), .ds 3] ∧ Ready one [.k 0 1, .ds 4] ∧ Ready one [{ Opd.s 0 4 2 with per := [if act one &&& 0xFFFFFFFF = 0 then 0 else 1, if act one >>> 32 = 0 then 0 else 1] }] ∧
    (∀ u, u < 64 → ((one.pre.kget 0 1) &&& act one).getLsbD u = false) ∧ ((one.pre.kget 0 0) &&& act one).getLsbD 0 = true := by
  unfold Ready; decide

theorem test_meets_FloatInstructions : Ready drawing [.v 0 1 1 (act drawing), .v 1 2 1 (act drawing), .dv 3] ∧ roundMode drawing = 5 ∧
    Ready one [.v 0 1 1 (act one), .v 3 3 1 (act one)] ∧ roundMode one ≠ 5 := by
  unfold Ready; decide

/-- FloatInstructions: a NaN of each sort, zeros, infinities and finite values at the bounds of its clauses. -/
theorem test_meets_FloatInstructions_words : let size (z : Word) : Nat := z.toNat % 2 ^ 31
    let finite (z : Word) : Prop := size z < 0x7F800000
    let nan (z : Word) : Bool := decide (z.toNat / 2 ^ 23 % 2 ^ 8 = 255 ∧ z.toNat % 2 ^ 23 ≠ 0);
    (({ rng := 1, mode := 5 } : Fx).mode ≤ 5 ∧ nan 0x7F800001 = true ∧ nan 0xFFC00000 = true ∧ nan 0x7F800000 = false ∧ size 0x7F800000 = 0x7F800000 ∧ size 0xFF800000 = 0x7F800000) ∧
    (finite 0x7F7FFFFF ∧ finite 0 ∧ size 1 ≠ 0 ∧ (1 : Word).msb = false) ∧ ((0x80000001 : Word).msb = true ∧ size 0x80000001 ≠ 0 ∧ finite 0x80000001) ∧
    ((0x43000000 : Word).msb = false ∧ 0x43000000 ≤ size 0x43000000 ∧ finite 0x43000000) ∧ ((0xC3160001 : Word).msb = true ∧ 0x43160000 < size 0xC3160001 ∧ finite 0xC3160001) ∧
    (0x49800000 < size 0xC9800001 ∧ finite 0xC9800001) ∧ (0 < size 1 ∧ 0 < size 0x397FFFFF ∧ size 0x397FFFFF < 0x39800000) ∧ (0x41100000 ≤ size 0x41100000 ∧ finite 0x41100000) ∧
    (0 : Nat) < 2 ^ 32 ∧ (2 ^ 32 - 1 : Nat) < 2 ^ 32 := by decide

/-- The whole numbers -149 and 127, and the powers of two 2^-149 and 2^0, as fp32 values. -/
theorem test_meets_FloatInstructions_values : let mag (m : Fmt) (p : Nat) : ℝ :=
      if p < 2 ^ m.fb then (p : ℝ) * 2 ^ (m.emin - m.fb) else ((p % 2 ^ m.fb + 2 ^ m.fb : Nat) : ℝ) * 2 ^ ((p / 2 ^ m.fb : Nat) - m.bias - m.fb : ℤ)
    let val (z : Word) : ℝ := (if z.msb then -1 else 1) * mag fp32 (z.toNat % 2 ^ 31)
    val 0xC3150000 = (-149 : ℤ) ∧ val 0x42FE0000 = (127 : ℤ) ∧ val 1 = (2 : ℝ) ^ (-149 : ℤ) ∧ val 0x3F800000 = (2 : ℝ) ^ (0 : ℤ) := by
  intro mag val
  have h1 : (0xC3150000 : Word).msb = true := by decide
  have h2 : (0x42FE0000 : Word).msb = false := by decide
  have h3 : (1 : Word).msb = false := by decide
  have h4 : (0x3F800000 : Word).msb = false := by decide
  have b : fp32.fb = 23 ∧ fp32.bias = 127 ∧ fp32.emin = -126 := by decide
  have t1 : (0xC3150000 : Word).toNat = 0xC3150000 := rfl
  have t2 : (0x42FE0000 : Word).toNat = 0x42FE0000 := rfl
  have t3 : (1 : Word).toNat = 1 := rfl
  have t4 : (0x3F800000 : Word).toNat = 0x3F800000 := rfl
  refine ⟨?_, ?_, ?_, ?_⟩ <;> simp only [val, mag, h1, h2, h3, h4, t1, t2, t3, t4, b] <;> norm_num

/-- TranscendentalAccuracy: one half is no whole number, three no power of two, and the bounds of the ranges. -/
theorem test_meets_TranscendentalAccuracy : let size (z : Word) : Nat := z.toNat % 2 ^ 31
    let mag (p : Nat) : ℝ := if p < 2 ^ 23 then (p : ℝ) * 2 ^ (-149 : ℤ) else ((p % 2 ^ 23 + 2 ^ 23 : Nat) : ℝ) * 2 ^ ((p / 2 ^ 23 : Nat) - 150 : ℤ)
    let signed (neg : Bool) (m : ℝ) : ℝ := if neg then -m else m
    let val (z : Word) : ℝ := signed z.msb (mag (size z));
    (size 0x3F000000 < 0x7F800000 ∧ -150 ≤ val 0x3F000000 ∧ val 0x3F000000 < 128 ∧ ∀ i : ℤ, -149 ≤ i → val 0x3F000000 ≠ i) ∧
    (0 < size 0x40400000 ∧ size 0x40400000 < 0x7F800000 ∧ (0x40400000 : Word).msb = false ∧ ∀ i : ℤ, val 0x40400000 ≠ (2 : ℝ) ^ i) ∧
    (0 < size 1 ∧ size 0xC9800000 ≤ 0x49800000 ∧ 0x39800000 ≤ size 0x39800000 ∧ size 0xC10FFFFF < 0x41100000) := by
  intro size mag signed val
  have h1 : (0x3F000000 : Word).msb = false := by decide
  have h2 : (0x40400000 : Word).msb = false := by decide
  have t1 : (0x3F000000 : Word).toNat = 0x3F000000 := rfl
  have t2 : (0x40400000 : Word).toNat = 0x40400000 := rfl
  have v1 : val 0x3F000000 = 1 / 2 := by simp only [val, signed, mag, size, h1, t1]; norm_num
  have v2 : val 0x40400000 = 3 := by simp only [val, signed, mag, size, h2, t2]; norm_num
  rw [v1, v2]
  refine ⟨⟨by decide, by norm_num, by norm_num, fun i _ e => ?_⟩, ⟨by decide, by decide, by decide, fun i e => ?_⟩, by decide⟩
  · have h : (2 * i : ℤ) = 1 := by
      have : (2 * i : ℝ) = 1 := by linarith
      exact_mod_cast this
    omega
  · rcases lt_or_ge i 2 with h | h
    · have := zpow_le_zpow_right₀ (by norm_num : (1 : ℝ) ≤ 2) (show i ≤ 1 by omega)
      norm_num at this; linarith
    · have := zpow_le_zpow_right₀ (by norm_num : (1 : ℝ) ≤ 2) h
      norm_num at this; linarith

/-- A NaN among the values, and a nonzero number. -/
theorem test_meets_NanResults : (fp16 = fp32 ∨ fp16 = fp16 ∨ fp16 = bf16) ∧ (fval 0x7F800001).isNan = true ∧ (fdecode fp32 fp32.canon).isNan = true := by
  refine ⟨.inr (.inl rfl), by decide, by decide⟩

/-- A result is a next state. -/
def goesOn (r : Result) : Bool :=
  match r with
  | .next _ => true
  | _ => false

theorem goesOn_next {r : Result} (h : goesOn r = true) : ∃ t, r = .next t := by
  cases r with
  | next t => exact ⟨t, rfl⟩
  | _ => simp [goesOn] at h

theorem test_meets_EncodeDecode : wellFormed (.vadd 3 8 16 24) = true ∧ encode (.vadd 3 8 16 24) = some 0x22620818 ∧ isDrill (.drillLi 15 0xFFFF) = true ∧
    wellFormed (.drillLi 15 0xFFFF) = true ∧ encode (.drillLi 15 0xFFFF) = some 0x01E0FFFF ∧
    reads (decodeWord 0x22620818) (.vadd 3 8 16 24) = true ∧ reads (decodeDrill 0x01E0FFFF) (.drillLi 15 0xFFFF) = true := by decide

/-- A furrow about to issue `sli s5, 7` (major 0x0E: 0x0E << 25 | 5 << 18 | 7), and a drill about to run `DRILL_LI g3, 7`. -/
def placed : State := placeWord State.reset 0x1C140007 false
def placedDrill : State := placeDrillWord State.reset 0x00600007

theorem test_meets_StepRunsDecoded :
    (placed.agenda = [] ∧ placed.upsets = [] ∧ todos placed = [.issue (furrowKey 0 0)] ∧ (chooseEntry (placed.furrow (furrowKey 0 0)) []).2 = some 0 ∧
      tfind placed.held (heldKey (furrowKey 0 0) 0) = none) ∧
    (placedDrill.agenda = [] ∧ placedDrill.upsets = [] ∧ todos placedDrill = [.drill 0] ∧ (placedDrill.queue 0).inPacket = true) ∧
    (isInput .powerLoss = true ∧ chain 0x1C140007 = false ∧ reads (decodeWord 0x1C140007) (.sli 5 7) = true ∧ wellFormed (.sli 5 7) = true ∧
      unitRuns false 0x1C140007 = true ∧ majorOf 0x1C140007 ≠ 0x3E ∧ majorOf 0x1C140007 ≠ 0x3F) ∧
    (one.iss.stall = .none ∧ one.iss.trapped = false ∧ one.iss.rest = [] ∧ one.iss.under = none ∧ one.iss.ctl = .fall ∧ one.iss.park = []) := by decide

theorem test_meets_StepRunsDecoded_fetch : let g := makeResident (placed.furrow (furrowKey 0 0)) 0
    (lateTrap g).isNone = true ∧ insideCode g (g.entry 0).pc.toNat = true ∧
    ∃ ws s', fetchGroup placed g (g.entry 0).pc (g.entry 0).slot = .words ws s' ∧ nopGroup g.stream ws (g.entry 0).slot = none ∧
      decodeGroup g.stream ws (g.entry 0).slot = (0, .ok [{ slot := 0, word := 0x1C140007, instr := .sli 5 7 }]) := by
  refine ⟨by decide, by decide, _, _, rfl, by decide, ?_⟩
  rfl

/-- Another entry's reply into s5 locks it; nothing locks it in `placed`, which has no report to make. -/
theorem test_meets_StepRunsDecoded_interlocks : let g := makeResident (placed.furrow (furrowKey 0 0)) 0
    let ms : List Member := [{ slot := 0, word := 0x1C140007, instr := .sli 5 7 }]
    placedReport (placed.furrow (furrowKey 0 0)) = none ∧ interlocks (interlocked placed (furrowKey 0 0) 0 g) ms = false ∧
    interlocks (interlocked placed (furrowKey 0 0) 0 { g with entries := g.entries ++ [{ id := 1, parent := 1, mask := 1, waits := [.service 5] }] }) ms = true ∧
    ((one.cur.entry one.iss.entry).slot = 0 ∧ one.iss.lastSlot ≠ 2 ∧ ({ one.iss with lastSlot := 2 } : Issue).lastSlot = 2) := by decide

/-- The step runs the word that stands at the furrow's place: s5 is 7. -/
theorem test_step_runs_sli : (match step (State.reset.withFetchWord 32 0x1C140007) with
    | .next t => (t.furrow (furrowKey 0 0)).sget 5
    | _ => 0) = 7 := by decide

/-- The step runs the drill's word: g3 is 7. -/
theorem test_step_runs_drill : (match step (State.reset.withFetchWord 32 0x00600007) with
    | .next t => tget (t.queue 0).g 3 0
    | _ => 0) = 7 := by decide

theorem test_meets_StepKeepsMemoryCanonical : placed.mem.wf = true ∧ ∃ t, step placed = .next t := ⟨by decide, goesOn_next (by decide)⟩

theorem test_meets_MemoryWords : (writeBytes [] 8 [1, 0, 2]).wf = true ∧ Memory.wf [] = true := by decide

/-- In runtime mode; with 16 scalar and 16 vector registers; with marks; as a stream. -/
def runtime : State := { one with pre := { one.pre with rt := true }, cur := { one.cur with rt := true } }
def tight : State := { one with pre := { one.pre with scount := 16, vcount := 16 } }
def marked : State := { one with pre := { one.pre with sMark := [(1, .poisoned)], vMark := [(64, .uncorrectable)] } }
def streaming : State :=
  let b := placeWord State.reset 0 true
  let f : Furrow := { placedFurrow true with s := [(1, 7), (2, 9)] }
  { b with furrows := [(streamKey 0 0, f)], pre := f, cur := f, iss := { furrow := streamKey 0 0 } }

theorem test_meets_SpecialRegisterReads : Ready one [.ds 3] ∧ Ready one [.dv 3] ∧ one.pre.stream = false ∧ Ready runtime [.ds 3] ∧ runtime.pre.rt = true ∧
    streaming.pre.stream = true ∧ Ready streaming [.ds 3] := by
  unfold Ready; decide

theorem test_meets_SpecialRegisterWrites : Ready one [.s 0 1] ∧ Ready runtime [.s 0 1] ∧ runtime.pre.rt = true ∧ srWritable 20 = false ∧ srWritable 29 = false := by
  unfold Ready; decide

theorem test_meets_MemberChecks : one.pre.rt = false ∧ (tight.pre.scount ≤ (16 : BitVec 7).toNat ∧ (15 : BitVec 7).toNat < tight.pre.scount) ∧
    tight.pre.vcount ≤ (16 : BitVec 7).toNat ∧
    (([.s 0 1, .ds 3] : List Opd).find? (·.beyond marked.pre)) = none ∧ (firstPoison marked.pre (maskPrefixOpd marked ++ [.s 0 1, .ds 3])).isSome = true ∧
    firstPoison marked.pre (maskPrefixOpd marked ++ [.s 0 2, .ds 3]) = none ∧
    (let f := placed.furrow (furrowKey 0 0)
     (tfind placed.furrows (furrowKey 0 0)).isSome = true ∧ (15 < f.width ∧ 127 < f.vcount ∧ tget f.vMark (64 * 127 + 15) .clean = .clean) ∧
     (127 < f.scount ∧ tget f.sMark 127 .clean = .clean) ∧ tget f.kMark 15 .clean = .clean) ∧ (firstPoison marked.pre [.v 0 1 1 1]).isSome = true := by decide

/-- A furrow with a trap table at its code's last packet, and one past it. -/
def tabled : State := { one with cur := { one.cur with tvec := 12 * 127 } }
def untabled : State := { one with cur := { one.cur with tvec := 12 * 128 } }

theorem test_meets_TrapEntry : (tabled.cur.rt = false ∧ tabled.cur.tvec ≠ 0 ∧ 12 * ((tabled.cur.tvec.toNat + 48 * (0 : BitVec 6).toNat) / 12) + 12 ≤ tabled.cur.csize.toNat) ∧
    runtime.cur.rt = true ∧ one.cur.tvec = 0 ∧ untabled.cur.csize.toNat < 12 * ((untabled.cur.tvec.toNat + 48 * (0 : BitVec 6).toNat) / 12) + 12 ∧
    one.cur.stream = false := by decide

theorem test_meets_TrapReturn : runtime.pre.rt = true ∧ Ready runtime [] ∧ 12 * (runtime.pre.epc >>> 2).toNat + 12 ≤ runtime.pre.csize.toNat ∧
    ({ runtime.pre with epc := 4 * 128 } : Furrow).csize.toNat < 12 * (({ runtime.pre with epc := 4 * 128 } : Furrow).epc >>> 2).toNat + 12 := by
  unfold Ready; decide

/-- `loop`: a count of 1 ends, 0 and 2 branch; packets 127 and 128 are the last inside and the first outside. -/
theorem test_meets_LoopInstruction : Ready one [.s 3 1] ∧ S { one with pre := { one.pre with s := [(1, 1)] } } 1 - 1 = 0 ∧ S one 1 - 1 ≠ 0 ∧ S one 0 = 0 ∧
    ((0 : Int) ≤ one.iss.pkt.toNat + (imm32 one 14 127).toInt ∧ 12 * ((one.iss.pkt.toNat : Int) + (imm32 one 14 127).toInt) + 12 ≤ one.pre.csize.toNat) ∧
    (one.pre.csize.toNat : Int) < 12 * ((one.iss.pkt.toNat : Int) + (imm32 one 14 128).toInt) + 12 ∧
    (one.iss.pkt.toNat : Int) + (imm32 one 14 0x3FFF).toInt < 0 ∧
    (2 < 3 ∧ ([0, 0, 0x0A00007F] : List Word)[2]? = some (0x0A000000 + (0x7F : BitVec 14).setWidth 32)) := by
  unfold Ready; decide

theorem test_meets_Transfers : Ready one [.s 3 0] ∧ Ready one [.s 0 1] ∧ Ready one [.ds 0] ∧ Ready one [.s 0 1, .ds 3] ∧ (0 : BitVec 4).toNat ≤ 6 ∧
    (6 : BitVec 4).toNat ≤ 6 ∧ (S one 1).toInt > 0 ∧ 12 * ((S one 1).toNat : Int) + 12 ≤ one.pre.csize.toNat ∧
    (one.pre.csize.toNat : Int) < 12 * ((S { one with pre := { one.pre with s := [(1, 128)] } } 1).toNat : Int) + 12 := by
  unfold Ready; decide

/-- k1 selects the even threads: a split, with room for two entries more and without it; k2 holds every thread, k3 none. -/
def forked : State := let f := { one.pre with k := [(1, 0x5555), (2, 0xFFFF)] }
  { one with pre := f, cur := f }

theorem test_meets_BranchOnMask : Ready forked [.k 3 1] ∧ let m := forked.pre.kget 0 0
    let t (r : Nat) : Mask := m &&& forked.pre.kget 0 r
    (t 1 ≠ m ∧ t 1 ≠ 0 ∧ t 2 = m ∧ t 3 = 0 ∧ forked.pre.rt = false ∧ forked.pre.entries.length + 2 ≤ 8 + forked.pre.spill / 16) ∧
    runtime.pre.rt = true ∧ 8 + forked.pre.spill / 16 < ({ forked.pre with entries := (List.range 7).map fun i => { id := i, mask := m } } : Furrow).entries.length + 2 := by
  unfold Ready; decide

/-- Eight entries that are all live, or all dormant but the one that splits; nine of which one stands in the spill area; two siblings at the packet 5
under a dormant parent. -/
def eight (live : Bool) : Furrow := { one.cur with entries := (List.range 8).map fun i => { id := i, parent := 9, live := i == 0 || live, mask := 1 <<< i, born := i, issued := i } }
def nine : Furrow := { one.cur with entries := (List.range 9).map fun i => { id := i, parent := 0, mask := 1 <<< i, pc := 7, slot := 2, live := i != 8, resident := i != 8 } }
def siblings : Furrow :=
  { one.cur with entries := [{ id := 0, parent := 0, live := false, mask := 3 }, { id := 1, parent := 0, mask := 1, pc := 4 }, { id := 2, parent := 0, mask := 2, pc := 5 }] }

theorem test_meets_SplitEntry : (∀ f ∈ [one.cur, eight true, eight false], f.freeIds = nth f.freeIds 0 0 :: nth f.freeIds 1 0 :: f.freeIds.drop 2 ∧
      (f.entries.find? (·.id == 0)) = some (f.entry 0) ∧ (f.entry 0).waits = [] ∧ (∀ x ∈ f.entries, x.parent = 0 → x.id = 0) ∧
      (f.entries.filter (·.resident)).length ≤ 8 ∧ (f.entries.map (·.id)).Nodup) ∧ (5 : Word) ≠ 1 ∧ one.cur.entries.length + 2 ≤ 8 := by decide
theorem test_meets_SplitEntry_spilled : nine.entries.find? (·.id == 8) = some (nine.entry 8) ∧ (nine.entry 8).resident = false ∧ (nine.entries.map (·.id)).Nodup ∧
    (∀ x ∈ nine.entries, x.id < 128 ∧ x.parent < 128 ∧ x.slot < 4) ∧ ((syncSpill nine).spillRecord 8).isSome = true ∧ nine.spillRecord 8 = none := by decide
theorem test_meets_SplitEntry_fusion : let others (f : Furrow) := f.entries.filter fun y => y.id != 1 && y.id != 0 && y.parent == 0
    (siblings.entries.find? (·.id == 1) = some (siblings.entry 1) ∧ (siblings.entries.map (·.id)).Nodup ∧ others siblings = [siblings.entry 2] ∧ (siblings.entry 1).live = true ∧
      (siblings.entry 1).parent ≠ 1 ∧ (siblings.entry 2).live = true ∧ (siblings.entry 2).slot = 0 ∧ (siblings.entry 2).pc = 5 ∧ siblings.hasEntry 0 = true ∧
      (siblings.entry 0).resident = true) ∧ (∀ y ∈ others siblings, y.pc ≠ 6) ∧ (siblings.entry 0).parent = 0 ∧ (siblings.entry 0).live = false := by decide

theorem test_meets_GroupControl : Ready one [.s 0 1] ∧ (one.pre.stream = false ∨ one.pre.status.getLsbD 16 = false) ∧ (0 : BitVec 5).toNat < 6 ∧
    (5 : BitVec 5).toNat < 6 ∧ one.cur.entries = [one.cur.entry 0] ∧ (one.cur.entry 0).id = 0 ∧ (one.cur.entry 0).parent = 0 := by
  unfold Ready; decide

/-- A stream with a poison record of an operation that a wait for at most 3 of them covers, and one of which a matrix operation may still give one. -/
theorem test_meets_GroupControl_poison : streaming.pre.stream = true ∧ (∀ n, n < 63 → streaming.cur.poisonTrap.find? (fun x => decide (n ≤ x.1)) = none) ∧
    ({ streaming.cur with poisonTrap := [(3, 9)] } : Furrow).poisonTrap.find? (fun x => decide (3 ≤ x.1)) = some (3, 9) ∧
    (let s : State := { streaming with ops := [{ id := 1, furrow := streaming.iss.furrow, kind := .matrix, instr := .mma 0 1 1 3 1 8, path := some 3 }],
                                       cur := { streaming.cur with ctr := [(3, 1)] }, pre := { streaming.pre with status := 0x10000 } };
      poisonMayCome s = true ∧ coveredMatrix s 0 = true) ∧ (poisonMayCome streaming && coveredMatrix streaming 0) = false := by
  refine ⟨by decide, fun n _ => rfl, by decide, by decide, by decide⟩

/-- The exit of one of two siblings: the other is promoted into their parent's place, whether it stands at a packet's first word or not. -/
theorem test_meets_GroupControl_exit : (siblings.entries.find? (·.id == 1) = some (siblings.entry 1) ∧ (siblings.entries.map (·.id)).Nodup ∧ (siblings.entry 1).parent ≠ 1 ∧
      siblings.hasEntry 0 = true ∧ (siblings.entries.filter fun x => x.parent == (siblings.entry 0).id && x.id != (siblings.entry 0).id && x.id != 1) = [siblings.entry 2]) ∧
    (∀ k, (fun n => (siblings.entry n).parent)^[k] 1 ≠ (siblings.entry 2).id) ∧
    ∃ k, k < siblings.entries.length ∧ (siblings.entry ((fun n => (siblings.entry n).parent)^[k] 1)).parent = (fun n => (siblings.entry n).parent)^[k] 1 := by
  have h (k : Nat) : (fun n => (siblings.entry n).parent)^[k] 0 = 0 := Function.iterate_fixed rfl k
  refine ⟨by decide, fun k => ?_, 1, by decide, by decide⟩
  cases k with
  | zero => decide
  | succ k =>
    have e : (fun n => (siblings.entry n).parent)^[k + 1] 1 = (fun n => (siblings.entry n).parent)^[k] 0 := rfl
    rw [e, h]; decide

/-- A context with a fault ring, and a furrow that waits for a reply already. -/
def ringed : State := { one with ctxs := [(0, { ptbase := 0x2000, fring := 0x4001, fringw := 0x8000 })] }
def serving : State := { ringed with pre := { ringed.pre with entries := [{ waits := [.service 3] }] } }

theorem test_meets_ServiceAndSpawn : Ready one [.s 0 4 4, .ds 8] ∧ (one.ctx one.pre.ctx).fring = 0 ∧ Ready ringed [.s 0 4 4, .ds 8] ∧
    (ringed.ctx ringed.pre.ctx).fring ≠ 0 ∧ (ringed.pre.entries.any fun e => e.waits.any isService) = false ∧ Ready serving [.s 0 4 4, .ds 8] ∧
    (serving.ctx serving.pre.ctx).fring ≠ 0 ∧ (serving.pre.entries.any fun e => e.waits.any isService) = true ∧ Ready one [.s 0 1, .ds 3] ∧
    (∀ s ∈ [one, streaming], let made : Nat := if s.pre.stream then 0 else min (S s 1).toNat (spawnRoom s)
      Ready s [.s 0 1, .ds 3, { pos := 3, file := 1, base := 1, reads := 4, used := if made = 0 then 0 else 4 }]) ∧ streaming.pre.stream = true ∧ one.pre.stream = false ∧ one.pre.ecnt ≤ (1 : BitVec 5).toNat ∧
    (0 : BitVec 5).toNat < one.pre.ecnt := by
  unfold Ready; decide

/-- The places of wants that pass their checks. -/
def places (s : State) (m : Mode) (ws : List Want) : List (Want × Place) :=
  match checkWants s m ws with
  | .ok ps => ps
  | _ => []

def entersHere (s : State) (path : Option Nat) (m : Mode) (ws : List Want) : Bool :=
  !memoryHeld s && (match path with
    | some p => !pathFull s p
    | none => true) &&
  (match checkWants s m ws with
    | .ok _ => true
    | _ => false)

theorem enters_places {s : State} {path : Option Nat} {m : Mode} {ws : List Want} (h : entersHere s path m ws = true) :
    Enters s path m ws (places s m ws) := by
  unfold entersHere at h
  simp only [Bool.and_eq_true, Bool.not_eq_true'] at h
  obtain ⟨⟨h1, h2⟩, h3⟩ := h
  refine ⟨h1, ?_, ?_⟩
  · rintro p rfl
    simpa using h2
  · unfold places
    split at h3 <;> simp_all

/-- The generic addresses of V[a], V[a+1], and of S[a], S[a+1]. -/
def wantsOf (s : State) (a : BitVec 7) (size : Nat) : List Want :=
  (threads s.pre.width (act s)).map fun thr => { thr, size, spot := .generic (s.pre.vget (a.toNat + 1) thr ++ s.pre.vget a.toNat thr : Dword).toNat }
def wantOf (s : State) (a : BitVec 7) (size : Nat) : List Want :=
  [{ thr := 0, size, spot := .generic (s.pre.sget (a.toNat + 1) ++ s.pre.sget a.toNat : Dword).toNat }]

/-- Shuffles; the operands of Folds and MatchReduce are those of test_meets_vector_operands. -/
theorem test_meets_Shuffles : Ready one [.v 0 1 1 (maskOf ((threads 16 (act one)).map id) fun _ => true), .v 1 2 1 (act one), .dv 3] ∧
    Ready one [.v 0 1 1 (maskOf ((threads 16 (act one)).map id) fun _ => true), .dv 3] := by
  unfold Ready; decide

/-- With `status.bte` clear and set over a block of zeros, whose check does not hold. -/
def strict : State := { one with pre := { one.pre with status := 0x10000 }, cur := { one.cur with status := 0x10000 } }

theorem test_meets_TaggedBlocks : Ready one [{ Opd.v 0 4 4 (act one) with used := 3 }, .dv 8] ∧ Ready one [.v 0 4 1 0xFFFF, .dv 8] ∧
    Ready one [.v 0 4 1 0xFFFF, .v 1 5 1 1, .dv 8] ∧ one.pre.status.getLsbD 16 = false ∧ Ready strict [.v 0 4 1 0xFFFF, .dv 8] ∧
    Ready strict [.v 0 4 1 0xFFFF, .v 1 5 1 1, .dv 8] ∧ strict.pre.status.getLsbD 16 = true ∧
    (blockWhy (bytesOf ((List.range 16).map fun j => V strict 4 0 j))).isSome = true := by
  unfold Ready; decide +kernel

/-- A packed block of zeros and the largest change of its scale that stays in range. -/
theorem test_meets_Blocks : let vs : List FVal := List.replicate 48 (.fin false 0 0)
    let bs := (pack 3 (fun _ => true) vs { rng := 1 }).1
    vs.length = 48 ∧ bs.length = 64 ∧ blockWhy bs = none ∧ nth bs 63 0 ≠ nth bs 63 0 + 1 ∧ blockFmt bs = 3 ∧ 0 ≤ (blockScaleOf bs : Int) + (511 - blockScaleOf bs) ∧
      (blockScaleOf bs : Int) + (511 - blockScaleOf bs) ≤ 511 ∧ (blockScaleOf bs : Int) + (-1 - blockScaleOf bs) < 0 ∧ 511 < (blockScaleOf bs : Int) + (512 - blockScaleOf bs) := by
  decide +kernel

/-- Values that are all zero and values that are not; a block of format 0 whose check holds, and one that is poisoned. -/
theorem test_meets_Blocks_kinds : let sizes (vs : List FVal) : List ℚ := vs.filterMap fun v => match v with
      | .fin _ m e => some ((m : ℚ) * 2 ^ e)
      | _ => none
    let zeros := List.replicate 62 (0 : Byte)
    let none_ := zeros ++ toBytes 2 (crc16 zeros);
    ((1 : Nat) ≤ 1 ∧ (3 : Nat) ≤ 3) ∧ (∀ x ∈ sizes (List.replicate 48 (.fin false 0 0)), x = 0) ∧ (∃ x ∈ sizes (.fin true 1 0 :: List.replicate 47 (.nan false)), x ≠ 0) ∧
    (none_.length = 64 ∧ blockWhy none_ = none ∧ blockFmt none_ = 0) ∧ ((0x7F :: List.replicate 63 (0 : Byte)).length = 64 ∧ blockWhy (0x7F :: List.replicate 63 0) ≠ none) := by
  refine ⟨by decide, ?_, ?_, by decide +kernel, by decide +kernel⟩
  · intro x hx
    simp only [List.mem_filterMap, List.mem_replicate] at hx
    obtain ⟨v, ⟨-, rfl⟩, h⟩ := hx
    simpa using h.symm
  · exact ⟨1, by simp, by norm_num⟩

/-- One load in flight. -/
def loading : State := { one with ops := [{ id := 1, furrow := furrowKey 0 0, kind := .load, path := some 0, accs := [{ thr := 0, loc := 64 }] }] }

theorem test_meets_IssuedOperations : Room one [{ thr := 0, loc := 64 }] ∧ (∀ w, tget one.memMark w .clean ≠ .uncorrectable) ∧
    (loading.op 1).isSome = true ∧ (∀ x ∈ loading.ops, x.furrow = furrowKey 0 0 → x.path = some 0 → x.id = 1) ∧ loading.ops.countP (·.id == 1) = 1 ∧
    (∀ x ∈ loading.ops, x.done = false) := by
  refine ⟨by unfold Room; decide +kernel, fun w => ?_, by decide, by decide, by decide, by decide⟩
  exact (by decide : Mark.clean ≠ .uncorrectable)

/-- Offsets of cluster memory. -/
def offsets (s : State) (a : BitVec 7) (size : Nat) : List Want :=
  (threads s.pre.width (act s)).map fun thr => { thr, size, spot := .offset 3 ((V s a 0 thr).toNat + 0) }

def loads (sp : Nat) : Mode := { need := .read, sp, acc := 0, flt := 0, door := true }
def stores (sp : Nat) : Mode := { need := .write, sp, acc := 1, flt := 1, door := true }

/-- Loads: a vector address in the generic space, offsets of cluster memory, a uniform address; the same for stores. -/
theorem test_meets_Loads : (Ready one [.v 0 4 2 (act one), .dv 3] ∧ Enters (Noted one [.v 0 4 2 (act one), .dv 3]) (some 0) (loads 0) (wantsOf one 4 4)
      (places (Noted one [.v 0 4 2 (act one), .dv 3]) (loads 0) (wantsOf one 4 4))) ∧
    (Ready one [.v 0 4 1 (act one), .dv 3] ∧ Enters (Noted one [.v 0 4 1 (act one), .dv 3]) (some 0) (loads 3) (offsets one 4 4)
      (places (Noted one [.v 0 4 1 (act one), .dv 3]) (loads 3) (offsets one 4 4))) ∧
    (∀ t : Nat, t = 1 ∨ t = 0 → let os : List Opd := [{ Opd.s 0 4 2 with thr := .ofNat 64 t }, .ds 3]
      let ws := (wantOf one 4 4).take t
      Ready one os ∧ Enters (Noted one os) (some 0) (loads 5) ws (places (Noted one os) (loads 5) ws)) := by
  refine ⟨⟨by unfold Ready; decide, enters_places (by decide +kernel)⟩, ⟨by unfold Ready; decide, enters_places (by decide +kernel)⟩, ?_⟩
  rintro t (rfl | rfl) <;> exact ⟨by unfold Ready; decide, enters_places (by decide +kernel)⟩

theorem test_meets_Stores : let os : List Opd := [.v 0 4 2 (act one), .v 3 3 1 (act one)]
    let n := Noted one os
    let ps := places n (stores 0) (wantsOf one 4 4)
    (Ready one os ∧ Enters n (some 1) (stores 0) (wantsOf one 4 4) ps ∧ Room (Used n (stores 0) ps) (ps.map fun p => accOf p [0, 0, 0, 0])) ∧
    (Ready one [.s 0 4 2, .s 3 3] ∧ Enters one (some 1) (stores 5) (wantOf one 4 4) (places one (stores 5) (wantOf one 4 4))) :=
  ⟨⟨by unfold Ready; decide, enters_places (by decide +kernel), by unfold Room; decide +kernel⟩, by unfold Ready; decide, enters_places (by decide +kernel)⟩

theorem test_meets_Atomics : let os : List Opd := [.v 0 4 2 (act one), .v 1 6 2 (act one), .dv 3]
    let n := Noted one os
    let m : Mode := { need := .write, acc := 2, flt := 2 }
    let ps := places n m (wantsOf one 4 4)
    Ready one os ∧ Enters n (some 0) m (wantsOf one 4 4) ps ∧ Room (Used n m ps) (ps.map (accOf · [])) ∧ 0 ∈ threads one.pre.width (act one) :=
  ⟨by unfold Ready; decide, enters_places (by decide +kernel), by unfold Room; decide +kernel, by decide⟩

def want (a size : Nat) : List Want := [{ thr := 0, size, spot := .generic a }]
/-- A furrow with 63 loads on its counter, and one with a device-tier acquire in flight. -/
def fullPath : State := { one with cur := { one.cur with ctr := [(0, 63)] } }
def fenced : State :=
  { one with ops := [{ id := 1, furrow := furrowKey 0 0, kind := .fence, instr := .fenceAcq 4, after := [2] }, { id := 2, furrow := furrowKey 0 0, kind := .load }] }

/-- One address for each check, and one that passes them all. -/
theorem test_meets_AccessChecks :
    ((want 2 4).find? (fun w => w.spot.low % w.size != 0)).isSome = true ∧ checkWants one (loads 0) (want 2 4) = .trap 0x05 { thr := 0, size := 4, spot := .generic 2 } ∧
    (∀ w ∈ want 0xFF020000400000 4, w.spot.low % w.size = 0) ∧ spotPlace one (loads 0) { thr := 0, size := 4, spot := .generic 0xFF020000400000 } = .fail 0x07 ∧
    spotPlace one (loads 0) { thr := 0, size := 4, spot := .generic (2 ^ 56) } = .fail 0x06 ∧
    spotPlace one (loads 0) { thr := 0, size := 4, spot := .generic (2 ^ 37) } = .miss ∧ (∃ ps, checkWants one (loads 0) (want 64 4) = .ok ps) ∧
    tget fullPath.cur.ctr 0 0 = 63 ∧ memoryHeld fenced = true :=
  ⟨by decide, by decide, by decide, by decide, by decide, by decide, ⟨_, rfl⟩, by decide, by decide⟩

theorem test_meets_FencesAndAcquires :
    (Ready one [] ∧ (one.ops.filter fun x => x.furrow == one.iss.furrow).map (·.id) = [] ∧ Ready loading [] ∧
      (loading.ops.filter fun x => x.furrow == loading.iss.furrow && !x.done && x.kind == .load).map (·.id) ≠ []) ∧
    (let os : List Opd := [.v 0 4 2 (act one), .v 3 3 1 (act one)]
      let n := Noted one os
      let ps := places n (stores 0) (wantsOf one 4 4)
      Ready one os ∧ Enters n (some 1) (stores 0) (wantsOf one 4 4) ps ∧ Room (Used n (stores 0) ps) (storeAccs ps fun t => bytesOf [V one 3 0 t])) ∧
    (let m : Mode := { need := .read, acc := 0, flt := 4 };
      Ready one [.s 0 4 2, .s 3 3] ∧ Enters one none m (wantOf one 4 4) (places one m (wantOf one 4 4))) :=
  ⟨by unfold Ready; decide, ⟨by unfold Ready; decide, enters_places (by decide +kernel), by unfold Room; decide +kernel⟩, by unfold Ready; decide, enters_places (by decide +kernel)⟩

/-- A barrier word that expects 2 tracked arrivals and has had one of furrow 0. -/
def barrierWord : Nat := 2 + 2 ^ 12 + 2 ^ 25 + 2 ^ 32

theorem test_meets_BarriersAndScopes :
    (let m : Mode := { need := .write, acc := 3, flt := 5 };
      let ps := places one m (wantOf one 4 8)
      one.pre.stream = false ∧ Ready one [.s 0 4 2] ∧ Ready one [.s 0 4 2, .ds 3] ∧ Ready one [.s 0 4 2, .s 3 3] ∧ Enters one none m (wantOf one 4 8) ps ∧
      Enters one (some 1) m (wantOf one 4 8) ps ∧ Room (Used one m ps) (ps.map (accOf · []))) ∧
    (let m : Mode := { need := .read, acc := 3, flt := 5 };
      Enters one (some 0) m (wantOf one 4 8) (places one m (wantOf one 4 8))) ∧
    (Enters one (some 1) (loads 0) (wantOf one 4 64) (places one (loads 0) (wantOf one 4 64)) ∧
      Enters one (some 1) (stores 0) (wantOf one 4 64) (places one (stores 0) (wantOf one 4 64)) ∧
      Room (Used one (stores 0) (places one (stores 0) (wantOf one 4 64))) (storeAccs (places one (stores 0) (wantOf one 4 64)) fun _ => toBytes 64 0)) ∧
    (barrierWord < 2 ^ 64 ∧ barrierWord % 2 ^ 12 ≠ 0 ∧ fld barrierWord 25 1 = 1 ∧ fld barrierWord (32 + 0) 1 = 1 ∧ fld barrierWord (32 + 31) 1 = 0 ∧
      (fld barrierWord 12 12 + 1) % 2 ^ 12 = barrierWord % 2 ^ 12 ∧ (fld (barrierWord + 1) 12 12 + 1) % 2 ^ 12 ≠ (barrierWord + 1) % 2 ^ 12 ∧
      fld 2 25 1 ≠ 1 ∧ (2 : Nat) % 2 ^ 12 ≠ 0 ∧ ∀ j, (none : Option Nat) = some j → j < 32) ∧
    (streaming.pre.stream = true ∧ Ready streaming [.s 0 4 2] ∧ streaming.cur.poisonTrap = [] ∧ ∀ x ∈ streaming.ops, x.furrow = streaming.iss.furrow → x.kind = .matrix → x.done = true) :=
  ⟨⟨by decide, by unfold Ready; decide, by unfold Ready; decide, by unfold Ready; decide, enters_places (by decide +kernel), enters_places (by decide +kernel), by unfold Room; decide +kernel⟩,
    enters_places (by decide +kernel), ⟨enters_places (by decide +kernel), enters_places (by decide +kernel), by unfold Room; decide +kernel⟩,
    ⟨by decide, by decide, by decide, by decide, by decide, by decide, by decide, by decide, by decide, nofun⟩, by decide, by unfold Ready; decide, by decide, by decide⟩

/-- One want that reaches a place. -/
def reachesOne (s : State) (m : Mode) (ws : List Want) : Bool :=
  match checkWants s m ws with
  | .ok [(_, .loc _ _ _ _ _)] => true
  | _ => false

theorem reachesOne_place {s : State} {m : Mode} {ws : List Want} (h : reachesOne s m ws = true) :
    ∃ w k pte l b bits, checkWants s m ws = .ok [(w, .loc k pte l b bits)] := by
  unfold reachesOne at h
  split at h
  · exact ⟨_, _, _, _, _, _, ‹_›⟩
  · cases h

/-- A core whose table holds 128 lines. -/
def crowded : State :=
  { one with ops := [{ id := 1, furrow := furrowKey 0 0, kind := .load, path := some 0, accs := (List.range 128).map fun i => { thr := 0, loc := 64 * i } }] }

theorem test_meets_CacheControl_table : Ready crowded [.v 0 4 2 (act crowded)] ∧ crowded.pre.stream = false ∧
    tableUsed crowded crowded.pre.gcore = 128 ∧ tableUsed one one.pre.gcore = 0 ∧ 0 < tableLines [{ thr := 0, loc := 64 * 200 }] :=
  ⟨by unfold Ready; decide, by decide, by decide +kernel, by decide, by decide⟩

theorem test_meets_CacheControl : Ready one [.v 0 4 2 (act one)] ∧ Ready one [.s 0 4 2] ∧ Ready one [] ∧
    (let m : Mode := { need := .read, acc := 4, flt := 6 };
      Enters one (some 1) m (wantOf one 4 1) (places one m (wantOf one 4 1)) ∧ Room (Used one m (places one m (wantOf one 4 1))) ((places one m (wantOf one 4 1)).map (accOf · [])) ∧
      ∃ w k pte l b bits, checkWants one m (wantOf one 4 1) = .ok [(w, .loc k pte l b bits)]) ∧
    spotPlace one (loadMode 0) { thr := 0, size := 1, spot := .generic (2 ^ 37) } = .miss ∧ (tget one.lines 1 {}).owner = none ∧
    ({ accs := [{ thr := 0, loc := devLimit - 64 }] } : Op).accs = [{ thr := 0, loc := devLimit - 64 }] ∧ 64 * ((devLimit - 64) / 64) < devLimit :=
  ⟨by unfold Ready; decide, by unfold Ready; decide, by unfold Ready; decide, ⟨enters_places (by decide +kernel), by unfold Room; decide +kernel, reachesOne_place (by decide +kernel)⟩, by decide +kernel, by decide, rfl, by decide⟩

/-- A buffer of cluster memory in s4, s5, an address of ordinary memory in s6, s7 with an odd low half, and tags in s1, s2, s3. -/
def messages : State := unit [] [(1, 511), (2, 512), (3, 255), (5, 0x00FF0200), (6, 4), (11, 256)]

theorem test_meets_CopiesAndMessages : (Ready messages [.s 0 8 8] ∧ Ready messages [.s 0 8 8, .s 3 12 4] ∧ Ready messages [.s 0 16 8, .s 3 2 2] ∧
      Ready messages [.s 0 16 8, .s 3 1] ∧ Ready messages [.s 0 4 4, .s 3 1] ∧
      Ready messages [{ Opd.s 0 4 4 with used := 0 }, { pos := 0, file := 1, base := 6, reads := 2, used := 2 }, .s 3 1]) ∧
    (engineHeld messages 1 = false ∧ tget messages.cur.ctr 2 0 ≠ 63 ∧ (messages.core messages.pre.gcore).copyq.length < 32 ∧ memoryHeld messages = false ∧
      tget messages.cur.ctr 1 0 ≠ 63 ∧ tget messages.cur.ctr 0 0 ≠ 63) ∧
    ((SN messages 2 1).toNat < 256 ∧ 256 ≤ (SN messages 10 1).toNat ∧ (S messages 1).toNat < 512 ∧ 512 ≤ (S messages 2).toNat) ∧
    (let va (a : BitVec 7) : Dword := messages.pre.sget (a.toNat + 1) ++ messages.pre.sget a.toNat;
      (va 4).toNat % 64 = 0 ∧ (bufferPlace messages messages.pre (va 4).toNat).isSome = true ∧ (va 6).toNat % 64 ≠ 0 ∧
      (va 8).toNat % 64 = 0 ∧ bufferPlace messages messages.pre (va 8).toNat = none) := by
  unfold Ready; decide

/-- A context with acre 0 of two dimensions and four levels. Thread 0 of v4 holds a key of level 5, of v8 the number of an acre that there is not. -/
def keyed : State :=
  { unit [(64 * 4, 5), (64 * 10, 1), (64 * 18, 2048)] [(1, 3), (4, 5), (10, 1), (18, 256)] with
    ctxs := [(0, { ptbase := 0x2000, acres := [(0, some { dims := 2, maxl := 4 })] })] }

def keyOpds (s : State) (a : BitVec 7) (used : Nat) : List Opd := [{ pos := 0, file := 0, base := a.toNat, reads := 4, used, thr := act s }, .dv 24]
def keyScalars (a : BitVec 7) : List Opd := [{ pos := 0, file := 1, base := a.toNat, reads := 4, used := 3 }, .ds 24]
def keyGoes (n : State) : Prop := engineHeld n 0 = false ∧ rfenceHeld n = false ∧ tget n.cur.ctr 4 0 ≠ 63

/-- Requests that name an acre that there is (v20), one that there is not (v8), a level above the acre's (v4), and reserved bits (v16). -/
theorem test_meets_KeyInstructions : (∀ a ∈ ([4, 8, 16, 20] : List (BitVec 7)), (Ready keyed (keyOpds keyed a 3) ∧ Ready keyed (keyOpds keyed a 4)) ∧
      Ready keyed (keyScalars a)) ∧ keyGoes (Noted keyed (keyOpds keyed 20 3)) ∧ keyGoes (Noted keyed (keyScalars 20)) ∧
    ((tget (keyed.ctx 0).acres ((V keyed 8 2 0).toNat % 256) none).isNone = true ∧ (tget (keyed.ctx 0).acres ((V keyed 20 2 0).toNat % 256) none).isSome = true) ∧
    (keyWf 2 5 = true ∧ 4 < 5 % 32 ∧ keyWf 2 0 = true ∧ keyWf 2 0x20 = false ∧ 2048 ≤ (V keyed 16 2 0).toNat ∧ (V keyed 16 2 0).toNat % 256 = 0 ∧ 2 * 2 ≤ 0x700 / 256 % 8) ∧
    (Ready keyed [.s 0 20 2, .ds 3] ∧ Ready keyed [.s 0 20 2, .s 3 1] ∧ Ready keyed [.s 0 20 2, .s 3 18] ∧ (S keyed 1).toNat < 256 ∧ 256 ≤ (S keyed 18).toNat) := by
  unfold Ready keyGoes; decide

theorem test_meets_KeyInstructions_memory : let r (size : Nat) := agentRead (Used keyed (loadMode 0) (places keyed (loadMode 0) (wantOf keyed 20 size))) (some keyed.pre.cluster) 0 size keyed.cur.pts;
    ((∃ w k pte l b bits, checkWants keyed (loadMode 0) (wantOf keyed 20 32) = .ok [(w, .loc k pte l b bits)]) ∧
      ∃ w k pte l b bits, checkWants keyed (loadMode 0) (wantOf keyed 20 64) = .ok [(w, .loc k pte l b bits)]) ∧
    (mayPerform [] true { thr := 0, loc := 0, size := 64 } = true ∧ (keyed.ops.filter fun x => x.furrow == keyed.iss.furrow && !x.done) = []) ∧
    (let o : Op := { id := 1, furrow := furrowKey 0 0, kind := .atomic, instr := .atadd 0 1 2 0, accs := [{ thr := 0, loc := 0 }] };
      mayPerform [o] true { thr := 0, loc := 0, size := 64 } = false) ∧ keyGoes (r 32).2.2 ∧ keyGoes (r 64).2.2 :=
  ⟨⟨reachesOne_place (by decide +kernel), reachesOne_place (by decide +kernel)⟩, by decide, by decide, by unfold keyGoes; decide +kernel,
    by unfold keyGoes; decide +kernel⟩

/-- Dimensions and levels of kenc, kdec, kpar and kchd: one dimension everywhere; a malformed key in v4's thread 0 under level 0. -/
theorem test_meets_KeyInstructions_arithmetic :
    Ready one [{ pos := 0, file := 0, base := 4, reads := 4, used := 4, thr := act one,
                 per := (List.range 4).map fun j => maskOf (threads 16 (act one)) fun _ => decide (j < 1) }, .v 1 8 1 (act one), .dv 12] ∧
    Ready one [.v 0 4 2 (act one), .v 1 8 1 (act one), .dv 12] ∧ (∀ u ∈ threads one.pre.width (act one), keyWf 1 ((V one 4 0 u).toNat + (V one 4 1 u).toNat * 2 ^ 32) = true) ∧
    (threads one.pre.width (act one)).find? (fun u => !keyWf 1 ((V one 2 0 u).toNat + (V one 2 1 u).toNat * 2 ^ 32)) = some 0 ∧
    (1 ≤ 4 ∧ 4 ≤ 4 ∧ 14 ≤ 31 ∧ 4 * 14 ≤ 59 ∧ ∀ j : Fin 4, (fun j => 2 ^ 14 - 1 - j) j.val < 2 ^ 14) := by
  unfold Ready; decide

/-- As `unit`, with a second page whose leaf names device 5, a fabric peer in the peer table. -/
def linked (v s : NMap Word) : State :=
  let b := unit v s
  { b with mem := writeBytes (writeBytes b.mem 0x4008 (toBytes 8 0x0050000000000E1F)) 0x90A0 [1], fab := { b.fab with peertab := 0x9000 },
           ctxs := [(0, { ptbase := 0x2000, scopes := [(1, { obs := 8 })] })] }

/-- Every thread's address in v4 and v5 lies at the peer; s8 on are the operands of `rst` and `xsend`, s16 on those of `rred`. -/
def remote : State := linked ((List.range 16).map fun t => (64 * 5 + t, 0x10)) [(1, 65535), (2, 65536), (3, 4095), (4, 4096), (11, 0x10), (14, 4096), (20, 120)]
def remoteCode : State := linked ((List.range 16).map fun t => (64 * 5 + t, 0x0C000010)) []
def remoteGoes (n : State) : Prop := remoteHeld n = false ∧ tget n.cur.ctr 5 0 ≠ 63
def threadAsks (s : State) (acc : Nat) (flt : BitVec 3) (need : Need) : List Ask :=
  (threads s.pre.width (act s)).map fun thr => { va := (pairV s 4 thr).toNat % 2 ^ 56, size := 4, thr, acc, flt, need, target := true }

theorem test_meets_RemoteInstructions_threads :
    (let os : List Opd := [.v 0 4 2 (act remote), .dv 8]
      let n := Noted remote os
      Ready remote os ∧ remoteGoes n ∧ (∀ q ∈ threadAsks remote 0 0 .read, q.va % 4 = 0 ∧ askFind n q = askFind remote q) ∧
      ∀ f ∈ ((threadAsks remote 0 0 .read).map (askFind remote)).flatten, f.reached = true) ∧
    (∀ s ∈ [remote, remoteCode], let os := ratomOpds s 4 (act s) ++ [.dv 8]
      let n := Noted s os
      Ready s os ∧ remoteGoes n ∧ (∀ q ∈ threadAsks s 2 2 .write, q.va % 4 = 0 ∧ askFind n q = askFind s q) ∧
      ∀ f ∈ ((threadAsks s 2 2 .write).map (askFind s)).flatten, f.reached = true) ∧
    (∀ t ∈ threads 16 (act remote), (pairV remote 4 t).toNat / 2 ^ 60 = 0 ∧ (pairV remote 4 t).toNat / 2 ^ 56 % 16 < 12) ∧
    12 ≤ (pairV remoteCode 4 0).toNat / 2 ^ 56 % 16 := by
  unfold Ready remoteGoes; decide

theorem test_meets_RemoteInstructions_scalars :
    (Ready remote [.s 0 8 8, .ds 24] ∧ Ready remote [.s 0 16 8, .ds 24] ∧ Ready remote [] ∧ remoteGoes remote) ∧
    ((SN remote 8 6).toNat % 4 = 0 ∧ 4 ≤ (SN remote 8 6).toNat ∧ (SN remote 8 6).toNat ≤ 4096 ∧ SN remote 8 7 = 0 ∧ octet remote 8 4 = 0) ∧
    (let fs := ([{ va := octet remote 8 0, size := 4096, acc := 1, flt := 7, need := .read, target := false },
        { va := octet remote 8 2, size := 4096, acc := 1, flt := 1, need := .write, target := true }].map (askFind remote)).flatten;
      scattered fs = none ∧ ∀ f ∈ fs, if f.ask.target then f.reached = true else f.reached = false ∧ f.place ≠ .miss ∧ f.place = .loc f.va 0xC1F (some 0x4000) 0 36) ∧
    ((SN remote 16 4).toNat = 120 ∧ SN remote 16 5 = 0 ∧ SN remote 16 6 = 0 ∧ SN remote 16 7 = 0 ∧ (scopeOf remote remote.pre 1).obs.getLsbD 3 = true ∧
      octet remote 16 0 % 4 = 0 ∧ octet remote 16 2 % 4 = 0) ∧
    (Ready remote [.s 0 1, .ds 24] ∧ (S remote 1).toNat < 65536 ∧ 65536 ≤ (S remote 2).toNat ∧ (S remote 3).toNat < 4096 ∧ 4096 ≤ (S remote 4).toNat) := by
  unfold Ready remoteGoes; decide

/-- A stream with operands that end at, past and off the boundaries of cluster memory; furrows of crofts with and without a stream. -/
def matrix : State := { streaming with cur := { streaming.cur with s := [(1, 0x400000 - 8192), (2, 0x400000), (3, 32)] }, pre := { streaming.pre with s := [(1, 0x400000 - 8192), (2, 0x400000), (3, 32)] } }
def croft : State := { one with crofts := [(2, { id := 2, launch := 3, plots := [1], stream := some (streamKey 0 0) })] }

theorem test_meets_MatrixInstructions :
    (Ready matrix [.s 0 1] ∧ Ready matrix [.s 1 1] ∧ Ready matrix [] ∧ Ready matrix [.ds 1]) ∧
    ((S matrix 3).toNat % 64 ≠ 0 ∧ (S matrix 2).toNat % 64 = 0 ∧ 0x400000 < (S matrix 2).toNat + 4096 ∧ (S matrix 1).toNat % 64 = 0 ∧
      (S matrix 1).toNat + 8192 ≤ 0x400000 ∧ tget matrix.cur.ctr 3 0 ≠ 63 ∧ matrix.cur.mqueue.length < 16 ∧ matrix.ops = []) ∧
    (Ready one [.v 3 8 8 (act one)] ∧ Ready one [.dv 8] ∧ (one.croft one.pre.croft).stream = none) ∧
    (Ready croft [.v 3 8 8 (act croft)] ∧ Ready croft [.dv 8] ∧ (croft.croft croft.pre.croft).stream = some (streamKey 0 0) ∧
      2048 / (8 * croft.pre.width) ≤ (16 : BitVec 5).toNat ∧ croft.ops = [] ∧ (15 : BitVec 5).toNat < 2048 / (8 * croft.pre.width) ∧
      1024 / (8 * croft.pre.width) ≤ (8 : BitVec 5).toNat ∧ (7 : BitVec 5).toNat < 1024 / (8 * croft.pre.width) ∧ tget croft.cur.ctr 3 0 ≠ 63) := by
  unfold Ready; decide

/-- A drill in a packet at 0xB000 of a program of three words; g3 is 8, g4 is 1, g5 is 64, g6 lies where no page is. -/
def drillQueue : Queue :=
  { en := true, qstat := 1, inPacket := true, program := [0, 0, 0], lsz := 4, qbase := 0xC000, qbmap := 0xA000, pkt := 0xB000,
    g := [(3, 8), (4, 1), (5, 64), (6, 0x2000000000), (7, 65536)] }
def drill : State := { placeDrillWord State.reset 0 with queues := [(0, drillQueue)] }
def drillWith (q : Queue) : State := { drill with queues := [(0, q)] }
/-- A place of the program, with no loop open. -/
def roomAt (q : Queue) (pc : Nat) : Prop := pc < q.program.length ∧ q.loops.head? = none

theorem test_meets_DrillInstructions_program : (∀ l, [((0 : Nat), 3, (0 : Nat), (0 : Nat), (0 : Nat))].head? = some l → 1 < l.2.1) ∧ roomAt (drill.queue drill.dq) 1 ∧ roomAt (drill.queue drill.dq) (0 + 1 + (1 : BitVec 16).toNat) ∧
    (1 ≤ (1 : BitVec 8).toNat ∧ (drill.queue drill.dq).pc + 1 < (drill.queue drill.dq).program.length) ∧
    (let q := (drillWith { drillQueue with loops := [(0, 1, 3, 2, 0)] }).queue 0;
      q.loops = [(0, q.pc + 1, 3, 2, 0)] ∧ 0 + 1 < 2 ∧ 0 < q.program.length) := by
  unfold roomAt; decide

/-- Accesses of the packet at its first and last word, and one past it; where no page is, an access fails. -/
theorem test_meets_DrillInstructions_memory :
    (0 + 4 * (15 : BitVec 12).toNat + 4 ≤ 64 ∧ ¬0 + 4 * (16 : BitVec 12).toNat + 4 ≤ 64 ∧ (0xB000 + 4 * (14 : BitVec 12).toNat) % 8 = 0 ∧ (0xB000 + 4 * (15 : BitVec 12).toNat) % 8 ≠ 0) ∧
    (frontAcquire drill 0 (0xB000 + 60) 4).isSome = true ∧ (frontWrite drill 0 (0xB000 + 56) (toBytes 8 8)).isSome = true ∧
    (frontAcquire (drillWith { drillQueue with pkt := 0x2000000000 }) 0 0x2000000000 4).isNone = true ∧
    (frontWrite (drillWith { drillQueue with pkt := 0x2000000000 }) 0 0x2000000000 [0, 0, 0, 0]).isNone = true := by decide

theorem test_meets_DrillInstructions_signals :
    ((tget drillQueue.g 4 0).toNat % 8 ≠ 0 ∧ (tget drillQueue.g 3 0).toNat % 8 = 0) ∧ (frontRelease drill 0 8 (toBytes 8 1) 0).isSome = true ∧ (frontAcquire drill 0 8 8).isSome = true ∧
    (drill.launches.any fun x => x.2.queue == drill.dq && x.2.sheaf.isNone && !x.2.signalled) = false ∧
    (({ drill with launches := [(3, { id := 3 })] } : State).launches.any fun x => x.2.queue == drill.dq && x.2.sheaf.isNone && !x.2.signalled) = true ∧
    (readNode drill 0 0x2000000000).isNone = true ∧ (readNode drill 0 64).isSome = true := by decide

def level (left : Nat) : Level := { left, index := 0, g1 := 0, g2 := 0, pkt := 0xB000, pc := 1, loops := [] }

theorem test_meets_DrillInstructions_levels :
    (drillQueue.levels.length < 4 ∧ 1 ≤ (tget drillQueue.g 4 0).toNat ∧ (tget drillQueue.g 4 0).toNat ≤ 65535 ∧ (tget drillQueue.g 5 0).toNat % 64 = 0) ∧
    (4 ≤ ([level 1, level 1, level 1, level 1] : List Level).length ∧ 65535 < (tget drillQueue.g 7 0).toNat ∧ (tget drillQueue.g 3 0).toNat % 64 ≠ 0) ∧
    (drillQueue.levels = [] ∧ 1 < (level 2).left ∧ (level 1).left ≤ 1) ∧ roomAt { drillQueue with loops := (level 1).loops } (level 1).pc ∧
    (frontPlace drill 0 (0xA000 / 64 * 64 + (0 : Word).toNat % 2 ^ 4 / 8) 1 .write).isSome = true ∧
    (frontPeek drill 0 (0xA000 / 64 * 64 + (0 : Word).toNat % 2 ^ 4 / 8) 1).map (·.length) = some 1 := by
  unfold roomAt; decide

/-- One operation of a kind with one access at a place, in flight for the furrow of `one`. -/
def inFlight (kind : OpKind) (instr : Instr) (loc : Nat) (done l1 : Bool) : State :=
  { one with ops := [{ id := 1, furrow := furrowKey 0 0, kind, instr, path := some 0, act := 1, accs := [{ thr := 0, loc, done, l1 }] }] }
def copyOf (exclusive : Bool) : L1Line := { line := 1, data := List.replicate 64 0, wts := 0, rts := 5, exclusive }
def opOf (s : State) : Op := (s.op 1).getD {}

theorem test_meets_MemoryEvents_loads : let s := inFlight .load (.ld 0 0 3 4 0) 64 false false
    let c : State := { inFlight .load (.ld 0 0 3 4 0) 64 false true with cores := [(0, { l1 := [copyOf false] })] }
    let d := inFlight .load (.ld 0 0 3 4 0) 64 true false
    ((s.op 1).isSome = true ∧ (opOf s).kind = .load ∧ (tget s.lines 1 {}).owner = none ∧ 1 < 2 ^ 51 ∧ stamped (64 * 1) = true ∧ 1 ≤ (s.die (homeDie 64)).lease ∧ (s.die (homeDie 64)).lease ≤ 2 ^ 20 ∧
      ∃ a ∈ (opOf s).accs, (!(opOf s).refused && !a.done && a.loc / 64 == 1 && mayPerform (olderOps s (opOf s)) true a && bankFree s (opOf s) a) = true ∧ a.l1 = false) ∧
    ((∃ a ∈ (opOf c).accs, (!(opOf c).refused && !a.done && a.loc / 64 == 1 && mayPerform (olderOps c (opOf c)) true a && bankFree c (opOf c) a) = true ∧ a.l1 = true) ∧
      (c.furrow (opOf c).furrow).stream = false ∧ ∃ x ∈ (c.core (c.furrow (opOf c).furrow).gcore).l1, x.line = 1) ∧
    ((opOf d).done = false ∧ (∀ a ∈ (opOf d).accs, a.done = true) ∧ (opOf d).after = [] ∧ (∀ x ∈ (d.core (d.furrow (opOf d).furrow).gcore).fills, x.op ≠ 1) ∧
      (tfind d.furrows (opOf d).furrow).isSome = true) := by decide

/-- The same line held exclusively by core 0. -/
def held (s : State) : State := { s with cores := [(0, { l1 := [copyOf true] })], lines := [(1, { owner := some 0 })] }

theorem test_meets_MemoryEvents_stores : ∀ s ∈ [inFlight .store (.st 0 0 3 4 0) 64 false false, held (inFlight .store (.st 0 0 3 4 0) 64 false false)],
    (opOf s).kind = .store ∧ (opOf s).after = [] ∧ lineFree s (s.furrow (opOf s).furrow) 1 = true ∧
      ∃ a ∈ (opOf s).accs, (!(opOf s).refused && !a.done && a.loc / 64 == 1 && mayPerform (olderOps s (opOf s)) false a && bankFree s (opOf s) a) = true := by decide

theorem test_meets_MemoryEvents_storeComplete : let o := opOf (inFlight .store (.st 0 0 3 4 0) 64 true false)
    o.kind = .store ∧ o.done = false ∧ (∀ a ∈ o.accs, a.done = true) ∧ ∀ i ∈ o.after, opDone one i = true := by decide

theorem test_meets_MemoryEvents_atomics : (∀ k ∈ [64, 2 ^ 55], let s := inFlight .atomic (.atadd 0 3 4 5) k false false
      (opOf s).accs = [{ thr := 0, loc := k }] ∧ k % 4 = 0 ∧ mayPerform (olderOps s (opOf s)) false { thr := 0, loc := k } = true ∧ bankFree s (opOf s) { thr := 0, loc := k } = true ∧ (s.core 0).l1.length < 2048 ∧
      tget s.memMark (k / 4) .clean = .clean ∧ (tget s.lines (k / 64) {}).owner = none ∧ (opOf s).refused = false ∧ (opOf s).done = false) ∧
    (stamped (64 * 1) = true ∧ stamped (2 ^ 55) = false) ∧ ∀ a ∈ (opOf (inFlight .atomic (.atadd 0 3 4 5) 64 true false)).accs, a.done = true := by decide

theorem test_meets_MemoryEvents_lines : (tget one.lines 1 {}).owner = none ∧ (tget (held one).lines 1 {}).owner = some 0 ∧ (l1Find (held one) 0 1).isSome = true ∧
    ((held one).core 0).l1.find? (fun x => x.line == 1 && x.exclusive) = some (copyOf true) ∧
    (({ fills := [{ op := 1, line := 1, data := [], wts := 0, rts := 0 }] } : Core).fills.find? (·.line == 1)).isSome = true := by decide

/-- An operation of kind `kind` alone in flight at byte 64, whose entry waits for it as `w`; memory holds `n` at 64. -/
def waiting (o : Op) (w : List Wait) (n : Nat) : State :=
  let f : Furrow := { one.cur with entries := [{ one.cur.entry 0 with waits := w }] }
  { one with mem := writeBytes one.mem 64 (toBytes 8 n), furrows := [(furrowKey 0 0, f)],
             ops := [{ o with id := 1, furrow := furrowKey 0 0, accs := [{ thr := 0, loc := 64, size := 8 }] }] }
/-- Behind 64 other parked operations at the same place. -/
def behind (s : State) : State :=
  { s with ops := (List.range 64).map (fun i => { (opOf s) with id := 100 + i, furrow := 9 }) ++ s.ops }

def arrives (path : Option Nat) (n : Nat) : State := waiting { kind := .arrival, instr := .bara 3 4 0, path } [.operation 1] n

/-- Two arrivals expected: an arrival applies. None expected: it does not. -/
theorem test_meets_SyncEvents_arrival : (∀ s ∈ [arrives none 2, arrives (some 1) 2, arrives none 0, arrives (some 1) 0],
      (opOf s).kind = .arrival ∧ (opOf s).done = false ∧ (opOf s).parked = false ∧ (opOf s).begun = false ∧ (opOf s).refused = false ∧ (opOf s).after = [] ∧
      (tget s.lines 1 {}).owner = none ∧ mayPerform (olderOps s (opOf s)) false { thr := 0, loc := 64, size := 8 } = true ∧ bankFree s (opOf s) { thr := 0, loc := 64, size := 8 } = true ∧
      (tfind s.furrows (opOf s).furrow).isSome = true) ∧
    (arrive (ofBytes (readBytes (arrives none 2).mem 64 8)) (some 0)).isSome = true ∧ arrive (ofBytes (readBytes (arrives none 0).mem 64 8)) (some 0) = none := by decide

/-- Parked at a barrier whose phase has flipped, or not, and at a word, each within the tracker and behind 64 others. -/
def parkedAt (phase : Bool) : State := waiting { kind := .arrival, instr := .barw 4 0, parked := true, begun := true } [.parked 1 64 phase] 2
def parkedWord (y : Word) (begun parked : Bool) : State :=
  waiting { kind := .waitw, instr := .waitw 3 4 0 0, parked, begun, args := [y] } [if parked then .word 1 64 else .operation 1] 2

theorem test_meets_SyncEvents_parked : (∀ s ∈ [parkedAt true, parkedAt false, parkedWord 2 true true, parkedWord 3 true true, behind (parkedAt true), behind (parkedWord 2 true true)],
      (parkedOp s (furrowKey 0 0) 0).map (·.1) = some (opOf s) ∧ (opOf s).parked = true ∧ (opOf s).begun = true) ∧
    (overflowWaiter (parkedAt true) (opOf (parkedAt true)) = false ∧ phaseAt (parkedAt true).mem 64 ≠ true ∧ phaseAt (parkedAt false).mem 64 = false) ∧
    (overflowWaiter (behind (parkedAt true)) (opOf (behind (parkedAt true))) = true ∧ ((behind (parkedAt true)).line 64).owner = none) ∧
    (overflowWaiter (parkedWord 2 true true) (opOf (parkedWord 2 true true)) = false ∧
      overflowWaiter (behind (parkedWord 2 true true)) (opOf (behind (parkedWord 2 true true))) = true) := by decide

/-- No other access of the furrow to the word is open. -/
def settledAt (s : State) : Prop :=
  ∀ x ∈ s.ops, x.furrow = (opOf s).furrow → x.done = false → x.kind = .waitw ∨ ∀ b ∈ x.accs, b.done = true ∨ ({ thr := 0, loc := 64, size := 8 } : Acc).overlaps b = false
theorem test_meets_SyncEvents_waitw : (let s := parkedWord 2 false false
    (opOf s).kind = .waitw ∧ (opOf s).parked = false ∧ (opOf s).refused = false ∧ (tget s.lines 1 {}).owner = none ∧ (opOf s).accs = [{ thr := 0, loc := 64, size := 8 }] ∧
      mayPerform (olderOps s (opOf s)) false { thr := 0, loc := 64, size := 8 } = true ∧ bankFree s (opOf s) { thr := 0, loc := 64, size := 8 } = true ∧
      read32 s.mem 64 = 2 ∧ (opOf s).args.headD 0 = 2) ∧
    ∀ s ∈ [parkedWord 2 false false, parkedWord 3 false false, parkedWord 2 true true, parkedWord 3 true true, behind (parkedWord 2 true true)], settledAt s := by
  unfold settledAt; decide

/-- A scope record of zeros, and one with a reserved bit. -/
theorem test_meets_SyncEvents_scopes : ∀ n ∈ [0, 2 ^ 61], let s := waiting { kind := .scopeset, instr := .scopeset 3 4 1, scope := 1, path := some 1 } [] n
    (opOf s).kind = .scopeset ∧ (opOf s).done = false ∧ (opOf s).refused = false ∧ earlierScopeset s (opOf s) = false ∧ (tget s.lines 1 {}).owner = none ∧
      mayPerform (olderOps s (opOf s)) true { thr := 0, loc := 64, size := 8 } = true ∧ bankFree s (opOf s) { thr := 0, loc := 64, size := 8 } = true ∧ 64 < 2 ^ 57 := by decide
theorem test_meets_SyncEvents_reserved : scopeReserved 0 = false ∧ scopeReserved (2 ^ 261) = true := by decide +kernel

/-- A message of tag 7 on its way to cluster 0, with a receive posted there, with none, and with a full queue. -/
def sending (c : Cluster) : State :=
  { one with ops := [{ id := 1, furrow := furrowKey 0 0, kind := .message, instr := .msg 2 8, path := some 1, args := [1, 2, 3, 4, 5, 6, 7, 8, 7, 0] }], clusters := [(0, c)] }
def receive : Posted := { slot := 0, loc := 0x1000, tag := 7, tmask := 0xFFFFFFFF, source := none, plot := 1 }

theorem test_meets_SyncEvents_messages : (∀ c ∈ ([{ posted := [receive] }, {}, { overflow := List.replicate 64 { source := 0, tag := 0, payload := [] } }] : List Cluster), let s := sending c
      (opOf s).kind = .message ∧ (opOf s).done = false ∧ (opOf s).args.length = 10 ∧ messageReady s (opOf s) = true ∧ (tfind s.furrows (opOf s).furrow).isSome = true) ∧
    (receive.takes 0 7 = true ∧ receive.loc % 64 = 0 ∧ 64 ≤ (List.replicate 64 (0 : Nat)).length) := by decide

/-- A context with a record for its fault ring of 2 entries, with room and without. -/
def faulting (written : Nat) : State :=
  { one with ctxs := [(0, { ptbase := 0x2000, fring := 0x8001, fringw := 0x9000, faults := [List.replicate 8 0] })], mem := writeBytes one.mem 0x9000 (toBytes 4 written) }

theorem test_meets_SyncEvents_ring : (∀ n ∈ [0, 2], ((faulting n).ctx 0).faults.length = 1 ∧ ((faulting n).ctx 0).fring ≠ 0 ∧ ((faulting n).ctx 0).fring.toNat % 32 = 1) ∧
    2 ^ 1 ≤ (read32 (faulting 2).mem 0x9000 - read32 (faulting 2).mem 0x9008).toNat ∧ (read32 (faulting 0).mem 0x9000 - read32 (faulting 0).mem 0x9008).toNat < 2 ^ 1 := by decide

/-- A furrow that waits for a reply into s3, and for walks of an address with a page and of one without. -/
def replying : State := waiting {} [.service 3, .walk 0 0 0 0, .walk 0x2000000000 0 0 0, .walk 0xFFFFFFFFFFFFFF 0 0 0] 0

theorem test_meets_SyncEvents_replies : let f := replying.furrow (furrowKey 0 0)
    ((tfind replying.furrows (furrowKey 0 0)).isSome = true ∧ f.ctx = 0 ∧ f.stream = false ∧ (∃ e ∈ f.entries, Wait.service 3 ∈ e.waits)) ∧
    (walker f 8 0 = none ∧ (walker f 0 0).isSome = true ∧ (walker f 0x2000000000 0).isSome = true ∧
      (walker f 0xFFFFFFFFFFFFFF 0).isSome = true) ∧
    (resolve replying (agentOf replying f) (tlbOf replying (agentOf replying f)) 0 0xFFFFFFFFFFFFFF 1 .read = .fail 0x07 ∧
      resolve replying (agentOf replying f) (tlbOf replying (agentOf replying f)) 0 0 1 .read ≠ .fail 0x07) ∧
    (resolve replying (agentOf replying f) (tlbOf replying (agentOf replying f)) 0 0 1 .read ≠ .miss ∧
      resolve replying (agentOf replying f) (tlbOf replying (agentOf replying f)) 0 0x2000000000 1 .read = .miss) := by decide

theorem test_meets_SyncEvents_replies_all : ∀ e ∈ (replying.furrow (furrowKey 0 0)).entries, ∀ q, Wait.service q ∈ e.waits → q = 3 := by
  intro e he q hq
  have h : (replying.furrow (furrowKey 0 0)).entries = [{ one.cur.entry 0 with waits := [.service 3, .walk 0 0 0 0, .walk 0x2000000000 0 0 0, .walk 0xFFFFFFFFFFFFFF 0 0 0] }] := rfl
  rw [h] at he
  simp only [List.mem_singleton] at he
  subst he
  simpa using hq

/-- Slices, partition codes at their bounds, a busy die; a stamp near the top of its range, and none. -/
theorem test_meets_SyncEvents_dies : (3 < 4 ∧ 63 < 64 ∧ 63 ∉ (one.die 3).retired ∧ (one.die 3).retired.length < 8 ∧ 8 ≤ ([0, 1, 2, 3, 4, 5, 6, 7] : List Nat).length) ∧
    ((8 : BitVec 32).toNat % 16 ≤ 8 ∧ 8 < (9 : BitVec 32).toNat % 16 ∧ dieBusy one 1 = false ∧ (one.die 1).busy = false ∧ dieBusy one 0 = true ∧ ({ busy := true } : Die).busy = true) ∧
    ((∃ l ∈ ({ one with lines := [(1, { rts := 0x7FFFFFF00000 })] } : State).lines, 2 ^ 47 ≤ l.2.rts.toNat + 2 ^ 20 + 1) ∧ one.ops = [] ∧ one.clusters = [] ∧ one.lines = []) := by decide

/-! EngineAndQueueEvents: its clauses on the copy and matrix engines, the key units, the queues, the plots and the launches are met by the theorems
test_meets_CopyEngine_…, MatrixEngine_…, KeyUnits…, Queues…, Plots and Launches…. -/

/-- A copy command of plot 1, of core 0, for the operation 1. -/
def command (words : List Word) : CopyCmd := { words, op := 1, plot := 1, core := 0, slot := 0, ctx := 0, pkt := 0 }
/-- A fill of 16 bytes at 0x1000, and a copy of 16 bytes from there to 0x2100; one with a length of zero; a ring of 16 entries at 0x4000. -/
def fill : CopyCmd := command [0xDDCCBBAA, 0x1000, 0, 16, 0, 0, 1, 0]
def move : CopyCmd := command [0x1000, 0x2100, 0, 16, 0, 0, 0, 0]
def wrong : CopyCmd := command [0x1000, 0x2100, 0, 0, 0, 0, 0, 0]
def ring : CopyCmd := command [0x5000, 0x4000, 0, 16, 0, 0, 2, 0]
def copying (c : CopyCmd) : State := { one with cores := [(0, { copyq := [c] })], ops := [{ id := 1, furrow := furrowKey 0 0, kind := .copy, instr := .cpy 8, path := some 2 }] }
/-- The place and the state that an answer of the engine holds. -/
def placeOf (r : Except (Nat × Nat) (Nat × State)) : Option (Nat × State) :=
  match r with
  | .ok x => some x
  | .error _ => none
theorem placed_eq {r : Except (Nat × Nat) (Nat × State)} (h : (placeOf r).isSome = true) : r = .ok ((placeOf r).getD (0, State.reset)) := by
  cases r with
  | ok x => rfl
  | error e => simp [placeOf] at h

theorem test_meets_CopyEngine_start : (∀ c ∈ [fill, move, ring, wrong], let X := (copying c).cluster 0
      X.run = none ∧ (X.lastQueue + 1 + 1) % 5 = 0 ∧ (X.lastQueue + 1 + 0) % 5 = 4 ∧ X.moves = [] ∧ ((copying c).core 0).copyq = [c] ∧ c.engineError = false ∧ plotStopped (copying c) c.plot = false) ∧
    (copyCheck (copying fill) fill = none ∧ copyCheck (copying move) move = none ∧ copyCheck (copying ring) ring = none ∧ copyCheck (copying wrong) wrong = some (4, 9)) ∧
    (fill.targets = none ∧ fill.rows = 1 ∧ fill.keep = false ∧ fill.kind = 1 ∧ move.rows = 1 ∧ move.keep = false ∧ move.kind = 0 ∧ ring.kind = 2) ∧
    (fill.dadr % 65536 + fill.len ≤ 65536 ∧ move.sadr % 65536 + move.len ≤ 65536 ∧ move.dadr % 65536 + move.len ≤ 65536) ∧
    ({ fill with engineError := true } : CopyCmd).engineError = true ∧
    plotStopped { copying fill with plots := [(1, { (copying fill).plot 1 with halted := true })] } 1 = true := by decide +kernel

theorem test_meets_CopyEngine_places : (placeOf (enginePlace (copying fill) fill .write fill.dadr fill.len)).isSome = true ∧
    (placeOf (enginePlace (copying fill) fill .write fill.dadr fill.len)).map (·.1) = some 0x1000 ∧
    (let r := (placeOf (enginePlace (copying move) move .read move.sadr move.len)).getD (0, State.reset);
      (placeOf (enginePlace (copying move) move .read move.sadr move.len)).isSome = true ∧ r.1 = 0x1000 ∧
      (placeOf (enginePlace (copying move) move .write move.dadr move.len)).map (·.1) = some 0x2100) := by decide +kernel

/-- A run without a record to write, and one of a ring. -/
theorem test_meets_CopyEngine_end : (∀ c ∈ [fill, ring], let s : State := { copying c with clusters := [(0, { run := some { cmd := c, status := 0 } })] }
      (s.cluster 0).run = some { cmd := c, status := 0 } ∧ ((s.cluster 0).run.map (·.inbound)) = some [] ∧ (c.wantsRecord = false ∨ c.kind = 2) ∧
        (tfind s.plots c.plot).isSome = true) ∧ (255 : Nat) < 256 := by decide +kernel

/-- A stream with a matrix operation queued, under a full budget, an empty one, and one that a charge over the ceiling may take. -/
def queued (i : Instr) (budget ceil : Word) : State :=
  { streaming with clusters := [(0, { budget, ceil })],
                   furrows := [(streamKey 0 0, { streaming.cur with valid := true, mqueue := [{ op := 1, instr := i, offset := 0, pkt := 0, slot := 0 }] })],
                   ops := [{ id := 1, furrow := streamKey 0 0, kind := .matrix, instr := i, begun := true, args := [1] }] }

theorem test_meets_MatrixEngine_choice : (∀ i ∈ [Instr.mzero 15, .mst 15 1, .mlda 15 1, .mrls], let s := queued i 0x40000 0x40000
      (s.die 0).hot = false ∧ (s.cluster 0).chosen = none ∧ waitingStreams s 0 = [streamKey 0 0] ∧
      headCharge s (streamKey 0 0) ≤ (s.cluster 0).budget.toNat ∧ (s.op 1).isSome = true ∧ (tfind s.furrows (streamKey 0 0)).isSome = true) ∧
    (let i : Instr := .mlda 15 1;
      ¬headCharge (queued i 0 0x40000) (streamKey 0 0) ≤ 0 ∧ headCharge (queued i 0 0x40000) (streamKey 0 0) ≤ (0x40000 : Word).toNat ∧
      1 < headCharge (queued i 1 1) (streamKey 0 0)) := by decide +kernel

/-- A tile transfer between the furrow of `one` and a stream. -/
def transfer (i : Instr) : State :=
  { one with furrows := one.furrows ++ [(streamKey 0 0, streaming.cur)],
             ops := [{ id := 1, furrow := furrowKey 0 0, kind := .tile, instr := i, act := 0xFFFF, args := [.ofNat 32 (streamKey 0 0)] }] }

theorem test_meets_MatrixEngine_tiles : ∀ i ∈ [Instr.twr 8 15 7, .trd 120 15 7], let s := transfer i
    (s.op 1).map (fun o => o.kind == .tile && !o.done) = some true ∧ (tfind s.furrows (((opOf s).args.headD 0).toNat)).isSome = true ∧
      (tfind s.furrows (furrowKey 0 0)).isSome = true := by decide +kernel

/-- A key operation of 16 threads; with its answers; behind an operation that is not done. -/
def asking (i : Instr) (results : NMap Word) (after : List Nat) : State :=
  { one with ops := [{ id := 1, furrow := furrowKey 0 0, kind := .key, instr := i, act := 0xFFFF, results, after }, { id := 5, furrow := 9 }] }
def answered : NMap Word := (List.range 16).map fun t => (8 * t, 2)

theorem test_meets_KeyUnits : (∀ i ∈ [Instr.klook 8 4, .kunpin 8 4], let s := asking i [] []
      (opOf s).kind = .key ∧ (opOf s).done = false ∧ keyFinished s (opOf s) = false ∧ ((keyProgress s (opOf s)).bind fun u => u.op 1).isSome = true) ∧
    (∀ i ∈ [Instr.klook 8 4, .kunpin 120 4, .kiter 8 4, .kcut 120 4 0, .kacre 8 4], keyFinished (asking i answered []) (opOf (asking i answered [])) = true ∧
      (tfind (asking i answered []).furrows (furrowKey 0 0)).isSome = true) ∧
    (keyFinished (asking (.kmrg 8 4) [] [5]) (opOf (asking (.kmrg 8 4) [] [5])) = false ∧ (keyProgress (asking (.kmrg 8 4) [] [5]) (opOf (asking (.kmrg 8 4) [] [5]))).isNone = true) := by
  decide +kernel

/-- Acre 7 with empty directories, its table word at 0x40000 as a `kbal` leaves it, and a leaf copied from cluster 1 to cluster 0 for the operation 1. -/
def acred (bal : Nat) : State :=
  { one with mem := writeBytes one.mem 0x40000 (toBytes 4 (bal * 2 ^ 17)), clusters := [(1, { moves := [{ ctx := 0, acre := 7, origin := 0, key := 1, old := 0, new := 0, dest := 0, op := 1, copied := true }] })],
             ctxs := [(0, { ptbase := 0x2000, acres := [(7, some { dir := 0x100000, pool := 0x200000, cost := 0x40000 })] })] }
def moved (s : State) : Option Move := (s.cluster 1).moves.find? (fun m => m.ctx == 0 && m.acre == 7 && m.key == 1 && m.copied)

theorem test_meets_KeyUnits_handover : ((moved (acred 2)).isSome = true ∧ (one.cluster 1).moves = [] ∧ (unitAt one 0 7 1).isNone = true) ∧
    (let s := acred 2
      let u := s.modCluster 1 fun c => { c with moves := [] };
      ((moved s).bind fun m => (unitAt u 0 7 m.op).bind fun k => handOver u 1 m k).isSome = true ∧
        (((moved s).bind fun m => unitAt u 0 7 m.op).map (·.acre.err)) = some false) ∧ ({ err := true } : Acre).err = true ∧
    (let s := acred 2
      let lost : State := { s with ctxs := [(0, { ptbase := 0x2000, acres := [(7, some { dir := 0x2000000000, pool := 0x200000, cost := 0x40000 })] })] }
      ((moved lost).bind fun m => (unitAt lost 0 7 m.op).bind fun k => handOver lost 1 m k).isNone = true ∧ ((moved lost).bind fun m => unitAt lost 0 7 m.op).isSome = true) := by
  decide +kernel
/-- What a drain of acre 7 leaves, where it goes through. -/
def drained (s : State) : Option State :=
  (unitAt s 0 7 0).bind fun x =>
    let u := { x with done := x.acre.agent }
    (eachDir (unitMarks s u ((List.range 256).map (dirRange s u))) u fun _ es => es.filter fun e => e.st != 3).bind fun v =>
      (readAst v u 0).bind fun a => writeAst v u 0 { a with bal := 0 }
/-- Acre 7 with an empty directory in the last word of each cluster's memory. -/
def drainable (bal : Nat) : State :=
  { acred bal with ctxs := [(0, { ptbase := 0x2000, acres := [(7, some { dir := 0xFF0800003FFFFC, nent := 524286, pool := 0x200000, cost := 0x40000 })] })] }
theorem test_meets_KeyUnits_drain : drainReady (acred 0) 0 7 = false ∧ drainReady (drainable 2) 0 7 = true ∧ (drained (drainable 2)).isSome = true := by
  decide +kernel

/-- A queue whose program of one word lies at 0x8000 (the word 0), or at 0x8004 (a word that is not legal), or where no page is. -/
def disabled (at_ : Dword) (len : Nat) : State := { one with queues := [(0, { qprog := at_, qplen := len })], mem := writeBytes one.mem 0x8004 [0xFF, 0xFF, 0xFF, 0xFF] }
def checked (at_ : Dword) (len : Nat) : List Word × Option Nat :=
  let u := (disabled at_ len).modQueue 0 fun x => { x with lsz := 4, pri := 0, ctx := 0 }
  let p := programWords u 0 ((u.queue 0).qprog.toNat / 4 * 4) (u.queue 0).qplen
  (p.1, programFault p.1)

theorem test_meets_Queues_enable : (∀ s ∈ [disabled 0x8000 1, disabled 0x8004 1, disabled 0x2000000000 1], let Q := s.queue 0
      Q.en = false ∧ 1 ≤ Q.qplen ∧ Q.qplen ≤ 1024 ∧ booted s = true) ∧ (0 : Nat) < 256 ∧
    ((0x2004 : BitVec 32).getLsbD 13 = true ∧ 4 ≤ (0x2004 : BitVec 32).toNat % 16 ∧ (0x2004 : BitVec 32).toNat % 16 ≤ 12) ∧
    ((4 : BitVec 32).getLsbD 13 = false ∧ (0x2003 : BitVec 32).toNat % 16 < 4 ∧ 12 < (0x200D : BitVec 32).toNat % 16) ∧
    checked 0x8000 1 = ([0], none) ∧ checked 0x8004 1 = ([0xFFFFFFFF], some 0) ∧ checked 0x2000000000 1 = ([], none) ∧
    ((disabled 0x8000 0).queue 0).qplen < 1 ∧ (drill.queue 0).en = true ∧ (256 : Nat) ≤ 256 := by decide +kernel

theorem test_meets_Queues : ((drill.queue 0).qstat = 1 ∧ ((drill.queue 0).qtk - (drill.queue 0).qrd).toNat < 2 ^ (drill.queue 0).lsz) ∧
    (∀ n ∈ [0, 2, 3, 4, 5], ((drillWith { drillQueue with qstat := n }).queue 0).qstat = n) ∧
    2 ^ ((drillWith { drillQueue with qtk := 16 }).queue 0).lsz ≤ (((drillWith { drillQueue with qtk := 16 }).queue 0).qtk - 0 : Word).toNat := by decide

/-- A queue between packets, whose bitmap byte is 1, 0, or where no page is; and its fault ring without an address. -/
def between (bitmap : Nat) (at_ : Dword) : State :=
  { drillWith { drillQueue with inPacket := false, qbmap := at_, held := [[0, 0, 0, 0, 0, 0, 0, 0]] } with mem := writeBytes drill.mem 0xA000 [.ofNat 8 bitmap] }
def bitmapByte (s : State) : Option (List Byte × State) := frontAcquire s 0 ((s.queue 0).qbmap.toNat / 64 * 64 + 0 / 8) 1

theorem test_meets_Queues_packets : (∀ s ∈ [between 1 0xA000, between 0 0xA000, between 0 0x2000000000], let Q := s.queue 0
      Q.en = true ∧ Q.qstat = 1 ∧ Q.drillStopped = false ∧ Q.inPacket = false ∧ Q.qrd.toNat % 2 ^ Q.lsz = 0) ∧
    ((bitmapByte (between 1 0xA000)).map fun r => (ofBytes r.1).testBit 0) = some true ∧ ((bitmapByte (between 0 0xA000)).map fun r => (ofBytes r.1).testBit 0) = some false ∧
    (bitmapByte (between 0 0x2000000000)).isNone = true ∧ (drill.queue 0).held = [] ∧ ((between 1 0xA000).queue 0).held = [[0, 0, 0, 0, 0, 0, 0, 0]] ∧
    (drill.queue 0).inPacket = true ∧ queueRingFull (drillWith { drillQueue with inPacket := false }) 0 = false ∧
    (match queueRecordNow (between 1 0xA000) 0 (bytesOf [0, 0, 0, 0, 0, 0, 0, 0]) with
      | .done _ => true
      | .full => false) = true := by decide
theorem test_meets_Queues_start : (drillWith { drillQueue with inPacket := false }).queue 0 = { drillQueue with inPacket := false } ∧ drillQueue.held = [] := by decide

/-- The plot of `one` placed; running under a queue that is stopped, its furrow parked at a barrier; and that furrow with nothing left to do. -/
def placedPlot : State := { one with plots := [(1, { one.plot 1 with phase := .placed })] }
def parkedPlot : State :=
  { parkedAt true with queues := [(0, { qstat := 3 })], furrows := [(furrowKey 0 0, { (parkedAt true).furrow (furrowKey 0 0) with valid := true, ctr := [] })] }
def idle : State := { one with furrows := [(furrowKey 0 0, { one.cur with valid := true, entries := [] })] }
/-- A stream that is parked while its croft's plot has ended, and one that has ended. -/
def parkedStream : State :=
  { streaming with queues := [(0, { qstat := 3 })], plots := [(1, { streaming.plot 1 with phase := .ended })],
                   ops := [{ id := 1, furrow := streamKey 0 0, kind := .arrival, instr := .barw 4 0, parked := true, begun := true, accs := [{ thr := 0, loc := 64, size := 8 }] }],
                   furrows := [(streamKey 0 0, { streaming.cur with valid := true, entries := [{ streaming.cur.entry 0 with waits := [.parked 1 64 true] }] })] }
def idleStream : State := { streaming with furrows := [(streamKey 0 0, { streaming.cur with valid := true, entries := [] })] }

theorem test_meets_Plots : ((tfind placedPlot.plots 1).map (·.phase) = some .placed ∧ (placedPlot.plot 1).id = 1 ∧ (tfind one.plots 1).map (·.phase) = some .running) ∧
    (saveReady one (one.plot 1) = false ∧ saveReady parkedPlot (parkedPlot.plot 1) = true) ∧
    (releaseReady one (furrowKey 0 0) = false ∧ releaseReady idle (furrowKey 0 0) = true ∧ (idle.furrow (furrowKey 0 0)).stream = false) ∧
    (releaseReady idleStream (streamKey 0 0) = true ∧ (idleStream.furrow (streamKey 0 0)).stream = true) ∧
    (streamSaveReady one (furrowKey 0 0) = false ∧ streamSaveReady parkedStream (streamKey 0 0) = true ∧
      (tfind parkedStream.crofts (parkedStream.furrow (streamKey 0 0)).croft).isSome = true ∧ (parkedStream.croft 2).id = 2) := by decide

/-- `s` under a stopped queue with a save area at `at_` of `kib` KiB. -/
def saving (s : State) (at_ : Dword) (kib : Word) : State := { s with queues := [(0, { qstat := 3, qsave := at_, qslen := kib })] }
theorem frontPlace_size (s : State) (va n : Nat) (need : Need) (h : va < 0xFF * 2 ^ 48) : frontPlace s 0 va n need = frontPlace s 0 va 1 need := by
  have h' : ¬va / 2 ^ 48 = 0xFF := by omega
  unfold frontPlace resolve
  simp only [if_neg h']
theorem frontSpan_pieces (s : State) (h : ∀ i, i < 16 → frontPlace s 0 (65536 * (i + 1)) 1 .write = some (65536 * (i + 1))) (fuel : Nat) :
    ∀ i n, n ≤ 65536 * (16 - i) → ∃ ps, frontSpan s 0 (65536 * (i + 1)) .write fuel n = some ps ∧ ∀ p ∈ ps, 65536 * (i + 1) ≤ p.1 := by
  induction fuel with
  | zero => intro i n _; exact ⟨[], by cases n <;> rfl, nofun⟩
  | succ fuel ih =>
    intro i n hn
    cases n with
    | zero => exact ⟨[], rfl, nofun⟩
    | succ n =>
      have hi : i < 16 := by omega
      have hm : 65536 - 65536 * (i + 1) % 65536 = 65536 := by omega
      rw [frontSpan, hm, frontPlace_size _ _ _ _ (by omega), h i hi]
      swap
      · simp
      by_cases hle : n + 1 ≤ 65536
      · have hz : n + 1 - min (n + 1) 65536 = 0 := by omega
        exact ⟨[(65536 * (i + 1), min (n + 1) 65536)], by rw [hz]; cases fuel <;> rfl, by simp⟩
      · have ha : 65536 * (i + 1) + min (n + 1) 65536 = 65536 * (i + 1 + 1) := by omega
        obtain ⟨ps, hp, hq⟩ := ih (i + 1) (n + 1 - min (n + 1) 65536) (by omega)
        rw [ha, hp]
        refine ⟨_, rfl, ?_⟩
        intro p hp'
        rcases List.mem_cons.1 hp' with rfl | hp'
        · exact Nat.le_refl _
        · exact Nat.le_trans (by omega) (hq p hp')

/-- A record of 64 bytes to 1 MiB fits an area of 1,024 KiB at 0x10000, its first piece at 0x10000 and the others past it; in one of no room it does not; in one
where no page is it meets a hole. -/
theorem save_fits (s : State) (h : ∀ i, i < 16 → frontPlace s 0 (65536 * (i + 1)) 1 .write = some (65536 * (i + 1))) (len : Nat) (hl : 64 ≤ len)
    (hu : len ≤ 65536 * 16) : ∃ ps, frontSpan s 0 65536 .write (len / 65536 + 2) len = some ((65536, min len 65536) :: ps) ∧ ∀ p ∈ ps, 65536 + 64 ≤ p.1 := by
  obtain ⟨n, rfl⟩ : ∃ n, len = n + 1 := ⟨len - 1, by omega⟩
  have hm : 65536 - 65536 % 65536 = 65536 := rfl
  rw [frontSpan, hm, frontPlace_size _ _ _ _ (by omega), h 0 (by omega)]
  swap
  · simp
  by_cases hle : n + 1 ≤ 65536
  · have hz : n + 1 - min (n + 1) 65536 = 0 := by omega
    exact ⟨[], by rw [hz]; cases (n + 1) / 65536 <;> rfl, nofun⟩
  · have ha : 65536 + min (n + 1) 65536 = 65536 * (1 + 1) := by omega
    obtain ⟨ps, hp, hq⟩ := frontSpan_pieces s h ((n + 1) / 65536 + 1) 1 (n + 1 - min (n + 1) 65536) (by omega)
    exact ⟨ps, by rw [ha, hp], fun p hp' => Nat.le_trans (by omega) (hq p hp')⟩
theorem save_hole (s : State) (h : frontPlace s 0 0x2000000000 1 .write = none) (n : Nat) (hl : 64 ≤ n) :
    (frontSpan s 0 0x2000000000 .write (n / 65536 + 2) n).isSome = false := by
  obtain ⟨m, rfl⟩ : ∃ m, n = m + 1 := ⟨n - 1, by omega⟩
  rw [frontSpan, frontPlace_size _ _ _ _ (by omega), h]
  · rfl
  · simp

theorem test_meets_Plots_saves (content : Nat) (hc : content ≤ 2 ^ 19) : ∀ s ∈ [parkedPlot, parkedStream], let len := saveLength s content
    (64 ≤ len ∧ len ≤ (((saving s 0x10000 1024).queue 0).qslen.toNat * 1024 - ((saving s 0x10000 1024).queue 0).saved) ∧
      ∃ ps, frontSpan (saving s 0x10000 1024) 0 0x10000 .write (len / 65536 + 2) len = some ((0x10000, min len 65536) :: ps) ∧ 64 ≤ min len 65536 ∧
        ∀ p ∈ ps, p.1 + p.2 ≤ 0x10000 ∨ 0x10000 + 64 ≤ p.1) ∧
    ((saving s 0x10000 0).queue 0).qslen.toNat * 1024 - ((saving s 0x10000 0).queue 0).saved < len ∧
    (frontSpan (saving s 0x2000000000 1024) 0 0x2000000000 .write (len / 65536 + 2) len).isSome = false := by
  have hp : ∀ s ∈ [parkedPlot, parkedStream], ∀ i, i < 16 → frontPlace (saving s 0x10000 1024) 0 (65536 * (i + 1)) 1 .write = some (65536 * (i + 1)) := by
    decide +kernel
  have hn : ∀ s ∈ [parkedPlot, parkedStream], frontPlace (saving s 0x2000000000 1024) 0 0x2000000000 1 .write = none := by decide +kernel
  intro s hs len
  have h1 : 64 ≤ len := by unfold len saveLength; omega
  have h2 : len ≤ 65536 * 16 := by unfold len saveLength; omega
  clear_value len
  obtain ⟨ps, ha, hb⟩ := save_fits _ (hp s hs) len h1 h2
  have h3 : 64 ≤ min len 65536 := by omega
  have e : ((saving s 0x10000 1024).queue 0).qslen = 1024 ∧ ((saving s 0x10000 1024).queue 0).saved = 0 ∧ ((saving s 0x10000 0).queue 0).qslen = 0 := ⟨rfl, rfl, rfl⟩
  rw [e.1, e.2.1, e.2.2]
  have n : (1024 : Word).toNat = 1024 ∧ (0 : Word).toNat = 0 := by decide
  rw [n.1, n.2]
  exact ⟨⟨h1, by omega, ps, ha, h3, fun p hp => .inr (hb p hp)⟩, by omega, save_hole _ (hn s hs) len h1⟩

/-- What the two records hold; the area leaves whether they may be saved as it is. -/
theorem test_meets_Plots_content : (parkedPlot.plot 1).furrows.length = 1 ∧
    (((parkedPlot.plot 1).furrows.filterMap (tfind parkedPlot.furrows ·)).map furrowBytes).sum + (parkedPlot.plot 1).scrSize + 16 * laneBytes (parkedPlot.plot 1) +
      (parkedPlot.launch 3).record.cmem ≤ 2 ^ 19 := by decide +kernel
theorem test_meets_Plots_stream : (parkedStream.furrow (streamKey 0 0)).scount = 128 ∧ (parkedStream.launch 3).record.cmem = 0 := by decide +kernel
theorem test_meets_Plots_bytes : 4 * 128 + 16 * 8192 + 16 * 4096 + 2 * 8192 + 128 + 0 ≤ 2 ^ 19 := by norm_num
theorem test_meets_Plots_ready (a : Dword) (n : Word) : saveReady (saving parkedPlot a n) (parkedPlot.plot 1) = true ∧
    streamSaveReady (saving parkedStream a n) (streamKey 0 0) = true := ⟨rfl, rfl⟩

/-- Launch 3 over, with a signal to give at 64 and without; not yet placed, under a queue that runs, before a launch that waits behind it; with a node's timer. -/
def finished (sig : Dword) (halted : Bool) : State :=
  { one with crofts := [], queues := [(0, { overs := [3] })], launches := [(3, { id := 3, next := 1, halted, record := { sig, sval := 9 } })] }
def unplaced : State :=
  { one with furrows := [], plots := [], crofts := [], queues := [(0, { qstat := 1 })], launches := [(3, { id := 3 }), (4, { id := 4 })], nextId := 5 }
def timed : State :=
  { one with mem := writeBytes one.mem 0xA000 (toBytes 64 (1 + 2 ^ 160 + 2 ^ 192)), queues := [(0, { qstat := 1 })], ctxs := [(0, { ptbase := 0x2000, nodes := [(0xA000, { fill := 1, launch := 3 })] })],
             launches := [(3, { id := 3, next := 1, record := { graph := 0xA000, nodes := 1 } })] }

theorem test_meets_Launches : (launchOver one (one.launch 3) = false) ∧
    (∀ s ∈ [finished 0 false, finished 64 true], (tfind s.launches 3).isSome = true ∧ launchOver s (s.launch 3) = true ∧ (s.queue 0).overs.head? = some (s.launch 3).id ∧ (s.launch 3).sheaf = none) ∧
    ((finished 0 false).launch 3).record.sig = 0 ∧ (let s := finished 64 true;
      (s.launch 3).record.sig ≠ 0 ∧ (frontRelease s 0 64 (toBytes 8 (9 + 2 ^ 32 * 4)) (s.launch 3).maxw).isSome = true) := by decide
theorem test_meets_Launches_place : (placeable unplaced (placementOrder unplaced 0)).map (·.id) = some 3 ∧ (tryPlace unplaced (unplaced.launch 3)).isSome = true ∧
    (tfind unplaced.launches 4).isSome = true ∧ (seatPlot unplaced 0 { id := 1, launch := 3 }).isSome = true := by decide +kernel
theorem test_meets_Launches_timer : timerReady one (one.launch 3) 0 = false ∧ timerReady timed (timed.launch 3) 0 = true ∧ (readNode timed 0 (0xA000 + 64 * 0)).isSome = true := by
  decide +kernel
theorem test_meets_Launches_emit : let s : State := { one with ops := [{ id := 1, furrow := furrowKey 0 0, kind := .emit, instr := .emit 3 8, path := some 1, args := [1, 2, 3, 4, 5, 6, 7, 8, 0] }] }
    (s.op 1).isSome = true ∧ emitReady s (opOf s) = true ∧ (tfind s.furrows (opOf s).furrow).isSome = true := by decide

/-- The package hot, off, with its last signing index, with a smaller power cap; a cold die and one near its limits. -/
def packaged (p : Pkg) : State := { one with pkg := p }
def atCelsius (c : Nat) : State := { one with dies := [(0, { celsius := c })] }

theorem test_meets_PackageEvents_resets : (one.pkg.thermalHold = false ∧ ({ thermalHold := true } : Pkg).thermalHold = true ∧ one.pkg.power = true ∧ one.pkg.bootst = 5) ∧
    ((packaged { power := false }).pkg.power = false ∧ one.pkg.boot = none ∧ ({ boot := some { fail := 0, image := {} } } : Pkg).boot ≠ none ∧ ({ bootst := 0x180 } : Pkg).bootst ≠ 5 ∧ 0x3000000000 ≤ 0x3000000000) ∧
    ((0 : Nat) < 2 ^ 30 ∧ 2 ^ 30 ≤ ({ signNext := 2 ^ 30 } : Pkg).signNext ∧ one.pkg.signNext = one.pkg.signReserved ∧ 2 ^ 20 + (2 ^ 30 - 2 ^ 20 - 1) + 1 ≤ 2 ^ 30) := by decide
/-- Firmware of the right lengths at each step of the boot, and of the wrong ones at the step that verifies it. -/
def firmware : Image := { key := List.replicate 60 0, signature := List.replicate 5396 0, version := 1 }
def booting (step : BitVec 16) (fail : Nat) (image : Image) : State := packaged { bootst := step, boot := some { fail, image } }
theorem test_meets_PackageEvents_boot : (∀ n ∈ ([1, 2, 3, 4] : List (BitVec 16)), (booting n 0 firmware).pkg.boot = some { fail := 0, image := firmware } ∧ (booting n 0 firmware).pkg.bootst = n) ∧
    (bootCode 1 0 { fail := 11, image := firmware } = 11 ∧ bootCode 1 0 { fail := 0, image := firmware } = 0 ∧ bootCode 2 0 { fail := 0, image := {} } = 1 ∧
      bootCode 2 0 { fail := 1, image := firmware } = 1 ∧ bootCode 3 0 { fail := 0, image := firmware } = 0 ∧ bootCode 4 0 { fail := 7, image := firmware } = 7 ∧
      bootCode 4 0 { fail := 10, image := firmware } = 10 ∧ bootCode 4 0 { fail := 6, image := firmware } = 0) ∧
    firmware.key.length = 60 ∧ firmware.signature.length = 5396 := ⟨by intro n _; exact ⟨rfl, rfl⟩, by decide +kernel, List.length_replicate, List.length_replicate⟩
theorem test_meets_PackageEvents_devno : (State.reset.pkg.power = true ∧ State.reset.pkg.thermalHold = false) ∧ ((∀ q ∈ State.reset.queues, q.2.en = false) ∧ ∀ l ∈ State.reset.launches, l.2.signalled = true) ∧
    ¬((∀ q ∈ one.queues, q.2.en = false) ∧ ∀ l ∈ one.launches, l.2.signalled = true) := by decide
theorem test_meets_PackageEvents_bridges : (tget one.pkg.bridges 5 0 = 0 ∧ (0 : Nat) < 1 ∧ (6 : Nat) ≤ 6 ∧ tget ({ bridges := [(5, 2)] } : Pkg).bridges 5 0 = 2) ∧
    ((255 : Nat) < 256 ∧ (256 : Nat) ≤ 256) := by decide
theorem test_meets_PackageEvents_power : let cap := one.pkg.pwrcap * 1000
    (cap < 5000001 ∧ 5000000 ≤ cap ∧ 4749999 * 100 < cap * 95 ∧ cap * 95 ≤ 4750000 * 100) := by decide
theorem test_meets_PackageEvents_thermal : ((3 : Nat) < 4 ∧ (110 : Nat) ≤ 110 ∧ ¬(110 : Nat) ≤ 109 ∧ (120 : Nat) ≤ 120) ∧
    ((119 : Nat) < 120 ∧ (((atCelsius 99).die 0).celsius < 100 ∧ (100 : Nat) ≤ 119) ∧ ¬(((atCelsius 100).die 0).celsius < 100 ∧ (100 : Nat) ≤ 119) ∧
      ¬(((atCelsius 99).die 0).celsius < 100 ∧ (100 : Nat) ≤ 99)) := by decide
theorem test_meets_PackageEvents_registers : (¬(12 ≤ (0 : BitVec 64).toNat % 32 ∧ (0 : BitVec 64).toNat % 32 ≤ 20) ∧ ¬(1 ≤ (0 : BitVec 64).toNat ∧ (0 : BitVec 64).toNat ≤ 2 ^ 20) ∧ 6 ≤ (16 : BitVec 64).toNat % 32 ∧ (16 : BitVec 64).toNat % 32 ≤ 16) ∧
    ((5000 : Nat) % 2 ^ 13 = 5000 ∧ 12 ≤ (20 : Nat) % 32 ∧ (20 : Nat) % 32 ≤ 20 ∧ 1 ≤ (2 ^ 20 : Nat) ∧ ¬(12 : Nat) ≤ 11) ∧
    (0x1B % 8 ≠ 0 ∧ (3 : Nat) < 4 ∧ (63 : Nat) < 64 ∧ one.pkg.power = true ∧ (drill.queue 0).en = true ∧ (one.queue 255).en = false) ∧
    ((4 : Nat) ≠ 8 ∧ (0x2000084 : Nat) % 8 ≠ 0 ∧ (0x2000080 : Nat) % 8 = 0 ∧ (255 : Nat) < 256 ∧ one.pkg.thermalHold = false ∧ (0 : BitVec 64).toNat = 0) := by decide

/-- Bytes at the top of device memory, at the bounds of the host's memory, one line wide; and those that are not. -/
theorem test_meets_PackageEvents_memory : (∀ a ∈ [0x3000000000 - 64, 2 ^ 51, 2 ^ 52 - 64], (a + 64 ≤ 0x3000000000 ∧ one.pkg.power = true ∧ one.pkg.bootst = 5 ∨ 2 ^ 51 ≤ a ∧ a + 64 ≤ 2 ^ 52) ∧
      a / 64 = (a + 64 - 1) / 64) ∧
    (∀ a ∈ [0x3000000000 - 63, 2 ^ 51 - 64, 2 ^ 52 - 63], ¬((a + 64 ≤ 0x3000000000 ∧ one.pkg.power = true ∧ one.pkg.bootst = 5 ∨ 2 ^ 51 ≤ a ∧ a + 64 ≤ 2 ^ 52) ∧ a / 64 = (a + 64 - 1) / 64)) := by decide

/-- A flit of a header and a sequence number, with a check made from the CRC. -/
def flit (head seq : Nat) (check : Nat → Nat) : List Byte :=
  let b := toBytes 16 head ++ toBytes 480 0 ++ toBytes 8 seq
  b ++ toBytes 8 (check (crc64 b).toNat)
def header (type src dst rel : Nat) : Nat := type * 2 ^ 92 + src * 2 ^ 96 + dst * 2 ^ 112 + rel * 2 ^ 91

theorem toBytes_length (n x : Nat) : (toBytes n x).length = n := by
  induction n generalizing x with
  | zero => rfl
  | succ n ih => simp [toBytes, ih]
theorem ofBytes_append_toBytes (n x y m : Nat) : ofBytes (toBytes n x ++ toBytes m y) = x % 256 ^ n + 256 ^ n * (y % 256 ^ m) := by
  have h (m y : Nat) : ofBytes (toBytes m y) = y % 256 ^ m := by
    induction m generalizing y with
    | zero => simp [toBytes, ofBytes, Nat.mod_one]
    | succ m ih =>
      rw [Nat.pow_succ', Nat.mod_mul, toBytes, ofBytes, ih]
      rfl
  induction n generalizing x with
  | zero => simp [toBytes, h, Nat.mod_one]
  | succ n ih =>
    rw [toBytes, List.cons_append, ofBytes, ih, Nat.pow_succ', Nat.mod_mul, Nat.mul_add, Nat.mul_assoc, Nat.add_assoc]
    rfl

theorem flit_parts (head seq : Nat) (check : Nat → Nat) : let bs := flit head seq check
    bs.length = 512 ∧ bs.take 16 = toBytes 16 head ∧
      ofBytes (bs.drop 496) = seq % 256 ^ 8 + 256 ^ 8 * (check (crc64 (bs.take 504)).toNat % 256 ^ 8) := by
  have ht : (flit head seq check).take 504 = toBytes 16 head ++ toBytes 480 0 ++ toBytes 8 seq :=
    List.take_left' (by simp only [List.length_append, toBytes_length])
  refine ⟨by simp only [flit, List.length_append, toBytes_length], ?_, ?_⟩
  · simp only [flit, List.append_assoc]
    exact List.take_left' (toBytes_length 16 head)
  · rw [ht]
    have hd : (flit head seq check).drop 496 = toBytes 8 seq ++ toBytes 8 (check (crc64 (toBytes 16 head ++ toBytes 480 0 ++ toBytes 8 seq)).toNat) := by
      simp only [flit, List.append_assoc]
      rw [← List.append_assoc (toBytes 16 head)]
      exact List.drop_left' (by simp only [List.length_append, toBytes_length])
    rw [hd, ofBytes_append_toBytes]

/-- Its check holds where it is the CRC, whatever the header and the number; it is the inverted CRC where it is made so; and it may be wrong. -/
theorem flit_check (head seq : Nat) (check : Nat → Nat) :
    ofBytes ((flit head seq check).drop 496) / 2 ^ 64 % 2 ^ 64 = check (crc64 ((flit head seq check).take 504)).toNat % 2 ^ 64 := by
  rw [(flit_parts head seq check).2.2]
  generalize check _ = c
  omega
theorem test_meets_FabricEvents_flits (head seq : Nat) : (∀ bs, bs = flit head seq id → bs.length = 512 ∧ (crc64 (bs.take 504)).toNat = ofBytes (bs.drop 496) / 2 ^ 64 % 2 ^ 64) ∧
    (∀ bs, bs = flit head seq (fun c => 2 ^ 64 - 1 - c) → bs.length = 512 ∧ 2 ^ 64 - 1 - (crc64 (bs.take 504)).toNat = ofBytes (bs.drop 496) / 2 ^ 64 % 2 ^ 64) ∧
    ∀ bs, bs = flit head seq (fun c => (c + 1) % 2 ^ 64) → (crc64 (bs.take 504)).toNat ≠ ofBytes (bs.drop 496) / 2 ^ 64 % 2 ^ 64 := by
  refine ⟨?_, ?_, ?_⟩ <;> intro bs e
  · have hl : bs.length = 512 := e ▸ (flit_parts ..).1
    have hc := flit_check head seq id
    rw [← e] at hc
    have := (crc64 (bs.take 504)).isLt
    exact ⟨hl, by rw [hc]; simp only [id]; omega⟩
  · have hl : bs.length = 512 := e ▸ (flit_parts ..).1
    have hc := flit_check head seq fun c => 2 ^ 64 - 1 - c
    rw [← e] at hc
    have := (crc64 (bs.take 504)).isLt
    exact ⟨hl, by rw [hc]; omega⟩
  · have hc := flit_check head seq fun c => (c + 1) % 2 ^ 64
    rw [← e] at hc
    have := (crc64 (bs.take 504)).isLt
    rw [hc]; omega
theorem test_meets_FabricEvents_headers : (∀ h ∈ [header 0 5 0 0, header 2 5 0 0, header 5 5 0 0, header 9 5 0 0, header 10 4095 0 1, header 3 5 7 1], h < 2 ^ 128 ∧ h / 2 ^ 96 % 2 ^ 16 < 4096) ∧
    (header 5 5 0 0 / 2 ^ 92 % 16 = 5 ∧ header 5 5 0 0 / 2 ^ 86 % 16 = 0 ∧ header 9 5 0 0 / 2 ^ 92 % 16 = 9 ∧ header 9 5 0 0 / 2 ^ 112 % 2 ^ 16 = one.pkg.devno.toNat) ∧
    4096 ≤ header 2 4096 0 0 / 2 ^ 96 % 2 ^ 16 ∧ header 10 4095 0 1 / 2 ^ 92 % 16 = 10 ∧ header 3 5 7 1 / 2 ^ 112 % 2 ^ 16 ≠ one.pkg.devno.toNat ∧
    (95 : Nat) < 96 ∧ one.pkg.devno.toNat < 4096 := by decide +kernel
/-- The sequence number 0 is in order, 1 is past a gap, and the last one is behind; a device that relays nothing, and one whose buffer is full. -/
theorem test_meets_FabricEvents_order : (tget one.fab.sessions (4096 * 11 + 5) {}).rxNext = 0 ∧ ((1 : Word) - 0).toNat < 2 ^ 31 ∧
    2 ^ 31 ≤ ((0xFFFFFFFF : Word) - 0).toNat ∧ (tget one.fab.sessions 0 {}).gap = false ∧ ({ gap := true } : Session).gap = true ∧
    relayRoom one = 0 ∧ (∀ h, h < 12 → (tget one.fab.groups h {}).lit = false) ∧ header 3 5 7 1 / 2 ^ 91 % 2 = 1 ∧ header 3 5 7 1 / 2 ^ 90 % 2 = 0 := by decide
def relaying : State := { one with dies := [(0, { dpart := 1 })], fab := { one.fab with relaysz := 1, relay := List.replicate 524288 { type := 2 } } }
theorem test_meets_FabricEvents_relay : relayRoom relaying ≠ 0 ∧ relayRoom relaying ≤ relaying.fab.relay.length := by
  have h : relayRoom relaying = 524288 := rfl
  rw [h, show relaying.fab.relay = List.replicate 524288 { type := 2 } from rfl, List.length_replicate]
  decide

/-- A port in each state, a slot table of one entry that gives every group the peer 5 and its group, with light and without. -/
def rotor (P : Port) (G : Group) : State :=
  { one with fab := { one.fab with ports := [(95, P)], groups := [(11, G)], sltcnt := 1, slt := [(0, .ofNat 256 (5 * (List.range 12).foldl (fun n g => n + 2 ^ (48 + 12 * g)) 0 + 2 * 2 ^ 20 + 20))] } }

theorem test_meets_FabricEvents_light : (tget (rotor {} {}).fab.ports 95 {}).rxMask.getLsbD 15 = true ∧ ({ retraining := 0x8000 } : Port).retraining.getLsbD 15 = true ∧
    ({} : Port).retraining.getLsbD 15 = false ∧ ({ headland := true } : Port).headland = true ∧ ({} : Port).headland = false ∧ 48 ≤ (48 : BitVec 8).toNat ∧
    ((0 : BitVec 16) &&& (({} : Port).txMask ||| ({} : Port).reported) = 0) ∧ (0x8000 : BitVec 16) ≠ 0xFFFF ∧
    (let P : Port := { txMask := 0x7FFF, reports := [⟨0x8000, 5, 0, 1⟩] }; 0x8000 &&& (P.txMask ||| P.reported) ≠ 0 ∧ 0x8000 &&& P.txMask = 0) := by decide
/-- 18 R387, 19 R421, R422: a loss that the peer has reported before is recorded with the replay that the report caused; a port with no usable position
loses nothing. -/
theorem test_lossOfLight_reported : let P : Port := { txMask := 0x7FFF, reports := [⟨0x8000, 5, 9, 3⟩] }
    ((loseTransmit (rotor P {}) 95 0x8000 2).pkg.events.map fun r => (ofBytes (bytesOf r) / 2 ^ 176 % 2 ^ 32, ofBytes (bytesOf r) / 2 ^ 208 % 2 ^ 16)) = [(9, 3)] ∧
    loseTransmit (rotor { P with txMask := 0 } {}) 95 0x8000 2 = rotor { P with txMask := 0 } {} := by decide +kernel

theorem test_meets_FabricEvents_slots : let s := rotor {} { awaiting := true }
    slotTable s ≠ [] ∧ slotPeer (nth (slotTable s) 0 0) 11 = 5 ∧ (slotTable s).length = 1 ∧ (tget s.fab.groups 11 {}).awaiting = true ∧
      (∀ i, i < 1 → slotPeer (nth (slotTable s) i 0) 11 ≠ 6) ∧ ({} : Group).awaiting = false ∧
      currentPeer (rotor {} { entry := some 0 }) 11 = some 5 ∧ currentPeer s 11 = none := by decide +kernel

/-- A session of the peer 5 with one flit that has left and one that has not, at a slot's close; and what a replay finds left. -/
def session (s : State) (left : Nat) : State :=
  { s with fab := { s.fab with sessions := [(4096 * 11 + 5, { unacked := [(0, { type := 2, dst := 5, src := 0 }), (1, { type := 2, dst := 5, src := 0 })], left })] } }
theorem test_meets_FabricEvents_session : (∀ n ∈ [0, 1, 2], let s := session (rotor {} { entry := some 0 }) n
      currentPeer s 11 = some 5 ∧ (tget s.fab.sessions (4096 * 11 + 5) {}).left = n ∧ (tget s.fab.sessions (4096 * 11 + 5) {}).unacked.length = 2) ∧
    (11 : Nat) < 12 ∧ (95 : Nat) / 8 = 11 := by decide +kernel

/-- A window of every right over the first 64 KiB. -/
def windowed : State := { one with fab := { one.fab with inwin := [(0, 0x3C0)], inwl := [(0, 1)] } }
theorem test_meets_FabricEvents_requests : (admits windowed 64 4 true false false = true ∧ admits windowed 65536 4 true false false = false) ∧
    (admits windowed 65532 4 false false true = true ∧ admits windowed 65534 4 false false true = false ∧ (65532 : Nat) % 4 = 0 ∧ tget windowed.memMark (65532 / 4) .clean = .clean) ∧
    (admits windowed 64 64 false true false = true ∧ (64 : Nat) % 64 + 64 ≤ 64 ∧ admits windowed 65536 1 false true false = false ∧ admits windowed 65536 4 false true true = false) := by decide

/-- A remote operation of 16 threads, each with an address to ask for and no answer yet. -/
def remoteOp (i : Instr) : State :=
  { one with ops := [{ id := 1, furrow := furrowKey 0 0, kind := .remote, instr := i, act := 0xFFFF, begun := true, results := (List.range 16).map fun t => (8 * t + 3, 1) }] }
theorem test_meets_FabricEvents_asked : let ask : Asked := { peer := 5, tag := 9, op := 1, thrs := threads 64 0xFFFF }
    let s : State := { remoteOp (.rld 8 4 0 0) with fab := { one.fab with asked := [ask] } }
    s.fab.asked.find? (fun a => a.peer == 5 && a.tag == 9) = some ask ∧ ask.op = 1 ∧ ask.thrs = threads 64 (opOf s).act ∧
      s.fab.asked.find? (fun a => a.peer == 5 && a.tag == 8) = none := by decide
theorem test_meets_FabricEvents_replies : (∀ i ∈ [Instr.rld 8 4 0 0, .rst 24 8 0 0], let s := remoteOp i
      (opOf s).kind = .remote ∧ (opOf s).done = false ∧ (opOf s).begun = true ∧ (tfind s.furrows (furrowKey 0 0)).isSome = true ∧
      (∀ t ∈ threads 64 (opOf s).act, tget (opOf s).results (8 * t) 0 = 0 ∧ tget (opOf s).results (8 * t + 3) 0 = 1) ∧
      (threads 64 (opOf s).act).length = 16 ∧ (threads 64 (opOf s).act).head? = some 0) ∧ (∀ x ∈ one.fab.reductions, ¬(x.ctx = 0 ∧ x.id = 0)) := by decide

/-- A record of either side, of 1 KiB at 0x2000 for the tag 7 of context 0 and the peer 5; and the state that holds one. -/
def record (receiver : Bool) (st : Nat) (grants : List Grant) : Xfer :=
  { id := 9, receiver, la := 0x2000, len := 1024, peer := 5, tag := 7, st, requested := true, ungranted := [(64, 960)], grants }
def recorded (x : Xfer) : State := { windowed with fab := { windowed.fab with xfers := [x] } }
def allGranted : Grant := { off := 0, size := 64, missing := [(0, 64)] }

theorem test_meets_FabricEvents_bulk_request : (windowCtx windowed 65536 64 false true false = none ∧ windowCtx windowed 0x2000 1024 false true false = some 0) ∧
    ¬(windowCtx windowed 0x2000 1024 false true false = none ∨ (0 : BitVec 52) ≠ 0 ∧ admits windowed 0 4 false true true = false) ∧
    (¬((windowed.ctx 0).xstat ≠ 0 ∨ (receiverOf windowed 5 0 7).isSome ∨ 4096 ≤ windowed.fab.xfers.length ∨ windowed.fab.seedpool * 2 ^ 20 < 0 + 64)) ∧
    (receiverOf (recorded (record true 2 [])) 5 0 7).isSome = true := by decide
theorem test_meets_FabricEvents_bulk_data : let x := record true 2 [allGranted]
    let s := recorded x
    (receiverOf windowed 5 0 7 = none ∧ receiverOf s 5 0 7 = some x ∧ s.xfer x.id = some x ∧ x.savedAt = none ∧ x.held = false ∧ x.grants[0]? = some allGranted ∧ x.grants[1]? = none) ∧
    (({ x with savedAt := some 0 } : Xfer).savedAt ≠ none ∧ x.len < (1000 : BitVec 32).toNat + 64 ∧ receiverOf (recorded { x with savedAt := some 0 }) 5 0 7 = some { x with savedAt := some 0 } ∧
      ({ x with heldOwn := true } : Xfer).held = true) ∧
    (x.done + 64 < x.len ∧ 0 + 64 ≤ x.len ∧ (x.la.toNat + 0) % 64 + 64 ≤ 64 ∧ x.nexp < 3 ∧ 3 ≤ ({ x with nexp := 3 } : Xfer).nexp) := by decide
theorem test_meets_FabricEvents_grants : let x := record true 2 []
    grantCandidates windowed 0 = [] ∧ grantCandidates (recorded x) 0 = [x] ∧ (recorded x).xfer x.id = some x ∧ x.ungranted = [(64, 960)] := by decide
theorem test_meets_FabricEvents_sender : (senderTo windowed 5 0 7 = none ∧ senderTo (recorded (record false 1 [])) 5 0 7 = some (record false 1 []) ∧
      sender (recorded (record false 1 [])) 0 (.ofNat 16 7) = some (record false 1 []) ∧ (record false 1 []).live = true ∧ (record false 1 []).held = false) ∧
    ((0 : BitVec 32) = 0 ∧ (1024 : Nat) < (1000 : BitVec 32).toNat + (64 : BitVec 32).toNat ∧ (960 : BitVec 32).toNat + (64 : BitVec 32).toNat ≤ 1024) ∧
    (senderTo (recorded (record true 2 [])) 5 0 7 = none ∧ receiverOf (recorded (record true 2 [])) 5 0 7 = some (record true 2 []) ∧ receiverOf windowed 5 0 7 = none) ∧
    (({ record false 1 [] with requested := false } : Xfer).requested = false ∧ (record false 6 []).st = 6 ∧ (record false 1 []).st ≠ 6) ∧
    (record false 1 []).requested = true ∧ (recorded (record false 1 [])).xfer 9 = some (record false 1 []) := by decide
/-- Two records of a pausing context: one saved at the place 0, and one that the place 1 of its area of 2 records' places is for. -/
def pausing (len : Nat) : State :=
  { one with ctxs := [(0, { xstat := 1, xsave := 0xA000, xslen := .ofNat 32 len })],
             fab := { one.fab with xfers := [{ record false 1 [] with id := 8, tag := 6, heldOwn := true, savedAt := some 0 }, { record false 1 [] with heldOwn := true }] } }
theorem test_meets_FabricEvents_saves : let s := pausing 1
    (s.fab.xfers.find? (fun y => y.ctx == 0 && y.live && y.heldOwn && y.savedAt.isNone) = some { record false 1 [] with heldOwn := true } ∧
      s.xfer 9 = some { record false 1 [] with heldOwn := true }) ∧
    (1 < (s.ctx 0).xslen.toNat * 16 ∧ (∀ y ∈ s.fab.xfers, y.ctx = 0 → y.savedAt ≠ some 1) ∧ (∀ j, j < 1 → ∃ y ∈ s.fab.xfers, y.ctx = 0 ∧ y.savedAt = some j) ∧
      ((s.ctx 0).xsave.toNat + 64 * 1) % 64 = 0) ∧
    (∀ y ∈ ({ s with fab := { s.fab with xfers := s.fab.xfers.take 1 } } : State).fab.xfers, y.ctx = 0 → y.live = true → y.heldOwn = true → y.savedAt ≠ none) := by decide
theorem test_meets_FabricEvents_pause : (one.ctx 0).xstat = 0 ∧ (({ one with ctxs := [(0, { xstat := 2 })] } : State).ctx 0).xstat ≠ 0 := by decide

end Sys2Proof.Tests
end

section
/-! Memory as its readers see it (00 R2): two canonical tables that read alike are equal, and words of 32 and 64 bits are their bytes,
the one at the lowest address least significant. -/

namespace Sys2Proof.Machine

/-! ### A canonical table is determined by what it reads as -/

section Canonical

variable {α : Type}

theorem tget_cons (i k : Nat) (a d : α) (m : NMap α) : tget ((i, a) :: m) k d = if i = k then a else tget m k d := by
  simp only [tget, tfind]
  split <;> rfl

/-- Below all its keys a table reads as the default. -/
theorem tget_of_lt_keys {m : NMap α} {k : Nat} {d : α} (h : ∀ y ∈ m, k < y.1) : tget m k d = d := by
  induction m with
  | nil => rfl
  | cons x m ih =>
    obtain ⟨hx, hm⟩ := List.forall_mem_cons.1 h
    rw [tget_cons, if_neg (Nat.ne_of_gt hx), ih hm]

theorem tcanon_cons [DecidableEq α] {x : Nat × α} {m : NMap α} {d : α} :
    tcanon (x :: m) d = true ↔ (∀ y ∈ m, x.1 < y.1) ∧ x.2 ≠ d ∧ tcanon m d = true := by
  simp only [tcanon, Bool.and_eq_true, tsorted_cons, List.all_cons, decide_eq_true_eq]
  tauto

/-- The first key of a canonical table is not below all keys of a table that reads alike: there it reads as no default. -/
theorem exists_key_le_head {i : Nat} {a d : α} {m n : NMap α} (ha : a ≠ d) (h : ∀ k, tget ((i, a) :: m) k d = tget n k d) :
    ∃ y ∈ n, y.1 ≤ i := by
  by_contra! hlt
  refine ha ?_
  calc a = tget ((i, a) :: m) i d := by rw [tget_cons, if_pos rfl]
    _ = tget n i d := h i
    _ = d := tget_of_lt_keys hlt

/-- The first key of a canonical table is its least. -/
theorem head_le_of_exists_le {i j : Nat} {b : α} {n : NMap α} (hn : ∀ y ∈ n, j < y.1) (h : ∃ y ∈ (j, b) :: n, y.1 ≤ i) : j ≤ i := by
  obtain ⟨y, hy, hle⟩ := h
  rcases List.mem_cons.1 hy with rfl | hy
  · exact hle
  · exact Nat.le_of_lt (Nat.lt_of_lt_of_le (hn y hy) hle)

/-- Tables in canonical form that read alike at every key are equal. -/
theorem tcanon_ext [DecidableEq α] {m n : NMap α} {d : α} (hm : tcanon m d = true) (hn : tcanon n d = true) (h : ∀ k, tget m k d = tget n k d) : m = n := by
  induction m generalizing n with
  | nil =>
    cases n with
    | nil => rfl
    | cons y n =>
      obtain ⟨_, hy, _⟩ := tcanon_cons.1 hn
      simpa using exists_key_le_head hy fun k => (h k).symm
  | cons x m ih =>
    obtain ⟨i, a⟩ := x
    obtain ⟨him, ha, hm'⟩ := tcanon_cons.1 hm
    cases n with
    | nil => simpa using exists_key_le_head ha h
    | cons y n =>
      obtain ⟨j, b⟩ := y
      obtain ⟨hjn, hb, hn'⟩ := tcanon_cons.1 hn
      have hji : j ≤ i := head_le_of_exists_le hjn (exists_key_le_head ha h)
      have hij : i ≤ j := head_le_of_exists_le him (exists_key_le_head hb fun k => (h k).symm)
      obtain rfl : i = j := Nat.le_antisymm hij hji
      have hab : a = b := by simpa [tget_cons] using h i
      have tails : ∀ k, tget m k d = tget n k d := fun k => by
        by_cases hk : i = k
        · subst hk
          rw [tget_of_lt_keys him, tget_of_lt_keys hjn]
        · simpa only [tget_cons, if_neg hk] using h k
      rw [hab, ih hm' hn' tails]

end Canonical

/-! ### Reading several bytes -/

@[simp] theorem length_readBytes (m : Memory) (k n : Nat) : (readBytes m k n).length = n := by
  induction n generalizing k with
  | zero => rfl
  | succ n ih => rw [readBytes, List.length_cons, ih]

/-- Bytes read in one go are those read in two, one after the other. -/
theorem readBytes_add (m : Memory) (k n p : Nat) : readBytes m k (n + p) = readBytes m k n ++ readBytes m (k + n) p := by
  induction n generalizing k with
  | zero => simp [readBytes]
  | succ n ih =>
    rw [Nat.succ_add, readBytes, readBytes, ih, List.cons_append, Nat.add_assoc k 1 n, Nat.add_comm 1 n]

/-- Bytes written are read back. -/
theorem readBytes_writeBytes_same (m : Memory) (k : Nat) (bs : List Byte) : readBytes (writeBytes m k bs) k bs.length = bs := by
  induction bs generalizing m k with
  | nil => rfl
  | cons b bs ih =>
    have first : readByte (writeBytes m k (b :: bs)) k = b := by
      rw [readByte_writeBytes, if_pos (by simp), Nat.sub_self]
      rfl
    rw [List.length_cons, readBytes, first, writeBytes, ih]

/-! ### The number of a list of bytes -/

@[simp] theorem length_toBytes (n x : Nat) : (toBytes n x).length = n := by
  induction n generalizing x with
  | zero => rfl
  | succ n ih => rw [toBytes, List.length_cons, ih]

/-- The `n` bytes of a number keep it modulo 2^(8n). -/
theorem ofBytes_toBytes (n x : Nat) : ofBytes (toBytes n x) = x % 256 ^ n := by
  induction n generalizing x with
  | zero => rw [toBytes, ofBytes, Nat.pow_zero, Nat.mod_one]
  | succ n ih =>
    rw [toBytes, ofBytes, ih, Nat.pow_succ', Nat.mod_mul]
    rfl

theorem ofBytes_lt (bs : List Byte) : ofBytes bs < 256 ^ bs.length := by
  induction bs with
  | nil => exact Nat.one_pos
  | cons b bs ih =>
    have := b.isLt
    rw [ofBytes, List.length_cons, Nat.pow_succ']
    omega

theorem ofBytes_append (bs cs : List Byte) : ofBytes (bs ++ cs) = ofBytes bs + 256 ^ bs.length * ofBytes cs := by
  induction bs with
  | nil => simp [ofBytes]
  | cons b bs ih => rw [List.cons_append, ofBytes, ofBytes, ih, List.length_cons, Nat.pow_succ']; ring

/-! ### Words -/

/-- A number's low `v` bits stand below the rest of it. -/
theorem ofNat_add_mul_eq_append {w v lo : Nat} (hi : Nat) (h : lo < 2 ^ v) :
    BitVec.ofNat (w + v) (lo + 2 ^ v * hi) = BitVec.ofNat w hi ++ BitVec.ofNat v lo := by
  have sum : (lo + 2 ^ v * hi) % 2 ^ (w + v) = lo + 2 ^ v * (hi % 2 ^ w) := by
    rw [Nat.add_comm w v, Nat.pow_add, Nat.mod_mul, Nat.add_mul_mod_self_left, Nat.mod_eq_of_lt h,
      Nat.add_mul_div_left _ _ (Nat.two_pow_pos v), Nat.div_eq_of_lt h, Nat.zero_add]
  apply BitVec.eq_of_toNat_eq
  rw [BitVec.toNat_append, BitVec.toNat_ofNat, BitVec.toNat_ofNat, BitVec.toNat_ofNat, Nat.mod_eq_of_lt h,
    ← Nat.shiftLeft_add_eq_or_of_lt h, Nat.shiftLeft_eq, sum, Nat.mul_comm, Nat.add_comm]

/-- The first byte of a list is the least significant of its number. -/
theorem ofNat_ofBytes_cons (w : Nat) (b : Byte) (bs : List Byte) :
    BitVec.ofNat (w + 8) (ofBytes (b :: bs)) = BitVec.ofNat w (ofBytes bs) ++ b := by
  rw [ofBytes, show 256 = 2 ^ 8 from rfl, ofNat_add_mul_eq_append _ b.isLt, BitVec.ofNat_toNat, BitVec.setWidth_eq]

theorem read32_eq_append (m : Memory) (k : Nat) :
    read32 m k = readByte m (k + 3) ++ readByte m (k + 2) ++ readByte m (k + 1) ++ readByte m k := by
  have last : BitVec.ofNat 8 (ofBytes [readByte m (k + 3)]) = readByte m (k + 3) := by simp [ofBytes]
  calc read32 m k
      = BitVec.ofNat (8 + 8 + 8 + 8) (ofBytes [readByte m k, readByte m (k + 1), readByte m (k + 2), readByte m (k + 3)]) := rfl
    _ = _ := by rw [ofNat_ofBytes_cons, ofNat_ofBytes_cons, ofNat_ofBytes_cons, last]

theorem read64_eq_append (m : Memory) (k : Nat) : read64 m k = read32 m (k + 4) ++ read32 m k := by
  have low : ofBytes (readBytes m k 4) < 2 ^ 32 := by simpa using ofBytes_lt (readBytes m k 4)
  calc read64 m k
      = BitVec.ofNat (32 + 32) (ofBytes (readBytes m k 4) + 2 ^ 32 * ofBytes (readBytes m (k + 4) 4)) := by
        rw [read64, readBytes_add m k 4 4, ofBytes_append, length_readBytes]
        rfl
    _ = _ := ofNat_add_mul_eq_append _ low

/-- A number written as `n` bytes is read back modulo 2^(8n). -/
theorem ofBytes_readBytes_writeBytes (m : Memory) (k n x : Nat) :
    ofBytes (readBytes (writeBytes m k (toBytes n x)) k n) = x % 256 ^ n := by
  have back := readBytes_writeBytes_same m k (toBytes n x)
  rw [length_toBytes] at back
  rw [back, ofBytes_toBytes]

theorem read32_write32 (m : Memory) (k : Nat) (w : Word) : read32 (write32 m k w) k = w := by
  have fits : w.toNat < 256 ^ 4 := w.isLt
  rw [read32, write32, ofBytes_readBytes_writeBytes, Nat.mod_eq_of_lt fits, BitVec.ofNat_toNat, BitVec.setWidth_eq]

theorem read64_write64 (m : Memory) (k : Nat) (w : Dword) : read64 (write64 m k w) k = w := by
  have fits : w.toNat < 256 ^ 8 := w.isLt
  rw [read64, write64, ofBytes_readBytes_writeBytes, Nat.mod_eq_of_lt fits, BitVec.ofNat_toNat, BitVec.setWidth_eq]

/-- Settles O26: bytes by the laws of writes, words by the number of their bytes, and extensionality from the canonical form of tables. -/
theorem memoryWords : Obligations.MemoryWords := by
  unfold Obligations.MemoryWords
  exact ⟨fun m k bs j => readByte_writeBytes m k j bs, fun _ k bs h => wf_writeBytes k bs h, read32_eq_append, read64_eq_append,
    read32_write32, read64_write64, fun _ _ hm hn h => tcanon_ext hm hn h⟩

end Sys2Proof.Machine
end

section
/-! Registers and the state after reset: what a mask register reads as after a write, the element by element form of a mask of all threads, and
a furrow as its plot admits it (01 R10, R13, R14, R17; 17 R370). -/

namespace Sys2Proof.Machine

/-- k0 of an entry does not change with any other mask register (01 R17). -/
theorem kget_kset_zero (f : Furrow) (id r : Nat) (cover x : Mask) : (f.kset r cover x).kget id 0 = f.kget id 0 := by
  unfold Furrow.kset
  split <;> rfl

/-- A mask register after a write: the covered bits of the furrow's threads are new, the others are kept (01 R17). -/
theorem kget_kset (f : Furrow) (id r q : Nat) (cover x : Mask) : (f.kset r cover x).kget id q =
    if q = r ∧ r ≠ 0 then (f.kget id q &&& ~~~(cover &&& f.full)) ||| (x &&& cover &&& f.full) else f.kget id q := by
  by_cases hq : q = 0
  · rw [if_neg (by omega), hq, kget_kset_zero]
  · unfold Furrow.kset
    by_cases hr : r = 0
    · rw [if_pos hr, if_neg (by omega)]
    · simp only [Furrow.kget, if_neg hq, if_neg hr, tget_tset]
      by_cases hrq : r = q
      · subst hrq
        rw [if_pos rfl, if_pos ⟨rfl, hr⟩, BitVec.and_assoc]
      · rw [if_neg hrq, if_neg (by omega)]

/-- The mask of all threads holds those below W (01 R17). -/
theorem getLsbD_full {f : Furrow} (h : f.width ≤ 64) (u : Nat) : f.full.getLsbD u = decide (u < f.width) := by
  rw [Furrow.full, BitVec.getLsbD_ofNat, Nat.testBit_two_pow_sub_one, ← Bool.decide_and]
  exact decide_eq_decide.2 ⟨fun hu => hu.2, fun hu => ⟨by omega, hu⟩⟩

/-- Settles O1: the reads of the zero registers are their definitions; a write of each file is read back by the laws of registers. -/
theorem registerFiles : Obligations.RegisterFiles := by
  unfold Obligations.RegisterFiles
  exact ⟨fun _ _ => rfl, fun _ => rfl, fun _ _ => rfl, fun f r t q u x ht hu => vget_vset f r t q u x ht hu, sget_sset, kget_kset⟩

/-! ### A furrow at admission (01 R10, R25, R29) -/

section Admission

variable {fidx w : Nat} {pc tvec : Word} {h : BitVec 48}

@[simp] theorem newFurrow_vget (r t : Nat) : (newFurrow fidx w pc tvec h).vget r t = 0 := ite_self 0
@[simp] theorem newFurrow_sget (r : Nat) : (newFurrow fidx w pc tvec h).sget r = 0 := ite_self 0
theorem newFurrow_kget {r : Nat} (hr : r ≠ 0) (id : Nat) : (newFurrow fidx w pc tvec h).kget id r = 0 := if_neg hr

/-- Its one entry has every thread. -/
theorem getLsbD_newFurrow_kget_zero (hw : w ≤ 64) (u : Nat) : ((newFurrow fidx w pc tvec h).kget 0 0).getLsbD u = decide (u < w) := by
  have all : (newFurrow fidx w pc tvec h).kget 0 0 = (newFurrow fidx w pc tvec h).full := rfl
  rw [all]
  exact getLsbD_full hw u

theorem newFurrow_entries : (newFurrow fidx w pc tvec h).entries =
    [{ id := 0, parent := 0, live := true, mask := (newFurrow fidx w pc tvec h).full, pc := pc, slot := 0 }] := rfl

end Admission

/-- Settles O23: the fields of `State.reset` and of `newFurrow`, and the mask of all threads bit by bit. -/
theorem resetState : Obligations.ResetState := by
  unfold Obligations.ResetState
  refine ⟨rfl, rfl, rfl, rfl, rfl, rfl, fun _ => rfl, rfl, fun _ => rfl, fun _ => ⟨rfl, rfl⟩, fun _ => rfl, ?_⟩
  intro fidx w pc tvec h hw f
  have fits : w ≤ 64 := by omega
  exact ⟨newFurrow_vget, newFurrow_sget, fun r hr => newFurrow_kget hr 0, getLsbD_newFurrow_kget_zero fits, fun _ => rfl, newFurrow_entries,
    rfl, rfl, rfl, rfl, rfl, rfl, rfl, rfl, rfl, rfl, rfl⟩

end Sys2Proof.Machine
end

section
/-! The checks before a member's effect, and what an uncorrectable error does to a register (01 R15, R18, R25, R31, R32, R34, R36). -/

namespace Sys2Proof.Machine

/-! ### Privilege and allocation -/

/-- The first check: a member without the privilege it needs (01 R18, 05 R150). -/
theorem guarded_privileged (s : State) (info : Word) (os : List Opd) (k : State → State) : guarded s (some info) os k = raise s 0x02 info := rfl

/-- The second check: the first operand beyond the allocation is named (01 R15, R18, R31). -/
theorem guarded_beyond {s : State} {os : List Opd} {o : Opd} (h : os.find? (·.beyond s.pre) = some o) (k : State → State) :
    guarded s none os k = raise s 0x03 (opdInfo o 0 o.base) := by
  simp only [guarded, h]

theorem Opd.beyond_s (f : Furrow) (pos : Nat) (r : BitVec 7) (n : Nat) : (Opd.s pos r n).beyond f = decide (f.scount ≤ r.toNat) := Bool.false_or _
theorem Opd.beyond_ds (f : Furrow) (r : BitVec 7) : (Opd.ds r).beyond f = decide (f.scount ≤ r.toNat) := Bool.false_or _
theorem Opd.beyond_v (f : Furrow) (pos : Nat) (r : BitVec 7) (n : Nat) (m : Mask) : (Opd.v pos r n m).beyond f = decide (f.vcount ≤ r.toNat) :=
  (Bool.or_false _).trans (Bool.true_and _)

/-- `info` of a scalar register that is not allocated. -/
theorem opdInfo_s (pos : Nat) (r : BitVec 7) (n : Nat) (hp : pos < 4) :
    opdInfo (.s pos r n) 0 (Opd.s pos r n).base = .ofNat 32 (pos * 2 ^ 16 + 2 ^ 12 + r.toNat) := by
  have hr : r.toNat % 128 = r.toNat := Nat.mod_eq_of_lt r.isLt
  simp [opdInfo, Opd.s, hr, Nat.mod_eq_of_lt hp]

theorem opdInfo_ds (r : BitVec 7) : opdInfo (.ds r) 0 (Opd.ds r).base = .ofNat 32 (3 * 2 ^ 16 + 2 ^ 12 + r.toNat) := opdInfo_s 3 r 1 (by decide)

/-- `info` of the first vector operand, not allocated. -/
theorem opdInfo_v_zero (r : BitVec 7) (n : Nat) (m : Mask) : opdInfo (.v 0 r n m) 0 (Opd.v 0 r n m).base = .ofNat 32 r.toNat := by
  have hr : r.toNat % 128 = r.toNat := Nat.mod_eq_of_lt r.isLt
  simp [opdInfo, Opd.v, hr]

/-- A member whose first operand is a vector register that is not allocated. -/
theorem guarded_beyond_v {s : State} {a : BitVec 7} (h : s.pre.vcount ≤ a.toNat) (n : Nat) (m : Mask) (os : List Opd) (k : State → State) :
    guarded s none (.v 0 a n m :: os) k = raise s 0x03 (.ofNat 32 a.toNat) := by
  have first : (Opd.v 0 a n m :: os).find? (·.beyond s.pre) = some (.v 0 a n m) :=
    List.find?_cons_of_pos (by rw [Opd.beyond_v]; exact decide_eq_true h)
  rw [guarded_beyond first, opdInfo_v_zero]

theorem elementwise_beyond {s : State} {a : BitVec 7} (h : s.pre.vcount ≤ a.toNat) (w : BitVec 2) (d : BitVec 7) (fm : Form)
    (f : Word → Word → Word → Word → Fx → Word × Fx) : elementwise s w d a fm f = raise s 0x03 (.ofNat 32 a.toNat) := by
  unfold elementwise
  exact guarded_beyond_v h _ _ _ _

theorem compare2_beyond {s : State} {a : BitVec 7} (h : s.pre.vcount ≤ a.toNat) (d : BitVec 4) (b : BitVec 7) (p : Word → Word → Bool) :
    compare2 s d a b p = raise s 0x03 (.ofNat 32 a.toNat) := by
  unfold compare2
  exact guarded_beyond_v h _ _ _ _

theorem floatCompare_beyond {s : State} {a : BitVec 7} (h : s.pre.vcount ≤ a.toNat) (d : BitVec 4) (b : BitVec 7) (r : FRel) :
    floatCompare s d a b r = raise s 0x03 (.ofNat 32 a.toNat) := by
  unfold floatCompare
  exact guarded_beyond_v h _ _ _ _

/-- The order of a scalar member's operands in the second check: a, b, destination (log entry 27). -/
theorem scalar2_beyond (s : State) (d a b : BitVec 7) (f : Word → Word → Word) :
    (s.pre.scount ≤ a.toNat → scalar2 s d a b f = raise s 0x03 (.ofNat 32 (2 ^ 12 + a.toNat))) ∧
    (a.toNat < s.pre.scount → s.pre.scount ≤ b.toNat → scalar2 s d a b f = raise s 0x03 (.ofNat 32 (2 ^ 16 + 2 ^ 12 + b.toNat))) ∧
    (a.toNat < s.pre.scount → b.toNat < s.pre.scount → s.pre.scount ≤ d.toNat →
      scalar2 s d a b f = raise s 0x03 (.ofNat 32 (3 * 2 ^ 16 + 2 ^ 12 + d.toNat))) := by
  have named : ∀ o, [Opd.s 0 a, .s 1 b, .ds d].find? (·.beyond s.pre) = some o → scalar2 s d a b f = raise s 0x03 (opdInfo o 0 o.base) :=
    fun o h => guarded_beyond h _
  refine ⟨fun ha => ?_, fun ha hb => ?_, fun ha hb hd => ?_⟩
  · rw [named (.s 0 a) (by simp [Opd.beyond_s, ha]), opdInfo_s 0 a 1 (by decide), Nat.zero_mul, Nat.zero_add]
  · rw [named (.s 1 b) (by simp [Opd.beyond_s, ha, hb]), opdInfo_s 1 b 1 (by decide), Nat.one_mul]
  · rw [named (.ds d) (by simp [Opd.beyond_s, Opd.beyond_ds, ha, hb, hd]), opdInfo_ds]

/-- Outside runtime mode its registers cannot be read or written (01 R25, 05 R150). -/
theorem runtimeReg_privileged {s : State} (n : BitVec 5) (h1 : 23 ≤ n.toNat) (h2 : n.toNat ≤ 27) (hrt : s.pre.rt = false) (d : BitVec 7) :
    exec (.rdsr d n) s = .next (raise s 0x02 (.ofNat 32 n.toNat)) ∧ exec (.wrsr d n) s = .next (raise s 0x02 (.ofNat 32 (32 + n.toNat))) := by
  have priv : (runtimeReg n && !s.pre.rt) = true := by simp [runtimeReg, h1, h2, hrt]
  constructor
  · change execRdsr d n s = _
    rw [execRdsr, if_neg (by omega), if_pos priv, guarded_privileged, privInfo, Nat.zero_mul, Nat.zero_add]
  · change execWrsr d n s = _
    rw [execWrsr, if_pos priv, guarded_privileged, privInfo, Nat.one_mul]

theorem rte_privileged {s : State} (i : BitVec 1) (hrt : s.pre.rt = false) : exec (.rte i) s = .next (raise s 0x02 64) := by
  change execRte i s = _
  rw [execRte, hrt]
  rfl

/-! ### Poison (01 R34) -/

/-- The third check: a consumed marked element is logged and trapped on, once the others that are read are noted. -/
theorem guarded_poisoned {s : State} {os : List Opd} {o : Opd} {t r : Nat} (hb : os.find? (·.beyond s.pre) = none)
    (hp : firstPoison s.pre (maskPrefixOpd s ++ os) = some (o, t, r)) (k : State → State) :
    guarded s none os k = raise (logRegister (Noted s os) true o.file r t) 0x04 (opdInfo o (if o.file = 0 then t else 0) r) := by
  simp only [guarded, hb]
  rw [noteUnconsumed_pre, hp]
  rfl

/-- The earlier of two places is one of them, and the less in the lexicographic order. -/
theorem exists_earlier (a : Option (Nat × Nat)) (b : Nat × Nat) :
    ∃ z, earlier a b = some z ∧ (a = some z ∨ z = b) ∧ ∀ y, a = some y ∨ y = b → toLex z ≤ toLex y := by
  cases a with
  | none =>
    refine ⟨b, rfl, .inr rfl, ?_⟩
    rintro y (⟨⟨⟩⟩ | rfl)
    exact le_rfl
  | some a =>
    by_cases lt : b.1 < a.1 ∨ b.1 = a.1 ∧ b.2 < a.2
    · refine ⟨b, if_pos lt, .inr rfl, ?_⟩
      rintro y (⟨⟨⟩⟩ | rfl)
      · exact (Prod.Lex.toLex_lt_toLex.2 lt).le
      · exact le_rfl
    · refine ⟨a, if_neg lt, .inl rfl, ?_⟩
      rintro y (⟨⟨⟩⟩ | rfl)
      · exact le_rfl
      · exact not_lt.1 (mt Prod.Lex.toLex_lt_toLex.1 lt)

/-- The earliest of a list of places is one of them, and none is less. -/
theorem foldl_earlier_spec {l : List (Nat × Nat)} {a : Option (Nat × Nat)} {x : Nat × Nat} (h : l.foldl earlier a = some x) :
    (a = some x ∨ x ∈ l) ∧ ∀ y, a = some y ∨ y ∈ l → toLex x ≤ toLex y := by
  induction l generalizing a with
  | nil =>
    obtain rfl : a = some x := h
    refine ⟨.inl rfl, ?_⟩
    rintro y (⟨⟨⟩⟩ | ⟨⟨⟩⟩)
    exact le_rfl
  | cons b l ih =>
    obtain ⟨z, hz, hzMem, hzLeast⟩ := exists_earlier a b
    obtain ⟨mem, least⟩ := ih h
    rw [hz, Option.some_inj] at mem
    have le_z : toLex x ≤ toLex z := least z (.inl hz)
    constructor
    · rcases mem with rfl | mem
      · exact hzMem.imp id fun hb => List.mem_cons.2 (.inl hb)
      · exact .inr (List.mem_cons_of_mem b mem)
    · rintro y (hy | hy)
      · exact le_z.trans (hzLeast y (.inl hy))
      · rcases List.mem_cons.1 hy with hy | hy
        · exact le_z.trans (hzLeast y (.inr hy))
        · exact least y (.inr hy)

/-- The marked elements that an operand consumes. -/
def poisonOf (f : Furrow) (o : Opd) : List (Nat × Nat × Mark) := (marksOf f o.file).filter fun m => m.2.2 != .clean && o.consumes m.1 m.2.1

theorem mem_poisonOf {f : Furrow} {o : Opd} {r t : Nat} {m : Mark} :
    (r, t, m) ∈ poisonOf f o ↔ (r, t, m) ∈ marksOf f o.file ∧ m ≠ .clean ∧ o.consumes r t = true := by
  simp [poisonOf]

theorem firstPoison_cons (f : Furrow) (o : Opd) (os : List Opd) : firstPoison f (o :: os) =
    match ((poisonOf f o).map fun m => (m.2.1, m.1)).foldl earlier none with
    | some (t, r) => some (o, t, r)
    | none => firstPoison f os := by
  rw [List.foldl_map]
  rfl

/-- The element that the third check names: one that its operand consumes, of the lowest thread and then of the lowest register. -/
theorem firstPoison_spec {f : Furrow} {os : List Opd} {o : Opd} {t r : Nat} (h : firstPoison f os = some (o, t, r)) :
    o ∈ os ∧ o.consumes r t = true ∧ (∃ m, m ≠ Mark.clean ∧ (r, t, m) ∈ marksOf f o.file) ∧
    ∀ t' r' m, (r', t', m) ∈ marksOf f o.file → m ≠ .clean → o.consumes r' t' = true → t < t' ∨ t = t' ∧ r ≤ r' := by
  induction os with
  | nil => cases h
  | cons o' os ih =>
    rw [firstPoison_cons] at h
    split at h
    case h_1 t₀ r₀ first =>
      obtain ⟨rfl, rfl, rfl⟩ : o' = o ∧ t₀ = t ∧ r₀ = r := by simpa using h
      obtain ⟨hmem, least⟩ := foldl_earlier_spec first
      obtain ⟨⟨r, t, m⟩, hm, hplace⟩ := List.mem_map.1 (hmem.resolve_left (by simp))
      obtain ⟨rfl, rfl⟩ : t = t₀ ∧ r = r₀ := by simpa using hplace
      obtain ⟨hmark, hne, hcons⟩ := mem_poisonOf.1 hm
      refine ⟨List.mem_cons_self, hcons, ⟨m, hne, hmark⟩, fun t' r' m' hmark' hne' hcons' => ?_⟩
      have other : (t', r') ∈ (poisonOf f o').map fun m => (m.2.1, m.1) :=
        List.mem_map.2 ⟨(r', t', m'), mem_poisonOf.2 ⟨hmark', hne', hcons'⟩, rfl⟩
      exact Prod.Lex.toLex_le_toLex.1 (least (t', r') (.inr other))
    case h_2 =>
      obtain ⟨hmem, rest⟩ := ih h
      exact ⟨List.mem_cons_of_mem _ hmem, rest⟩

/-! ### Errors of register elements (01 R32, R36) -/

/-- A furrow that is there, or the default, after a change. -/
theorem furrow_modFurrow (s : State) (k : Nat) (g : Furrow → Furrow) :
    (s.modFurrow k g).furrow k = if (tfind s.furrows k).isSome then g (s.furrow k) else s.furrow k := by
  cases h : tfind s.furrows k <;> simp [State.furrow, State.modFurrow, tget, tfind_tmod, h]

theorem furrow_upset_element {s : State} {k : Nat} (h : (tfind s.furrows k).isSome = true) (file reg thr : Nat) :
    (upset s (.element k file reg thr)).furrow k = spoilElement (s.furrow k) file reg thr := by
  rw [upset, if_pos h, furrow_modFurrow, if_pos h]

/-- An error marks a clean element, and no other one. -/
theorem tget_spoiled {t : NMap Mark} {k : Nat} (h : tget t k .clean = .clean) (j : Nat) :
    tget (spoiled t k) j .clean = if k = j then .uncorrectable else tget t j .clean := by
  rw [spoiled, if_pos h, tget_tset]

theorem spoilElement_vector {f : Furrow} {reg thr : Nat} (h0 : 0 < reg) (hr : reg < f.vcount) (ht : thr < f.width) :
    spoilElement f 0 reg thr = { f with vMark := spoiled f.vMark (64 * reg + thr) } := by
  rw [spoilElement, if_pos rfl, if_pos ⟨hr, ht, by omega⟩]

theorem spoilElement_scalar {f : Furrow} {reg : Nat} (h0 : 0 < reg) (hr : reg < f.scount) (thr : Nat) :
    spoilElement f 1 reg thr = { f with sMark := spoiled f.sMark reg } := by
  rw [spoilElement, if_neg (by decide), if_pos rfl, if_pos ⟨hr, by omega⟩]

theorem spoilElement_mask (f : Furrow) {reg : Nat} (h0 : 0 < reg) (hr : reg < 16) (thr : Nat) :
    spoilElement f 2 reg thr = { f with kMark := spoiled f.kMark reg } := by
  rw [spoilElement, if_neg (by decide), if_neg (by decide), if_pos rfl, if_pos ⟨hr, by omega⟩]

/-- Settles O29: each check by the lemma that says when it is the one that answers, the named element by the least place of a fold, and errors by
the reads of a mark table after a write. -/
theorem memberChecks : Obligations.MemberChecks := by
  unfold Obligations.MemberChecks
  refine ⟨fun s d n h1 h2 hrt => runtimeReg_privileged n h1 h2 hrt d, fun s i hrt => rte_privileged i hrt, fun s d a b => ?_, fun s w d a b ha => ?_,
    fun s o os k hb => ⟨fun t r hp => guarded_poisoned hb hp k, fun hp => guarded_ready ⟨hb, hp⟩ k⟩, fun f os o t r h => firstPoison_spec h,
    fun s fk reg thr hf => ?_⟩
  · obtain ⟨hA, hB, hD⟩ := scalar2_beyond s d a b (· + ·)
    exact ⟨fun ha => congrArg _ (hA ha), fun ha hb => congrArg _ (hB ha hb), fun ha hb hd => congrArg _ (hD ha hb hd)⟩
  · simp only [List.forall_mem_cons]
    exact ⟨congrArg _ (elementwise_beyond ha ..), congrArg _ (elementwise_beyond ha ..), congrArg _ (elementwise_beyond ha ..),
      congrArg _ (elementwise_beyond ha ..), congrArg _ (compare2_beyond ha ..), congrArg _ (floatCompare_beyond ha ..), fun _ h => nomatch h⟩
  · intro f g
    have after : ∀ file, g file = spoilElement f file reg thr := fun file => furrow_upset_element hf file reg thr
    refine ⟨fun h0 hr ht hclean => ?_, fun h0 hr hclean => ?_, fun h0 hr hclean => ?_⟩
    · rw [after, spoilElement_vector h0 hr ht]
      exact ⟨by rw [tget_spoiled hclean, if_pos rfl], fun k hk => by rw [tget_spoiled hclean, if_neg hk.symm], rfl⟩
    · rw [after, spoilElement_scalar h0 hr]
      exact ⟨by rw [tget_spoiled hclean, if_pos rfl], rfl⟩
    · rw [after, spoilElement_mask f h0 hr]
      exact ⟨by rw [tget_spoiled hclean, if_pos rfl], rfl⟩

end Sys2Proof.Machine
end

section
/-! Reads and writes of special registers (01 R25 to R30; 05 R131, R145, R148, R149). -/

namespace Sys2Proof.Machine

/-! ### Reads -/

/-- The registers that `rdsr` reads as one value for the furrow, but for `cycle`. -/
def uniformReg (n : BitVec 5) : Bool := decide (2 ≤ n.toNat) && n != 19

/-- A read of such a register, in runtime mode where it must be (01 R25). -/
theorem exec_rdsr_uniform {s : State} {d : BitVec 7} (h : Ready s [.ds d]) {n : BitVec 5} (hn : uniformReg n = true)
    (hrt : runtimeReg n = true → s.pre.rt = true) : exec (.rdsr d n) s = .next { s with cur := s.cur.sset d.toNat (specialReg s n.toNat) } := by
  obtain ⟨h2, hc⟩ : 2 ≤ n.toNat ∧ n ≠ 19 := by simpa [uniformReg] using hn
  have allowed : ¬(runtimeReg n && !s.pre.rt) = true := by simpa using hrt
  change execRdsr d n s = _
  rw [execRdsr, if_neg (by omega), if_neg allowed, guarded_whole h rfl, if_neg hc]
  rfl

/-- A launch level's coordinate stands at the number 11 + i (01 R25). -/
theorem specialReg_level (s : State) {i : Nat} (h : i < 8) : specialReg s (11 + i) = levelCoord s s.pre i := by
  interval_cases i <;> rfl

/-- A read of `cycle` latches its high half (01 R26). -/
theorem exec_rdsr_cycle {s : State} {d : BitVec 7} (h : Ready s [.ds d]) : exec (.rdsr d 19) s =
    let r := readCycle s
    .next (setS { r.2 with cur := { r.2.cur with cyclh := (r.1 >>> 32).setWidth 32 } } d (r.1.setWidth 32)) := by
  have notRuntime : ¬(runtimeReg 19 && !s.pre.rt) = true := Bool.false_ne_true
  change execRdsr d 19 s = _
  rw [execRdsr, if_neg (by decide), if_neg notRuntime, guarded_whole h rfl, if_pos rfl]

theorem exec_rdcnt {s : State} {d : BitVec 7} (h : Ready s [.ds d]) (p : BitVec 5) :
    exec (.rdcnt d p) s = .next { s with cur := s.cur.sset d.toNat ((tget s.pre.ctr p.toNat 0).setWidth 32) } := by
  change execRdcnt d p s = _
  rw [execRdcnt, guarded_whole h rfl]
  rfl

/-- `lane` and `tidx` write nothing in a stream (05 R145). -/
theorem exec_rdsr_thread_stream {s : State} (hs : s.pre.stream = true) (d : BitVec 7) {n : BitVec 5} (hn : n.toNat < 2) : exec (.rdsr d n) s = .next s := by
  change execRdsr d n s = _
  rw [execRdsr, if_pos hn, if_pos hs]

/-- One register of a furrow written for the threads of a list. -/
def vsetThreads (f : Furrow) (d : Nat) (x : Nat → Word) (ts : List Nat) : Furrow := ts.foldl (fun f t => f.vset d t (x t)) f

theorem vget_vsetThreads (f : Furrow) (d : Nat) (x : Nat → Word) {ts : List Nat} (hts : ∀ t ∈ ts, t < 64) (r : Nat) {u : Nat} (hu : u < 64) :
    (vsetThreads f d x ts).vget r u = if r = d ∧ r ≠ 0 ∧ u ∈ ts then x u else f.vget r u := by
  obtain ⟨value, -, -⟩ := vset_runs d 1 (fun _ t => x t) ts hts f
  refine (value r u hu).trans (if_congr ⟨?_, ?_⟩ rfl rfl)
  · rintro ⟨h0, h1, h2, hm⟩
    exact ⟨by omega, h0, hm⟩
  · rintro ⟨rfl, h0, hm⟩
    exact ⟨h0, le_rfl, by omega, hm⟩

theorem vsetThreads_eq (f : Furrow) (d : Nat) (x : Nat → Word) {ts : List Nat} (hts : ∀ t ∈ ts, t < 64) :
    vsetThreads f d x ts = { f with v := (vsetThreads f d x ts).v, vMark := (vsetThreads f d x ts).vMark } := by
  obtain ⟨-, -, rest⟩ := vset_runs d 1 (fun _ t => x t) ts hts f
  exact rest

/-- Elsewhere they write one vector register for the threads of the entry (05 R131). -/
theorem exec_rdsr_thread {s : State} {d : BitVec 7} (hs : s.pre.stream = false) (h : Ready s [.dv d]) {n : BitVec 5} (hn : n.toNat < 2) :
    let x (t : Nat) : Word := .ofNat 32 (if n = 0 then t % 16 else t)
    exec (.rdsr d n) s = .next { s with cur := vsetThreads s.cur d.toNat x (threads s.pre.width (entryMask s)) } := by
  change execRdsr d n s = _
  rw [execRdsr, if_pos hn, if_neg (by rw [hs]; decide), guarded_whole h rfl]
  rfl

/-- Settles O27: the uniform registers by one lemma over their number, `cycle`, the counters, and the threads' registers. -/
theorem specialRegisterReads : Obligations.SpecialRegisterReads := by
  unfold Obligations.SpecialRegisterReads
  intro s d f
  refine ⟨fun h => ⟨?_, fun i hi => ?_, fun hrt => ?_, exec_rdsr_cycle h, exec_rdcnt h⟩, fun hs h n hn => ?_,
    fun hs n hn => exec_rdsr_thread_stream hs d hn⟩
  · intro p hp
    fin_cases hp <;> exact exec_rdsr_uniform h rfl fun hn => absurd hn Bool.false_ne_true
  · have number : (BitVec.ofNat 5 (11 + i)).toNat = 11 + i := Nat.mod_eq_of_lt (by omega)
    have uniform : uniformReg (.ofNat 5 (11 + i)) = true := by interval_cases i <;> rfl
    have notRuntime : runtimeReg (.ofNat 5 (11 + i)) = false := by interval_cases i <;> rfl
    rw [exec_rdsr_uniform h uniform (by simp [notRuntime]), number, specialReg_level s hi]
  · have read : ∀ n, uniformReg n = true → exec (.rdsr d n) s = .next { s with cur := s.cur.sset d.toNat (specialReg s n.toNat) } :=
      fun n hu => exec_rdsr_uniform h hu fun _ => hrt
    have mode : specialReg s (27 : BitVec 5).toNat = 1 := if_pos hrt
    simp only [List.forall_mem_cons]
    exact ⟨read 23 rfl, read 24 rfl, read 25 rfl, read 26 rfl, mode ▸ read 27 rfl, fun _ h => nomatch h⟩
  · refine ⟨_, exec_rdsr_thread hs h hn, fun r u hu => ?_, congrArg (fun c => { s with cur := c }) (vsetThreads_eq _ _ _ fun _ => threads_lt)⟩
    simpa only [mem_threads] using vget_vsetThreads s.cur d.toNat _ (fun _ => threads_lt) r hu

/-! ### Writes -/

theorem all_whole_s (pos : Nat) (r : BitVec 7) : [Opd.s pos r].all Opd.whole = true := by simp [Opd.whole, Opd.s]

/-- A write of a register that the furrow may write here. -/
theorem exec_wrsr {s : State} {a : BitVec 7} (h : Ready s [.s 0 a]) {n : BitVec 5} (hrt : runtimeReg n = true → s.pre.rt = true) :
    exec (.wrsr a n) s = .next { s with cur := writeSpecial s.cur n.toNat (S s a) } := by
  have allowed : ¬(runtimeReg n && !s.pre.rt) = true := by simpa using hrt
  change execWrsr a n s = _
  rw [execWrsr, if_neg allowed, guarded_whole h (all_whole_s 0 a)]

/-- A field of `w` bits from bit `lo` on, in place. -/
theorem and_ones_shiftLeft (x lo w : Nat) : x &&& ((2 ^ w - 1) <<< lo) = (x / 2 ^ lo % 2 ^ w) <<< lo := by
  apply Nat.eq_of_testBit_eq
  intro i
  by_cases h : lo ≤ i <;> simp [Nat.testBit_shiftLeft, Nat.testBit_div_two_pow, h, Bool.and_comm]

/-- The defined bits of `status` are its three fields (01 R27). -/
theorem toNat_and_statusBits (x : Word) : (x &&& statusBits).toNat = x.toNat % 8 + x.toNat / 16 % 64 * 16 + x.toNat / 2 ^ 16 % 2 * 2 ^ 16 := by
  have fields : statusBits.toNat = (2 ^ 1 - 1) <<< 16 ||| ((2 ^ 6 - 1) <<< 4 ||| (2 ^ 3 - 1) <<< 0) := rfl
  rw [BitVec.toNat_and, fields, Nat.and_or_distrib_left, Nat.and_or_distrib_left, and_ones_shiftLeft, and_ones_shiftLeft, and_ones_shiftLeft]
  rw [← Nat.shiftLeft_add_eq_or_of_lt (i := 4) (by omega), ← Nat.shiftLeft_add_eq_or_of_lt (i := 16) (by omega)]
  simp only [Nat.shiftLeft_eq]
  omega

/-- A word without its low `k` bits. -/
theorem toNat_and_not_ones (x : Word) (k : Nat) : (x &&& ~~~ .ofNat 32 (2 ^ k - 1)).toNat = x.toNat / 2 ^ k * 2 ^ k := by
  apply Nat.eq_of_testBit_eq
  intro i
  rw [Nat.testBit_mul_two_pow, Nat.testBit_div_two_pow, BitVec.testBit_toNat, BitVec.getLsbD_and, BitVec.getLsbD_not, BitVec.getLsbD_ofNat,
    Nat.testBit_two_pow_sub_one, BitVec.testBit_toNat]
  by_cases hk : k ≤ i
  · by_cases hi : i < 32
    · simp [hk, hi, Nat.not_lt.2 hk]
    · simp [hk, BitVec.getLsbD_of_ge x i (Nat.not_lt.1 hi)]
  · simp [hk, Nat.lt_of_not_le hk]

/-- What `status` holds after a write (01 R27, R28). -/
theorem statusStored_eq (x : Word) : statusStored x =
    .ofNat 32 ((if 6 ≤ x.toNat % 8 then 0 else x.toNat % 8) + x.toNat / 16 % 64 * 16 + x.toNat / 2 ^ 16 % 2 * 2 ^ 16) := by
  have bits := toNat_and_statusBits x
  have frm : (x &&& statusBits).toNat % 8 = x.toNat % 8 := by omega
  have above : ((x &&& statusBits) &&& ~~~7).toNat = x.toNat / 16 % 64 * 16 + x.toNat / 2 ^ 16 % 2 * 2 ^ 16 := by
    rw [show (7 : Word) = .ofNat 32 (2 ^ 3 - 1) from rfl, toNat_and_not_ones, bits]
    omega
  apply BitVec.eq_of_toNat_eq
  simp only [statusStored, frm, BitVec.toNat_ofNat]
  split
  · rw [above]; omega
  · rw [bits]; omega

/-- A saved word loses a slot of 3 (01 R30). -/
theorem epcStored_eq (x : Word) : x &&& ~~~3 = .ofNat 32 (x.toNat / 4 * 4) := by
  have cleared : (x &&& ~~~3).toNat = x.toNat / 2 ^ 2 * 2 ^ 2 := toNat_and_not_ones x 2
  apply BitVec.eq_of_toNat_eq
  rw [cleared, BitVec.toNat_ofNat]
  omega

/-- `cause` keeps six bits. -/
theorem causeStored_eq (x : Word) : x &&& 0x3F = .ofNat 32 (x.toNat % 64) := by
  have kept : (x &&& 0x3F).toNat = x.toNat % 2 ^ 6 := (BitVec.toNat_and ..).trans (Nat.and_two_pow_sub_one_eq_mod x.toNat 6)
  apply BitVec.eq_of_toNat_eq
  rw [kept, BitVec.toNat_ofNat]
  omega

/-- `tvec` is rounded down to a packet. -/
theorem tvecStored_eq (x : Word) : x - .ofNat 32 (x.toNat % 12) = .ofNat 32 (x.toNat / 12 * 12) := by
  apply BitVec.eq_of_toNat_eq
  rw [BitVec.toNat_sub, BitVec.toNat_ofNat, BitVec.toNat_ofNat]
  omega

/-- Settles O28: the write by its number, and each stored value as the fields of the written word. -/
theorem specialRegisterWrites : Obligations.SpecialRegisterWrites := by
  unfold Obligations.SpecialRegisterWrites
  intro s a h x st
  have user : ∀ n, runtimeReg n = false → exec (.wrsr a n) s = .next { s with cur := writeSpecial s.cur n.toNat x } :=
    fun n hn => exec_wrsr h fun hr => absurd (hn.symm.trans hr) Bool.false_ne_true
  refine ⟨?_, user 28 rfl, fun hrt => ?_, fun n hn => hn⟩
  · rw [user 21 rfl, show st = statusStored x from (statusStored_eq x).symm]
    rfl
  · have runtime : ∀ n, exec (.wrsr a n) s = .next { s with cur := writeSpecial s.cur n.toNat x } := fun n => exec_wrsr h fun _ => hrt
    rw [← epcStored_eq, ← causeStored_eq, ← tvecStored_eq]
    exact ⟨runtime 23, runtime 24, runtime 25, runtime 26, runtime 27⟩

end Sys2Proof.Machine
end

section
/-! Operations in flight: how one enters, what the L1 serves of a load at issue, and how one leaves (01 R22, R23; 06 R163; 11 R259). -/

namespace Sys2Proof.Machine

/-! ### Entering -/

/-- The operation that enters: the given one with the issuing furrow's state recorded (01 R22). -/
def issued (s : State) (o : Op) : Op :=
  { o with id := s.nextId, furrow := s.iss.furrow, entry := s.iss.entry, pkt := s.iss.pkt, slot := s.iss.slot,
           act := act s, zero := zeroed s, pts := s.cur.pts }

theorem issueOp_counted (s : State) {o : Op} {p : Nat} (h : o.path = some p) : issueOp s o =
    { s with nextId := s.nextId + 1, ops := s.ops ++ [issued s o], cur := { s.cur with ctr := tset s.cur.ctr p 0 (tget s.cur.ctr p 0 + 1) } } := by
  simp only [issueOp, issued, State.fresh, h]
  rfl

theorem issueOp_uncounted (s : State) {o : Op} (h : o.path = none) : issueOp s o =
    { s with nextId := s.nextId + 1, ops := s.ops ++ [issued s o] } := by
  simp only [issueOp, issued, State.fresh, h]
  rfl

/-- Entering changes the operations, their numbering and the working furrow alone. -/
theorem issueOp_frame (s : State) (o : Op) :
    issueOp s o = { s with nextId := s.nextId + 1, ops := (issueOp s o).ops, cur := (issueOp s o).cur } := by
  cases h : o.path with
  | none => rw [issueOp_uncounted s h]
  | some p => rw [issueOp_counted s h]

/-- Accesses that nothing keeps waiting enter. -/
theorem enter_room {s : State} {o : Op} (h : Room s o.accs) (k : State → State) : enter s o k = k (issueOp s o) := by
  obtain ⟨free, room⟩ := h
  have fits : ¬(!s.pre.stream && decide (128 < tableUsed s s.pre.gcore + tableLines o.accs) && tableUsed s s.pre.gcore != 0) = true := by
    simp only [Bool.and_eq_true, Bool.not_eq_true', decide_eq_true_eq, bne_iff_ne]
    rintro ⟨⟨hs, hn⟩, h0⟩
    rcases room with room | room | room
    · rw [hs] at room
      cases room
    · omega
    · exact h0 room
  rw [enter, if_neg (by rw [free]; decide), whenTable, if_neg fits]

/-! ### What the L1 serves -/

/-- Only the cores' copies differ, and the free values drawn. -/
def OnlyCopies (s t : State) : Prop := t = { s with cores := t.cores, tick := t.tick }

theorem OnlyCopies.refl (s : State) : OnlyCopies s s := rfl

theorem OnlyCopies.trans {a b c : State} (h : OnlyCopies a b) (k : OnlyCopies b c) : OnlyCopies a c := by
  unfold OnlyCopies at h k ⊢
  rw [h] at k
  exact k

theorem OnlyCopies.memMark {s t : State} (h : OnlyCopies s t) : t.memMark = s.memMark := by rw [h]

theorem onlyCopies_draw (s : State) : OnlyCopies s s.draw.2 := rfl
theorem onlyCopies_modCore (s : State) (k : Nat) (g : Core → Core) : OnlyCopies s (s.modCore k g) := rfl

/-- Reading marks changes nothing where no error waits to be detected. -/
theorem readMarksBut_clean {s : State} (hm : ∀ w, tget s.memMark w .clean ≠ .uncorrectable) (k n : Nat) (elsewhere kept : Nat → Bool) :
    (readMarksBut s k n elsewhere kept).2 = s := by
  unfold readMarksBut
  generalize (upto ((k % 4 + n + 3) / 4)).map (fun i => k / 4 + i) = ws
  refine List.foldlRecOn (motive := fun st : List Bool × State => st.2 = s) ws _ rfl fun st hst w _ => ?_
  dsimp only
  rw [hst]
  split
  · rfl
  · split
    · rfl
    · rfl
    · exact absurd ‹_› (hm w)

/-- A load's access keeps its place whatever data it takes. -/
def Acc.place (a : Acc) : Nat × Nat × Dword × Nat := (a.thr, a.loc, a.addr, a.size)

theorem loadData_clean {s : State} (hm : ∀ w, tget s.memMark w .clean ≠ .uncorrectable) (i : Instr) (older : List Op) (w : BitVec 48)
    (bs : List Byte) (a : Acc) : (loadData s i older w bs a).2 = s := readMarksBut_clean hm ..

/-- A read of an L1 copy. -/
theorem onlyCopies_readCopy {s : State} (hm : ∀ w, tget s.memMark w .clean ≠ .uncorrectable) (f : Furrow) (i : Instr) (older : List Op)
    (x : L1Line) (a : Acc) : OnlyCopies s (readCopy s f i older x a).2 := by
  unfold readCopy
  rw [loadData_clean (s := s.modCore f.gcore _) hm]
  exact onlyCopies_modCore ..

theorem l1Serves_uncached {a : Acc} (h : a.l1 = false) (s : State) (f : Furrow) (older : List Op) : l1Serves s f older a = none := by
  rw [l1Serves, h]
  rfl

section Hits

variable {s : State} {i : Instr} {older : List Op} {a : Acc} {as : List Acc} {x : L1Line}

/-- An access that the L1 does not serve is left to the home. -/
theorem tryHits_miss (h : l1Serves s s.cur older a = none) :
    tryHits s i older (a :: as) = (a :: (tryHits s i older as).1, (tryHits s i older as).2) := by
  rw [tryHits, h]

/-- A copy that was evicted before. -/
def evictedBefore (s : State) (x : L1Line) : State :=
  s.draw.2.modCore s.draw.2.cur.gcore fun c => { c with l1 := c.l1.filter fun y => y.line != x.line }

theorem tryHits_evicted (h : l1Serves s s.cur older a = some x) (hn : s.draw.1 % 2 = 1 ∧ !x.exclusive) :
    tryHits s i older (a :: as) = (a :: (tryHits (evictedBefore s x) i older as).1, (tryHits (evictedBefore s x) i older as).2) := by
  rw [tryHits, h]
  exact if_pos hn

theorem tryHits_hit (h : l1Serves s s.cur older a = some x) (hn : ¬(s.draw.1 % 2 = 1 ∧ !x.exclusive)) :
    tryHits s i older (a :: as) =
      let b := readCopy s.draw.2 s.draw.2.cur i older x a
      let r := tryHits b.2 i older as
      (b.1 :: r.1, smax r.2.1 x.wts, r.2.2) := by
  rw [tryHits, h]
  exact if_neg hn

end Hits

/-- What the L1 serves of a load at issue: each access keeps its place, those that are not cached stay as they are, and nothing but the
cores' copies changes (06 R163, 11 R259). -/
theorem tryHits_spec (i : Instr) (older : List Op) (as : List Acc) {s : State} (hm : ∀ w, tget s.memMark w .clean ≠ .uncorrectable) :
    OnlyCopies s (tryHits s i older as).2.2 ∧ (tryHits s i older as).1.map Acc.place = as.map Acc.place ∧
    ((∀ a ∈ as, a.l1 = false) → (tryHits s i older as).1 = as) := by
  induction as generalizing s with
  | nil => exact ⟨.refl s, rfl, fun _ => rfl⟩
  | cons a as ih =>
    cases h : l1Serves s s.cur older a with
    | none =>
      obtain ⟨only, places, same⟩ := ih hm
      rw [tryHits_miss h]
      exact ⟨only, congrArg (a.place :: ·) places, fun hl => congrArg (a :: ·) (same fun b hb => hl b (List.mem_cons_of_mem a hb))⟩
    | some x =>
      have cached : ¬ ∀ b ∈ a :: as, b.l1 = false := fun hl => by
        rw [l1Serves_uncached (hl a List.mem_cons_self)] at h
        cases h
      by_cases hn : s.draw.1 % 2 = 1 ∧ !x.exclusive
      · have evict : OnlyCopies s (evictedBefore s x) := (onlyCopies_draw s).trans (onlyCopies_modCore ..)
        obtain ⟨only, places, -⟩ := ih (s := evictedBefore s x) hm
        rw [tryHits_evicted h hn]
        exact ⟨evict.trans only, congrArg (a.place :: ·) places, fun hl => absurd hl cached⟩
      · have read : OnlyCopies s (readCopy s.draw.2 s.draw.2.cur i older x a).2 := (onlyCopies_draw s).trans (onlyCopies_readCopy (s := s.draw.2) hm ..)
        obtain ⟨only, places, -⟩ := ih (s := (readCopy s.draw.2 s.draw.2.cur i older x a).2) (by rw [read.memMark]; exact hm)
        rw [tryHits_hit h hn]
        exact ⟨read.trans only, congrArg (a.place :: ·) places, fun hl => absurd hl cached⟩

/-- The count of hits changes nothing else of the furrow but its stamp. -/
theorem countHit_eq (f : Furrow) (as : List Acc) : countHit f as = { f with hits := (countHit f as).hits, pts := (countHit f as).pts } := by
  unfold countHit
  split <;> rfl

/-- The furrow's operations that stood before the youngest one. -/
def olderThanLast (s : State) : List Op := s.ops.filter fun x => x.furrow == s.iss.furrow && x.id != s.nextId - 1

/-- What the L1 serves of an entering load. -/
def served (s : State) (o : Op) : List Acc × BitVec 48 × State := tryHits (issueOp s o) o.instr (olderThanLast (issueOp s o)) o.accs

theorem enterLoad_room {s : State} {o : Op} (h : Room s o.accs) : enterLoad s o =
    let r := served s o
    let t := r.2.2.modOp s.nextId fun x => { x with accs := r.1, rmax := r.2.1 }
    { t with cur := countHit t.cur r.1 } := by
  have number : (issueOp s o).nextId - 1 = s.nextId := by rw [issueOp_frame]; rfl
  rw [enterLoad, enter_room h]
  dsimp only [served, olderThanLast]
  rw [number]

/-- A load that enters takes what its L1 serves, and changes nothing else but the copies, the free values drawn and the count of hits. -/
theorem enterLoad_eq {s : State} {o : Op} (h : Room s o.accs) (only : OnlyCopies (issueOp s o) (served s o).2.2) : enterLoad s o =
    { issueOp s o with
      ops := (issueOp s o).ops.map fun x => if x.id = s.nextId then { x with accs := (served s o).1, rmax := (served s o).2.1 } else x,
      cur := countHit (issueOp s o).cur (served s o).1, cores := (served s o).2.2.cores, tick := (served s o).2.2.tick } := by
  rw [enterLoad_room h]
  unfold OnlyCopies at only
  dsimp only
  rw [only]
  rfl

/-! ### Leaving -/

/-- A furrow's operations on a path that has none stay. -/
theorem retireOps_none {k p : Nat} {l : List Op} (h : ∀ x ∈ l, ¬(x.furrow = k ∧ x.path = some p)) (stop : Bool) : retireOps k p l stop = (l, 0) := by
  induction l generalizing stop with
  | nil => rfl
  | cons x l ih =>
    have off : ¬(x.furrow = k ∧ x.path = some p ∧ !stop) := fun hx => h x List.mem_cons_self ⟨hx.1, hx.2.1⟩
    rw [retireOps, if_neg off, ih fun y hy => h y (List.mem_cons_of_mem x hy)]

/-- The one operation of a path, complete, leaves (01 R23). -/
theorem retireOps_alone {k p : Nat} {l₁ l₂ : List Op} {o : Op} (h₁ : ∀ x ∈ l₁, ¬(x.furrow = k ∧ x.path = some p))
    (h₂ : ∀ x ∈ l₂, ¬(x.furrow = k ∧ x.path = some p)) (hk : o.furrow = k) (hp : o.path = some p) (hd : o.done = true) :
    retireOps k p (l₁ ++ o :: l₂) false = (l₁ ++ l₂, 1) := by
  induction l₁ with
  | nil => rw [List.nil_append, retireOps, if_pos ⟨hk, hp, rfl⟩, if_pos hd, retireOps_none h₂]; rfl
  | cons x l₁ ih =>
    have off : ¬(x.furrow = k ∧ x.path = some p ∧ !false) := fun hx => h₁ x List.mem_cons_self ⟨hx.1, hx.2.1⟩
    rw [List.cons_append, retireOps, if_neg off, ih fun y hy => h₁ y (List.mem_cons_of_mem x hy)]
    rfl

/-- An operation with an identifier of its own splits the list that it stands in. -/
theorem exists_split_of_countP {l : List Op} {o : Op} (hf : l.find? (·.id == o.id) = some o) (hc : l.countP (·.id == o.id) = 1) :
    ∃ l₁ l₂, l = l₁ ++ o :: l₂ ∧ ∀ x ∈ l₁ ++ l₂, x.id ≠ o.id := by
  obtain ⟨-, l₁, l₂, rfl, -⟩ := List.find?_eq_some_iff_append.1 hf
  have count : (l₁ ++ l₂).countP (·.id == o.id) = 0 := by
    rw [List.countP_append, List.countP_cons_of_pos (by simp)] at hc
    rw [List.countP_append]
    omega
  exact ⟨l₁, l₂, rfl, fun x hx => by simpa using List.countP_eq_zero.1 count x hx⟩

/-- An operation marked as complete. -/
def markedDone (o : Op) : Op := { o with done := true }

theorem finishOp_counted (s : State) {o : Op} {p : Nat} (hp : o.path = some p) : finishOp s o =
    let r := retireOps o.furrow p (s.ops.map fun x => if x.id = o.id then markedDone x else x) false
    settle (({ s with ops := r.1 } : State).modFurrow o.furrow fun f => { f with ctr := tset f.ctr p 0 (tget f.ctr p 0 - .ofNat 6 r.2) }) o.furrow := by
  simp only [finishOp, hp]
  rfl

/-- Only the operation of that identifier is marked. -/
theorem map_markedDone {l₁ l₂ : List Op} {o : Op} (hid : ∀ x ∈ l₁ ++ l₂, x.id ≠ o.id) :
    (l₁ ++ o :: l₂).map (fun x => if x.id = o.id then markedDone x else x) = l₁ ++ markedDone o :: l₂ := by
  have same : ∀ l : List Op, (∀ x ∈ l, x.id ≠ o.id) → l.map (fun x => if x.id = o.id then markedDone x else x) = l :=
    fun l hl => (List.map_congr_left fun x hx => if_neg (hl x hx)).trans (List.map_id l)
  rw [List.map_append, List.map_cons, if_pos rfl, same l₁ fun x hx => hid x (List.mem_append_left _ hx),
    same l₂ fun x hx => hid x (List.mem_append_right _ hx)]

/-- An operation alone on its path that completes: it leaves, and its furrow's counter falls by one (01 R23). -/
theorem finishOp_alone {s : State} {o : Op} {p : Nat} {l₁ l₂ : List Op} (hs : s.ops = l₁ ++ o :: l₂) (hid : ∀ x ∈ l₁ ++ l₂, x.id ≠ o.id)
    (hp : o.path = some p) (alone : ∀ x ∈ s.ops, x.furrow = o.furrow → x.path = some p → x.id = o.id) : finishOp s o =
    settle (({ s with ops := l₁ ++ l₂ } : State).modFurrow o.furrow fun f => { f with ctr := tset f.ctr p 0 (tget f.ctr p 0 - 1) }) o.furrow := by
  have off : ∀ x ∈ l₁ ++ l₂, ¬(x.furrow = o.furrow ∧ x.path = some p) := fun x hx hxp =>
    hid x hx (alone x (by simp only [hs, List.mem_append, List.mem_cons] at hx ⊢; tauto) hxp.1 hxp.2)
  have left : retireOps o.furrow p (l₁ ++ markedDone o :: l₂) false = (l₁ ++ l₂, 1) :=
    retireOps_alone (fun x hx => off x (List.mem_append_left _ hx)) (fun x hx => off x (List.mem_append_right _ hx)) rfl hp rfl
  rw [finishOp_counted s hp, hs, map_markedDone hid, left]
  rfl

/-- Settled waits are no change of the counters. -/
theorem settle_ctr (s : State) (k : Nat) : ((settle s k).furrow k).ctr = (s.furrow k).ctr := by
  rw [settle, furrow_modFurrow]
  split <;> rfl

/-- Settles O43: entering by its equations, a load's issue by what `tryHits` can do, and leaving by the split of the operations at the one. -/
theorem issuedOperations : Obligations.IssuedOperations := by
  unfold Obligations.IssuedOperations
  refine ⟨fun s o => ⟨fun p hp => issueOp_counted s hp, fun hp => issueOp_uncounted s hp⟩, fun s o hroom hm => ?_,
    fun s o p hp ho alone hc _ => ?_⟩
  · obtain ⟨only, places, same⟩ : OnlyCopies (issueOp s o) (served s o).2.2 ∧ (served s o).1.map Acc.place = o.accs.map Acc.place ∧
        ((∀ a ∈ o.accs, a.l1 = false) → (served s o).1 = o.accs) := tryHits_spec _ _ _ (by rw [issueOp_frame]; exact hm)
    refine ⟨(served s o).1, (served s o).2.1, enterLoad s o, rfl, places, ?_⟩
    rw [enterLoad_eq hroom only]
    refine ⟨rfl, ?_, ?_, ?_, ?_, countHit_eq _ _, same⟩ <;> rw [issueOp_frame]
  · obtain ⟨l₁, l₂, hs, hid⟩ := exists_split_of_countP ho hc
    rw [finishOp_alone hs hid hp alone]
    refine ⟨List.find?_eq_none.2 fun x hx => by simpa using hid x hx, fun x hx => ?_, fun q => ?_⟩
    · change (l₁ ++ l₂).find? _ = s.ops.find? _
      rw [hs, List.find?_append, List.find?_append, List.find?_cons_of_neg (by simpa using hx.symm)]
    · rw [settle_ctr, furrow_modFurrow]
      by_cases there : (tfind s.furrows o.furrow).isSome = true
      · rw [if_pos there]
        refine (tget_tset _ p q 0 _).trans ?_
        by_cases hq : p = q
        · subst hq
          rw [if_pos rfl, if_pos ⟨rfl, there⟩]
          rfl
        · rw [if_neg hq, if_neg fun h => hq h.1.symm]
          rfl
      · rw [if_neg there, if_neg fun h => there h.2]
        rfl

end Sys2Proof.Machine
end

section
/-! What the encoder and the decoders do to each other (02 R38 to R64, 15 R336). A word that the encoder makes is its fixed bits and its operands, added:
as no two of them share a bit, a field of the word reads as an operand or as the fixed bits. The other way round, a decoder's row compares some fields
and reads the others, and adding up what it read and compared gives the word again. -/

namespace Sys2Proof

/-! ### Fields -/

theorem fld_lt (n lo len : Nat) : fld n lo len < 2 ^ len := Nat.mod_lt _ (Nat.two_pow_pos len)

@[simp] theorem testBit_fld (n lo len j : Nat) : (fld n lo len).testBit j = (decide (j < len) && n.testBit (lo + j)) := by
  rw [fld, Nat.testBit_mod_two_pow, Nat.testBit_div_two_pow, Nat.add_comm]

/-- A field below bit `m` is a field of the number modulo 2^m. -/
theorem fld_mod (n : Nat) {lo len m : Nat} (h : lo + len ≤ m) : fld (n % 2 ^ m) lo len = fld n lo len := by
  refine Nat.eq_of_testBit_eq fun j => ?_
  rw [testBit_fld, testBit_fld, Nat.testBit_mod_two_pow]
  by_cases hj : j < len
  · simp [hj, show lo + j < m by omega]
  · simp [hj]

/-- Numbers without a common bit add as they are joined. -/
theorem add_eq_or_of_disjoint {x y : Nat} (h : ∀ j, x.testBit j = true → y.testBit j = false) : x + y = x ||| y := by
  have hand : BitVec.ofNat (x + y) x &&& BitVec.ofNat (x + y) y = 0#(x + y) := by
    refine BitVec.eq_of_getLsbD_eq fun j hj => ?_
    have := h j
    simp only [BitVec.getLsbD_and, BitVec.getLsbD_ofNat, hj, decide_true, Bool.true_and]
    cases hx : x.testBit j <;> simp_all
  have hlt : x + y < 2 ^ (x + y) := Nat.lt_two_pow_self
  have key := congrArg BitVec.toNat (BitVec.add_eq_or_of_and_eq_zero _ _ hand)
  rwa [BitVec.toNat_add, BitVec.toNat_or, BitVec.toNat_ofNat, BitVec.toNat_ofNat, Nat.mod_eq_of_lt (show x < _ by omega),
    Nat.mod_eq_of_lt (show y < _ by omega), Nat.mod_eq_of_lt hlt] at key

/-! ### Words as sums of operands

A layout lists the operands of a word, each by its width and its unit, the power of two of its lowest bit. -/

/-- `n` is the sum of the fixed bits `k` and the operands `vs`, which lie as the layout says. -/
inductive IsAssembled (k : Nat) : Nat → List (Nat × Nat) → List (Σ w, BitVec w) → Prop
  | fixed : IsAssembled k k [] []
  | add {n w u : Nat} {v : BitVec w} {l : List (Nat × Nat)} {vs : List (Σ w, BitVec w)} (h : IsAssembled k n l vs) :
    IsAssembled k (n + v.toNat * u) ((w, u) :: l) (⟨w, v⟩ :: vs)

/-- The bits that the operands of a layout take up. -/
def operandBits : List (Nat × Nat) → Nat
  | [] => 0
  | (w, u) :: l => operandBits l ||| (2 ^ w - 1) * u

/-- The units are powers of two, and no operand has a bit in common with another or with the fixed bits `k`. -/
def layoutFits (k : Nat) : List (Nat × Nat) → Bool
  | [] => true
  | (w, u) :: l => 2 ^ u.log2 == u && (k ||| operandBits l) &&& (2 ^ w - 1) * u == 0 && layoutFits k l

/-- Whether the operand whose lowest bit is bit `lo` has `len` bits. -/
def hasOperand (lo len : Nat) : List (Nat × Nat) → Bool
  | [] => false
  | (w, u) :: l => if u = 2 ^ lo then w == len else hasOperand lo len l

/-- The operand whose lowest bit is bit `lo`. -/
def operandAt (lo len : Nat) : List (Nat × Nat) → List (Σ w, BitVec w) → BitVec len
  | (_, u) :: l, ⟨_, v⟩ :: vs => if u = 2 ^ lo then v.setWidth len else operandAt lo len l vs
  | _, _ => 0

theorem layoutFits_cons {k w u : Nat} {l : List (Nat × Nat)} :
    layoutFits k ((w, u) :: l) = true ↔ 2 ^ u.log2 = u ∧ (k ||| operandBits l) &&& (2 ^ w - 1) * u = 0 ∧ layoutFits k l = true := by
  simp only [layoutFits, Bool.and_eq_true, beq_iff_eq, and_assoc]

theorem testBit_operand {w u : Nat} (v : BitVec w) (hu : 2 ^ u.log2 = u) (j : Nat) :
    (v.toNat * u).testBit j = (decide (u.log2 ≤ j) && v.getLsbD (j - u.log2)) := by
  rw [← hu, Nat.testBit_mul_two_pow, BitVec.testBit_toNat, hu]

theorem testBit_bits {w u : Nat} (hu : 2 ^ u.log2 = u) (j : Nat) :
    ((2 ^ w - 1) * u).testBit j = (decide (u.log2 ≤ j) && decide (j - u.log2 < w)) := by
  rw [← hu, Nat.testBit_mul_two_pow, Nat.testBit_two_pow_sub_one, hu]

/-- Outside of its own bits an operand is 0. -/
theorem testBit_operand_of_bits {w u : Nat} (v : BitVec w) (hu : 2 ^ u.log2 = u) {j : Nat} (hj : ((2 ^ w - 1) * u).testBit j = false) :
    (v.toNat * u).testBit j = false := by
  rw [testBit_bits hu, Bool.and_eq_false_imp] at hj
  rw [testBit_operand v hu, Bool.and_eq_false_imp]
  exact fun hle => BitVec.getLsbD_of_ge _ _ (not_lt.1 (of_decide_eq_false (hj hle)))

/-- Where one of two numbers without a common bit has a bit, the other has none. -/
theorem testBit_eq_false_of_and_eq_zero {x y j : Nat} (h : x &&& y = 0) (hy : y.testBit j = true) : x.testBit j = false := by
  simpa [hy] using congrArg (Nat.testBit · j) h

namespace IsAssembled

variable {k n : Nat} {l : List (Nat × Nat)} {vs : List (Σ w, BitVec w)}

theorem testBit_eq_false_of_fixed {w u j : Nat} (hk : ∀ i, (operandBits l).testBit i = false → n.testBit i = k.testBit i)
    (hd : (k ||| operandBits l) &&& (2 ^ w - 1) * u = 0) (hj : ((2 ^ w - 1) * u).testBit j = true) : n.testBit j = false := by
  have hor := testBit_eq_false_of_and_eq_zero hd hj
  rw [Nat.testBit_or, Bool.or_eq_false_iff] at hor
  rw [hk j hor.2, hor.1]

theorem add_eq_or {w u : Nat} (v : BitVec w) (hu : 2 ^ u.log2 = u) (hn : ∀ j, ((2 ^ w - 1) * u).testBit j = true → n.testBit j = false) :
    n + v.toNat * u = n ||| v.toNat * u := by
  refine add_eq_or_of_disjoint fun j hj => testBit_operand_of_bits v hu ?_
  by_contra hb
  exact Bool.false_ne_true ((hn j (eq_true_of_ne_false hb)).symm.trans hj)

/-- Outside of its operands a word has its fixed bits. -/
theorem testBit_fixed (hn : IsAssembled k n l vs) (h : layoutFits k l = true) {j : Nat} (hj : (operandBits l).testBit j = false) :
    n.testBit j = k.testBit j := by
  induction hn generalizing j with
  | fixed => rfl
  | @add n w u v l vs hn ih =>
    obtain ⟨hu, hd, hl⟩ := layoutFits_cons.1 h
    rw [operandBits, Nat.testBit_or, Bool.or_eq_false_iff] at hj
    rw [add_eq_or v hu fun i => testBit_eq_false_of_fixed (fun _ => ih hl) hd, Nat.testBit_or, ih hl hj.1, testBit_operand_of_bits v hu hj.2,
      Bool.or_false]

/-- A field without an operand reads as the fixed bits. -/
theorem fld_fixed (hn : IsAssembled k n l vs) (h : layoutFits k l = true) {lo len : Nat} (hf : fld (operandBits l) lo len = 0) :
    fld n lo len = fld k lo len := by
  refine Nat.eq_of_testBit_eq fun j => ?_
  have hj := congrArg (Nat.testBit · j) hf
  rw [testBit_fld, testBit_fld]
  by_cases hlt : j < len
  · rw [hn.testBit_fixed h (by simpa [hlt] using hj)]
  · simp [hlt]

/-- A field with a fixed bit that differs from a number is not that number. -/
theorem fld_ne (hn : IsAssembled k n l vs) (h : layoutFits k l = true) {lo len c : Nat}
    (hf : (fld k lo len ^^^ c) &&& fld (operandBits l) lo len ≠ fld k lo len ^^^ c) : fld n lo len ≠ c := by
  rintro rfl
  refine hf (Nat.eq_of_testBit_eq fun j => ?_)
  simp only [Nat.testBit_and, Nat.testBit_xor, testBit_fld]
  by_cases hlt : j < len
  · cases hb : (operandBits l).testBit (lo + j)
    · simp [hn.testBit_fixed h hb]
    · simp [hlt]
  · simp [hlt]

theorem hasOperand_cons {lo len w u : Nat} (h : hasOperand lo len ((w, u) :: l) = true) :
    (u = 2 ^ lo ∧ w = len) ∨ (u ≠ 2 ^ lo ∧ hasOperand lo len l = true) := by
  rw [hasOperand] at h
  split_ifs at h with hu
  · exact .inl ⟨hu, eq_of_beq h⟩
  · exact .inr ⟨hu, h⟩

theorem testBit_operandBits {lo len j : Nat} (h : layoutFits k l = true) (hv : hasOperand lo len l = true) (hj : j < len) :
    (operandBits l).testBit (lo + j) = true := by
  induction l with
  | nil => cases hv
  | cons o l ih =>
    obtain ⟨w, u⟩ := o
    obtain ⟨hu, -, hl⟩ := layoutFits_cons.1 h
    rw [operandBits, Nat.testBit_or]
    rcases hasOperand_cons hv with ⟨rfl, rfl⟩ | ⟨-, htail⟩
    · simp [testBit_bits hu, hj]
    · simp [ih hl htail]

/-- The field of an operand reads as its value. -/
theorem fld_operand (hn : IsAssembled k n l vs) (h : layoutFits k l = true) {lo len : Nat} (hv : hasOperand lo len l = true) :
    fld n lo len = (operandAt lo len l vs).toNat := by
  refine Nat.eq_of_testBit_eq fun j => ?_
  rw [testBit_fld, BitVec.testBit_toNat]
  by_cases hj : j < len
  · induction hn with
    | fixed => cases hv
    | @add n w u v l vs hn ih =>
      obtain ⟨hu, hd, hl⟩ := layoutFits_cons.1 h
      have hbits := fun i => testBit_eq_false_of_fixed (j := i) (fun _ => hn.testBit_fixed hl) hd
      rw [add_eq_or v hu hbits, Nat.testBit_or, operandAt]
      rcases hasOperand_cons hv with ⟨rfl, rfl⟩ | ⟨hne, htail⟩
      · rw [hbits _ (by simp [testBit_bits hu, hj]), testBit_operand v hu]
        simp [hj]
      · have hbit : ((2 ^ w - 1) * u).testBit (lo + j) = false :=
          testBit_eq_false_of_and_eq_zero (Nat.and_comm .. ▸ hd) (by simp [testBit_operandBits hl htail hj])
        rw [testBit_operand_of_bits v hu hbit, Bool.or_false, if_neg hne]
        exact ih hl htail
  · simp [hj, BitVec.getLsbD_of_ge _ _ (not_lt.1 hj)]

end IsAssembled

/-! ### Decoding what is assembled

A row's layout and fixed bits are closed terms, so what its fields read as is decided, and the decoder's comparisons rewrite to `True` or `False`. -/

/-- The field has no operand: it is fixed. -/
def isFixed (l : List (Nat × Nat)) (lo len : Nat) : Bool := Nat.ble (lo + len) 32 && fld (operandBits l) lo len == 0

/-- The field has a fixed bit that differs from `c`. -/
def isOther (k : Nat) (l : List (Nat × Nat)) (lo len c : Nat) : Bool :=
  Nat.ble (lo + len) 32 && (fld k lo len ^^^ c) &&& fld (operandBits l) lo len != fld k lo len ^^^ c

/-- What is known of the fields of a word with the fixed bits `k` and the operands `os`. -/
structure Fields (x : Word) (k : Nat) (l : List (Nat × Nat)) (vs : List (Σ w, BitVec w)) : Prop where
  fixed {lo len} : isFixed l lo len = true → fld x.toNat lo len = k / 2 ^ lo % 2 ^ len
  ne {lo len c} : isOther k l lo len c = true → (fld x.toNat lo len = c ↔ False)
  eq {lo len c} : (isFixed l lo len && fld k lo len == c) = true → (fld x.toNat lo len = c ↔ True)
  operand {lo len} : (Nat.ble (lo + len) 32 && hasOperand lo len l) = true → BitVec.ofNat len (fld x.toNat lo len) = operandAt lo len l vs

theorem Fields.of_assembled {n k : Nat} {l : List (Nat × Nat)} {vs : List (Σ w, BitVec w)} (hn : IsAssembled k n l vs) (h : layoutFits k l = true) :
    Fields (.ofNat 32 n) k l vs := by
  have hx {lo len : Nat} (h : Nat.ble (lo + len) 32 = true) : fld (BitVec.ofNat 32 n).toNat lo len = fld n lo len := by
    rw [BitVec.toNat_ofNat, fld_mod _ (Nat.le_of_ble_eq_true h)]
  constructor <;> simp only [isFixed, isOther, Bool.and_eq_true, beq_iff_eq, bne_iff_ne]
  · rintro lo len ⟨hle, hf⟩
    rw [hx hle, hn.fld_fixed h hf, fld]
  · rintro lo len c ⟨hle, hf⟩
    rw [hx hle, iff_false]
    exact hn.fld_ne h hf
  · rintro lo len c ⟨⟨hle, hf⟩, rfl⟩
    rw [hx hle, hn.fld_fixed h hf, iff_true]
  · rintro lo len ⟨hle, hv⟩
    rw [hx hle, hn.fld_operand h hv, BitVec.ofNat_toNat, BitVec.setWidth_eq]

/-- The decoders of the majors, in their order. -/
def majorDecoders : List (Nat → Except DecodeError Instr) :=
  [decodeMajor00, decodeMajor01, decodeMajor02, decodeMajor03, decodeMajor04, decodeMajor05, decodeMajor06, decodeMajor07, decodeMajor08,
    decodeMajor09, decodeMajor0A, decodeMajor0B, decodeMajor0C, decodeMajor0D, decodeMajor0E, decodeMajor0F, decodeMajor10, decodeMajor11,
    decodeMajor12, decodeMajor13, decodeMajor14, decodeMajor15, decodeMajor16, decodeMajor17, decodeMajor18, decodeMajor19, decodeMajor1A,
    decodeMajor1B, decodeMajor1C, decodeMajor1D, decodeMajor1E, decodeMajor1F, decodeMajor20, decodeMajor21, decodeMajor22, decodeMajor23,
    decodeMajor24, decodeMajor25, decodeMajor26, decodeMajor27, decodeMajor28, decodeMajor29, decodeMajor2A, decodeMajor2B, decodeMajor2C,
    decodeMajor2D, decodeMajor2E, decodeMajor2F, decodeMajor30, decodeMajor31, decodeMajor32, decodeMajor33, decodeMajor34, decodeMajor35,
    decodeMajor36, decodeMajor37, decodeMajor38, decodeMajor39, decodeMajor3A, decodeMajor3B, decodeMajor3C, decodeMajor3D, decodeMajor3E,
    decodeMajor3F]

theorem decodeWord_of_major {x : Word} {m : Nat} {f : Nat → Except DecodeError Instr} (hm : fld x.toNat 25 6 = m)
    (hf : majorDecoders[m]? = some f) : decodeWord x = f x.toNat := by
  have hlt : m < 64 := hm ▸ fld_lt x.toNat 25 6
  rw [decodeWord, hm]
  interval_cases m <;> exact congrFun (Option.some.inj hf) x.toNat

theorem decode_of_assembled {f : Word → Except DecodeError Instr} {i : Instr} {n k : Nat} {l : List (Nat × Nat)} {vs : List (Σ w, BitVec w)}
    (hn : IsAssembled k n l vs) (h : layoutFits k l = true) (hd : ∀ x : Word, Fields x k l vs → f x = .ok i) : f (.ofNat 32 n) = .ok i :=
  hd _ (.of_assembled hn h)

/-- Row by row: the encoder's sum gives the fixed bits and the layout, these the major and so its decoder, and each comparison that the decoder makes on
the way to the row is of a field that the fixed bits decide. -/
theorem decodeWord_encode {i : Instr} {w : Word} (hi : Machine.isDrill i = false) (hw : encode i = some w) : decodeWord w = .ok i := by
  cases i <;> cases hi <;> cases hw <;>
  · refine decode_of_assembled (by (repeat' apply IsAssembled.add); exact .fixed) (by decide) fun x hx => ?_
    rw [decodeWord_of_major (hx.fixed (by decide)) rfl]
    simp (disch := decide) only [hx.ne, hx.eq, hx.operand, if_true, if_false, false_and, and_false, true_and,
      decodeMajor00, decodeMajor01, decodeMajor02, decodeMajor03, decodeMajor04, decodeMajor05, decodeMajor06, decodeMajor07, decodeMajor08,
      decodeMajor09, decodeMajor0A, decodeMajor0B, decodeMajor0C, decodeMajor0D, decodeMajor0E, decodeMajor0F, decodeMajor10, decodeMajor11,
      decodeMajor12, decodeMajor13, decodeMajor14, decodeMajor15, decodeMajor16, decodeMajor17, decodeMajor18, decodeMajor19, decodeMajor1A,
      decodeMajor1B, decodeMajor1C, decodeMajor1D, decodeMajor1E, decodeMajor1F, decodeMajor20, decodeMajor21, decodeMajor22, decodeMajor23,
      decodeMajor24, decodeMajor25, decodeMajor26, decodeMajor27, decodeMajor28, decodeMajor29, decodeMajor2A, decodeMajor2B, decodeMajor2C,
      decodeMajor2D, decodeMajor2E, decodeMajor2F, decodeMajor30, decodeMajor31, decodeMajor32, decodeMajor33, decodeMajor34, decodeMajor35,
      decodeMajor36, decodeMajor37, decodeMajor38, decodeMajor39, decodeMajor3A, decodeMajor3B, decodeMajor3C, decodeMajor3D, decodeMajor3E,
      decodeMajor3F]
    <;> rfl

/-- The same for the drill's words, which have one decoder. -/
theorem decodeDrill_encode {i : Instr} {w : Word} (hi : Machine.isDrill i = true) (hw : encode i = some w) : decodeDrill w = .ok i := by
  cases i <;> cases hi <;> cases hw <;>
  · refine decode_of_assembled (by (repeat' apply IsAssembled.add); exact .fixed) (by decide) fun x hx => ?_
    simp (disch := decide) only [decodeDrill, hx.ne, hx.eq, hx.operand, if_true, if_false, and_false, true_and]
    <;> rfl

/-! ### Words put together again from their fields

The operands that a row of the decoder reads and the fields that it compares are together all the bits of the word but the chain bit. -/

/-- The operands `vs` are fields of `n`, at the places of the layout. -/
inductive AreFields (n : Nat) : List (Nat × Nat) → List (Σ w, BitVec w) → Prop
  | nil : AreFields n [] []
  | cons {lo w u : Nat} {l : List (Nat × Nat)} {vs : List (Σ w, BitVec w)} (hu : 2 ^ lo = u) (h : AreFields n l vs) :
    AreFields n ((w, u) :: l) (⟨w, .ofNat w (fld n lo w)⟩ :: vs)

/-- The fields that a row of the decoder compares, each with its lowest bit, its width and the number it is compared with. -/
abbrev Conditions := List (Nat × Nat × Nat)

/-- The bits that the conditions fix. -/
def conditionBits : Conditions → Nat
  | [] => 0
  | (lo, len, _) :: cs => conditionBits cs ||| (2 ^ len - 1) * 2 ^ lo

/-- The conditions hold of `n`. -/
def Meets (n : Nat) (cs : Conditions) : Prop := ∀ c ∈ cs, fld n c.1 c.2.1 = c.2.2

/-- Each of the low `t` bits is an operand's or is fixed by a condition, the fixed bits `k` meet the conditions, and they have no other bits. -/
def rowCovers (t k : Nat) (l : List (Nat × Nat)) (cs : Conditions) : Bool :=
  layoutFits k l && cs.all (fun c => fld k c.1 c.2.1 == c.2.2) && operandBits l ||| conditionBits cs == 2 ^ t - 1 && Nat.blt k (2 ^ t)

theorem rowCovers_iff {t k : Nat} {l : List (Nat × Nat)} {cs : Conditions} :
    rowCovers t k l cs = true ↔ layoutFits k l = true ∧ Meets k cs ∧ operandBits l ||| conditionBits cs = 2 ^ t - 1 ∧ k < 2 ^ t := by
  simp only [rowCovers, Meets, Bool.and_eq_true, List.all_eq_true, beq_iff_eq, Nat.blt_eq, and_assoc]

theorem Meets.cons {n lo len c : Nat} {cs : Conditions} (h : Meets n cs) (hc : fld n lo len = c) : Meets n ((lo, len, c) :: cs) :=
  List.forall_mem_cons.2 ⟨hc, h⟩

/-- Two numbers that meet the same conditions agree on the bits that the conditions fix. -/
theorem Meets.testBit_eq {n k j : Nat} {cs : Conditions} (hn : Meets n cs) (hk : Meets k cs) (hj : (conditionBits cs).testBit j = true) :
    n.testBit j = k.testBit j := by
  induction cs with
  | nil => simp [conditionBits] at hj
  | cons c cs ih =>
    obtain ⟨lo, len, v⟩ := c
    obtain ⟨hnc, hncs⟩ := List.forall_mem_cons.1 hn
    obtain ⟨hkc, hkcs⟩ := List.forall_mem_cons.1 hk
    rw [conditionBits, Nat.testBit_or, Bool.or_eq_true] at hj
    rcases hj with hj | hj
    · exact ih hncs hkcs hj
    · rw [Nat.testBit_mul_two_pow, Nat.testBit_two_pow_sub_one] at hj
      have hbit := congrArg (Nat.testBit · (j - lo)) (hnc.trans hkc.symm)
      simp only [Bool.and_eq_true, decide_eq_true_eq] at hj
      simpa [hj.2, Nat.add_sub_cancel' hj.1] using hbit

/-- On its operands' bits, a word put together from the fields of `n` is `n`. -/
theorem AreFields.testBit_eq {n k m j : Nat} {l : List (Nat × Nat)} {vs : List (Σ w, BitVec w)} (hvs : AreFields n l vs)
    (hm : IsAssembled k m l vs) (h : layoutFits k l = true) (hj : (operandBits l).testBit j = true) : m.testBit j = n.testBit j := by
  induction hvs generalizing m with
  | nil => simp [operandBits] at hj
  | @cons lo w u l vs hlo hvs ih =>
    cases hm with | @add m _ _ _ _ _ hm =>
    obtain ⟨hu, hd, hl⟩ := layoutFits_cons.1 h
    have hbits := fun i => IsAssembled.testBit_eq_false_of_fixed (j := i) (fun _ => hm.testBit_fixed hl) hd
    rw [IsAssembled.add_eq_or _ hu hbits, Nat.testBit_or]
    cases hb : ((2 ^ w - 1) * u).testBit j
    · rw [testBit_operand_of_bits _ hu hb, Bool.or_false]
      refine ih hm hl ?_
      rwa [operandBits, Nat.testBit_or, hb, Bool.or_false] at hj
    · rw [hbits j hb, Bool.false_or, testBit_operand _ hu]
      rw [testBit_bits hu, Bool.and_eq_true, decide_eq_true_eq, decide_eq_true_eq] at hb
      subst hlo
      rw [Nat.log2_two_pow] at hb ⊢
      rw [BitVec.getLsbD_ofNat, testBit_fld, Nat.add_sub_cancel' hb.1]
      simp [hb]

/-- A word put together from the fields of a number that meets the row's conditions is that number. -/
theorem eq_mod_of_rowCovers {n k m t : Nat} {l : List (Nat × Nat)} {vs : List (Σ w, BitVec w)} {cs : Conditions} (hm : IsAssembled k m l vs)
    (hvs : AreFields n l vs) (hc : Meets n cs) (h : rowCovers t k l cs = true) : m = n % 2 ^ t := by
  obtain ⟨hfit, hk, hcover, hlt⟩ := rowCovers_iff.1 h
  refine Nat.eq_of_testBit_eq fun j => ?_
  have hj := congrArg (Nat.testBit · j) hcover
  simp only [Nat.testBit_or, Nat.testBit_two_pow_sub_one] at hj
  rw [Nat.testBit_mod_two_pow]
  cases ho : (operandBits l).testBit j
  · rw [hm.testBit_fixed hfit ho]
    rw [ho, Bool.false_or] at hj
    by_cases hjt : j < t
    · rw [hc.testBit_eq hk (by simpa [hjt] using hj)]
      simp [hjt]
    · rw [Nat.testBit_lt_two_pow (hlt.trans_le (Nat.pow_le_pow_right Nat.two_pos (not_lt.1 hjt)))]
      simp [hjt]
  · rw [hvs.testBit_eq hm hfit ho]
    rw [ho, Bool.true_or] at hj
    simp [← hj]

/-- What a decoder answers for `n`, once `n` meets the conditions, encodes to the low `t` bits of `n`. -/
def EncodesTo (t n : Nat) (cs : Conditions) (r : Except DecodeError Instr) : Prop :=
  Meets n cs → ∀ i, r = .ok i → encode i = some (.ofNat 32 (n % 2 ^ t))

namespace EncodesTo

variable {t n lo len c lo' len' c' lo'' len'' c'' : Nat} {cs : Conditions} {a b : Except DecodeError Instr}

theorem error {e : DecodeError} : EncodesTo t n cs (.error e) := fun _ _ h => nomatch h

theorem ok {i : Instr} {m k : Nat} {l : List (Nat × Nat)} {vs : List (Σ w, BitVec w)} (hi : encode i = some (.ofNat 32 m))
    (hm : IsAssembled k m l vs) (hvs : AreFields n l vs) (h : rowCovers t k l cs = true) : EncodesTo t n cs (.ok i) := by
  rintro hc _ ⟨⟩
  rw [hi, eq_mod_of_rowCovers hm hvs hc h]

theorem ite_any {p : Prop} [Decidable p] (ha : EncodesTo t n cs a) (hb : EncodesTo t n cs b) : EncodesTo t n cs (if p then a else b) := by
  split
  · exact ha
  · exact hb

theorem ite [Decidable (fld n lo len = c)] (ha : EncodesTo t n ((lo, len, c) :: cs) a) (hb : EncodesTo t n cs b) :
    EncodesTo t n cs (if fld n lo len = c then a else b) := by
  split
  · exact fun hc => ha (hc.cons ‹_›)
  · exact hb

theorem ite_and [Decidable (fld n lo len = c ∧ fld n lo' len' = c')] (ha : EncodesTo t n ((lo, len, c) :: (lo', len', c') :: cs) a)
    (hb : EncodesTo t n cs b) : EncodesTo t n cs (if fld n lo len = c ∧ fld n lo' len' = c' then a else b) := by
  split
  next h => exact fun hc => ha ((hc.cons h.2).cons h.1)
  · exact hb

theorem ite_and_and [Decidable (fld n lo len = c ∧ fld n lo' len' = c' ∧ fld n lo'' len'' = c'')]
    (ha : EncodesTo t n ((lo, len, c) :: (lo', len', c') :: (lo'', len'', c'') :: cs) a)
    (hb : EncodesTo t n cs b) : EncodesTo t n cs (if fld n lo len = c ∧ fld n lo' len' = c' ∧ fld n lo'' len'' = c'' then a else b) := by
  split
  next h => exact fun hc => ha (((hc.cons h.2.2).cons h.2.1).cons h.1)
  · exact hb

end EncodesTo

/-- Down each row's path through the comparisons: where it answers, what it compared and read is the whole word. -/
theorem encodesTo_decodeDrill (w : Word) : EncodesTo 32 w.toNat [] (decodeDrill w) := by
  unfold decodeDrill
  repeat' first | exact .error | apply EncodesTo.ite | apply EncodesTo.ite_and | apply EncodesTo.ite_and_and | apply EncodesTo.ite_any
  all_goals
    exact .ok rfl (by (repeat' apply IsAssembled.add); exact .fixed) (by (repeat' apply AreFields.cons (by decide)); exact .nil) (by decide)

/-- The low bits of a word that its encoding keeps: all but the chain bit, and the chain bit too for PFX and LIM. -/
def encodedBits (m : Nat) : Nat := if m < 0x3E then 31 else 32

/-- The same for each major's decoder, which is asked once the major is known. -/
theorem encodesTo_majorDecoders {n m : Nat} {f : Nat → Except DecodeError Instr} (hf : majorDecoders[m]? = some f) :
    EncodesTo (encodedBits m) n [(25, 6, m)] (f n) := by
  have hm : m < 64 := (List.getElem?_eq_some_iff.1 hf).1
  interval_cases m <;> cases hf
  all_goals
    repeat' first | exact .error | apply EncodesTo.ite | apply EncodesTo.ite_and | apply EncodesTo.ite_and_and | apply EncodesTo.ite_any
  all_goals
    exact .ok rfl (by (repeat' apply IsAssembled.add); exact .fixed) (by (repeat' apply AreFields.cons (by decide)); exact .nil) (by decide)

theorem ofNat_mod_encodedBits (w : Word) : BitVec.ofNat 32 (w.toNat % 2 ^ encodedBits (majorOf w)) =
    if majorOf w = 0x3E ∨ majorOf w = 0x3F then w else w &&& 0x7FFFFFFF := by
  have hlt : majorOf w < 64 := fld_lt w.toNat 25 6
  unfold encodedBits
  split_ifs
  · omega
  · refine BitVec.eq_of_getLsbD_eq fun j hj => ?_
    rw [BitVec.getLsbD_ofNat, Nat.testBit_mod_two_pow, BitVec.testBit_toNat, BitVec.getLsbD_and, Bool.and_comm]
    interval_cases j <;> simp
  · rw [Nat.mod_eq_of_lt w.isLt, BitVec.ofNat_toNat, BitVec.setWidth_eq]
  · omega

theorem encode_of_decodeWord {w : Word} {i : Instr} (h : decodeWord w = .ok i) :
    encode i = some (if majorOf w = 0x3E ∨ majorOf w = 0x3F then w else w &&& 0x7FFFFFFF) := by
  have hlt : majorOf w < majorDecoders.length := fld_lt w.toNat 25 6
  have hf := List.getElem?_eq_getElem hlt
  rw [decodeWord_of_major rfl hf] at h
  rw [← ofNat_mod_encodedBits]
  exact encodesTo_majorDecoders hf (List.forall_mem_singleton.2 rfl) i h

theorem encode_of_decodeDrill {w : Word} {i : Instr} (h : decodeDrill w = .ok i) : encode i = some w := by
  rw [encodesTo_decodeDrill w (List.forall_mem_nil _) i h, Nat.mod_eq_of_lt w.isLt, BitVec.ofNat_toNat, BitVec.setWidth_eq]

/-- Settles O20: each row's bits are its fixed bits and its operands', so the fields of an encoded word read as the operands, and the fields that a
decoder compares, with those it reads, are all the bits of the word but the chain bit. -/
theorem encodeDecode : Obligations.EncodeDecode := by
  refine ⟨fun i w _ hw => ?_, fun w i => encode_of_decodeWord, fun w i => encode_of_decodeDrill⟩
  cases hi : Machine.isDrill i
  · exact decodeWord_encode hi hw
  · exact decodeDrill_encode hi hw

/-- Settles O19: each word is a number and its decoder computes. -/
theorem decodedWords : Obligations.DecodedWords := by
  constructor <;> simp only [List.forall_mem_cons]
  · exact ⟨rfl, rfl, rfl, rfl, rfl, rfl, rfl, rfl, rfl, rfl, rfl, rfl, rfl, rfl, rfl, rfl, rfl, rfl, rfl, rfl, List.forall_mem_nil _⟩
  · exact ⟨rfl, rfl, rfl, List.forall_mem_nil _⟩

end Sys2Proof
end

section
/-! Immediates, branches, jumps and calls (02 R57 to R59, 05 R135, R136, R138). -/

namespace Sys2Proof.Machine

/-! ### Immediates -/

theorem imm32_of_lim_none {s : State} (h : s.iss.lim = none) (n : Nat) (low : BitVec n) : imm32 s n low = low.signExtend 32 := by
  simp only [imm32, limOver, h]

theorem imm32_of_lim {s : State} {x : BitVec 25} (h : s.iss.lim = some (.lim x)) (n : Nat) (low : BitVec n) :
    imm32 s n low = .ofNat 32 (2 ^ n * x.toNat + low.toNat) := by
  simp only [imm32, limOver, h, Nat.mul_comm]

/-- Settles O4: a field below 2^n and the LIM's bits times 2^n do not overlap. -/
theorem immediateForms : Obligations.ImmediateForms := by
  unfold Obligations.ImmediateForms
  refine fun s n low _ _ => ⟨fun h => imm32_of_lim_none h n low, fun x h j hj => ?_⟩
  rw [imm32_of_lim h, BitVec.getLsbD_ofNat, Nat.testBit_two_pow_mul_add _ low.isLt, decide_eq_true hj, Bool.true_and, BitVec.testBit_toNat,
    BitVec.testBit_toNat]

/-! ### Transfers -/

/-- A packet of the code, for a number that may be negative (05 R138). -/
theorem insideCode_toNat_iff (f : Furrow) (q : Int) : (0 ≤ q ∧ insideCode f q.toNat = true) ↔ 0 ≤ q ∧ 12 * q + 12 ≤ f.csize.toNat := by
  rw [insideCode, decide_eq_true_iff]
  omega

section

variable {s : State} {q : Int} (h : 0 ≤ q ∧ 12 * q + 12 ≤ s.pre.csize.toNat) (out : ¬ (0 ≤ q ∧ 12 * q + 12 ≤ s.pre.csize.toNat))

include h in
theorem transfer_inside (k : State → State) : transfer s q k = k s := if_pos ((insideCode_toNat_iff s.pre q).2 h)

include out in
theorem transfer_outside (k : State → State) : transfer s q k = raise s 0x06 (.ofInt 32 q) := if_neg (mt (insideCode_toNat_iff s.pre q).1 out)

include h in
theorem goto_inside : goto s q = { s with iss := { s.iss with ctl := .goto (.ofInt 32 q) 0 } } := transfer_inside h _

include out in
theorem goto_outside : goto s q = raise s 0x06 (.ofInt 32 q) := transfer_outside out _

include h in
/-- A call links the packet after its own (05 R136). -/
theorem callTo_inside (d : BitVec 7) : callTo s d q =
    { s with iss := { s.iss with ctl := .goto (.ofInt 32 q) 0 }, cur := s.cur.sset d.toNat (s.iss.pkt + 1) } := transfer_inside h _

include out in
theorem callTo_outside (d : BitVec 7) : callTo s d q = raise s 0x06 (.ofInt 32 q) := transfer_outside out _

end

/-! ### The members -/

/-- The conditions of `br`, in the order of their numbers (02 R58). -/
theorem brHolds_iff {k : Nat} (hk : k ≤ 6) (w : Word) : brHolds k w = true ↔
    [True, w.toInt = 0, w.toInt ≠ 0, w.toInt < 0, 0 ≤ w.toInt, 0 < w.toInt, w.toInt ≤ 0].getD k False := by
  have zero : w = 0#32 ↔ w.toInt = 0 := BitVec.toInt_inj.symm
  interval_cases k <;> simp [brHolds, zero]

theorem exec_br {s : State} {r : BitVec 7} (h : Ready s [.s 3 r]) (k : BitVec 4) (o : BitVec 14) :
    exec (.br k r o) s = .next (if brHolds k.toNat (S s r) then goto s (branchTarget s o) else s) :=
  congrArg _ (guarded_whole h (all_whole_s 3 r) _)

theorem exec_jmp {s : State} {a : BitVec 7} (h : Ready s [.s 0 a]) : exec (.jmp a) s = .next (goto s (S s a).toNat) :=
  congrArg _ (guarded_whole h (all_whole_s 0 a) _)

theorem exec_call {s : State} {r : BitVec 7} (h : Ready s [.ds r]) (o : BitVec 14) : exec (.call r o) s = .next (callTo s r (branchTarget s o)) :=
  congrArg _ (guarded_whole h rfl _)

theorem exec_callr {s : State} {d a : BitVec 7} (h : Ready s [.s 0 a, .ds d]) : exec (.callr d a) s = .next (callTo s d (S s a).toNat) :=
  congrArg _ (guarded_whole h (by simp [Opd.whole, Opd.s, Opd.ds]) _)

/-- Settles O33: each member that passes its checks makes one transfer, which the target's place in the code decides. -/
theorem transfers : Obligations.Transfers := by
  unfold Obligations.Transfers
  intro s inside to_ off
  refine ⟨fun k r o h hk => ?_, fun a h => ?_, fun r o h => ?_, fun d a h => ?_⟩
  · intro x c
    have cond : brHolds k.toNat (S s r) = true ↔ c := brHolds_iff hk _
    refine ⟨fun hc => ?_, fun hc hq => ?_, fun hc hq => ?_⟩ <;> rw [exec_br h]
    · rw [if_neg (mt cond.1 hc)]
    · rw [if_pos (cond.2 hc)]
      exact congrArg _ (goto_inside hq)
    · rw [if_pos (cond.2 hc)]
      exact congrArg _ (goto_outside hq)
  · intro q
    exact ⟨fun hq => (exec_jmp h).trans (congrArg _ (goto_inside hq)), fun hq => (exec_jmp h).trans (congrArg _ (goto_outside hq))⟩
  · exact ⟨fun hq => (exec_call h o).trans (congrArg _ (callTo_inside hq r)), fun hq => (exec_call h o).trans (congrArg _ (callTo_outside hq r))⟩
  · intro q
    exact ⟨fun hq => (exec_callr h).trans (congrArg _ (callTo_inside hq d)), fun hq => (exec_callr h).trans (congrArg _ (callTo_outside hq d))⟩

end Sys2Proof.Machine
end

section
/-! No instruction stops the device: every meaning answers a next state, and so do the members of a group, its issue, and each unit's step. A step
answers none only when nothing is in line and no unit has anything to do. -/

namespace Sys2Proof.Machine

/-- The result is a next state. -/
def Answers (r : Result) : Prop := ∃ t, r = .next t

theorem answers_next (t : State) : Answers (.next t) := ⟨t, rfl⟩

theorem Answers.andThen {r : Result} (h : Answers r) (k : State → State) : Answers (andThen r k) := by
  obtain ⟨t, rfl⟩ := h
  exact answers_next _

/-! ### Instructions and events -/

/-- An instruction's meaning is a next state, whatever it finds; an event's is one whether or not it finds what it is about. -/
theorem exec_answers (i : Instr) (s : State) : Answers (exec i s) := by
  cases i
  case plotAdmit | loadComplete | storeComplete | atomicComplete | l1Fill | homeRead | homeRenewal | homeStore | exclusiveGrant | barrierArrival |
      barrierWake | barrierReread | waitwWake | waitwPoll | messageArrival | scopeInstall | copyCommandEnd | matrixOpComplete | keyRequest |
      leafHandover | kbalDrain | launchSignal | plotSave | sheafRecordOffer | sheafTimerExpire | remoteTimeout | grantExpiry |
      senderSilenceTimeout | deferResend | tileTransferComplete =>
    all_goals
      dsimp only [exec, execPlotAdmit, execLoadComplete, execStoreComplete, execAtomicComplete, execL1Fill, execHomeRead, execHomeRenewal,
        execHomeStore, execExclusiveGrant, execBarrierArrival, execBarrierWake, execBarrierReread, execWaitwWake, execWaitwPoll,
        execMessageArrival, execScopeInstall, execCopyCommandEnd, execMatrixOpComplete, execKeyRequest, execLeafHandover, execKbalDrain,
        execLaunchSignal, execPlotSave, execSheafRecordOffer, execSheafTimerExpire, execRemoteTimeout, execGrantExpiry,
        execSenderSilenceTimeout, execDeferResend, execTileTransferComplete]
      repeat' split
    all_goals exact answers_next _
  all_goals exact answers_next _

/-! ### Groups -/

/-- A result that goes on with an instruction. -/
def thenRun (ex : Exec) (i : Instr) : Result → Result
  | .next s => ex i s
  | r => r

/-- A result that goes on with an attached word, if there is one. -/
def thenAttach (ex : Exec) (a : Option Instr) (r : Result) : Result := a.elim r fun i => thenRun ex i r

/-- A member's PFX, its LIM and the member itself, one after another (02 R53). -/
theorem runMember_eq (ex : Exec) (m : Member) (s : State) : runMember ex m s = thenRun ex m.instr (thenAttach ex m.lim (thenAttach ex m.pfx
    (.next { s with iss := { s.iss with slot := m.slot, word := m.word, pfx := none, lim := none } }))) := by
  have attach (a : Option Instr) (r : Result) : (match a, r with
      | some i, .next s => ex i s
      | _, r => r) = thenAttach ex a r := by
    cases a <;> cases r <;> rfl
  unfold runMember
  simp only [← attach]
  rfl

/-! ### Turns -/

/-- A tried group's result, or the turn of the other entries when the group waits at issue (log entry 65). -/
def orOthers (ex : Exec) (fk n : Nat) (skip : List Nat) (s : State) (f : Furrow) : Result → Result
  | .next t => if t.iss.stall = .wait then issueTurns ex fk n skip { s with tick := t.tick, iss := t.iss } f else .next t
  | r => r

section

variable {f g : Furrow} {skip : List Nat} {id : Nat} (ex : Exec) (fk n : Nat) (s : State)

theorem issueTurns_none (h : chooseEntry f skip = (g, none)) : issueTurns ex fk (n + 1) skip s f = .next (keepFurrow s fk g) := by
  simp only [issueTurns, h]

variable (h : chooseEntry f skip = (g, some id))

include h

theorem issueTurns_held {x : Held} (hh : tfind s.held (heldKey fk id) = some x) :
    issueTurns ex fk (n + 1) skip s f = orOthers ex fk n (id :: skip) s f (resumeGroup ex s fk id (makeResident g id) x) := by
  simp only [issueTurns, h, hh]
  rfl

variable (hh : tfind s.held (heldKey fk id) = none)

include hh

theorem issueTurns_stop {t : State} (ha : ahead fk id 3 s (makeResident g id) = .stop t) : issueTurns ex fk (n + 1) skip s f = .next t := by
  simp only [issueTurns, h, hh, ha]

theorem issueTurns_boundary {e : Furrow} {t : State} (ha : ahead fk id 3 s (makeResident g id) = .boundary e t) :
    issueTurns ex fk (n + 1) skip s f = issueTurns ex fk n skip t (sameLag f e) := by
  simp only [issueTurns, h, hh, ha]

theorem issueTurns_group {e : Furrow} {ws : List Word} {t : State} (ha : ahead fk id 3 s (makeResident g id) = .group e ws t) :
    issueTurns ex fk (n + 1) skip s f = orOthers ex fk n (id :: skip) s f (issueGroup ex t fk id e ws) := by
  simp only [issueTurns, h, hh, ha]
  rfl

end

section

variable {ex : Exec} (hex : ∀ i s, Answers (ex i s))

include hex

theorem Answers.thenRun {r : Result} (h : Answers r) (i : Instr) : Answers (thenRun ex i r) := by
  obtain ⟨t, rfl⟩ := h
  exact hex i t

theorem Answers.thenAttach {r : Result} (h : Answers r) (a : Option Instr) : Answers (thenAttach ex a r) := by
  cases a
  · exact h
  · exact h.thenRun hex _

theorem runMember_answers (m : Member) (s : State) : Answers (runMember ex m s) := by
  rw [runMember_eq]
  exact (((answers_next _).thenAttach hex _).thenAttach hex _).thenRun hex _

theorem runAbove_answers (ms : List Member) (s : State) : Answers (runAbove ex ms s) := by
  induction ms generalizing s with
  | nil => exact answers_next s
  | cons m ms ih =>
    obtain ⟨t, ht⟩ := runMember_answers hex m s
    simp only [runAbove, ht]
    split
    · exact answers_next _
    · split
      · exact answers_next _
      · exact ih _

theorem runMembers_answers (ms : List Member) (s : State) : Answers (runMembers ex ms s) := by
  induction ms generalizing s with
  | nil => exact answers_next s
  | cons m ms ih =>
    obtain ⟨t, ht⟩ := runMember_answers hex m s
    simp only [runMembers, ht]
    split
    · exact answers_next _
    · split
      · exact runAbove_answers hex _ _
      · exact ih _

theorem runGroup_answers (s : State) (fk id : Nat) (f : Furrow) (ws : List Word) : Answers (runGroup ex s fk id f ws) := by
  simp only [runGroup]
  split
  · exact (answers_next _).andThen _
  · split
    · exact answers_next _
    · exact (runMembers_answers hex _ _).andThen _

theorem issueGroup_answers (s : State) (fk id : Nat) (f : Furrow) (ws : List Word) : Answers (issueGroup ex s fk id f ws) := by
  unfold issueGroup
  split
  · exact answers_next _
  · exact runGroup_answers hex ..

theorem resumeGroup_answers (s : State) (fk id : Nat) (f : Furrow) (h : Held) : Answers (resumeGroup ex s fk id f h) :=
  (runMembers_answers hex _ _).andThen _

omit hex in
theorem Answers.orOthers {fk n : Nat} {skip : List Nat} {s : State} {f : Furrow} {r : Result} (h : Answers r)
    (ih : ∀ t, Answers (issueTurns ex fk n skip t f)) : Answers (orOthers ex fk n skip s f r) := by
  obtain ⟨t, rfl⟩ := h
  simp only [Machine.orOthers]
  split
  · exact ih _
  · exact answers_next _

theorem issueTurns_answers (n fk : Nat) (skip : List Nat) (s : State) (f : Furrow) : Answers (issueTurns ex fk n skip s f) := by
  induction n generalizing skip s f with
  | zero => exact answers_next _
  | succ n ih =>
    rcases hc : chooseEntry f skip with ⟨g, _ | id⟩
    · rw [issueTurns_none ex fk n s hc]
      exact answers_next _
    · cases hh : tfind s.held (heldKey fk id) with
      | some h =>
        rw [issueTurns_held ex fk n s hc hh]
        exact (resumeGroup_answers hex ..).orOthers fun t => ih ..
      | none =>
        cases ha : ahead fk id 3 s (makeResident g id) with
        | stop t =>
          rw [issueTurns_stop ex fk n s hc hh ha]
          exact answers_next t
        | boundary e t =>
          rw [issueTurns_boundary ex fk n s hc hh ha]
          exact ih ..
        | group e ws t =>
          rw [issueTurns_group ex fk n s hc hh ha]
          exact (issueGroup_answers hex ..).orOthers fun t => ih ..

theorem issueFurrow_answers (fk : Nat) (s : State) : Answers (issueFurrow ex fk s) := by
  unfold issueFurrow
  split
  · exact answers_next _
  · exact issueTurns_answers hex ..

end

/-! ### The units -/

theorem runHome_answers (op line : Nat) (s : State) : Answers (runHome op line s) := by
  unfold runHome
  repeat' split
  · exact answers_next s
  · exact exec_answers (.homeRenewal op line) s
  · exact exec_answers (.homeRead op line) s
  · exact exec_answers (.homeStore op line) s
  · exact exec_answers (.exclusiveGrant op line) s
  · exact exec_answers (.homeRead op line) s

theorem runParked_answers (s : State) (o : Op) : Answers (runParked s o) := by
  unfold runParked
  split
  · exact answers_next s
  next id _ =>
    split
    · exact exec_answers (.barrierWake o.furrow id) s
    · exact exec_answers (.barrierReread o.furrow id) s
    · exact exec_answers (.waitwWake o.furrow id) s
    · exact exec_answers (.waitwPoll o.furrow id) s

theorem runOp_answers (op : Nat) (s : State) : Answers (runOp op s) := by
  unfold runOp
  cases s.op op with
  | none => exact answers_next s
  | some o =>
    dsimp only
    split
    · exact exec_answers (.retireResend op) s
    split
    · exact runParked_answers s o
    · cases o.kind with
      | load => exact exec_answers (.loadComplete op) s
      | store => exact exec_answers (.storeComplete op) s
      | atomic => exact exec_answers (.atomicComplete op) s
      | arrival =>
        dsimp only
        split_ifs
        · exact answers_next _
        · exact exec_answers (.barrierArrival op) s
      | scopeset => exact exec_answers (.scopeInstall op) s
      | message => exact exec_answers (.messageArrival op) s
      | emit => exact exec_answers (.sheafRecordOffer op) s
      | key => exact exec_answers (.keyRequest op) s
      | tile => exact exec_answers (.tileTransferComplete op) s
      | matrix => exact exec_answers (.matrixOpComplete op) s
      | _ => exact answers_next _

theorem run_answers (s : State) (t : Todo) : Answers (run exec s t) := by
  cases t with
  | issue k => exact issueFurrow_answers exec_answers k s
  | op o => exact runOp_answers o s
  | home o line => exact runHome_answers o line s
  | drill q =>
    simp only [run]
    split_ifs
    · exact exec_answers _ _
    · exact exec_answers (.drillPacketStart q) _
  | fill c line => exact exec_answers (.l1Fill c line) s
  | copyEnd c => exact exec_answers (.copyCommandEnd c) s
  | handOver ctx acre c key => exact exec_answers (.leafHandover ctx acre c key) s
  | drain ctx acre => exact exec_answers (.kbalDrain ctx acre) s
  | signal l => exact exec_answers (.launchSignal l) s
  | admission p => exact exec_answers (.plotAdmit p) s
  | savePlot p => exact exec_answers (.plotSave p) s
  | _ => exact answers_next _

/-- Of something, something is chosen. -/
theorem eq_nil_of_choose_eq_none {s : State} {ts : List Todo} (h : choose s ts = none) : ts = [] := by
  by_contra hne
  have hlt (n : Nat) : n % ts.length < ts.length := Nat.mod_lt n (List.length_pos_of_ne_nil hne)
  unfold choose at h
  split at h
  · exact hne rfl
  · cases h
  · simp [hlt] at h

/-! ### A step -/

theorem step_input {s : State} {e : Instr} {rest : List Instr} (h : s.agenda = e :: rest) :
    step s = if isInput e = true ∧ hears s e = true then exec e { s with agenda := rest } else .next { s with agenda := rest } := by
  simp only [step, turn, h, Bool.and_eq_true]

theorem step_upset {s : State} {u : Upset} {rest : List Upset} (ha : s.agenda = []) (h : s.upsets = u :: rest) :
    step s = .next (upset { s with upsets := rest } u) := by
  simp only [step, turn, ha, h]

section

variable {s : State} (ha : s.agenda = []) (hu : s.upsets = [])

include ha hu

theorem step_chosen {t : Todo} {s' : State} (h : choose s (todos s) = some (t, s')) : step s = run exec s' t := by
  simp only [step, turn, ha, hu, h]

theorem step_idle (h : choose s (todos s) = none) : step s = .fault .idle := by
  simp only [step, turn, ha, hu, h]

end

/-- Settles O22: every meaning answers, and a step that answers nothing has found nothing in line and nothing to do. -/
theorem neverRefuses : Obligations.NeverRefuses := by
  unfold Obligations.NeverRefuses
  refine ⟨exec_answers, fun s => ?_⟩
  cases ha : s.agenda with
  | cons e rest =>
    rw [step_input ha]
    split_ifs
    · exact .inl (exec_answers _ _)
    · exact .inl (answers_next _)
  | nil =>
    cases hu : s.upsets with
    | cons u rest =>
      rw [step_upset ha hu]
      exact .inl (answers_next _)
    | nil =>
      cases hc : choose s (todos s) with
      | none => exact .inr ⟨step_idle ha hu hc, rfl, rfl, eq_nil_of_choose_eq_none hc⟩
      | some c =>
        rw [step_chosen ha hu hc]
        exact .inl (run_answers _ _)

end Sys2Proof.Machine
end

section
/-! The issue of one group (02 R38, R40 to R47): the state of the issuing entry's group is kept by everything that ends a group, a group of one word
decodes to its one member, and the turn of a furrow with a group to issue runs it. -/

namespace Sys2Proof.Machine

/-! ### The group's own state does not change when it ends -/

@[simp] theorem addWalks_iss (s : State) (die ctx va : Nat) : (addWalks s die ctx va).iss = s.iss := by
  unfold addWalks
  dsimp only
  split <;> rfl

@[simp] theorem useLeaf_iss (s : State) (ag : Agent) (need : Need) (pte leafAt base bits : Nat) : (useLeaf s ag need pte leafAt base bits).iss = s.iss := by
  have marked : (markLeaf (addWalks (walkReads s ag.die ag.ctx base) ag.die ag.ctx base) leafAt need).iss = s.iss := by
    rw [(homeStep_markLeaf _ _ _).1.iss, addWalks_iss, (homeStep_walkReads _ _ _ _).1.iss]
  unfold useLeaf
  dsimp only
  generalize markLeaf (addWalks (walkReads s ag.die ag.ctx base) ag.die ag.ctx base) leafAt need = u at marked ⊢
  split
  · split <;> exact marked
  · exact marked

@[simp] theorem usePlace_iss (s : State) (ag : Agent) (need : Need) (p : Place) : (usePlace s ag need p).iss = s.iss := by
  unfold usePlace
  split
  · exact useLeaf_iss ..
  · exact useLeaf_iss ..
  · exact useLeaf_iss ..
  · rfl

@[simp] theorem spanUse_iss (ag : Agent) (need : Need) (fuel : Nat) (s : State) (va n : Nat) : (spanUse s ag need va fuel n).iss = s.iss := by
  induction fuel generalizing s va n with
  | zero => rfl
  | succ fuel ih =>
    cases n with
    | zero => rfl
    | succ n =>
      simp only [spanUse, ih]
      split
      · exact (homeStep_walkReads ..).1.iss
      · exact usePlace_iss ..

theorem frontWrite_iss {s t : State} {q va : Nat} {bs : List Byte} (h : frontWrite s q va bs = some t) : t.iss = s.iss := by
  unfold frontWrite at h
  obtain ⟨l, -, rfl⟩ := Option.map_eq_some_iff.1 h
  exact (homeStep_putSpan ..).1.iss.trans (spanUse_iss ..)

theorem queueRecordNow_iss {s t : State} {q : Nat} {bs : List Byte} (h : queueRecordNow s q bs = .done t) : t.iss = s.iss := by
  unfold queueRecordNow at h
  dsimp only at h
  split at h
  · cases h; rfl
  · split at h
    · cases h; rfl
    · split at h
      · cases h
      · split at h
        · cases h; rfl
        next u hu =>
          cases h
          obtain ⟨v, hv, hv'⟩ := Option.bind_eq_some_iff.1 hu
          exact (frontWrite_iss hv').trans (frontWrite_iss hv)

@[simp] theorem queueRecord_iss (s : State) (q : Nat) (bs : List Byte) : (queueRecord s q bs).iss = s.iss := by
  unfold queueRecord
  split
  · rfl
  · split
    next h => exact queueRecordNow_iss h
    · rfl

@[simp] theorem reportRecord_iss (s : State) (f : Furrow) (kind : Nat) (cause : Option (BitVec 6)) (epc info : Option Word) (aux : Option Nat) :
    (reportRecord s f kind cause epc info aux).iss = s.iss := queueRecord_iss ..

/-- A change of every member of a list, each of which keeps the group's state. -/
theorem foldl_iss {γ : Type} {k : State → γ → State} (hk : ∀ s x, (k s x).iss = s.iss) (l : List γ) (s : State) : (l.foldl k s).iss = s.iss := by
  induction l generalizing s with
  | nil => rfl
  | cons x l ih => exact (ih _).trans (hk s x)

@[simp] theorem stopPlot_iss (s : State) (p : Nat) : (stopPlot s p).iss = s.iss :=
  foldl_iss (k := fun s k => s.modFurrow k fun f => { f with stopped := true }) (fun _ _ => rfl) _ s

@[simp] theorem haltUnit_iss (s : State) (code : Word) : (haltUnit s code).iss = s.iss := by
  unfold haltUnit
  dsimp only
  split
  · refine (foldl_iss (fun s p => ?_) _ _).trans (reportRecord_iss s s.cur 2 none none none (some code.toNat))
    exact stopPlot_iss s p
  · exact (stopPlot_iss ..).trans (reportRecord_iss ..)

theorem fetchWords_iss {f : Furrow} {n va : Nat} {s t : State} {ws vs : List Word} (h : fetchWords s f va n ws = .words vs t) : t.iss = s.iss := by
  induction n generalizing s va ws with
  | zero => cases h; rfl
  | succ n ih =>
    simp only [fetchWords] at h
    split at h
    · have used (k : Nat) (p : Place) : (detect (usePlace s (agentOf s f) .exec p) k 4).iss = s.iss :=
        (homeStep_detect ..).1.iss.trans (usePlace_iss ..)
      split at h
      · exact (ih h).trans (used ..)
      · cases h
        exact used ..
    all_goals cases h

theorem fetchGroup_iss {s t : State} {f : Furrow} {pkt : Word} {slot : Nat} {ws : List Word} (h : fetchGroup s f pkt slot = .words ws t) :
    t.iss = s.iss := fetchWords_iss h

@[simp] theorem passPads_iss (n : Nat) (s : State) : (passPads n s).iss = s.iss := by
  induction n generalizing s with
  | zero => rfl
  | succ n ih =>
    simp only [passPads]
    split
    · rfl
    · split
      next h =>
        split
        · have fetched := fetchGroup_iss h
          exact (ih _).trans fetched
        · rfl
      · rfl

@[simp] theorem orRaised_iss (s : State) : (orRaised s).iss = s.iss := rfl

@[simp] theorem parkGroup_iss (s : State) : (parkGroup s).iss = s.iss := rfl

@[simp] theorem storeFurrow_iss (s : State) : (storeFurrow s).iss = s.iss := rfl

@[simp] theorem noteAbove_iss (s : State) : (noteAbove s).iss = s.iss := by
  unfold noteAbove
  split <;> rfl

@[simp] theorem applyCtl_iss (s : State) : (applyCtl s).iss = s.iss := by
  unfold applyCtl
  dsimp only
  split
  case h_6 => exact haltUnit_iss ..
  all_goals rfl

/-- A group that ends leaves word of whether it waits. -/
theorem finishGroup_stall (s0 s : State) : (finishGroup s0 s).iss.stall = s.iss.stall := by
  unfold finishGroup
  dsimp only
  split
  · rfl
  · rfl
  · rfl
  · split
    · split <;> simp
    · split <;> simp

/-- A group that waits at issue leaves the state it was tried from (01 R24). -/
theorem finishGroup_wait {s0 s : State} (h : s.iss.stall = .wait) : finishGroup s0 s = { s0 with tick := s.tick, iss := s.iss } := by
  simp only [finishGroup, h]

/-! ### The turn of a furrow with a group to issue -/

section

variable {ex : Exec} {fk n : Nat} {skip : List Nat} {s t : State} {f : Furrow}

theorem orOthers_of_stall_ne (h : t.iss.stall ≠ .wait) : orOthers ex fk n skip s f (.next t) = .next t := if_neg h

theorem orOthers_of_stall (h : t.iss.stall = .wait) :
    orOthers ex fk n skip s f (.next t) = issueTurns ex fk n skip { s with tick := t.tick, iss := t.iss } f := if_pos h

end

/-- An entry whose place is inside the code and whose fetched words are more than `nop`s has a group to issue. -/
theorem ahead_group {fk id n : Nat} {s s' : State} {f : Furrow} {ws : List Word} (hin : insideCode f (f.entry id).pc.toNat = true)
    (hf : fetchGroup s f (f.entry id).pc (f.entry id).slot = .words ws s') (hn : nopGroup f.stream ws (f.entry id).slot = none) :
    ahead fk id (n + 1) s f = .group f ws s' := by
  simp [ahead, hin, hf, hn]

/-- A turn that only one furrow can take, which has no trap pending, runs its entry's group (05 R143). -/
theorem step_issue {s s' : State} {fk id : Nat} {f : Furrow} {ws : List Word} (ha : s.agenda = []) (hu : s.upsets = [])
    (ht : todos s = [.issue fk]) (hp : placedReport (s.furrow fk) = none) (hc : chooseEntry (s.furrow fk) [] = (f, some id))
    (hh : tfind s.held (heldKey fk id) = none) (hg : ahead fk id 3 s (makeResident f id) = .group (makeResident f id) ws s')
    (hl : lateTrap (makeResident f id) = none) :
    step s = orOthers exec fk 63 [id] s (s.furrow fk) (runGroup exec (keepFurrow s' fk (makeResident f id)) fk id (makeResident f id) ws) := by
  have chosen : choose s (todos s) = some (.issue fk, s) := by rw [ht]; rfl
  have group : issueGroup exec s' fk id (makeResident f id) ws = runGroup exec (keepFurrow s' fk (makeResident f id)) fk id (makeResident f id) ws := by
    simp only [issueGroup, hl]
  rw [step_chosen ha hu chosen, ← group]
  calc issueFurrow exec fk s = issueTurns exec fk 64 [] s (s.furrow fk) := by simp only [issueFurrow, hp]
    _ = _ := issueTurns_group exec fk 63 s hc hh hg

section

variable {ex : Exec} {s t : State} {fk id last : Nat} {f : Furrow} {ws : List Word} {ms : List Member}
  (hd : decodeGroup f.stream ws (f.entry id).slot = (last, .ok ms))

/-- The state in which a group's members begin. -/
def groupStart (s : State) (fk id last : Nat) (f : Furrow) : State :=
  { s with pre := f, cur := f, iss := { furrow := fk, entry := id, pkt := (f.entry id).pc, slot := (f.entry id).slot, lastSlot := last } }

include hd

/-- A group that names a locked register waits (02 R47). -/
theorem runGroup_locked (hl : interlocks (interlocked s fk id f) ms = true) :
    runGroup ex s fk id f ws = .next (finishGroup s (stallWait (groupStart s fk id last f))) := by
  simp only [runGroup, hd, hl, if_true]
  rfl

theorem runGroup_next (hl : interlocks (interlocked s fk id f) ms = false) (hr : runMembers ex ms (groupStart s fk id last f) = .next t) :
    runGroup ex s fk id f ws = .next (finishGroup s t) := by
  rw [groupStart] at hr
  simp only [runGroup, hd, hl, hr, andThen, Bool.false_eq_true, if_false]

end

/-! ### A group of one word -/

theorem coverReply_of_park_nil {before : State} (h : before.iss.park = []) (m : Member) (s : State) : coverReply m before s = s := by
  simp [coverReply, h]

/-- A member that stands alone runs on the state before the group (02 R38, R42). -/
theorem runMembers_single {m : Member} (hp : m.pfx = none) (hl : m.lim = none) {s : State} (hs : s.iss.park = []) :
    runMembers exec [m] s = exec m.instr { s with iss := { s.iss with slot := m.slot, word := m.word, pfx := none, lim := none } } := by
  have member : runMember exec m s = exec m.instr { s with iss := { s.iss with slot := m.slot, word := m.word, pfx := none, lim := none } } := by
    rw [runMember_eq, hp, hl]
    rfl
  obtain ⟨t, ht⟩ := runMember_answers exec_answers m s
  rw [← member]
  simp only [runMembers, ht, coverReply_of_park_nil hs, runAbove, if_true, ite_self]

theorem chain_of_assembled {k n : Nat} {l : List (Nat × Nat)} {vs : List (Σ w, BitVec w)} (hn : IsAssembled k n l vs)
    (h : layoutFits k l = true) (ho : (operandBits l).testBit 31 = false) (hk : k.testBit 31 = true) : chain (.ofNat 32 n) = true := by
  rw [chain, BitVec.getLsbD_ofNat, hn.testBit_fixed h ho, hk]
  rfl

/-- A word whose major is no attached word's decodes to no attached word: those have the chain bit, which other words are encoded without. -/
theorem not_attached_of_major {w : Word} {i : Instr} (hd : decodeWord w = .ok i) (h1 : majorOf w ≠ 0x3E) (h2 : majorOf w ≠ 0x3F) :
    (∀ k r z f c n s x, i ≠ .pfx k r z f c n s x) ∧ ∀ v, i ≠ .lim v := by
  have hw := encode_of_decodeWord hd
  rw [if_neg (by tauto)] at hw
  have unchained : chain (w &&& 0x7FFFFFFF) = false := by simp [chain]
  have chained {n k : Nat} {l : List (Nat × Nat)} {vs : List (Σ w, BitVec w)} (hi : encode i = some (.ofNat 32 n)) (hn : IsAssembled k n l vs)
      (h : (layoutFits k l && !(operandBits l).testBit 31 && k.testBit 31) = true) : False := by
    simp only [Bool.and_eq_true, Bool.not_eq_true'] at h
    obtain ⟨⟨fits, ho⟩, hk⟩ := h
    have := chain_of_assembled hn fits ho hk
    rw [Option.some.inj (hi.symm.trans hw), unchained] at this
    exact Bool.false_ne_true this
  constructor
  · rintro k r z f c n s x rfl
    exact chained rfl (by (repeat' apply IsAssembled.add); exact .fixed) (by decide)
  · rintro v rfl
    exact chained rfl (.add .fixed) (by decide)

/-- A legal word that stands alone has nothing wrong with it. -/
theorem wordFaults_eq_nil {mcc : Bool} {w : Word} {i : Instr} (hc : chain w = false) (hd : decodeWord w = .ok i) (hw : wellFormed i = true)
    (hu : unitRuns mcc w = true) (h1 : majorOf w ≠ 0x3E) (h2 : majorOf w ≠ 0x3F) (slot : Nat) (next : Option Word) :
    wordFaults mcc slot w next = [] := by
  obtain ⟨notPfx, notLim⟩ := not_attached_of_major hd h1 h2
  have whole : ¬(slot = 2 ∧ chain w = true) := by simp [hc]
  simp only [wordFaults, hd, if_neg whole, hu, if_true]
  exact if_pos hw

theorem decodeGroup_single {mcc : Bool} {ws : List Word} {slot : Nat} {w : Word} {i : Instr} (hget : ws[slot]? = some w) (hc : chain w = false)
    (hd : decodeWord w = .ok i) (hw : wellFormed i = true) (hu : unitRuns mcc w = true) (h1 : majorOf w ≠ 0x3E) (h2 : majorOf w ≠ 0x3F) :
    decodeGroup mcc ws slot = (slot, .ok [{ slot, word := w, instr := i }]) := by
  have only : groupWords ((ws.zipIdx.map fun x => (x.2, x.1)).drop slot) = [(slot, w)] := by
    obtain ⟨hlt, rfl⟩ := List.getElem?_eq_some_iff.1 hget
    rw [List.drop_eq_getElem_cons (by simpa using hlt)]
    simp [groupWords, hc]
  have legal : firstIllegal (groupWordFaults mcc [(slot, w)] ++ pipeFaults (baseWords [(slot, w)]) []) = none := by
    simp [groupWordFaults, wordFaults_eq_nil hc hd hw hu h1 h2, baseWords, h1, h2, pipeFaults, firstIllegal]
  simp only [decodeGroup, only, legal]
  simp [groupMembers, hd, h1, h2]

/-! ### The end of a group -/

theorem noteAbove_of_under_none {s : State} (h : s.iss.under = none) : noteAbove s = s := by
  simp only [noteAbove, h]

/-- A group whose members ran raises its flags, waits for what its members wait for and goes on (02 R45, R46). -/
theorem finishGroup_done {s0 s : State} (hst : s.iss.stall = .none) (htr : s.iss.trapped = false) (hr : s.iss.rest = []) (hu : s.iss.under = none) :
    finishGroup s0 s = storeFurrow (passPads 2 (applyCtl (parkGroup
      (orRaised { s with cur := noteIssue s.cur s.iss.entry, held := terase s.held (heldKey s.iss.furrow s.iss.entry) })))) := by
  simp only [finishGroup, hst, htr, hr]
  rw [if_neg Bool.false_ne_true, noteAbove_of_under_none]
  exact hu

theorem passPads_stays {n : Nat} {s : State} (h : (s.cur.entry s.iss.entry).slot = 0 ∨ (s.cur.entry s.iss.entry).waits ≠ []) : passPads n s = s := by
  cases n with
  | zero => rfl
  | succ n =>
    rw [passPads, if_pos]
    rcases h with h | h <;> simp [h]

/-- Settles O21: a step takes the first thing in line or the one unit's turn, and a turn is the group's members and its end. -/
theorem stepRunsDecoded : Obligations.StepRunsDecoded := by
  unfold Obligations.StepRunsDecoded
  refine ⟨fun s e rest => step_input, ?_, fun s m hp hl hs => runMembers_single hp hl hs,
    fun mcc ws slot w i _ hget hc hd hw hu h1 h2 => decodeGroup_single hget hc hd hw hu h1 h2,
    fun s0 s hst htr hr hu => finishGroup_done hst htr hr hu, fun n s => passPads_stays, fun s h => ?_,
    fun s u rest => step_upset, fun s q ha hu ht hq => ?_⟩
  · intro s s' t fk id last f ws ms ha hu ht hc hh g e u hp hl hin hf hn hd i
    have turn := step_issue ha hu ht hp hc hh (ahead_group hin hf hn) hl
    refine ⟨fun locked => ?_, fun free run => ?_⟩
    · rw [turn, runGroup_locked hd locked, orOthers_of_stall (finishGroup_stall _ _), finishGroup_wait rfl]
      rfl
    · rw [turn, runGroup_next hd free run]
      refine ⟨fun done => orOthers_of_stall_ne (by rwa [finishGroup_stall]), fun waits => ?_⟩
      rw [orOthers_of_stall ((finishGroup_stall _ _).trans waits), finishGroup_wait waits]
  · simp only [applyCtl, h]
    rfl
  · have chosen : choose s (todos s) = some (.drill q, s) := by rw [ht]; rfl
    rw [step_chosen ha hu chosen]
    exact if_pos hq

end Sys2Proof.Machine
end

section
/-! Members that leave the registers alone (02 R46, R53, R56; 05 R130; 06 R177, R178; 08 R233), and the exit of an entry (05 R132): its threads leave
the masks of its lineage, it and its parent leave the table, and the parent's other child takes the parent's place. -/

namespace Sys2Proof.Machine

/-! ### Counter waits -/

theorem exec_halt {s : State} {a : BitVec 7} (h : Ready s [.s 0 a]) :
    exec (.halt a) s = .next { s with iss := { s.iss with ctl := .halt (S s a) } } := congrArg _ (guarded_whole h (all_whole_s 0 a) _)

section

variable {s : State} {n : Nat} (k : State → State)

theorem poisonGate_congr {k k' : State → State} (h : k s = k' s) : poisonGate s n k = poisonGate s n k' := by
  simp only [poisonGate, h]

theorem poisonGate_open (h : s.pre.stream = false ∨ 63 ≤ n ∨ poisonCovered s.cur n = none ∧ (poisonMayCome s && coveredMatrix s n) = false) :
    poisonGate s n k = k s := by
  rcases h with h | h | ⟨h, hm⟩
  · simp [poisonGate, h]
  · simp [poisonGate, Nat.not_lt.2 h]
  · simp [poisonGate, h, hm]

variable (hs : s.pre.stream = true) (hn : n < 63)

include hs hn

theorem poisonGate_traps {x : Nat × Word} (h : poisonCovered s.cur n = some x) :
    poisonGate s n k = raise { s with cur := { s.cur with poisonTrap := s.cur.poisonTrap.erase x } } 0x10 x.2 := by
  simp [poisonGate, hs, hn, h]

theorem poisonGate_waits (h : poisonCovered s.cur n = none) (hm : (poisonMayCome s && coveredMatrix s n) = true) :
    poisonGate s n k = { s with iss := { s.iss with stall := .wait } } := by
  rw [poisonGate, hs, decide_eq_true hn, Bool.and_self, if_pos rfl, h]
  exact if_pos hm

end

theorem exec_waitc (s : State) (l t p m : BitVec 6) : exec (.waitc l t p m) s =
    .next (poisonGate s m.toNat fun s => parkEntry s (.counters [l.toNat, t.toNat, p.toNat, m.toNat, 63, 63])) := rfl

theorem exec_waitp {s : State} {a : BitVec 7} (h : Ready s [.s 0 a]) (p : BitVec 5) : exec (.waitp a p) s =
    .next (poisonGate s (if p = 3 then (S s a).toNat else 63) fun u =>
      parkEntry u (.counters ((List.range 6).map fun i => if i = p.toNat then (S s a).toNat else 63))) :=
  congrArg _ ((guarded_whole h (all_whole_s 0 a) _).trans (poisonGate_congr rfl))

theorem waitOver_counters_iff (s : State) (f : Furrow) (l : List Nat) : waitOver s f (.counters l) = true ↔
    ∀ i, i < 6 → 63 ≤ nth l i 63 ∨ (tget f.ctr i 0).toNat ≤ nth l i 63 := by
  simp only [waitOver, upto, List.all_eq_true, List.mem_range, Bool.or_eq_true, decide_eq_true_eq]

/-! ### Entries of a table by their identifiers -/

theorem find?_map_of_id {g : Entry → Entry} (hg : ∀ x, (g x).id = x.id) (l : List Entry) (n : Nat) :
    (l.map g).find? (·.id == n) = (l.find? (·.id == n)).map g := by
  rw [List.find?_map]
  exact congrArg (fun p => (l.find? p).map g) (funext fun x => by simp [hg])

theorem find?_filter_id_ne {m n : Nat} (h : n ≠ m) (l : List Entry) : (l.filter (·.id != m)).find? (·.id == n) = l.find? (·.id == n) := by
  rw [List.find?_filter]
  refine congrArg (l.find? ·) (funext fun x => ?_)
  by_cases hx : x.id = n
  · simp [hx, h]
  · simp [hx]

theorem hasEntry_iff (f : Furrow) (n : Nat) : f.hasEntry n = true ↔ ∃ x ∈ f.entries, x.id = n := by
  simp [Furrow.hasEntry]

theorem entry_of_find? {f : Furrow} {n : Nat} {x : Entry} (h : f.entries.find? (·.id == n) = some x) : f.entry n = x := by
  rw [Furrow.entry, h]
  rfl

theorem find?_of_hasEntry {f : Furrow} {n : Nat} (h : f.hasEntry n = true) : f.entries.find? (·.id == n) = some (f.entry n) := by
  obtain ⟨x, hx⟩ := Option.isSome_iff_exists.1 (List.find?_isSome.2 (List.any_eq_true.1 h))
  rw [entry_of_find? hx, hx]

theorem id_of_find? {l : List Entry} {n : Nat} {x : Entry} (h : l.find? (·.id == n) = some x) : x.id = n := by
  simpa using List.find?_some h

/-- With identifiers all different, an entry is the one with its identifier. -/
theorem find?_id_of_mem {l : List Entry} (hl : (l.map (·.id)).Nodup) {x : Entry} (hx : x ∈ l) : l.find? (·.id == x.id) = some x := by
  obtain ⟨y, hy⟩ := Option.isSome_iff_exists.1 (List.find?_isSome (p := (·.id == x.id)).2 ⟨x, hx, beq_self_eq_true _⟩)
  rw [hy, List.inj_on_of_nodup_map hl (List.mem_of_find?_eq_some hy) hx (id_of_find? hy)]

/-! ### The threads of a lineage -/

/-- The parent of an entry, by identifiers. -/
def parentOf (f : Furrow) (n : Nat) : Nat := (f.entry n).parent

/-- An entry, its parent, and so on, as far as `n` or the root. -/
def lineage (f : Furrow) (id : Nat) : Nat → List Nat
  | 0 => []
  | n + 1 => id :: if parentOf f id = id then [] else lineage f (parentOf f id) n

/-- The entry without the threads of `m`, when it is one of `l`. -/
def withoutThreads (m : Mask) (l : List Nat) (x : Entry) : Entry := if x.id ∈ l then { x with mask := x.mask &&& ~~~m } else x

section

variable (m : Mask) (l : List Nat) (x : Entry)

@[simp] theorem withoutThreads_id : (withoutThreads m l x).id = x.id := by unfold withoutThreads; split <;> rfl
@[simp] theorem withoutThreads_parent : (withoutThreads m l x).parent = x.parent := by unfold withoutThreads; split <;> rfl

theorem withoutThreads_nil : withoutThreads m [] = id := funext fun _ => if_neg List.not_mem_nil

theorem withoutThreads_of_mem {x : Entry} (h : x.id ∈ l) : withoutThreads m l x = { x with mask := x.mask &&& ~~~m } := if_pos h

theorem withoutThreads_of_not_mem {x : Entry} (h : x.id ∉ l) : withoutThreads m l x = x := if_neg h

theorem withoutThreads_cons (id : Nat) : withoutThreads m (id :: l) x = withoutThreads m l (withoutThreads m [id] x) := by
  by_cases h : x.id = id
  · by_cases hl : id ∈ l <;> simp [withoutThreads, h, hl, BitVec.and_assoc]
  · simp [withoutThreads, h]

end

theorem modEntry_mask (f : Furrow) (m : Mask) (id : Nat) :
    f.modEntry id (fun e => { e with mask := e.mask &&& ~~~m }) = { f with entries := f.entries.map (withoutThreads m [id]) } := by
  have one : (fun e : Entry => if e.id = id then { e with mask := e.mask &&& ~~~m } else e) = withoutThreads m [id] :=
    funext fun e => by simp only [withoutThreads, List.mem_singleton]
  rw [← one]
  rfl

/-- Taking threads from masks changes no parent. -/
theorem parentOf_withoutThreads (f : Furrow) (m : Mask) (l : List Nat) (n : Nat) :
    parentOf { f with entries := f.entries.map (withoutThreads m l) } n = parentOf f n := by
  rw [parentOf, parentOf, Furrow.entry, Furrow.entry, find?_map_of_id (withoutThreads_id m l)]
  cases f.entries.find? (·.id == n) <;> simp

theorem lineage_withoutThreads (f : Furrow) (m : Mask) (l : List Nat) (n id : Nat) :
    lineage { f with entries := f.entries.map (withoutThreads m l) } id n = lineage f id n := by
  induction n generalizing id with
  | zero => rfl
  | succ n ih => simp only [lineage, parentOf_withoutThreads, ih]

/-- An exit takes the threads from the masks of the lineage (05 R132). -/
theorem clearThreads_eq (f : Furrow) (m : Mask) (id n : Nat) :
    clearThreads f m id n = { f with entries := f.entries.map (withoutThreads m (lineage f id n)) } := by
  induction n generalizing f id with
  | zero => rw [lineage, withoutThreads_nil, List.map_id]; rfl
  | succ n ih =>
    change (if parentOf f id = id then f.modEntry id _ else clearThreads (f.modEntry id _) m (parentOf f id) n) = _
    rw [modEntry_mask]
    by_cases h : parentOf f id = id
    · simp only [h, if_true, lineage]
    · simp only [h, if_false, lineage, ih, lineage_withoutThreads, List.map_map]
      congr 2
      exact funext fun x => (withoutThreads_cons ..).symm

section

variable {f : Furrow} {id : Nat}

theorem exists_iterate_of_mem_lineage {n x : Nat} (h : x ∈ lineage f id n) : ∃ k, (parentOf f)^[k] id = x := by
  induction n generalizing id with
  | zero => cases h
  | succ n ih =>
    rcases List.mem_cons.1 h with rfl | h
    · exact ⟨0, rfl⟩
    · split at h
      · cases h
      · obtain ⟨k, hk⟩ := ih h
        exact ⟨k + 1, hk⟩

/-- A lineage that has reached the root holds every ancestor. -/
theorem iterate_parent_mem_lineage {n r : Nat} (hr : r < n) (root : parentOf f ((parentOf f)^[r] id) = (parentOf f)^[r] id) (k : Nat) :
    (parentOf f)^[k] id ∈ lineage f id n := by
  induction n generalizing id r k with
  | zero => cases hr
  | succ n ih =>
    by_cases h : parentOf f id = id
    · rw [Function.iterate_fixed h]
      exact List.mem_cons_self
    · cases k with
      | zero => exact List.mem_cons_self
      | succ k =>
        cases r with
        | zero => exact absurd root h
        | succ r =>
          refine List.mem_cons_of_mem _ ?_
          rw [if_neg h]
          exact ih (Nat.lt_of_succ_lt_succ hr) root k

end

/-! ### The exit of an entry -/

/-- The entry under another parent, when it is `n`. -/
def withParent (n q : Nat) (x : Entry) : Entry := if x.id = n then { x with parent := q } else x

@[simp] theorem withParent_id (n q : Nat) (x : Entry) : (withParent n q x).id = x.id := by unfold withParent; split <;> rfl

theorem withParent_of_ne {n : Nat} {x : Entry} (h : x.id ≠ n) (q : Nat) : withParent n q x = x := if_neg h

/-- An entry that takes a place in the tree is its own parent at the root. -/
theorem modEntry_parent (f : Furrow) (n q : Nat) (root : Prop) [Decidable root] :
    f.modEntry n (fun x => { x with parent := if root then x.id else q }) =
      { f with entries := f.entries.map (withParent n (if root then n else q)) } := by
  have one : (fun x : Entry => if x.id = n then { x with parent := if root then x.id else q } else x) = withParent n (if root then n else q) := by
    refine funext fun x => ?_
    by_cases h : x.id = n
    · rw [if_pos h, withParent, if_pos h, h]
    · rw [if_neg h, withParent, if_neg h]
  rw [← one]
  rfl

/-- The furrow once the entry `id`, which is `e`, has gone and its threads have left its lineage. -/
def departed (f : Furrow) (id : Nat) (e : Entry) : Furrow :=
  { f with entries := (f.entries.map (withoutThreads e.mask (lineage f id f.entries.length))).filter (·.id != id), rt := false }

/-- The furrow once `e`'s parent `p` has gone too, and `c` stands in its place (05 R132). -/
def promoted (f : Furrow) (id : Nat) (e p c : Entry) : Furrow :=
  syncSpill { f with
    entries := ((departed f id e).entries.filter (·.id != p.id)).map (withParent c.id (if p.parent = p.id then c.id else p.parent)), rt := false }

section

variable {f : Furrow} {id : Nat} {e p c : Entry}

theorem find?_departed {n : Nat} (hid : n ≠ id) : (departed f id e).entries.find? (·.id == n) =
    (f.entries.find? (·.id == n)).map (withoutThreads e.mask (lineage f id f.entries.length)) := by
  simp only [departed]
  rw [find?_filter_id_ne hid, find?_map_of_id (withoutThreads_id _ _)]

theorem mem_departed {x : Entry} (h : x ∈ (departed f id e).entries) :
    x.id ≠ id ∧ ∃ y ∈ f.entries, x = withoutThreads e.mask (lineage f id f.entries.length) y := by
  obtain ⟨hx, hid⟩ := List.mem_filter.1 h
  obtain ⟨y, hy, rfl⟩ := List.mem_map.1 hx
  exact ⟨by simpa using hid, y, hy, rfl⟩

theorem find?_promoted {n : Nat} (hid : n ≠ id) (hp : n ≠ p.id) : (promoted f id e p c).entries.find? (·.id == n) =
    ((f.entries.find? (·.id == n)).map (withoutThreads e.mask (lineage f id f.entries.length))).map
      (withParent c.id (if p.parent = p.id then c.id else p.parent)) := by
  simp only [promoted, syncSpill]
  rw [find?_map_of_id (withParent_id _ _), find?_filter_id_ne hp, find?_departed hid]

/-- The entries that are left come from entries of the furrow. -/
theorem mem_promoted {x : Entry} (h : x ∈ (promoted f id e p c).entries) : x.id ≠ id ∧ x.id ≠ p.id ∧
    ∃ y ∈ f.entries, x = withParent c.id (if p.parent = p.id then c.id else p.parent) (withoutThreads e.mask (lineage f id f.entries.length) y) := by
  obtain ⟨y, hy, rfl⟩ := List.mem_map.1 h
  obtain ⟨hy, hp⟩ := List.mem_filter.1 hy
  obtain ⟨hid, z, hz, rfl⟩ := mem_departed hy
  exact ⟨by simpa using hid, by simpa using hp, z, hz, rfl⟩

theorem promoted_hasEntry_self : (promoted f id e p c).hasEntry id = false := by
  refine Bool.eq_false_iff.2 fun h => ?_
  obtain ⟨x, hx, rfl⟩ := (hasEntry_iff _ _).1 h
  exact (mem_promoted hx).1 rfl

theorem promoted_hasEntry_parent : (promoted f id e p c).hasEntry p.id = false := by
  refine Bool.eq_false_iff.2 fun h => ?_
  obtain ⟨x, hx, hxp⟩ := (hasEntry_iff _ _).1 h
  exact (mem_promoted hx).2.1 hxp

theorem promoted_entry_ancestor {n : Nat} (hid : n ≠ id) (hp : n ≠ p.id) (hc : n ≠ c.id) (h : f.hasEntry n = true)
    (hl : n ∈ lineage f id f.entries.length) : (promoted f id e p c).entry n = { f.entry n with mask := (f.entry n).mask &&& ~~~e.mask } := by
  have found := find?_of_hasEntry h
  have hn := id_of_find? found
  refine entry_of_find? ?_
  rw [find?_promoted hid hp, found, Option.map_some, Option.map_some, withoutThreads_of_mem _ _ (by rwa [hn]), withParent_of_ne]
  rwa [← hn] at hc

theorem promoted_entry_other {n : Nat} (hid : n ≠ id) (hp : n ≠ p.id) (hc : n ≠ c.id) (hl : n ∉ lineage f id f.entries.length) :
    (promoted f id e p c).entry n = f.entry n := by
  rw [Furrow.entry, Furrow.entry, find?_promoted hid hp]
  cases found : f.entries.find? (·.id == n) with
  | none => rfl
  | some x =>
    obtain rfl := id_of_find? found
    rw [Option.map_some, Option.map_some, withoutThreads_of_not_mem _ _ hl, withParent_of_ne hc]

end

theorem fuse_of_slot_ne_zero {f : Furrow} {id : Nat} {x : Entry} (hx : f.entries.find? (·.id == id) = some x) (h : x.slot ≠ 0) (n : Nat) :
    fuse f id n = f := by
  cases n with
  | zero => rfl
  | succ n => simp [fuse, hx, h]

/-- An entry that stands at its place already continues there by fusion alone. -/
theorem continueAt_here {f : Furrow} {id : Nat} {pc : Word} (h : ∀ x ∈ f.entries, x.id = id → x.pc = pc ∧ x.slot = 0) :
    continueAt f id pc 0 = fuse f id f.entries.length := by
  have same : (f.modEntry id fun e => { e with pc, slot := 0 }) = f := by
    have entries : (f.entries.map fun e => if e.id = id then { e with pc, slot := 0 } else e) = f.entries := by
      refine (List.map_congr_left fun x hx => ?_).trans (List.map_id _)
      split
      next hid =>
        obtain ⟨rfl, hs⟩ := h x hx hid
        rw [← hs]
        rfl
      · rfl
    rw [Furrow.modEntry, entries]
  rw [continueAt, if_pos rfl, same]

/-- The only other child of the parent of an entry that leaves, which is none of its ancestors. -/
structure OnlySibling (f : Furrow) (id : Nat) (e c : Entry) : Prop where
  entry : f.entries.find? (·.id == id) = some e
  distinct : (f.entries.map (·.id)).Nodup
  parent_ne : e.parent ≠ id
  hasParent : f.hasEntry e.parent = true
  only : (f.entries.filter fun x => x.parent == (f.entry e.parent).id && x.id != (f.entry e.parent).id && x.id != id) = [c]
  not_ancestor : c.id ∉ lineage f id f.entries.length

namespace OnlySibling

variable {f : Furrow} {id : Nat} {e c : Entry} (h : OnlySibling f id e c)

include h

theorem mem : c ∈ f.entries ∧ c.parent = (f.entry e.parent).id ∧ c.id ≠ (f.entry e.parent).id ∧ c.id ≠ id := by
  have hc : c ∈ f.entries.filter fun x => x.parent == (f.entry e.parent).id && x.id != (f.entry e.parent).id && x.id != id :=
    h.only ▸ List.mem_singleton_self c
  simpa [and_assoc] using hc

theorem departed_entry_parent :
    (departed f id e).entry e.parent = withoutThreads e.mask (lineage f id f.entries.length) (f.entry e.parent) := by
  refine entry_of_find? ?_
  rw [find?_departed h.parent_ne, find?_of_hasEntry h.hasParent, Option.map_some]

/-- The exit finds it. -/
theorem find?_child : (departed f id e).entries.find? (fun x => x.parent == (f.entry e.parent).id && x.id != (f.entry e.parent).id) = some c := by
  have kept : (departed f id e).entries.filter (fun x => x.parent == (f.entry e.parent).id && x.id != (f.entry e.parent).id) = [c] := by
    simp only [departed, List.filter_filter, List.filter_map]
    simp only [Function.comp_apply, withoutThreads_id, withoutThreads_parent, h.only, List.map_singleton]
    rw [withoutThreads_of_not_mem _ _ h.not_ancestor]
  rw [← List.head?_filter, kept, List.head?_cons]

theorem exitEntry_eq : exitEntry f id =
    fuse (promoted f id e (f.entry e.parent) c) c.id (promoted f id e (f.entry e.parent) c).entries.length := by
  have found := h.departed_entry_parent
  have child := h.find?_child
  unfold departed at found child
  simp only [exitEntry, entry_of_find? h.entry, clearThreads_eq, if_neg h.parent_ne, found, withoutThreads_id, withoutThreads_parent, child,
    modEntry_parent]
  rfl

theorem promoted_find? : (promoted f id e (f.entry e.parent) c).entries.find? (·.id == c.id) =
    some { c with parent := if (f.entry e.parent).parent = (f.entry e.parent).id then c.id else (f.entry e.parent).parent } := by
  obtain ⟨mem, -, hp, hid⟩ := h.mem
  rw [find?_promoted hid hp, find?_id_of_mem h.distinct mem, Option.map_some, Option.map_some, withoutThreads_of_not_mem _ _ h.not_ancestor]
  exact congrArg some (if_pos rfl)

/-- It is looked at for fusion where it stands, at a packet's first word (05 R142). -/
theorem exitEntry_continues : exitEntry f id = if c.slot = 0 then continueAt (promoted f id e (f.entry e.parent) c) c.id c.pc 0
    else promoted f id e (f.entry e.parent) c := by
  rw [h.exitEntry_eq]
  split
  next hs =>
    refine (continueAt_here fun x hx hxc => ?_).symm
    obtain ⟨-, -, y, hy, rfl⟩ := mem_promoted hx
    rw [withParent_id, withoutThreads_id] at hxc
    obtain rfl : y = c := List.inj_on_of_nodup_map h.distinct hy h.mem.1 hxc
    rw [withoutThreads_of_not_mem _ _ h.not_ancestor, withParent, if_pos rfl]
    exact ⟨rfl, hs⟩
  next hs => exact fuse_of_slot_ne_zero h.promoted_find? hs _

end OnlySibling

/-- The last entry leaves nothing (05 R132). -/
theorem exitEntry_last {f : Furrow} {id : Nat} {e : Entry} (hf : f.entries = [e]) (hid : e.id = id) (hp : e.parent = id) :
    exitEntry f id = { f with entries := [], rt := false } := by
  have found : f.entries.find? (·.id == id) = some e := by simp [hf, hid]
  simp only [exitEntry, entry_of_find? found, clearThreads_eq, if_pos hp]
  simp [hf, hid]

/-- Settles O36: each member's meaning, the gate of a stream's counter waits case by case, and the table after an exit. -/
theorem groupControl : Obligations.GroupControl := by
  unfold Obligations.GroupControl
  intro s
  refine ⟨rfl, rfl, rfl, fun a h => exec_halt h, fun _ _ _ _ _ _ _ _ => rfl, fun _ => rfl, ?_, waitOver_counters_iff s,
    fun f id e hf hid hp => exitEntry_last hf hid hp, ?_⟩
  · intro waits
    have gate {n : Nat} {w : Wait} {i : Instr} (hi : exec i s = .next (poisonGate s n fun s => parkEntry s w)) : waits n w i :=
      ⟨fun h => hi.trans (congrArg _ (poisonGate_open _ h)), fun hs hn x hx => hi.trans (congrArg _ (poisonGate_traps _ hs hn hx)),
        fun hs hn hx hm => hi.trans (congrArg _ (poisonGate_waits _ hs hn hx hm))⟩
    refine ⟨fun l t p m => gate (exec_waitc s l t p m), fun a p _ h => gate (exec_waitp h p)⟩
  · intro f id e c he hd hne up p hp hc hanc hroot
    obtain ⟨r, hr, root⟩ := hroot
    have sibling : OnlySibling f id e c :=
      ⟨he, hd, hne, hp, hc, fun hl => (exists_iterate_of_mem_lineage hl).elim hanc⟩
    refine ⟨promoted f id e p c, sibling.exitEntry_continues, rfl, promoted_hasEntry_self, promoted_hasEntry_parent,
      entry_of_find? sibling.promoted_find?, fun n h1 h2 h3 hn hk => ?_, fun n h1 h2 h3 hk => ?_⟩
    · obtain ⟨k, rfl⟩ := hk
      exact promoted_entry_ancestor h1 h2 h3 hn (iterate_parent_mem_lineage hr root k)
    · exact promoted_entry_other h1 h2 h3 fun hl => (exists_iterate_of_mem_lineage hl).elim hk

end Sys2Proof.Machine
end

section
/-! The stochastic generator and the draws of results (03 R73 to R75). -/

namespace Sys2Proof.Machine

/-! ### The generator never reaches zero (03 R73) -/

/-- A word equal to itself shifted up has no lowest set bit. -/
theorem eq_zero_of_xor_shiftLeft {x : Word} {n : Nat} (hn : 0 < n) (h : x ^^^ (x <<< n) = 0) : x = 0 := by
  have clear : ∀ i, x.getLsbD i = false := fun i => by
    induction i using Nat.strong_induction_on with
    | _ i ih =>
      have bit := congrArg (·.getLsbD i) h
      by_cases hi : i < n
      · simpa [hi] using bit
      · simpa [hi, ih (i - n) (by omega)] using bit
  exact BitVec.eq_of_getLsbD_eq fun i _ => by rw [clear]; simp

/-- A word equal to itself shifted down has no highest set bit. -/
theorem eq_zero_of_xor_ushiftRight {x : Word} {n : Nat} (hn : 0 < n) (h : x ^^^ (x >>> n) = 0) : x = 0 := by
  have clear : ∀ k i, 32 - i ≤ k → x.getLsbD i = false := fun k => by
    induction k with
    | zero => exact fun i hi => BitVec.getLsbD_of_ge _ _ (by omega)
    | succ k ih =>
      intro i hi
      have bit := congrArg (·.getLsbD i) h
      by_cases hlt : i < 32
      · simpa [hlt, ih (n + i) (by omega)] using bit
      · exact BitVec.getLsbD_of_ge _ _ (by omega)
  exact BitVec.eq_of_getLsbD_eq fun i _ => by rw [clear _ i le_rfl]; simp

theorem rngStep_ne_zero {x : Word} (hx : x ≠ 0) : rngStep x ≠ 0 := fun h =>
  hx (eq_zero_of_xor_shiftLeft (by omega)
    (eq_zero_of_xor_ushiftRight (by omega) (eq_zero_of_xor_shiftLeft (n := 5) (by omega) h)))

/-! ### One draw for each result (03 R74) -/

/-- The generator after one result. -/
def Fx.drawn (fx : Fx) : Word := if fx.mode = 5 then rngStep fx.rng else fx.rng

@[simp] theorem Fx.draw_rng (fx : Fx) : fx.draw.2.rng = fx.drawn := by unfold Fx.draw Fx.drawn; split <;> rfl
@[simp] theorem Fx.draw_mode (fx : Fx) : fx.draw.2.mode = fx.mode := by unfold Fx.draw; split <;> rfl
@[simp] theorem Fx.draw_flags (fx : Fx) : fx.draw.2.flags = fx.flags := by unfold Fx.draw; split <;> rfl
@[simp] theorem Fx.raise_rng (fx : Fx) (fl : Word) : (fx.raise fl).rng = fx.rng := rfl
@[simp] theorem Fx.raise_flags (fx : Fx) (fl : Word) : (fx.raise fl).flags = fx.flags ||| fl := rfl

/-- What addition, multiplication, the fused product-sum and conversion deliver (04 R111, R119): the canonical NaN, an infinity, or one
rounding of an exact value. -/
inductive Arith (m : Fmt) (fx : Fx) : Nat × Fx → Prop
  | canon (flags : Word) : Arith m fx (fconst m.canon flags fx)
  | inf (neg : Bool) : Arith m fx (fconst (m.inf neg) 0 fx)
  | rounded (neg : Bool) (man : Nat) (exp : Int) : Arith m fx (fround m neg man exp false fx)

theorem arith_fnan (m : Fmt) (ops : List FVal) (fx : Fx) : Arith m fx (fnan m ops fx) := .canon _

theorem arith_ite {m : Fmt} {fx : Fx} {c : Prop} [Decidable c] {r q : Nat × Fx} (hr : Arith m fx r) (hq : Arith m fx q) :
    Arith m fx (if c then r else q) := by
  split
  · exact hr
  · exact hq

theorem arith_faddV (m : Fmt) (x y : FVal) (fx : Fx) : Arith m fx (faddV m x y fx) := by
  cases x with
  | nan => exact arith_fnan ..
  | inf n =>
    cases y with
    | nan => exact arith_fnan ..
    | inf n' => exact arith_ite (.inf n) (.canon flagIv)
    | fin => exact .inf n
  | fin =>
    cases y with
    | nan => exact arith_fnan ..
    | inf n => exact .inf n
    | fin => exact .rounded ..

theorem arith_fmulV (m : Fmt) (x y : FVal) (fx : Fx) : Arith m fx (fmulV m x y fx) := by
  cases x with
  | nan => exact arith_fnan ..
  | inf n =>
    cases y with
    | nan => exact arith_fnan ..
    | inf n' => exact .inf (n != n')
    | fin n' => exact arith_ite (.canon flagIv) (.inf (n != n'))
  | fin n =>
    cases y with
    | nan => exact arith_fnan ..
    | inf n' => exact arith_ite (.canon flagIv) (.inf (n != n'))
    | fin => exact .rounded ..

theorem arith_fmaV (m : Fmt) (x y z : FVal) (fx : Fx) : Arith m fx (fmaV m x y z fx) := by
  unfold fmaV
  refine arith_ite (.canon flagIv) (arith_ite (arith_fnan ..) ?_)
  split
  · exact .rounded ..
  · exact .inf _
  · dsimp only
    split
    · exact arith_ite (.inf _) (.canon flagIv)
    · exact .inf _

theorem arith_fconvV (m : Fmt) (x : FVal) (fx : Fx) : Arith m fx (fconvV m x fx) := by
  cases x with
  | nan => exact arith_fnan ..
  | inf n => exact .inf n
  | fin => exact .rounded ..

/-- Each of them draws once under `rsr` and never otherwise (03 R74). -/
theorem Arith.draws_once {m : Fmt} {fx : Fx} {r : Nat × Fx} (h : Arith m fx r) : r.2.rng = fx.drawn ∧ r.2.mode = fx.mode := by
  cases h with
  | canon flags => exact ⟨fx.draw_rng, fx.draw_mode⟩
  | inf neg => exact ⟨fx.draw_rng, fx.draw_mode⟩
  | rounded neg man exp => exact ⟨fx.draw_rng, fx.draw_mode⟩

/-- Settles O17: the shifts that the generator adds are injective, and every result of the four functions is of one of three kinds that each draw once. -/
theorem drawsOnce : Obligations.DrawsOnce := by
  unfold Obligations.DrawsOnce
  refine ⟨fun x => ⟨rfl, rngStep_ne_zero⟩, fun m x y z fx => ?_⟩
  simp only [List.forall_mem_cons, List.not_mem_nil, false_imp_iff, implies_true, and_true]
  exact ⟨(arith_faddV m x y fx).draws_once, (arith_fmulV m x y fx).draws_once, (arith_fmaV m x y z fx).draws_once,
    (arith_fconvV m x fx).draws_once⟩

end Sys2Proof.Machine
end

section
/-! One rounding of an exact value to a format (03 R66, R67, R72, R74): between which two patterns the value lies, which of them is
delivered, and what overflows. -/

namespace Sys2Proof.Machine

/-! ### Magnitudes of patterns (03 R66, R67) -/

/-- The magnitude that a pattern without its sign stands for; from the pattern of infinity on it continues as if larger exponents existed. -/
noncomputable def Fmt.mag (m : Fmt) (p : Nat) : ℝ :=
  if p < 2 ^ m.fb then (p : ℝ) * 2 ^ (m.emin - m.fb) else ((p % 2 ^ m.fb + 2 ^ m.fb : Nat) : ℝ) * 2 ^ ((p / 2 ^ m.fb : Nat) - m.bias - m.fb : ℤ)

/-- The pattern of infinity without its sign. -/
def Fmt.top (m : Fmt) : Nat := m.ones * 2 ^ m.fb

/-- The sign bit of a format. -/
def Fmt.sign (m : Fmt) (neg : Bool) : Nat := if neg then 2 ^ (m.eb + m.fb) else 0

theorem inf_eq (m : Fmt) (neg : Bool) : m.inf neg = m.sign neg + m.top := rfl

theorem quot_rem {k c r : Nat} (hr : r < 2 ^ k) : (c * 2 ^ k + r) / 2 ^ k = c ∧ (c * 2 ^ k + r) % 2 ^ k = r := by
  rw [Nat.mul_comm, Nat.mul_add_div (Nat.two_pow_pos k), Nat.mul_add_mod, Nat.div_eq_of_lt hr, Nat.mod_eq_of_lt hr]
  exact ⟨rfl, rfl⟩

/-- A pattern as a step `b` of the exponent and a number `n` of units of that step's last place; the top of one step is the bottom of the next. -/
theorem mag_step (m : Fmt) {b n : Nat} (hb : b = 0 ∨ 2 ^ m.fb ≤ n) (hn : n ≤ 2 ^ (m.fb + 1)) :
    m.mag (b * 2 ^ m.fb + n) = n * (2 : ℝ) ^ ((b : ℤ) + (m.emin - m.fb)) := by
  have pos : 0 < 2 ^ m.fb := Nat.two_pow_pos _
  unfold Fmt.mag
  by_cases small : n < 2 ^ m.fb
  · obtain rfl : b = 0 := by omega
    simp [small]
  rw [if_neg (by rw [Nat.not_lt]; exact Nat.le_trans (Nat.not_lt.1 small) (Nat.le_add_left ..))]
  by_cases last : n = 2 ^ (m.fb + 1)
  · have e : b * 2 ^ m.fb + n = (b + 2) * 2 ^ m.fb + 0 := by rw [last]; ring
    rw [e, (quot_rem pos).1, (quot_rem pos).2, last]
    simp only [Fmt.emin]
    rw [show ((b + 2 : Nat) : ℤ) - m.bias - m.fb = 1 + ((b : ℤ) + (1 - m.bias - m.fb)) by push_cast; ring, zpow_add₀ two_ne_zero]
    push_cast
    ring
  · have hk : n - 2 ^ m.fb < 2 ^ m.fb := by rw [Nat.pow_succ] at hn last; omega
    have e : b * 2 ^ m.fb + n = (b + 1) * 2 ^ m.fb + (n - 2 ^ m.fb) := by rw [Nat.add_mul]; omega
    rw [e, (quot_rem hk).1, (quot_rem hk).2, Nat.sub_add_cancel (Nat.not_lt.1 small)]
    simp only [Fmt.emin]
    congr 2
    push_cast
    ring

/-- Every pattern has a step of its own. -/
theorem exists_step (m : Fmt) (p : Nat) : ∃ b n, p = b * 2 ^ m.fb + n ∧ (b = 0 ∨ 2 ^ m.fb ≤ n) ∧ n < 2 ^ (m.fb + 1) := by
  have pos : 0 < 2 ^ m.fb := Nat.two_pow_pos _
  have div := Nat.div_add_mod' p (2 ^ m.fb)
  have low := Nat.mod_lt p pos
  rw [Nat.pow_succ]
  rcases h : p / 2 ^ m.fb with _ | c
  · exact ⟨0, p, by omega, .inl rfl, by rw [h] at div; omega⟩
  · refine ⟨c, 2 ^ m.fb + p % 2 ^ m.fb, ?_, .inr (by omega), by omega⟩
    rw [h, Nat.succ_mul] at div
    omega

theorem mag_lt_succ (m : Fmt) (p : Nat) : m.mag p < m.mag (p + 1) := by
  obtain ⟨b, n, rfl, hb, hn⟩ := exists_step m p
  rw [mag_step m hb (by omega), Nat.add_assoc, mag_step m (by omega) (by omega)]
  have unit : (0 : ℝ) < 2 ^ ((b : ℤ) + (m.emin - m.fb)) := by positivity
  push_cast
  linarith

theorem mag_strictMono (m : Fmt) : StrictMono m.mag := strictMono_nat_of_lt_succ (mag_lt_succ m)

theorem mag_zero (m : Fmt) : m.mag 0 = 0 := by simp [Fmt.mag]
theorem mag_nonneg (m : Fmt) (p : Nat) : 0 ≤ m.mag p := mag_zero m ▸ (mag_strictMono m).monotone p.zero_le

/-- The pattern below a value is unique. -/
theorem eq_of_mag_le_of_lt {m : Fmt} {p q : Nat} {v : ℝ} (hp : m.mag p ≤ v) (hp' : v < m.mag (p + 1)) (hq : m.mag q ≤ v)
    (hq' : v < m.mag (q + 1)) : p = q := by
  have h1 := (mag_strictMono m).lt_iff_lt.1 (hp.trans_lt hq')
  have h2 := (mag_strictMono m).lt_iff_lt.1 (hq.trans_lt hp')
  omega

theorem ones_eq {m : Fmt} (he : 2 ≤ m.eb) : m.ones = 2 * m.bias + 1 ∧ 1 ≤ m.bias := by
  obtain ⟨k, hk⟩ : ∃ k, m.eb = k + 2 := ⟨m.eb - 2, by omega⟩
  have := Nat.two_pow_pos k
  have e : m.eb - 1 = k + 1 := by omega
  unfold Fmt.ones Fmt.bias
  rw [e, hk, Nat.pow_succ, Nat.pow_succ]
  omega

theorem mag_top {m : Fmt} (he : 2 ≤ m.eb) : m.mag m.top = 2 ^ ((m.bias : ℤ) + 1) := by
  obtain ⟨ones, bias⟩ := ones_eq he
  have e : m.top = 2 * m.bias * 2 ^ m.fb + 2 ^ m.fb := by rw [Fmt.top, ones, Nat.add_mul, Nat.one_mul]
  rw [e, mag_step m (.inr le_rfl) (Nat.pow_le_pow_right (by decide) (by omega)), Nat.cast_pow, Nat.cast_ofNat, ← zpow_natCast,
    ← zpow_add₀ two_ne_zero, Fmt.emin]
  congr 1
  push_cast
  ring

/-- A few units of some place of the format are the magnitude of a pattern. -/
theorem exists_mag (m : Fmt) {n : Nat} (hn : n ≤ 2 ^ (m.fb + 1)) {e : Int} (he : m.emin - m.fb ≤ e) : ∃ p, m.mag p = n * (2 : ℝ) ^ e := by
  obtain ⟨b, rfl⟩ : ∃ b : Nat, e = b + (m.emin - m.fb) := ⟨(e - (m.emin - m.fb)).toNat, by omega⟩
  clear he
  induction b generalizing n with
  | zero => exact ⟨_, mag_step m (.inl rfl) hn⟩
  | succ b ih =>
    by_cases h : 2 ^ m.fb ≤ n
    · exact ⟨_, mag_step m (.inr h) hn⟩
    · obtain ⟨p, hp⟩ := ih (n := 2 * n) (by rw [Nat.pow_succ]; omega)
      refine ⟨p, hp.trans ?_⟩
      rw [Nat.cast_succ, add_right_comm, zpow_add_one₀ two_ne_zero]
      push_cast
      ring

/-! ### Leading bits -/

theorem bitLen_pos {n : Nat} (hn : n ≠ 0) : 0 < bitLen n := by simp [bitLen, hn]
theorem lt_two_pow_bitLen (n : Nat) : n < 2 ^ bitLen n := by
  unfold bitLen
  split
  · subst_vars; exact Nat.one_pos
  · exact Nat.lt_log2_self
theorem two_pow_le_of_bitLen {n : Nat} (hn : n ≠ 0) : 2 ^ (bitLen n - 1) ≤ n := by
  rw [bitLen, if_neg hn]
  exact Nat.log2_self_le hn
theorem bitLen_eq {n k : Nat} (h1 : 2 ^ k ≤ n) (h2 : n < 2 ^ (k + 1)) : bitLen n = k + 1 := by
  have hn : n ≠ 0 := by have := Nat.two_pow_pos k; omega
  rw [bitLen, if_neg hn, (Nat.log2_eq_iff hn).2 ⟨h1, h2⟩]
theorem bitLen_le {n k : Nat} (h : n < 2 ^ k) : bitLen n ≤ k := by
  by_cases hn : n = 0
  · simp [bitLen, hn]
  · have := (Nat.pow_lt_pow_iff_right (a := 2) (by omega)).1 ((two_pow_le_of_bitLen hn).trans_lt h)
    omega

/-- `man` 2^`exp` are the leading bits of `v`, and `sticky` says whether anything lies below them. -/
structure Leads (man : Nat) (exp : Int) (sticky : Bool) (v : ℝ) : Prop where
  lower : man * (2 : ℝ) ^ exp ≤ v
  upper : v < (man + 1) * (2 : ℝ) ^ exp
  sticky_iff : sticky = true ↔ v ≠ man * (2 : ℝ) ^ exp

theorem leads_exact (man : Nat) (exp : Int) : Leads man exp false (man * (2 : ℝ) ^ exp) := by
  have unit : (0 : ℝ) < 2 ^ exp := by positivity
  exact ⟨le_rfl, by linarith, by simp⟩

theorem Leads.scaled {man : Nat} {exp : Int} {sticky : Bool} {v : ℝ} (h : Leads man exp sticky v) (k : Int) :
    Leads man (exp + k) sticky (v * 2 ^ k) := by
  have unit : (0 : ℝ) < 2 ^ k := by positivity
  have e : (2 : ℝ) ^ (exp + k) = 2 ^ exp * 2 ^ k := zpow_add₀ two_ne_zero ..
  refine ⟨?_, ?_, ?_⟩
  · rw [e, ← mul_assoc]; exact mul_le_mul_of_nonneg_right h.lower unit.le
  · rw [e, ← mul_assoc]; exact mul_lt_mul_of_pos_right h.upper unit
  · rw [e, ← mul_assoc, h.sticky_iff, ne_eq, ne_eq, mul_left_inj' unit.ne']

theorem Leads.two_pow_le {man : Nat} {exp : Int} {sticky : Bool} {v : ℝ} (h : Leads man exp sticky v) (hman : man ≠ 0) :
    (2 : ℝ) ^ (exp + bitLen man - 1) ≤ v := by
  have bits : (2 : ℝ) ^ (bitLen man - 1) ≤ man := by exact_mod_cast two_pow_le_of_bitLen hman
  have pos := bitLen_pos hman
  calc (2 : ℝ) ^ (exp + bitLen man - 1) = 2 ^ (bitLen man - 1) * 2 ^ exp := by
        rw [← zpow_natCast, ← zpow_add₀ two_ne_zero]; congr 1; omega
    _ ≤ man * 2 ^ exp := mul_le_mul_of_nonneg_right bits (by positivity)
    _ ≤ v := h.lower

theorem Leads.lt_two_pow {man : Nat} {exp : Int} {sticky : Bool} {v : ℝ} (h : Leads man exp sticky v) : v < (2 : ℝ) ^ (exp + bitLen man) := by
  have bits : (man + 1 : ℝ) ≤ 2 ^ bitLen man := by exact_mod_cast lt_two_pow_bitLen man
  calc v < (man + 1) * 2 ^ exp := h.upper
    _ ≤ 2 ^ bitLen man * 2 ^ exp := mul_le_mul_of_nonneg_right bits (by positivity)
    _ = 2 ^ (exp + bitLen man) := by rw [← zpow_natCast, ← zpow_add₀ two_ne_zero, add_comm]

/-! ### The integer part and the fraction of a value -/

/-- `p` is the split of `w`: its integer part, its fraction in units of 2^-34 cut short, and whether anything lies below. -/
structure Split.Of (p : Split) (w : ℝ) : Prop where
  int_le : (p.int : ℝ) ≤ w
  lt_int : w < p.int + 1
  frac_le : (p.frac : ℝ) ≤ (w - p.int) * 2 ^ 34
  lt_frac : (w - p.int) * 2 ^ 34 < p.frac + 1
  low_iff : p.low = true ↔ (w - p.int) * 2 ^ 34 ≠ p.frac

theorem splitAt_of {man : Nat} {sh : Int} {sticky : Bool} {w : ℝ} (h : Leads man (-sh) sticky w) (hs : sticky = true → 34 ≤ sh) :
    (splitAt man sh sticky).Of w := by
  obtain ⟨lower, upper, st⟩ := h
  unfold splitAt
  by_cases hsh : sh ≤ 0
  · obtain ⟨n, rfl⟩ : ∃ n : ℕ, sh = -n := ⟨sh.natAbs, by omega⟩
    obtain rfl : sticky = false := by
      cases sticky with
      | false => rfl
      | true => have := hs rfl; omega
    have whole : w = man * 2 ^ n := by simpa using st
    simp only [Left.neg_nonpos_iff, Nat.cast_nonneg, ↓reduceIte, Int.natAbs_neg, Int.natAbs_natCast]
    constructor <;> simp [whole]
  · obtain ⟨n, rfl⟩ : ∃ n : ℕ, sh = n := ⟨sh.natAbs, by omega⟩
    simp only [hsh, ↓reduceIte, Int.natAbs_natCast]
    have unit : (0 : ℝ) < 2 ^ n := by positivity
    simp only [zpow_neg, zpow_natCast, ← div_eq_mul_inv] at lower upper st
    rw [div_le_iff₀ unit] at lower
    rw [lt_div_iff₀ unit] at upper
    rw [ne_eq, eq_div_iff unit.ne'] at st
    -- man = a 2^n + r, and r 2^34 = f 2^n + g
    have ha := Nat.div_add_mod man (2 ^ n)
    have hr : man % 2 ^ n + 1 ≤ 2 ^ n := Nat.mod_lt man (Nat.two_pow_pos n)
    have hf := Nat.div_add_mod (man % 2 ^ n * 2 ^ 34) (2 ^ n)
    have hg := Nat.mod_lt (man % 2 ^ n * 2 ^ 34) (Nat.two_pow_pos n)
    generalize man / 2 ^ n = a at *
    generalize man % 2 ^ n = r at *
    have next : sticky = true → (r + 1) * 2 ^ 34 ≤ 2 ^ n * (r * 2 ^ 34 / 2 ^ n + 1) := by
      intro h
      obtain ⟨k, rfl⟩ : ∃ k, n = k + 34 := ⟨n - 34, by have := hs h; omega⟩
      rw [Nat.pow_add, Nat.mul_assoc, Nat.mul_comm (2 ^ 34), ← Nat.mul_assoc]
      refine Nat.mul_le_mul_right _ ?_
      rw [Nat.mul_div_mul_right _ _ (by norm_num)]
      exact Nat.lt_mul_div_succ _ (Nat.two_pow_pos k)
    generalize r * 2 ^ 34 / 2 ^ n = f at *
    generalize hgd : r * 2 ^ 34 % 2 ^ n = g at *
    rify at ha hr hf hg next
    have scaled : (w - a) * 2 ^ 34 * 2 ^ n = (w * 2 ^ n - man) * 2 ^ 34 + (2 ^ n * f + g) := by rw [hf, ← ha]; ring
    have gnn : (0 : ℝ) ≤ g := g.cast_nonneg
    refine ⟨le_of_mul_le_mul_right (by linarith) unit, lt_of_mul_lt_mul_right (by linarith) unit.le,
      le_of_mul_le_mul_right (by linarith) unit, lt_of_mul_lt_mul_right ?_ unit.le, ?_⟩
    · rcases Bool.eq_false_or_eq_true sticky with h | h
      · linarith [next h]
      · have : w * 2 ^ n = man := by simpa [h] using st
        linarith
    · have zero : (w - a) * 2 ^ 34 = f ↔ w * 2 ^ n = man ∧ g = 0 := by
        rw [← mul_left_inj' unit.ne', scaled]
        constructor
        · intro e
          have : (w * 2 ^ n - man) * 2 ^ 34 + (g : ℝ) = 0 := by linarith
          exact ⟨by linarith, by exact_mod_cast (by linarith : (g : ℝ) = 0)⟩
        · rintro ⟨e, rfl⟩
          rw [e]; push_cast; ring
      rw [Bool.or_eq_true, st, ne_eq, zero, bne_iff_ne]
      tauto

theorem Split.Of.inexact_iff {p : Split} {w : ℝ} (h : p.Of w) : p.inexact = true ↔ w ≠ p.int := by
  obtain ⟨int_le, -, frac_le, lt_frac, low⟩ := h
  rw [Split.inexact, Bool.or_eq_true, low, bne_iff_ne, ← sub_ne_zero (a := w)]
  constructor
  · rintro (h | h) e
    · rw [e, zero_mul] at frac_le
      exact h (by exact_mod_cast le_antisymm frac_le p.frac.cast_nonneg)
    · rw [e, zero_mul] at h frac_le
      exact h (le_antisymm p.frac.cast_nonneg frac_le)
  · intro h
    by_cases hf : p.frac = 0
    · exact .inr (by simpa [hf] using h)
    · exact .inl hf

theorem Split.inexact_of_up {p : Split} {mode : Nat} {neg even : Bool} {draw : Word} (h : p.up mode neg even draw = true) : p.inexact = true := by
  unfold Split.up at h
  exact (Bool.and_eq_true_iff.1 h).1

theorem Split.up_rtz (p : Split) (neg even : Bool) (draw : Word) : p.up 1 neg even draw = false := Bool.and_false _

/-- Which neighbour a mode delivers for a value between `lo` and `hi`: the farther one from zero, `odd` saying that `lo` is the odd one (03 R72, R74). -/
def GoesUp (mode : Nat) (draw : Word) (neg odd : Bool) (lo hi v : ℝ) : Prop :=
  v ≠ lo ∧
    (mode = 0 ∧ (lo + hi < 2 * v ∨ lo + hi = 2 * v ∧ odd = true) ∨ mode = 2 ∧ neg = true ∨ mode = 3 ∧ neg = false ∨
      mode = 4 ∧ lo + hi ≤ 2 * v ∨ mode = 5 ∧ (draw.toNat : ℤ) < ⌊(v - lo) / (hi - lo) * 2 ^ 32⌋)

/-- A common unit of the three numbers does not matter. -/
theorem goesUp_mul {c : ℝ} (hc : 0 < c) (mode : Nat) (draw : Word) (neg odd : Bool) (lo hi v : ℝ) :
    GoesUp mode draw neg odd (lo * c) (hi * c) (v * c) ↔ GoesUp mode draw neg odd lo hi v := by
  unfold GoesUp
  have twice : 2 * (v * c) = 2 * v * c := by ring
  rw [← add_mul, ← sub_mul, ← sub_mul, twice, mul_div_mul_right _ _ hc.ne', mul_lt_mul_iff_left₀ hc, mul_le_mul_iff_left₀ hc, mul_left_inj' hc.ne',
    ne_eq, mul_left_inj' hc.ne']

theorem Split.Of.up_iff {p : Split} {w : ℝ} (h : p.Of w) {mode : Nat} (hm : mode ≤ 5) (neg even : Bool) (draw : Word) :
    p.up mode neg even draw = true ↔ GoesUp mode draw neg (!even) p.int (p.int + 1) w := by
  obtain ⟨-, -, frac_le, lt_frac, low⟩ := id h
  unfold GoesUp
  unfold Split.up
  rw [Bool.and_eq_true, h.inexact_iff]
  refine and_congr_right fun _ => ?_
  -- in units of 2^-34 the middle is 2^33
  have above : (p.int : ℝ) + (p.int + 1) < 2 * w ↔ 2 ^ 33 < p.frac ∨ p.frac = 2 ^ 33 ∧ p.low = true := by
    have e : (p.int : ℝ) + (p.int + 1) < 2 * w ↔ 2 ^ 33 < (w - p.int) * 2 ^ 34 := ⟨fun _ => by linarith, fun _ => by linarith⟩
    rw [e, low]
    constructor
    · intro h
      have : 2 ^ 33 < p.frac + 1 := by exact_mod_cast h.trans lt_frac
      rcases eq_or_lt_of_le (Nat.lt_succ_iff.1 this) with hf | hf
      · exact .inr ⟨hf.symm, fun he => by rw [he, ← hf] at h; norm_num at h⟩
      · exact .inl hf
    · rintro (h | ⟨h, hne⟩)
      · exact lt_of_lt_of_le (by exact_mod_cast h) frac_le
      · refine lt_of_le_of_ne ?_ fun he => hne (by rw [h, ← he]; norm_num)
        rw [h] at frac_le
        exact_mod_cast frac_le
  have least : (p.int : ℝ) + (p.int + 1) ≤ 2 * w ↔ 2 ^ 33 ≤ p.frac := by
    have e : (p.int : ℝ) + (p.int + 1) ≤ 2 * w ↔ 2 ^ 33 ≤ (w - p.int) * 2 ^ 34 := ⟨fun _ => by linarith, fun _ => by linarith⟩
    rw [e]
    constructor
    · intro h
      have : 2 ^ 33 < p.frac + 1 := by exact_mod_cast h.trans_lt lt_frac
      omega
    · exact fun h => le_trans (by exact_mod_cast h) frac_le
  have middle : (p.int : ℝ) + (p.int + 1) = 2 * w ↔ p.frac = 2 ^ 33 ∧ ¬ p.low = true := by
    rw [eq_iff_le_not_lt, least, above]
    cases p.low <;> simp <;> omega
  have quarter : ⌊(w - p.int) * 2 ^ 32⌋ = (p.frac / 4 : Nat) := by
    have whole : p.frac = ⌊(w - p.int) * 2 ^ 34⌋₊ := ((Nat.floor_eq_iff (p.frac.cast_nonneg.trans frac_le)).2 ⟨frac_le, lt_frac⟩).symm
    have e : (w - p.int) * 2 ^ 32 = (w - p.int) * 2 ^ 34 / (4 : ℕ) := by push_cast; ring
    rw [e, whole, ← Nat.floor_div_natCast, Int.natCast_floor_eq_floor]
    rw [← e]
    have := p.frac.cast_nonneg.trans frac_le
    linarith
  rw [add_sub_cancel_left, div_one, quarter, above, least, middle]
  interval_cases mode
  · cases even <;> cases p.low <;> simp
  all_goals simp
  constructor <;> omega

/-! ### Rounding to a format -/

/-- Whether a mode delivers infinity where the rounded value overflows (03 R72). -/
abbrev ToInf (mode : Nat) (neg : Bool) : Prop := mode = 0 ∨ mode = 4 ∨ mode = 5 ∨ (mode = 2 ∧ neg = true) ∨ (mode = 3 ∧ (!neg) = true)

/-- What `froundWith` delivers of a value that lies between the patterns `p` and `p` + 1 (03 R67, R69, R72, R74). -/
structure Fmt.Rounds (m : Fmt) (mode : Nat) (draw : Word) (neg : Bool) (v : ℝ) (p : Nat) (r : Nat × Word) : Prop where
  lower : m.mag p ≤ v
  upper : v < m.mag (p + 1)
  result : ∃ up : Bool, (up = true → v ≠ m.mag p) ∧ (mode = 1 → up = false) ∧
    (mode ≤ 5 → (up = true ↔ GoesUp mode draw neg (p % 2 == 1) (m.mag p) (m.mag (p + 1)) v)) ∧
    (m.top ≤ p + up.toNat → r.1 = (if ToInf mode neg then m.inf neg else m.maxFinite neg) ∧ r.2 = flagOf ||| flagNx) ∧
    (p + up.toNat < m.top → r.1 = m.sign neg + (p + up.toNat) ∧
      ∃ tiny : Bool, r.2 = flagIf (decide (v ≠ m.mag p)) flagNx ||| flagIf (tiny && decide (v ≠ m.mag p)) flagUf)

/-- A rounded number of units overflows when its pattern would reach the pattern of infinity. -/
theorem overflow_iff {m : Fmt} (he : 2 ≤ m.eb) {b n : Nat} (hb : b = 0 ∨ 2 ^ m.fb ≤ n) (hn : n ≤ 2 ^ (m.fb + 1)) {q : Int}
    (hq : q = b + (m.emin - m.fb)) :
    (n ≠ 0 ∧ (m.bias : Int) < q + bitLen n - 1) ↔ m.top ≤ b * 2 ^ m.fb + n := by
  obtain ⟨ones, bias⟩ := ones_eq he
  have pos := Nat.two_pow_pos m.fb
  rw [Fmt.top, ones, hq, Fmt.emin]
  by_cases small : n < 2 ^ m.fb
  · obtain rfl : b = 0 := by omega
    have := bitLen_le small
    constructor
    · omega
    · intro h; nlinarith
  have hn0 : n ≠ 0 := by omega
  by_cases last : n = 2 ^ (m.fb + 1)
  · rw [last, bitLen_eq le_rfl (Nat.pow_lt_pow_right (by omega) (by omega)), Nat.pow_succ]
    have e : b * 2 ^ m.fb + 2 ^ m.fb * 2 = (b + 2) * 2 ^ m.fb := by ring
    rw [e, Nat.mul_le_mul_right_iff pos]
    have : 2 ^ m.fb * 2 ≠ 0 := by omega
    omega
  · rw [bitLen_eq (k := m.fb) (by omega) (by omega)]
    rw [Nat.pow_succ] at hn last
    have e : (2 * m.bias + 1) * 2 ^ m.fb ≤ b * 2 ^ m.fb + n ↔ 2 * m.bias + 1 ≤ b + 1 := by
      constructor
      · intro h
        have : (2 * m.bias + 1) * 2 ^ m.fb < (b + 2) * 2 ^ m.fb := by rw [Nat.add_mul b]; omega
        have := Nat.lt_of_mul_lt_mul_right this
        omega
      · intro h
        have := Nat.mul_le_mul_right (2 ^ m.fb) h
        rw [Nat.add_mul b] at this
        omega
    rw [e]
    omega

/-- The pattern that the fields of a result are put together to. -/
theorem pattern_eq {m : Fmt} {b n : Nat} (hb : b = 0 ∨ 2 ^ m.fb ≤ n) (hn : n ≤ 2 ^ (m.fb + 1)) {q : Int} (hq : q = b + (m.emin - m.fb)) :
    (let (n, q) := if 2 ^ (m.fb + 1) ≤ n then (n / 2, q + 1) else (n, q)
      if n < 2 ^ m.fb then n else (q + m.fb + m.bias).toNat * 2 ^ m.fb + (n - 2 ^ m.fb)) = b * 2 ^ m.fb + n := by
  have pos := Nat.two_pow_pos m.fb
  rw [hq, Fmt.emin]
  by_cases last : n = 2 ^ (m.fb + 1)
  · have half : 2 ^ (m.fb + 1) / 2 = 2 ^ m.fb := by rw [Nat.pow_succ, Nat.mul_div_cancel _ (by omega)]
    have e : ((b : Int) + (1 - m.bias - m.fb) + 1 + m.fb + m.bias).toNat = b + 2 := by omega
    simp only [last, le_refl, ↓reduceIte, half, lt_irrefl, Nat.sub_self, e]
    ring
  · have e : ((b : Int) + (1 - m.bias - m.fb) + m.fb + m.bias).toNat = b + 1 := by omega
    simp only [show ¬ 2 ^ (m.fb + 1) ≤ n by omega, ↓reduceIte, e]
    split
    · obtain rfl : b = 0 := by omega
      omega
    · rw [Nat.add_mul]; omega

/-- `p` is `v` in units of the last place of the format's step `b`, 2^`q` each. -/
structure Units (m : Fmt) (v : ℝ) (q : Int) (b : Nat) (p : Split) : Prop where
  place : q = b + (m.emin - m.fb)
  below : p.int < 2 ^ (m.fb + 1)
  above : b = 0 ∨ 2 ^ m.fb ≤ p.int
  split : p.Of (v * 2 ^ (-q))

/-- The leading bits of a value, taken in the unit that its leading place asks for. -/
theorem Leads.exists_units {m : Fmt} {man : Nat} {exp : Int} {sticky : Bool} {v : ℝ} (hv : Leads man exp sticky v)
    (hman : man ≠ 0) (hs : sticky = true → m.fb + 35 ≤ bitLen man) {q : Int} (hq : q = max (exp + bitLen man - 1 - m.fb) (m.emin - m.fb)) :
    ∃ b, Units m v q b (splitAt man (q - exp) sticky) := by
  have unit : (0 : ℝ) < 2 ^ (-q) := by positivity
  have scaled := hv.scaled (-q)
  have split := splitAt_of (man := man) (sh := q - exp) (sticky := sticky) (by rwa [show exp + -q = -(q - exp) by ring] at scaled)
    (fun h => by have := hs h; omega)
  refine ⟨(q - (m.emin - m.fb)).toNat, by omega, ?_, or_iff_not_imp_left.2 fun hb => Nat.lt_succ_iff.1 ?_, split⟩
  · have : ((splitAt man (q - exp) sticky).int : ℝ) < 2 ^ (m.fb + 1) :=
      calc ((splitAt man (q - exp) sticky).int : ℝ) ≤ v * 2 ^ (-q) := split.int_le
        _ < 2 ^ (exp + bitLen man) * 2 ^ (-q) := mul_lt_mul_of_pos_right hv.lt_two_pow unit
        _ = 2 ^ (exp + bitLen man + -q) := (zpow_add₀ two_ne_zero ..).symm
        _ ≤ 2 ^ ((m.fb + 1 : Nat) : ℤ) := zpow_le_zpow_right₀ one_le_two (by omega)
        _ = 2 ^ (m.fb + 1) := zpow_natCast ..
    exact_mod_cast this
  · have : 2 ^ m.fb < ((splitAt man (q - exp) sticky).int : ℝ) + 1 :=
      calc (2 : ℝ) ^ m.fb = 2 ^ (exp + bitLen man - 1) * 2 ^ (-q) := by
            rw [← zpow_natCast, ← zpow_add₀ two_ne_zero]; congr 1; omega
        _ ≤ v * 2 ^ (-q) := mul_le_mul_of_nonneg_right (hv.two_pow_le hman) unit.le
        _ < (splitAt man (q - exp) sticky).int + 1 := split.lt_int
    exact_mod_cast this

theorem scaled_back (v : ℝ) (q : Int) : v * 2 ^ (-q) * 2 ^ q = v := by
  rw [mul_assoc, ← zpow_add₀ two_ne_zero, neg_add_cancel, zpow_zero, mul_one]

section
variable {m : Fmt} {v : ℝ} {q : Int} {b : Nat} {p : Split} (h : Units m v q b p)
include h

theorem Units.mag : m.mag (b * 2 ^ m.fb + p.int) = p.int * 2 ^ q := by rw [mag_step m h.above h.below.le, ← h.place]

theorem Units.mag_succ : m.mag (b * 2 ^ m.fb + p.int + 1) = (p.int + 1) * 2 ^ q := by
  have above := h.above
  rw [Nat.add_assoc, mag_step m (by omega) h.below, ← h.place, Nat.cast_succ]

theorem Units.lower : m.mag (b * 2 ^ m.fb + p.int) ≤ v := by
  rw [h.mag, ← scaled_back v q]
  exact mul_le_mul_of_nonneg_right h.split.int_le (by positivity)

theorem Units.upper : v < m.mag (b * 2 ^ m.fb + p.int + 1) := by
  rw [h.mag_succ, ← scaled_back v q]
  exact mul_lt_mul_of_pos_right h.split.lt_int (by positivity)

theorem Units.inexact_eq : p.inexact = decide (v ≠ m.mag (b * 2 ^ m.fb + p.int)) := by
  have unit : (2 : ℝ) ^ q ≠ 0 := by positivity
  rw [Bool.eq_iff_iff, decide_eq_true_eq, h.split.inexact_iff, h.mag, ne_eq, ne_eq, ← mul_left_inj' unit, scaled_back]

theorem Units.up_iff (hf : 1 ≤ m.fb) {mode : Nat} (hm : mode ≤ 5) (neg : Bool) (draw : Word) : p.up mode neg (p.int % 2 == 0) draw = true ↔
    GoesUp mode draw neg ((b * 2 ^ m.fb + p.int) % 2 == 1) (m.mag (b * 2 ^ m.fb + p.int)) (m.mag (b * 2 ^ m.fb + p.int + 1)) v := by
  have parity : (b * 2 ^ m.fb + p.int) % 2 = p.int % 2 := by
    obtain ⟨k, hk⟩ : ∃ k, m.fb = k + 1 := ⟨m.fb - 1, by omega⟩
    rw [hk, Nat.pow_succ, ← Nat.mul_assoc, Nat.mul_comm, Nat.mul_add_mod]
  have odd : (p.int % 2 == 1) = !(p.int % 2 == 0) := by
    rcases Nat.mod_two_eq_zero_or_one p.int with h | h <;> simp [h]
  rw [h.split.up_iff hm, parity, h.mag, h.mag_succ, odd]
  conv_rhs => rw [← scaled_back v q]
  exact (goesUp_mul (by positivity) ..).symm
end

/-- One rounding of a non-zero value, whose leading bits may be cut short where they are many. -/
theorem froundWith_rounds {m : Fmt} (he : 2 ≤ m.eb) (hf : 1 ≤ m.fb) {man : Nat} {exp : Int} {sticky : Bool} {v : ℝ} (hv : Leads man exp sticky v)
    (hman : man ≠ 0) (hs : sticky = true → m.fb + 35 ≤ bitLen man) (mode : Nat) (draw : Word) (neg : Bool) :
    ∃ p, m.Rounds mode draw neg v p (froundWith m mode draw neg man exp sticky) := by
  obtain ⟨q, hq⟩ : ∃ q : Int, q = max (exp + bitLen man - 1 - m.fb) (m.emin - m.fb) := ⟨_, rfl⟩
  obtain ⟨b, units⟩ := hv.exists_units hman hs hq
  obtain ⟨p, hp⟩ : ∃ p, p = splitAt man (q - exp) sticky := ⟨_, rfl⟩
  rw [← hp] at units
  obtain ⟨up, hup⟩ : ∃ up, up = p.up mode neg (p.int % 2 == 0) draw := ⟨_, rfl⟩
  have rounded : p.int + (if up then 1 else 0) = p.int + up.toNat := by cases up <;> rfl
  have fits : p.int + up.toNat ≤ 2 ^ (m.fb + 1) := by have := units.below; have := up.toNat_le; omega
  have above : b = 0 ∨ 2 ^ m.fb ≤ p.int + up.toNat := by have := units.above; omega
  have overflow := overflow_iff he above fits units.place
  refine ⟨b * 2 ^ m.fb + p.int, units.lower, units.upper, up, fun h => ?_, ?_, fun h => hup ▸ units.up_iff hf h neg draw, fun h => ?_, fun h => ?_⟩
  · have inexact := Split.inexact_of_up (hup ▸ h)
    rwa [units.inexact_eq, decide_eq_true_eq] at inexact
  · rintro rfl
    rw [hup, Split.up_rtz]
  · rw [Nat.add_assoc, ← overflow] at h
    unfold froundWith
    simp only [hman, ↓reduceIte, ← hq, ← hp, ← hup, rounded, if_pos h, and_self]
  · rw [Nat.add_assoc, ← Nat.not_le, ← overflow] at h
    have fields := pattern_eq above fits units.place
    unfold froundWith
    simp only [hman, ↓reduceIte, ← hq, ← hp, ← hup, rounded, if_neg h]
    exact ⟨by rw [Nat.add_assoc, ← fields]; rfl, _, by rw [units.inexact_eq]⟩

/-- The pattern that is delivered, without its sign, is at most that of infinity. -/
theorem Fmt.Rounds.exists_pattern {m : Fmt} {mode : Nat} {draw : Word} {neg : Bool} {v : ℝ} {p : Nat} {r : Nat × Word}
    (h : m.Rounds mode draw neg v p r) (htop : 0 < m.top) : ∃ q, q ≤ m.top ∧ r.1 = m.sign neg + q := by
  obtain ⟨up, -, -, -, past, within⟩ := h.result
  rcases Nat.lt_or_ge (p + up.toNat) m.top with hp | hp
  · exact ⟨_, hp.le, (within hp).1⟩
  · rw [(past hp).1]
    split
    · exact ⟨m.top, le_rfl, rfl⟩
    · exact ⟨m.top - 1, by omega, by rw [Fmt.maxFinite, inf_eq, Nat.add_sub_assoc htop]⟩

/-- The result for a value of a pattern: that pattern, and no flag. -/
theorem Fmt.Rounds.exact {m : Fmt} {mode : Nat} {draw : Word} {neg : Bool} {p q : Nat} {r : Nat × Word}
    (h : m.Rounds mode draw neg (m.mag q) p r) (hq : q < m.top) : r = (m.sign neg + q, 0) := by
  obtain rfl := eq_of_mag_le_of_lt h.lower h.upper le_rfl (mag_lt_succ m q)
  obtain ⟨up, hup, -, -, -, within⟩ := h.result
  obtain rfl : up = false := Bool.eq_false_iff.2 fun h => hup h rfl
  obtain ⟨h1, tiny, h2⟩ := within hq
  exact Prod.ext h1 (by rw [h2]; cases tiny <;> simp [flagIf])

/-- A mode's result for a value, without the flags: the neighbour that the mode asks for, or what it delivers past the largest finite value
(03 R67, R72, R74). -/
def RoundsTo (m : Fmt) (mode : Nat) (draw : Word) (neg : Bool) (v : ℝ) (r : Nat) : Prop :=
  (m.mag m.top ≤ v → r = m.sign neg + if mode = 1 ∨ mode = 2 ∧ neg = false ∨ mode = 3 ∧ neg = true then m.top - 1 else m.top) ∧
  (0 ≤ v → v < m.mag m.top → ∃ p, p < m.top ∧ m.mag p ≤ v ∧ v < m.mag (p + 1) ∧
    (GoesUp mode draw neg (p % 2 == 1) (m.mag p) (m.mag (p + 1)) v → r = m.sign neg + (p + 1)) ∧
    (¬ GoesUp mode draw neg (p % 2 == 1) (m.mag p) (m.mag (p + 1)) v → r = m.sign neg + p))

theorem Fmt.Rounds.roundsTo {m : Fmt} {mode : Nat} {draw : Word} {neg : Bool} {v : ℝ} {p : Nat} {r : Nat × Word}
    (h : m.Rounds mode draw neg v p r) (htop : 0 < m.top) (hm : mode ≤ 5) : RoundsTo m mode draw neg v r.1 := by
  obtain ⟨lower, upper, up, -, -, goes, past, within⟩ := h
  have goes := goes hm
  constructor
  · intro big
    have := (mag_strictMono m).lt_iff_lt.1 (big.trans_lt upper)
    rw [(past (by omega)).1]
    by_cases hi : ToInf mode neg
    · rw [if_pos hi, if_neg (by revert hi; unfold ToInf; cases neg <;> simp <;> omega), inf_eq]
    · rw [if_neg hi, if_pos (by revert hi; unfold ToInf; cases neg <;> simp <;> omega), Fmt.maxFinite, inf_eq, Nat.add_sub_assoc htop]
  · intro _ small
    have hp := (mag_strictMono m).lt_iff_lt.1 (lower.trans_lt small)
    refine ⟨p, hp, lower, upper, fun hg => ?_, fun hg => ?_⟩
    · obtain rfl := goes.2 hg
      rcases Nat.lt_or_ge (p + 1) m.top with hp' | hp'
      · exact (within hp').1
      · have inf : ToInf mode neg := by
          obtain ⟨-, h | h | h | h | h⟩ := hg
          · exact .inl h.1
          · exact .inr (.inr (.inr (.inl h)))
          · exact .inr (.inr (.inr (.inr ⟨h.1, by rw [h.2]; rfl⟩)))
          · exact .inr (.inl h.1)
          · exact .inr (.inr (.inl h.1))
        rw [(past hp').1, if_pos inf, inf_eq]
        congr 1; omega
    · obtain rfl : up = false := Bool.eq_false_iff.2 (mt goes.1 hg)
      exact (within hp).1

/-- Zero is delivered as it is. -/
theorem roundsTo_zero {m : Fmt} (htop : 0 < m.top) (mode : Nat) (draw : Word) (neg : Bool) : RoundsTo m mode draw neg 0 (m.sign neg) := by
  have pos : 0 < m.mag m.top := mag_zero m ▸ mag_strictMono m htop
  refine ⟨fun h => absurd h pos.not_ge, fun _ _ => ⟨0, htop, (mag_zero m).le, ?_, fun h => absurd (mag_zero m).symm h.1, fun _ => rfl⟩⟩
  exact mag_zero m ▸ mag_lt_succ m 0

/-- Each mode's result of one rounding. -/
theorem froundWith_roundsTo {m : Fmt} (he : 2 ≤ m.eb) (hf : 1 ≤ m.fb) {man : Nat} {exp : Int} {sticky : Bool} {v : ℝ} (hv : Leads man exp sticky v)
    (hman : man = 0 → v = 0) (hs : sticky = true → m.fb + 35 ≤ bitLen man) {mode : Nat} (hm : mode ≤ 5) (draw : Word) (neg : Bool) :
    RoundsTo m mode draw neg v (froundWith m mode draw neg man exp sticky).1 := by
  have htop : 0 < m.top := Nat.mul_pos (by have := ones_eq he; omega) (Nat.two_pow_pos _)
  by_cases h0 : man = 0
  · rw [hman h0, froundWith, if_pos h0]
    exact roundsTo_zero htop mode draw neg
  · obtain ⟨p, h⟩ := froundWith_rounds he hf hv h0 hs mode draw neg
    exact h.roundsTo htop hm

/-- A value of the format is delivered as it is. -/
theorem froundWith_exact {m : Fmt} (he : 2 ≤ m.eb) (hf : 1 ≤ m.fb) {man : Nat} {exp : Int} {q : Nat} (hv : man * (2 : ℝ) ^ exp = m.mag q)
    (hq : q < m.top) (mode : Nat) (draw : Word) (neg : Bool) : froundWith m mode draw neg man exp false = (m.sign neg + q, 0) := by
  by_cases h0 : man = 0
  · obtain rfl : q = 0 := by
      refine (mag_strictMono m).injective ?_
      rw [mag_zero, ← hv, h0]; simp
    rw [froundWith, if_pos h0]; rfl
  · obtain ⟨p, h⟩ := froundWith_rounds he hf (leads_exact man exp) h0 (by simp) mode draw neg
    rw [hv] at h
    exact h.exact hq

/-! ### Patterns read back -/

/-- The fields of a pattern with its sign are those of the pattern without it. -/
theorem fdecode_sign (m : Fmt) (neg : Bool) {p : Nat} (hp : p < 2 ^ (m.eb + m.fb)) : fdecode m (m.sign neg + p) =
    if p / 2 ^ m.fb = m.ones then (if p % 2 ^ m.fb = 0 then .inf neg else .nan (decide (p % 2 ^ m.fb < 2 ^ (m.fb - 1))))
    else if p / 2 ^ m.fb = 0 then .fin neg (p % 2 ^ m.fb) (m.emin - m.fb)
    else .fin neg (p % 2 ^ m.fb + 2 ^ m.fb) (((p / 2 ^ m.fb : Nat) : Int) - m.bias - m.fb) := by
  have hsign : m.sign neg = neg.toNat * 2 ^ (m.eb + m.fb) := by cases neg <;> simp [Fmt.sign]
  have hexp : p / 2 ^ m.fb < 2 ^ m.eb := by rw [Nat.div_lt_iff_lt_mul (Nat.two_pow_pos _), ← Nat.pow_add]; exact hp
  have split : m.sign neg + p = (neg.toNat * 2 ^ m.eb + p / 2 ^ m.fb) * 2 ^ m.fb + p % 2 ^ m.fb := by
    rw [hsign, Nat.add_mul, Nat.mul_assoc, ← Nat.pow_add, Nat.add_assoc, Nat.div_add_mod']
  have hs : (m.sign neg + p) / 2 ^ (m.eb + m.fb) % 2 = neg.toNat := by
    rw [hsign, (quot_rem hp).1]; cases neg <;> rfl
  have low := Nat.mod_lt p (Nat.two_pow_pos m.fb)
  have he : (m.sign neg + p) / 2 ^ m.fb % 2 ^ m.eb = p / 2 ^ m.fb := by rw [split, (quot_rem low).1, (quot_rem hexp).2]
  have hf : (m.sign neg + p) % 2 ^ m.fb = p % 2 ^ m.fb := by rw [split, (quot_rem low).2]
  unfold fdecode
  simp only [hs, he, hf]
  cases neg <;> rfl

theorem top_lt (m : Fmt) : m.top < 2 ^ (m.eb + m.fb) := by
  rw [Fmt.top, Fmt.ones, Nat.pow_add]
  exact Nat.mul_lt_mul_of_pos_right (by have := Nat.two_pow_pos m.eb; omega) (Nat.two_pow_pos _)

/-- A finite pattern stands for its magnitude, in units of the distance to the next one. -/
theorem fdecode_finite {m : Fmt} {p : Nat} (hp : p < m.top) (neg : Bool) :
    ∃ k e, fdecode m (m.sign neg + p) = .fin neg k e ∧ (k : ℝ) * 2 ^ e = m.mag p ∧ ((k : ℝ) + 1) * 2 ^ e = m.mag (p + 1) ∧
      k < 2 ^ (m.fb + 1) ∧ m.emin - m.fb ≤ e := by
  have hexp : p / 2 ^ m.fb ≠ m.ones := (Nat.div_lt_of_lt_mul (by rw [Nat.mul_comm]; exact hp)).ne
  rw [fdecode_sign m neg (hp.trans (top_lt m)), if_neg hexp]
  obtain ⟨b, n, rfl, hb, hn⟩ := exists_step m p
  have lo := mag_step m hb hn.le
  have hi := mag_step m (b := b) (n := n + 1) (by omega) hn
  rw [← Nat.add_assoc, Nat.cast_add, Nat.cast_one] at hi
  by_cases small : n < 2 ^ m.fb
  · obtain rfl : b = 0 := by omega
    rw [(quot_rem small).1, (quot_rem small).2, if_pos rfl]
    refine ⟨_, _, rfl, ?_, ?_, hn, le_rfl⟩
    · rw [lo]; simp
    · rw [hi]; simp
  · have hr : n - 2 ^ m.fb < 2 ^ m.fb := by rw [Nat.pow_succ] at hn; omega
    have e : b * 2 ^ m.fb + n = (b + 1) * 2 ^ m.fb + (n - 2 ^ m.fb) := by rw [Nat.add_mul]; omega
    have hexp : ((b + 1 : Nat) : Int) - m.bias - m.fb = b + (m.emin - m.fb) := by rw [Fmt.emin]; push_cast; ring
    rw [lo, hi, e, (quot_rem hr).1, (quot_rem hr).2, if_neg (by omega), hexp, Nat.sub_add_cancel (by omega)]
    exact ⟨_, _, rfl, rfl, rfl, hn, by omega⟩

theorem fdecode_top (m : Fmt) (neg : Bool) : fdecode m (m.sign neg + m.top) = .inf neg := by
  have e := quot_rem (k := m.fb) (c := m.ones) (r := 0) (Nat.two_pow_pos _)
  rw [fdecode_sign m neg (top_lt m), Fmt.top]
  rw [Nat.add_zero] at e
  rw [e.1, e.2, if_pos rfl, if_pos rfl]

/-- Beyond the pattern of infinity stand the NaNs. -/
theorem fdecode_nan {m : Fmt} {p : Nat} (hp : m.top < p) (hlt : p < 2 ^ (m.eb + m.fb)) (neg : Bool) :
    fdecode m (m.sign neg + p) = .nan (decide (p % 2 ^ m.fb < 2 ^ (m.fb - 1))) := by
  have hexp : p / 2 ^ m.fb = m.ones := by
    refine Nat.le_antisymm ?_ ((Nat.le_div_iff_mul_le (Nat.two_pow_pos _)).2 hp.le)
    have : p / 2 ^ m.fb < 2 ^ m.eb := by rw [Nat.div_lt_iff_lt_mul (Nat.two_pow_pos _), ← Nat.pow_add]; exact hlt
    unfold Fmt.ones; omega
  have hfrac : p % 2 ^ m.fb ≠ 0 := by
    intro h
    have := Nat.div_add_mod' p (2 ^ m.fb)
    rw [hexp, h] at this
    exact hp.ne this
  rw [fdecode_sign m neg hlt, if_pos hexp, if_neg hfrac]

/-- A result of one rounding is a sign and a pattern up to that of infinity. -/
theorem froundWith_pattern {m : Fmt} (he : 2 ≤ m.eb) (hf : 1 ≤ m.fb) (mode : Nat) (draw : Word) (neg : Bool) (man : Nat) (exp : Int) :
    ∃ q, q ≤ m.top ∧ (froundWith m mode draw neg man exp false).1 = m.sign neg + q := by
  have htop : 0 < m.top := Nat.mul_pos (by have := ones_eq he; omega) (Nat.two_pow_pos _)
  by_cases h0 : man = 0
  · exact ⟨0, Nat.zero_le _, by rw [froundWith, if_pos h0]; rfl⟩
  · obtain ⟨p, h⟩ := froundWith_rounds he hf (leads_exact man exp) h0 (by simp) mode draw neg
    exact h.exists_pattern htop

/-- A result of one rounding is no NaN (03 R66, R67). -/
theorem froundWith_not_nan {m : Fmt} (he : 2 ≤ m.eb) (hf : 1 ≤ m.fb) (mode : Nat) (draw : Word) (neg : Bool) (man : Nat) (exp : Int) :
    (fdecode m (froundWith m mode draw neg man exp false).1).isNan = false := by
  obtain ⟨q, hq, hr⟩ := froundWith_pattern he hf mode draw neg man exp
  rw [hr]
  rcases hq.eq_or_lt with rfl | hlt
  · rw [fdecode_top]; rfl
  · obtain ⟨k, e, h, -⟩ := fdecode_finite hlt neg
    rw [h]; rfl

/-- It fits the format's width. -/
theorem froundWith_lt {m : Fmt} (he : 2 ≤ m.eb) (hf : 1 ≤ m.fb) (mode : Nat) (draw : Word) (neg : Bool) (man : Nat) (exp : Int) :
    (froundWith m mode draw neg man exp false).1 < 2 ^ (m.eb + m.fb + 1) := by
  obtain ⟨q, hq, hr⟩ := froundWith_pattern he hf mode draw neg man exp
  have := top_lt m
  have sign : m.sign neg ≤ 2 ^ (m.eb + m.fb) := by cases neg <;> simp [Fmt.sign]
  rw [hr, Nat.pow_succ]
  omega

end Sys2Proof.Machine
end

section
/-! The canonical NaN (03 R66, R68) and rounding toward zero (03 R72). -/

namespace Sys2Proof.Machine

/-- The three formats are wide enough for the laws of rounding. -/
theorem format_facts {m : Fmt} (hm : m = fp32 ∨ m = fp16 ∨ m = bf16) :
    2 ≤ m.eb ∧ 1 ≤ m.fb ∧ 0 < m.top := by
  obtain rfl | rfl | rfl := hm <;> decide

/-! ### NaN results -/

/-- No result of an arithmetic function is another NaN than the canonical one. -/
theorem Arith.eq_canon {m : Fmt} (hm : m = fp32 ∨ m = fp16 ∨ m = bf16) {fx : Fx} {r : Nat × Fx} (h : Arith m fx r)
    (hn : (fdecode m r.1).isNan = true) : r.1 = m.canon := by
  obtain ⟨he, hf, -⟩ := format_facts hm
  cases h with
  | canon flags => rfl
  | inf neg => rw [show (fconst (m.inf neg) 0 fx).1 = m.sign neg + m.top from rfl, fdecode_top] at hn; cases hn
  | rounded neg man exp =>
    rw [fround, froundWith_not_nan he hf] at hn
    cases hn

theorem faddV_nan_left (m : Fmt) {x : FVal} (hx : x.isNan = true) (y : FVal) (fx : Fx) : (faddV m x y fx).1 = m.canon := by
  cases x with
  | nan => rfl
  | inf | fin => cases hx

theorem faddV_nan_right (m : Fmt) (x : FVal) {y : FVal} (hy : y.isNan = true) (fx : Fx) : (faddV m x y fx).1 = m.canon := by
  cases y with
  | nan => cases x <;> rfl
  | inf | fin => cases hy

theorem fmulV_nan_left (m : Fmt) {x : FVal} (hx : x.isNan = true) (y : FVal) (fx : Fx) : (fmulV m x y fx).1 = m.canon := by
  cases x with
  | nan => rfl
  | inf | fin => cases hx

theorem fmulV_nan_right (m : Fmt) (x : FVal) {y : FVal} (hy : y.isNan = true) (fx : Fx) : (fmulV m x y fx).1 = m.canon := by
  cases y with
  | nan => cases x <;> rfl
  | inf | fin => cases hy

/-- Zero times infinity beside a NaN gives the canonical NaN too (03 R69). -/
theorem fmaV_nan (m : Fmt) {x y z : FVal} (h : (x.isNan || y.isNan || z.isNan) = true) (fx : Fx) : (fmaV m x y z fx).1 = m.canon := by
  unfold fmaV
  rw [if_pos h]
  dsimp only
  split
  all_goals split <;> rfl

theorem fconvV_nan (m : Fmt) {x : FVal} (hx : x.isNan = true) (fx : Fx) : (fconvV m x fx).1 = m.canon := by
  cases x with
  | nan => rfl
  | inf | fin => cases hx

/-- Settles O16: a result of one rounding is finite or infinite, and every NaN operand is found before anything is computed. -/
theorem nanResults : Obligations.NanResults := by
  unfold Obligations.NanResults
  intro m hm x y z fx
  refine ⟨?_, fun hx => ⟨faddV_nan_left m hx y fx, fmulV_nan_left m hx y fx, fmaV_nan m (by simp [hx]) fx, fconvV_nan m hx fx⟩,
    fun hy => ⟨faddV_nan_right m x hy fx, fmulV_nan_right m x hy fx, fmaV_nan m (by simp [hy]) fx⟩,
    fun hz => fmaV_nan m (by simp [hz]) fx, rfl, rfl, rfl⟩
  simp only [List.forall_mem_cons, List.not_mem_nil, false_imp_iff, implies_true, and_true]
  exact ⟨(arith_faddV m x y fx).eq_canon hm, (arith_fmulV m x y fx).eq_canon hm, (arith_fmaV m x y z fx).eq_canon hm,
    (arith_fconvV m x fx).eq_canon hm⟩

/-! ### Rounding toward zero -/

/-- `nx` says whether a result within the range is its value. -/
theorem nx_iff (c : Prop) [Decidable c] (tiny : Bool) :
    (flagIf (decide (¬c)) flagNx ||| flagIf (tiny && decide (¬c)) flagUf) &&& flagNx = 0 ↔ c := by
  by_cases h : c
  · simp [h, flagIf]
  · cases tiny <;> simp [h, flagIf] <;> decide

/-- Under `rtz` the pattern below a value is delivered, the largest finite one past the range (03 R72). -/
theorem Fmt.Rounds.towardZero {m : Fmt} {draw : Word} {neg : Bool} {v : ℝ} {p : Nat} {r : Nat × Word}
    (h : m.Rounds 1 draw neg v p r) (htop : 0 < m.top) : ∃ q, q < m.top ∧ r.1 = m.sign neg + q ∧ m.mag q ≤ v ∧
      (v < m.mag (q + 1) ∨ r.1 = m.maxFinite neg) ∧ (r.2 &&& flagNx = 0 ↔ m.mag q = v) := by
  obtain ⟨lower, upper, up, -, still, -, past, within⟩ := h
  obtain rfl := still rfl
  rcases Nat.lt_or_ge p m.top with hp | hp
  · obtain ⟨value, tiny, flags⟩ := within hp
    exact ⟨p, hp, value, lower, .inl upper, by rw [flags, nx_iff, eq_comm]⟩
  · obtain ⟨value, flags⟩ := past hp
    have below : m.mag (m.top - 1) < v := (mag_strictMono m (by omega)).trans_le lower
    rw [if_neg (by simp [ToInf])] at value
    refine ⟨m.top - 1, by omega, by rw [value, Fmt.maxFinite, inf_eq, Nat.add_sub_assoc htop], below.le, .inr value, ?_⟩
    rw [flags]
    exact ⟨fun h => absurd h (by decide), fun h => absurd h below.ne⟩

/-- Settles O18: toward zero one of the two neighbours of the exact value is always taken, the lower one. -/
theorem roundsTowardZero : Obligations.RoundsTowardZero := by
  unfold Obligations.RoundsTowardZero
  intro m hm neg man exp hman r
  obtain ⟨he, hf, htop⟩ := format_facts hm
  obtain ⟨p, h⟩ := froundWith_rounds he hf (leads_exact man exp) hman (by simp) 1 0 neg
  obtain ⟨q, hq, value, lower, upper, flags⟩ := h.towardZero htop
  obtain ⟨k, e, decoded, atQ, next, -⟩ := fdecode_finite hq neg
  rw [← atQ] at lower flags
  rw [← next] at upper
  refine ⟨k, e, value ▸ decoded, ?_, ?_, ?_⟩
  · rw [← Rat.cast_le (K := ℝ)]; push_cast; exact lower
  · rw [← Rat.cast_lt (K := ℝ)]; push_cast; exact upper
  · rw [← Rat.cast_inj (α := ℝ)]; push_cast; exact flags

end Sys2Proof.Machine
end

section
/-! The check of a tagged block (03 R82): what a changed byte does to it. -/

namespace Sys2Proof.Machine

/-! ### The check's register is injective -/

/-- One bit of the check. -/
def crcBit (c : Nat) : Nat := if 0x8000 ≤ c then (c * 2 % 0x10000) ^^^ 0x1021 else c * 2

theorem crc16Byte_eq (c : Nat) (b : Byte) : crc16Byte c b = crcBit^[8] (c ^^^ (b.toNat * 256)) := List.foldl_const crcBit _ (upto 8)

theorem crcBit_lt {c : Nat} (hc : c < 2 ^ 16) : crcBit c < 2 ^ 16 := by
  unfold crcBit
  split
  · exact Nat.xor_lt_two_pow (Nat.mod_lt _ (by decide)) (by decide)
  · omega

/-- The bit that leaves the register shows in the lowest bit of what is left. -/
theorem crcBit_mod_two (c : Nat) : crcBit c % 2 = if 0x8000 ≤ c then 1 else 0 := by
  unfold crcBit
  split
  · rw [Nat.xor_mod_two_eq]; omega
  · omega

theorem crcBit_inj {c d : Nat} (hc : c < 2 ^ 16) (hd : d < 2 ^ 16) (h : crcBit c = crcBit d) : c = d := by
  have parity := congrArg (· % 2) h
  simp only [crcBit_mod_two] at parity
  unfold crcBit at h
  by_cases hc' : 0x8000 ≤ c
  · by_cases hd' : 0x8000 ≤ d
    · rw [if_pos hc', if_pos hd', Nat.xor_left_inj] at h
      omega
    · simp [hc', hd'] at parity
  · by_cases hd' : 0x8000 ≤ d
    · simp [hc', hd'] at parity
    · rw [if_neg hc', if_neg hd'] at h
      omega

theorem crcBit_iterate_lt (n : Nat) {c : Nat} (hc : c < 2 ^ 16) : crcBit^[n] c < 2 ^ 16 := by
  induction n generalizing c with
  | zero => exact hc
  | succ n ih => exact ih (crcBit_lt hc)

theorem crcBit_iterate_inj (n : Nat) {c d : Nat} (hc : c < 2 ^ 16) (hd : d < 2 ^ 16) (h : crcBit^[n] c = crcBit^[n] d) : c = d := by
  induction n generalizing c d with
  | zero => exact h
  | succ n ih => exact crcBit_inj hc hd (ih (crcBit_lt hc) (crcBit_lt hd) h)

theorem xor_byte_lt {c : Nat} (hc : c < 2 ^ 16) (b : Byte) : c ^^^ (b.toNat * 256) < 2 ^ 16 :=
  Nat.xor_lt_two_pow hc (by have := b.isLt; omega)

theorem crc16Byte_lt {c : Nat} (hc : c < 2 ^ 16) (b : Byte) : crc16Byte c b < 2 ^ 16 := by
  rw [crc16Byte_eq]; exact crcBit_iterate_lt 8 (xor_byte_lt hc b)

theorem crc16Byte_inj_state {c d : Nat} (hc : c < 2 ^ 16) (hd : d < 2 ^ 16) {b : Byte} (h : crc16Byte c b = crc16Byte d b) : c = d := by
  rw [crc16Byte_eq, crc16Byte_eq] at h
  exact Nat.xor_left_inj.1 (crcBit_iterate_inj 8 (xor_byte_lt hc b) (xor_byte_lt hd b) h)

theorem crc16Byte_inj_byte {c : Nat} (hc : c < 2 ^ 16) {a b : Byte} (h : crc16Byte c a = crc16Byte c b) : a = b := by
  rw [crc16Byte_eq, crc16Byte_eq] at h
  have := Nat.xor_right_inj.1 (crcBit_iterate_inj 8 (xor_byte_lt hc a) (xor_byte_lt hc b) h)
  exact BitVec.eq_of_toNat_eq (by omega)

theorem foldl_crc_lt (bs : List Byte) {c : Nat} (hc : c < 2 ^ 16) : bs.foldl crc16Byte c < 2 ^ 16 := by
  induction bs generalizing c with
  | nil => exact hc
  | cons b bs ih => rw [List.foldl_cons]; exact ih (crc16Byte_lt hc b)

theorem crc16_lt (bs : List Byte) : crc16 bs < 2 ^ 16 := foldl_crc_lt bs (by decide)

theorem foldl_crc_inj (bs : List Byte) {c d : Nat} (hc : c < 2 ^ 16) (hd : d < 2 ^ 16) (h : bs.foldl crc16Byte c = bs.foldl crc16Byte d) : c = d := by
  induction bs generalizing c d with
  | nil => exact h
  | cons b bs ih =>
    rw [List.foldl_cons, List.foldl_cons] at h
    exact crc16Byte_inj_state hc hd (ih (crc16Byte_lt hc b) (crc16Byte_lt hd b) h)

theorem foldl_crc_set {bs : List Byte} {i : Nat} (hi : i < bs.length) {b : Byte} (hb : bs[i] ≠ b) {c : Nat} (hc : c < 2 ^ 16) :
    (bs.set i b).foldl crc16Byte c ≠ bs.foldl crc16Byte c := by
  induction bs generalizing i c with
  | nil => cases hi
  | cons a bs ih =>
    cases i with
    | zero =>
      rw [List.set_cons_zero, List.foldl_cons, List.foldl_cons]
      exact fun h => hb (crc16Byte_inj_byte hc (foldl_crc_inj bs (crc16Byte_lt hc _) (crc16Byte_lt hc _) h)).symm
    | succ i =>
      rw [List.set_cons_succ, List.foldl_cons, List.foldl_cons]
      exact ih (Nat.lt_of_succ_lt_succ hi) hb (crc16Byte_lt hc a)

/-- One changed byte changes the check. -/
theorem crc16_set {bs : List Byte} {i : Nat} (hi : i < bs.length) {b : Byte} (hb : bs[i] ≠ b) : crc16 (bs.set i b) ≠ crc16 bs :=
  foldl_crc_set hi hb (by decide)

/-! ### Blocks with a check -/

theorem toBytes_two_inj {x y : Nat} (hx : x < 2 ^ 16) (hy : y < 2 ^ 16) (h : toBytes 2 x = toBytes 2 y) : x = y := by
  have := congrArg ofBytes h
  rw [ofBytes_toBytes, ofBytes_toBytes] at this
  omega

theorem blockWhy_eq_zero_iff (bs : List Byte) : blockWhy bs = some 0 ↔ toBytes 2 (crc16 (bs.take 62)) ≠ bs.drop 62 := by
  unfold blockWhy
  constructor
  · intro h hc
    rw [if_neg (not_not_intro hc)] at h
    split at h
    · cases h
    · split at h <;> cases h
  · exact fun h => if_pos h

/-- The check of a sound block fits. -/
theorem check_of_blockWhy_none {bs : List Byte} (h : blockWhy bs = none) : toBytes 2 (crc16 (bs.take 62)) = bs.drop 62 := by
  by_contra hc
  rw [(blockWhy_eq_zero_iff bs).2 hc] at h
  cases h

/-- One wrong byte, in the block or in its check, is found (03 R82, R85). -/
theorem blockWhy_set {bs : List Byte} {i : Nat} {b : Byte} (hl : bs.length = 64) (h : blockWhy bs = none) (hi : i < 64) (hb : nth bs i 0 ≠ b) :
    blockWhy (bs.set i b) = some 0 := by
  have check := check_of_blockWhy_none h
  have hb' : bs[i] ≠ b := by simpa [nth, hl, hi] using hb
  rw [blockWhy_eq_zero_iff]
  by_cases hbody : i < 62
  · rw [List.take_set, List.drop_set_of_lt hbody, ← check]
    intro he
    refine crc16_set (bs := bs.take 62) (i := i) (by simp [hl, hbody]) ?_ (toBytes_two_inj (crc16_lt _) (crc16_lt _) he)
    rwa [List.getElem_take]
  · rw [List.take_set_of_le (by omega), check]
    intro he
    have := congrArg (·[i - 62]?) he
    simp only [List.getElem?_drop, Nat.add_sub_cancel' (Nat.not_lt.1 hbody), List.getElem?_set_self (hl ▸ hi),
      List.getElem?_eq_getElem (hl ▸ hi : i < bs.length),
      Option.some.injEq] at this
    exact hb' this

end Sys2Proof.Machine
end

section
/-! The bytes of a tagged block (03 R81 to R85): what its header, its elements and its check read as, and the blocks that are delivered without rounding. -/

namespace Sys2Proof.Machine

/-! ### A block put together -/

/-- The two bytes that hold a block's format and scale, and the bytes behind them. -/
def headed (fmt scale : Nat) (rest : List Byte) : List Byte := .ofNat 8 (scale / 256 * 128 + fmt) :: .ofNat 8 scale :: rest

theorem buildBlock_eq (fmt scale : Nat) (elems tails : List Nat) :
    buildBlock fmt scale elems tails = withCheck (headed fmt scale (elems.map (.ofNat 8 ·) ++ tailBytes tails)) := rfl

theorem length_headed (fmt scale : Nat) (rest : List Byte) : (headed fmt scale rest).length = rest.length + 2 := rfl

@[simp] theorem length_withCheck (bs : List Byte) : (withCheck bs).length = bs.length + 2 := by
  rw [withCheck, List.length_append, length_toBytes]

theorem take_withCheck {bs : List Byte} (h : bs.length = 62) : (withCheck bs).take 62 = bs := by
  rw [withCheck, List.take_left' h]

theorem drop_withCheck {bs : List Byte} (h : bs.length = 62) : (withCheck bs).drop 62 = toBytes 2 (crc16 bs) := by
  rw [withCheck, List.drop_left' h]

theorem nth_withCheck {bs : List Byte} {i : Nat} (h : i < bs.length) : nth (withCheck bs) i 0 = nth bs i 0 := by
  rw [nth, nth, withCheck, List.getElem?_append_left h]

section
variable {fmt scale : Nat} {rest : List Byte} (hf : fmt < 128) (hs : scale ≤ 511)
include hf hs

theorem blockFmt_headed : blockFmt (withCheck (headed fmt scale rest)) = fmt := by
  have : byteAt (withCheck (headed fmt scale rest)) 0 = scale / 256 * 128 + fmt := by
    rw [byteAt, nth_withCheck (by rw [length_headed]; omega)]
    exact Nat.mod_eq_of_lt (by omega)
  rw [blockFmt, this]
  omega

theorem blockScaleOf_headed : blockScaleOf (withCheck (headed fmt scale rest)) = scale := by
  have h0 : byteAt (withCheck (headed fmt scale rest)) 0 = scale / 256 * 128 + fmt := by
    rw [byteAt, nth_withCheck (by rw [length_headed]; omega)]
    exact Nat.mod_eq_of_lt (by omega)
  have h1 : byteAt (withCheck (headed fmt scale rest)) 1 = scale % 256 := by
    rw [byteAt, nth_withCheck (by rw [length_headed]; omega)]
    exact BitVec.toNat_ofNat ..
  rw [blockScaleOf, h0, h1]
  omega

theorem blockWhy_headed (hr : rest.length = 60) : blockWhy (withCheck (headed fmt scale rest)) =
    if fmt = 0x7F then some 1 else if 3 < fmt then some 2 else none := by
  have hl : (headed fmt scale rest).length = 62 := by rw [length_headed, hr]
  rw [blockWhy, take_withCheck hl, drop_withCheck hl, blockFmt_headed hf hs, if_neg (not_not_intro rfl)]
end

/-- What the bytes behind the header hold. -/
theorem byteAt_headed {fmt scale : Nat} {rest : List Byte} {i : Nat} (h : i < rest.length) :
    byteAt (withCheck (headed fmt scale rest)) (2 + i) = (nth rest i 0).toNat := by
  rw [byteAt, nth_withCheck (by rw [length_headed]; omega), Nat.add_comm]
  rfl

/-! ### Packed blocks -/

theorem length_tailBytes (ts : List Nat) : (tailBytes ts).length = ts.length / 4 := by
  induction ts using tailBytes.induct with
  | case1 a b c d rest ih => rw [tailBytes, List.length_cons, ih]; simp; omega
  | case2 ts h =>
    match ts, h with
    | [], _ | [_], _ | [_, _], _ | [_, _, _], _ => simp [tailBytes]
    | a :: b :: c :: d :: rest, h => exact absurd rfl (h a b c d rest)

theorem length_encodeElems (fmt : Nat) (k : Int) (live : Nat → Bool) (vs : List (FVal × Nat)) (fx : Fx) :
    (encodeElems fmt k live vs fx).1.length = vs.length := by
  induction vs generalizing fx with
  | nil => rfl
  | cons v vs ih => rw [encodeElems, List.length_cons]; exact congrArg (· + 1) (ih _)

/-- A packed block: its length, its format, its scale and its check. -/
theorem packAt_sound {fmt scale : Nat} (hf : fmt ≤ 3) (hs : scale ≤ 511) (live : Nat → Bool) {vs : List FVal} (hv : vs.length = 48) (fx : Fx) :
    let bs := (packAt fmt scale live vs fx).1
    bs.length = 64 ∧ blockFmt bs = fmt ∧ blockWhy bs = none ∧ blockScaleOf bs = scale := by
  intro bs
  obtain ⟨xs, hx, hb⟩ : ∃ xs : List (Nat × Nat), xs.length = 48 ∧ bs = buildBlock fmt scale (xs.map (·.1)) (xs.map (·.2)) :=
    ⟨_, by rw [length_encodeElems, List.length_zipIdx, hv], rfl⟩
  have hr : ((xs.map (·.1)).map (BitVec.ofNat 8 ·) ++ tailBytes (xs.map (·.2))).length = 60 := by
    rw [List.length_append, length_tailBytes, List.length_map, List.length_map, List.length_map, hx]
  rw [hb, buildBlock_eq]
  refine ⟨by rw [length_withCheck, length_headed, hr], blockFmt_headed (by omega) hs, ?_, blockScaleOf_headed (by omega) hs⟩
  rw [blockWhy_headed (by omega) hs hr, if_neg (by omega), if_neg (by omega)]

/-! ### Blocks delivered without rounding -/

theorem drawBlock_eq (live : Nat → Bool) (fx : Fx) : drawBlock live fx =
    { fx with rng := if fx.mode = 5 then rngStep^[((List.range 48).filter live).length] fx.rng else fx.rng } := by
  have draws : ∀ (l : List Nat) (fx : Fx), l.foldl (fun fx _ => fx.draw.2) fx =
      { fx with rng := if fx.mode = 5 then rngStep^[l.length] fx.rng else fx.rng } := by
    intro l
    induction l with
    | nil => intro fx; simp
    | cons a l ih =>
      intro fx
      rw [List.foldl_cons, ih, Fx.draw_mode, Fx.draw_rng, Fx.drawn]
      unfold Fx.draw
      split <;> simp [*]
  exact draws _ fx

/-- The poisoned output block (04 R126). -/
theorem poisonedBlock_sound : poisonedBlock.length = 64 ∧ nth poisonedBlock 0 0 = 0x7F ∧ (∀ i, 0 < i → i < 62 → nth poisonedBlock i 0 = 0) ∧
    ofBytes (poisonedBlock.drop 62) = crc16 (poisonedBlock.take 62) ∧ blockWhy poisonedBlock = some 1 := by
  obtain ⟨rest, hrest⟩ : ∃ rest, rest = (List.replicate 48 0).map (BitVec.ofNat 8 ·) ++ tailBytes (List.replicate 48 0) := ⟨_, rfl⟩
  have zeros : rest = List.replicate 60 0 := by rw [hrest]; decide
  have hl : (headed 0x7F 0 rest).length = 62 := by rw [length_headed, zeros]; rfl
  have h : poisonedBlock = withCheck (headed 0x7F 0 rest) := by rw [hrest]; rfl
  rw [h]
  refine ⟨by rw [length_withCheck, hl], ?_, ?_, ?_, ?_⟩
  · rw [nth_withCheck (by omega)]; rfl
  · intro i h0 hi
    rw [nth_withCheck (by omega), headed, zeros]
    match i, h0 with
    | i + 1, _ =>
      rw [show (BitVec.ofNat 8 0 :: List.replicate 60 (0 : Byte)) = List.replicate 61 0 from rfl]
      rw [nth, List.getElem?_cons_succ, List.getElem?_replicate, if_pos (by omega)]
      rfl
  · rw [drop_withCheck hl, take_withCheck hl, ofBytes_toBytes]
    exact Nat.mod_eq_of_lt (crc16_lt _)
  · rw [blockWhy_headed (by decide) (by decide) (by rw [zeros]; rfl), if_pos rfl]

/-! ### A block with another scale -/

/-- The bytes behind a block's header. -/
def payload (bs : List Byte) : List Byte := (bs.drop 2).take 60

theorem length_payload {bs : List Byte} (h : bs.length = 64) : (payload bs).length = 60 := by
  rw [payload, List.length_take, List.length_drop, h]
  rfl

/-- An element of a block depends on its format and on the bytes behind the header alone (03 R83, R87). -/
theorem blockDec_rescaled {bs : List Byte} (hl : bs.length = 64) {scale i : Nat} (hs : scale ≤ 511) (hf : blockFmt bs < 128) (hi : i < 48) :
    blockDec (withCheck (headed (blockFmt bs) scale (payload bs))) i = blockDec bs i := by
  have bytes : ∀ j, j < 60 → byteAt (withCheck (headed (blockFmt bs) scale (payload bs))) (2 + j) = byteAt bs (2 + j) := by
    intro j hj
    rw [byteAt_headed (by rw [length_payload hl]; exact hj), byteAt, nth, nth, payload, List.getElem?_take_of_lt hj, List.getElem?_drop]
  have tails : blockTail (withCheck (headed (blockFmt bs) scale (payload bs))) i = blockTail bs i := by
    rw [blockTail, blockTail, show 50 + i / 4 = 2 + (48 + i / 4) by omega, bytes _ (by omega)]
  unfold blockDec
  rw [blockFmt_headed hf hs, bytes i (by omega), tails]

end Sys2Proof.Machine
end

section
/-! Elements moved far out of a block's range (04 R124): beyond 2^128 either way an element encodes alike, however far it is moved. -/

namespace Sys2Proof.Machine

/-! ### The points on both sides of a value -/

/-- What `neighbours` finds for a list whose points satisfy `below` up to the value. -/
theorem neighbours_congr {ps : List Point} {a sa b sb : Nat} (h : ∀ p ∈ ps, p.mag * 2 ^ sa ≤ a ↔ p.mag * 2 ^ sb ≤ b) :
    neighbours ps a sa = neighbours ps b sb := by
  unfold neighbours
  refine List.foldl_ext _ _ _ fun acc p hp => ?_
  simp only [h p hp]

/-- The lower neighbour is not above the value, the upper one is. -/
theorem neighbours_sides (ps : List Point) (a sh : Nat) :
    (neighbours ps a sh).1.mag * 2 ^ sh ≤ a ∧ ∀ p, (neighbours ps a sh).2 = some p → a < p.mag * 2 ^ sh := by
  unfold neighbours
  refine List.foldlRecOn (motive := fun acc : Point × Option Point => acc.1.mag * 2 ^ sh ≤ a ∧ ∀ p, acc.2 = some p → a < p.mag * 2 ^ sh)
    ps _ ⟨by simp, nofun⟩ ?_
  rintro ⟨lo, hi⟩ ⟨h1, h2⟩ p -
  dsimp only at h1 h2 ⊢
  split
  · split
    · exact ⟨by assumption, h2⟩
    · exact ⟨h1, h2⟩
  · split
    · exact ⟨h1, fun q hq => by cases hq; omega⟩
    · split
      · exact ⟨h1, fun q hq => by cases hq; omega⟩
      · exact ⟨h1, h2⟩

/-- A value above every point has no upper neighbour. -/
theorem neighbours_above {ps : List Point} {a top : Nat} (h : ∀ p ∈ ps, p.mag < top) (h0 : 0 < top) (ha : top ≤ a) :
    (neighbours ps a 0).1.mag < top ∧ (neighbours ps a 0).2 = none := by
  unfold neighbours
  refine List.foldlRecOn (motive := fun acc : Point × Option Point => acc.1.mag < top ∧ acc.2 = none) ps _ ⟨h0, rfl⟩ ?_
  rintro ⟨lo, hi⟩ ⟨h1, h2⟩ p hp
  have := h p hp
  dsimp only at h1 h2 ⊢
  rw [if_pos (by omega)]
  split
  · exact ⟨this, h2⟩
  · exact ⟨h1, h2⟩

/-! ### M8 and M8T -/

/-- The points of a format. -/
def pointsOf (tailed : Bool) : List Point := if tailed then m8tPoints else m8Points

theorem pointsOf_lt_top (tailed : Bool) : ∀ p ∈ pointsOf tailed, p.mag < m8Top := by cases tailed <;> decide +kernel

/-- Whether the farther neighbour is delivered, `d` being how far the value is above the nearer one and `gap` how far they are apart. -/
def m8Up (mode : Nat) (neg even : Bool) (draw : Word) (gap d : Nat) : Bool :=
  !(d == 0) && match mode with
    | 0 => decide (gap < 2 * d) || (2 * d == gap && !even)
    | 1 => false
    | 2 => neg
    | 3 => !neg
    | 4 => decide (gap ≤ 2 * d)
    | _ => decide (gap ≤ d) || decide (draw.toNat < d * 2 ^ 32 / gap)

/-- An element's code, tail and flags from its neighbours (03 R77, R78). -/
def m8Deliver (tailed neg : Bool) (near : Point × Option Point) (up exact : Bool) (fx : Fx) : (Nat × Nat) × Fx :=
  let sign := if neg then 0x80 else 0
  if up then
    match near.2 with
    | some p => ((sign + p.code, p.tail), fx.raise flagNx)
    | none => ((sign + 3, if tailed then 3 else 0), fx.raise (flagOf ||| flagNx))
  else if near.1.code = 0 then ((0, 0), fx.raise (flagUf ||| flagNx))
  else ((sign + near.1.code, near.1.tail), fx.raise (flagIf (!exact) flagNx))

/-- The magnitude of a value's upper neighbour. -/
def upperMag (near : Point × Option Point) : Nat := match near.2 with
  | some p => p.mag
  | none => m8Top

theorem m8Encode_fin (tailed neg : Bool) {man : Nat} (hman : man ≠ 0) (e : Int) (fx : Fx) : m8Encode tailed (.fin neg man e) fx =
    let near := neighbours (pointsOf tailed) (man * 2 ^ (e + 13).toNat) (-(e + 13)).toNat
    let gap := (upperMag near - near.1.mag) * 2 ^ (-(e + 13)).toNat
    let d := man * 2 ^ (e + 13).toNat - near.1.mag * 2 ^ (-(e + 13)).toNat
    m8Deliver tailed neg near (m8Up fx.draw.2.mode neg near.1.even fx.draw.1 gap d) (d == 0) fx.draw.2 := by
  unfold m8Encode
  simp only [hman, ↓reduceIte]
  rfl

/-- Far above the points every mode but those toward zero delivers the farther neighbour. -/
theorem m8Up_far_above {gap d : Nat} (hd : 0 < d) (hg : gap ≤ d) (mode : Nat) (neg even : Bool) (draw : Word) :
    m8Up mode neg even draw gap d = match mode with
      | 1 => false
      | 2 => neg
      | 3 => !neg
      | _ => true := by
  unfold m8Up
  have h0 : (d == 0) = false := by simpa using hd.ne'
  rw [h0]
  split
  · simp; omega
  · rfl
  · simp
  · simp
  · simp; omega
  · simp [hg]

/-- Far below the smallest point every mode but those away from zero delivers the nearer neighbour. -/
theorem m8Up_far_below {gap d : Nat} (hd : 0 < d) (hg : d * 2 ^ 32 < gap) (mode : Nat) (neg even : Bool) (draw : Word) :
    m8Up mode neg even draw gap d = match mode with
      | 2 => neg
      | 3 => !neg
      | _ => false := by
  unfold m8Up
  have h0 : (d == 0) = false := by simpa using hd.ne'
  rw [h0]
  split
  · simp; omega
  · rfl
  · simp
  · simp
  · simp; omega
  · rw [Nat.div_eq_of_lt hg]; simp; omega

theorem two_pow_le_mul {man k n : Nat} (hman : man ≠ 0) (h : k ≤ n) : 2 ^ k ≤ man * 2 ^ n :=
  (Nat.pow_le_pow_right (by decide) h).trans (Nat.le_mul_of_pos_left _ (Nat.pos_of_ne_zero hman))

theorem m8Encode_far_above (tailed neg : Bool) {man : Nat} (hman : man ≠ 0) {e : Int} (he : 13 ≤ e) (fx : Fx) :
    m8Encode tailed (.fin neg man e) fx = m8Deliver tailed neg (neighbours (pointsOf tailed) m8Top 0)
      (match fx.draw.2.mode with
        | 1 => false
        | 2 => neg
        | 3 => !neg
        | _ => true) false fx.draw.2 := by
  have big : m8Top ≤ man * 2 ^ (e + 13).toNat := two_pow_le_mul (k := 25) hman (by omega)
  rw [m8Encode_fin tailed neg hman, show (-(e + 13)).toNat = 0 by omega]
  have same : neighbours (pointsOf tailed) (man * 2 ^ (e + 13).toNat) 0 = neighbours (pointsOf tailed) m8Top 0 :=
    neighbours_congr fun p hp => by have := pointsOf_lt_top tailed p hp; omega
  obtain ⟨lo, hi⟩ := neighbours_above (pointsOf_lt_top tailed) (by decide) le_rfl
  rw [same]
  generalize neighbours (pointsOf tailed) m8Top 0 = near at lo hi
  have top : upperMag near = m8Top := by rw [upperMag, hi]
  dsimp only
  rw [top, m8Up_far_above (by omega) (by omega), show (man * 2 ^ (e + 13).toNat - near.1.mag * 2 ^ 0 == 0) = false by simp; omega]

theorem m8Encode_far_below (tailed neg : Bool) {man : Nat} (hman : man ≠ 0) {e : Int} (hm : man * 2 ^ 32 < 2 ^ (-(e + 13)).toNat) (fx : Fx) :
    m8Encode tailed (.fin neg man e) fx = m8Deliver tailed neg (neighbours (pointsOf tailed) 0 0)
      (match fx.draw.2.mode with
        | 2 => neg
        | 3 => !neg
        | _ => false) false fx.draw.2 := by
  obtain ⟨sh, hsh⟩ : ∃ sh, sh = (-(e + 13)).toNat := ⟨_, rfl⟩
  rw [← hsh] at hm
  have hs : sh ≠ 0 := by rintro rfl; omega
  rw [m8Encode_fin tailed neg hman, ← hsh, show (e + 13).toNat = 0 by omega, Nat.pow_zero, Nat.mul_one]
  have point (k : Nat) : k * 2 ^ sh ≤ man ↔ k = 0 := by
    constructor
    · intro h
      by_contra hk
      have := Nat.le_mul_of_pos_left (2 ^ sh) (Nat.pos_of_ne_zero hk)
      omega
    · rintro rfl; omega
  have same : neighbours (pointsOf tailed) man sh = neighbours (pointsOf tailed) 0 0 :=
    neighbours_congr fun p _ => by rw [point]; omega
  obtain ⟨lo, hi⟩ := neighbours_sides (pointsOf tailed) 0 0
  rw [same]
  generalize neighbours (pointsOf tailed) 0 0 = near at lo hi
  have zero : near.1.mag = 0 := by omega
  have upper : 0 < upperMag near := by
    unfold upperMag
    split
    · have := hi _ ‹_›; omega
    · decide
  have gap : man * 2 ^ 32 < (upperMag near - near.1.mag) * 2 ^ sh :=
    lt_of_lt_of_le hm (by rw [zero, Nat.sub_zero]; exact Nat.le_mul_of_pos_left _ upper)
  dsimp only
  rw [show man - near.1.mag * 2 ^ sh = man by rw [zero]; omega, m8Up_far_below (by omega) gap, show (man == 0) = false by simpa using hman]

/-! ### I8 -/

theorem i8Encode_far_above (neg : Bool) {man : Nat} (hman : man ≠ 0) {e : Int} (he : 7 ≤ e) (fx : Fx) :
    i8Encode (.fin neg man e) fx = ((BitVec.ofInt 8 (if neg then -127 else 127)).toNat, fx.draw.2.raise (flagOf ||| flagNx)) := by
  have big : 128 ≤ man * 2 ^ e.natAbs := two_pow_le_mul (k := 7) hman (by omega)
  have whole (mode : Nat) (draw : Word) : froundInt neg man e mode draw =
      (if neg then -((man * 2 ^ e.natAbs : Nat) : Int) else (man * 2 ^ e.natAbs : Nat), false) := by
    unfold froundInt splitAt
    rw [if_pos (by omega), Int.natAbs_neg]
    simp [Split.up, Split.inexact]
  unfold i8Encode
  dsimp only
  rw [whole]
  generalize man * 2 ^ e.natAbs = units at big
  cases neg
  · simp; omega
  · simp [show ¬ (127 : Int) < -units by omega, show 127 < units by omega]

theorem i8Encode_far_below (neg : Bool) {man : Nat} (hman : man ≠ 0) {e : Int} (hm : man * 2 ^ 34 < 2 ^ (-e).toNat) (fx : Fx) :
    i8Encode (.fin neg man e) fx = i8Encode (.fin neg 1 (-35)) fx := by
  have split : splitAt man (-e) false = ⟨0, 0, true⟩ := by
    have hs : (-e).toNat ≠ 0 := by intro h; rw [h] at hm; omega
    have habs : (-e).natAbs = (-e).toNat := by omega
    have small : man < 2 ^ (-e).toNat := by omega
    rw [splitAt, if_neg (by omega), habs]
    simp only [Nat.div_eq_of_lt small, Nat.mod_eq_of_lt small, Nat.div_eq_of_lt hm, Nat.mod_eq_of_lt hm]
    simpa using hman
  have same (mode : Nat) (draw : Word) : froundInt neg man e mode draw = froundInt neg 1 (-35) mode draw := by
    rw [froundInt, froundInt, split]
    rfl
  unfold i8Encode
  simp only [same]

/-! ### Zero -/

theorem m8Encode_zero (tailed neg : Bool) (e : Int) (fx : Fx) : m8Encode tailed (.fin neg 0 e) fx = ((0, 0), fx.draw.2) := rfl

theorem i8Encode_zero (neg : Bool) (e : Int) (fx : Fx) : i8Encode (.fin neg 0 e) fx = i8Encode (.fin neg 0 0) fx := by
  have split : splitAt 0 (-e) false = ⟨0, 0, false⟩ := by
    unfold splitAt
    split <;> simp
  have same (mode : Nat) (draw : Word) : froundInt neg 0 e mode draw = froundInt neg 0 0 mode draw := by
    rw [froundInt, froundInt, split]
    rfl
  unfold i8Encode
  simp only [same]

/-! ### Any element of a block -/

/-- Whether a value is one that an element of a block can have: a multiple of 2^-13 below 2^13 (03 R76, R79). -/
def BlockElem : FVal → Prop
  | .fin _ man e => man < 2 ^ 26 ∧ -13 ≤ e ∧ e ≤ 0
  | _ => True

theorem m8Mag_lt (code tail : Nat) (ht : tail < 4) : m8Mag code tail < 2 ^ 26 := by
  have codes : ∀ c < 128, ∀ t < 4, m8Mag c t < 2 ^ 26 := by decide +kernel
  have mod : m8Mag code tail = m8Mag (code % 128) tail := by unfold m8Mag; rw [Nat.mod_mod]
  rw [mod]
  exact codes _ (Nat.mod_lt _ (by decide)) _ ht

theorem blockElem_m8Value (code tail : Nat) (ht : tail < 4) : BlockElem (m8Value code tail) := by
  unfold m8Value
  split
  · split
    · trivial
    · exact ⟨by decide, by decide, by decide⟩
  · exact ⟨m8Mag_lt code tail ht, by decide, by decide⟩

theorem blockElem_blockDec (bs : List Byte) (i : Nat) : BlockElem (blockDec bs i) := by
  unfold blockDec
  dsimp only
  split
  · exact blockElem_m8Value _ _ (by decide)
  · exact blockElem_m8Value _ _ (Nat.mod_lt _ (by decide))
  · refine ⟨?_, by decide, by decide⟩
    have h1 := BitVec.toInt_lt (x := BitVec.ofNat 8 (byteAt bs (2 + i)))
    have h2 := BitVec.le_toInt (x := BitVec.ofNat 8 (byteAt bs (2 + i)))
    omega
  · exact ⟨by decide, by decide, by decide⟩

theorem scaleDown_scaleDown (v : FVal) (a b : Int) : scaleDown (scaleDown v a) b = scaleDown v (a + b) := by
  cases v with
  | fin n m e => simp only [scaleDown, FVal.fin.injEq, true_and]; omega
  | nan | inf => rfl

/-- An element divided by 2^k or 2^k', both beyond 2^128 in one direction, encodes alike. -/
theorem encodeElem_far {v : FVal} (hv : BlockElem v) {k k' : Int} (h : k ≤ -128 ∧ k' ≤ -128 ∨ 128 ≤ k ∧ 128 ≤ k') (fmt : Nat) (fx : Fx) :
    encodeElem fmt (scaleDown v k) fx = encodeElem fmt (scaleDown v k') fx := by
  cases v with
  | nan | inf => rfl
  | fin neg man e =>
    obtain ⟨hm, he, he'⟩ := hv
    unfold scaleDown encodeElem
    dsimp only
    by_cases h0 : man = 0
    · subst h0
      rw [i8Encode_zero neg (e - k), i8Encode_zero neg (e - k'), m8Encode_zero, m8Encode_zero]
    have below {j : Nat} {a : Int} (hj : j ≤ 34) (ha : 60 ≤ a) : man * 2 ^ j < 2 ^ a.toNat :=
      calc man * 2 ^ j < 2 ^ 26 * 2 ^ j := Nat.mul_lt_mul_of_pos_right hm (Nat.two_pow_pos j)
        _ = 2 ^ (26 + j) := (Nat.pow_add ..).symm
        _ ≤ 2 ^ a.toNat := Nat.pow_le_pow_right (by decide) (by omega)
    obtain ⟨h, h'⟩ | ⟨h, h'⟩ := h
    · rw [i8Encode_far_above neg h0 (by omega), i8Encode_far_above neg h0 (by omega), m8Encode_far_above _ neg h0 (by omega),
        m8Encode_far_above _ neg h0 (by omega)]
    · rw [i8Encode_far_below neg h0 (below le_rfl (by omega)), i8Encode_far_below neg h0 (below le_rfl (by omega)),
        m8Encode_far_below _ neg h0 (below (by decide) (by omega)), m8Encode_far_below _ neg h0 (below (by decide) (by omega))]

/-- Elements that encode alike one by one make the same block. -/
theorem encodeElems_congr {fmt : Nat} {k : Int} {live : Nat → Bool} {f g : Nat → FVal} {is : List Nat}
    (h : ∀ i ∈ is, ∀ fx, encodeElem fmt (scaleDown (f i) k) fx = encodeElem fmt (scaleDown (g i) k) fx) (n : Nat) (fx : Fx) :
    encodeElems fmt k live ((is.map f).zipIdx n) fx = encodeElems fmt k live ((is.map g).zipIdx n) fx := by
  induction is generalizing n fx with
  | nil => rfl
  | cons i is ih =>
    have rest := ih fun j hj => h j (List.mem_cons_of_mem _ hj)
    simp only [List.map_cons, List.zipIdx_cons, encodeElems, encodeUndrawn, h i List.mem_cons_self, rest]

end Sys2Proof.Machine
end

section
/-! The scale of a packed block (03 R80), and packing, rescaling and re-tagging (04 R122 to R126). -/

namespace Sys2Proof.Machine

/-! ### The largest finite magnitude -/

/-- The magnitude of a finite value. -/
def FVal.size : FVal → Option ℚ
  | .fin _ m e => some ((m : ℚ) * 2 ^ e)
  | _ => none

theorem two_zpow_toNat {e k : Int} (h : k ≤ e) (m : Nat) : ((m * 2 ^ (e - k).toNat : Nat) : ℚ) * 2 ^ k = m * 2 ^ e := by
  have : (e - k).toNat + k = e := by omega
  push_cast
  rw [mul_assoc, ← zpow_natCast, ← zpow_add₀ two_ne_zero, this]

theorem magLe_iff (m₁ : Nat) (e₁ : Int) (m₂ : Nat) (e₂ : Int) : magLe m₁ e₁ m₂ e₂ = true ↔ (m₁ : ℚ) * 2 ^ e₁ ≤ m₂ * 2 ^ e₂ := by
  have unit : (0 : ℚ) < 2 ^ min e₁ e₂ := by positivity
  rw [magLe, decide_eq_true_eq, ← two_zpow_toNat (min_le_left e₁ e₂), ← two_zpow_toNat (min_le_right e₁ e₂), mul_le_mul_iff_left₀ unit, Nat.cast_le]

/-- `amax` bounds every finite magnitude, and is one of them unless it is zero. -/
theorem amax_spec (vs : List FVal) : let a : ℚ := (amax vs).1 * 2 ^ (amax vs).2
    (∀ x ∈ vs.filterMap FVal.size, x ≤ a) ∧ ((amax vs).1 ≠ 0 → a ∈ vs.filterMap FVal.size) := by
  induction vs with
  | nil => exact ⟨nofun, fun h => absurd rfl h⟩
  | cons v vs ih =>
    cases v with
    | nan | inf => exact ih
    | fin n m e =>
      obtain ⟨bound, attained⟩ := ih
      simp only [amax]
      generalize amax vs = a at bound attained ⊢
      obtain ⟨m', e'⟩ := a
      dsimp only at bound attained ⊢
      have sizes : (FVal.fin n m e :: vs).filterMap FVal.size = ((m : ℚ) * 2 ^ e) :: vs.filterMap FVal.size := rfl
      rw [sizes, List.forall_mem_cons, List.mem_cons]
      by_cases h : (m' = 0 || magLe m' e' m e) = true
      · rw [if_pos h]
        refine ⟨⟨le_rfl, fun x hx => (bound x hx).trans ?_⟩, fun _ => .inl rfl⟩
        rw [Bool.or_eq_true, decide_eq_true_eq, magLe_iff] at h
        obtain rfl | h := h
        · simp only [Nat.cast_zero, zero_mul]; positivity
        · exact h
      · rw [if_neg h]
        rw [Bool.or_eq_true, decide_eq_true_eq, magLe_iff] at h
        exact ⟨⟨le_of_not_ge fun hle => h (.inr hle), bound⟩, fun hm => .inr (attained hm)⟩

/-! ### The smallest power of two above a magnitude -/

theorem ceilLog_spec {m : Nat} (hm : m ≠ 0) (e : Int) : (m : ℚ) * 2 ^ e ≤ 2 ^ ceilLog m e ∧ (2 : ℚ) ^ (ceilLog m e - 1) < m * 2 ^ e := by
  have unit : (0 : ℚ) < 2 ^ e := by positivity
  constructor
  · have h : m ≤ 2 ^ bitLen (m - 1) := by have := lt_two_pow_bitLen (m - 1); omega
    rw [ceilLog, zpow_add₀ two_ne_zero, zpow_natCast]
    exact mul_le_mul_of_nonneg_right (by exact_mod_cast h) unit.le
  · rw [ceilLog, add_sub_right_comm, zpow_add₀ two_ne_zero]
    refine mul_lt_mul_of_pos_right ?_ unit
    by_cases h1 : m = 1
    · subst h1
      norm_num [bitLen]
    · have h0 : m - 1 ≠ 0 := by omega
      have pos := bitLen_pos h0
      have h : 2 ^ (bitLen (m - 1) - 1) < m := by have := two_pow_le_of_bitLen h0; omega
      rw [show ((bitLen (m - 1) : Nat) : Int) - 1 = ((bitLen (m - 1) - 1 : Nat) : Int) by omega, zpow_natCast]
      exact_mod_cast h

/-! ### The scale -/

theorem blockScale_le (fmt : Nat) (vs : List FVal) : blockScale fmt vs ≤ 511 := by
  unfold blockScale
  dsimp only
  split <;> omega

/-- The exponent that the scale of a block stands for, before it is clamped (03 R80). -/
def scaleExp (fmt : Nat) (m : Nat) (e : Int) : Int :=
  if fmt = 3 then (if magLe m e 127 (ceilLog m e - 7) then ceilLog m e - 7 else ceilLog m e - 6) else ceilLog m e - 11

theorem blockScale_eq (fmt : Nat) (vs : List FVal) (h : (amax vs).1 ≠ 0) :
    (blockScale fmt vs : Int) = max 0 (min 511 (256 + scaleExp fmt (amax vs).1 (amax vs).2)) := by
  unfold blockScale
  dsimp only
  rw [if_neg h]
  exact Int.toNat_of_nonneg (le_max_left ..)

theorem amax_ne_zero_iff (vs : List FVal) : (amax vs).1 ≠ 0 ↔ ∃ x ∈ vs.filterMap FVal.size, x ≠ 0 := by
  obtain ⟨bound, attained⟩ := amax_spec vs
  constructor
  · exact fun h => ⟨_, attained h, mul_ne_zero (by exact_mod_cast h) (by positivity)⟩
  · rintro ⟨x, hx, hne⟩ h0
    have nonneg : 0 ≤ x := by
      obtain ⟨v, -, hv⟩ := List.mem_filterMap.1 hx
      cases v with
      | nan | inf => cases hv
      | fin n m e => rw [← Option.some.inj hv]; positivity
    have := bound x hx
    rw [h0, Nat.cast_zero, zero_mul] at this
    exact hne (le_antisymm this nonneg)

theorem blockScale_zero {fmt : Nat} {vs : List FVal} (h : ∀ x ∈ vs.filterMap FVal.size, x = 0) : blockScale fmt vs = 0 := by
  have : (amax vs).1 = 0 := by
    by_contra hne
    obtain ⟨x, hx, h0⟩ := (amax_ne_zero_iff vs).1 hne
    exact h0 (h x hx)
  unfold blockScale
  dsimp only
  rw [if_pos this]

/-- The scale of M8 and M8T: 11 binades below the smallest power of two that no input exceeds. -/
theorem blockScale_m8 {fmt : Nat} (hf : fmt < 3) {vs : List FVal} (h : ∃ x ∈ vs.filterMap FVal.size, x ≠ 0) :
    ∃ e : ℤ, (∀ x ∈ vs.filterMap FVal.size, x ≤ 2 ^ e) ∧ (∃ x ∈ vs.filterMap FVal.size, (2 : ℚ) ^ (e - 1) < x) ∧
      (blockScale fmt vs : ℤ) = max 0 (min 511 (256 + e - 11)) := by
  have hm := (amax_ne_zero_iff vs).2 h
  obtain ⟨bound, attained⟩ := amax_spec vs
  obtain ⟨above, below⟩ := ceilLog_spec hm (amax vs).2
  refine ⟨_, fun x hx => (bound x hx).trans above, ⟨_, attained hm, below⟩, ?_⟩
  rw [blockScale_eq fmt vs hm, scaleExp, if_neg (by omega)]
  congr 2; omega

/-- The exponent of I8 is the smallest whose 127 units reach the largest magnitude. -/
theorem scaleExp_i8 {m : Nat} (hm : m ≠ 0) (e : Int) : (m : ℚ) * 2 ^ e ≤ 127 * 2 ^ scaleExp 3 m e ∧ 127 * (2 : ℚ) ^ (scaleExp 3 m e - 1) < m * 2 ^ e := by
  obtain ⟨above, below⟩ := ceilLog_spec hm e
  have shift (k n : Int) : (2 : ℚ) ^ k = 2 ^ n * 2 ^ (k - n) := by rw [← zpow_add₀ two_ne_zero]; congr 1; omega
  have split := magLe_iff m e 127 (ceilLog m e - 7)
  have unit : (0 : ℚ) < 2 ^ (ceilLog m e - 8) := by positivity
  rw [scaleExp, if_pos rfl]
  by_cases h : magLe m e 127 (ceilLog m e - 7) = true
  · rw [if_pos h]
    refine ⟨by exact_mod_cast split.1 h, lt_of_lt_of_le ?_ below.le⟩
    rw [shift (ceilLog m e - 1) 7, show ceilLog m e - 7 - 1 = ceilLog m e - 8 by omega, show ceilLog m e - 1 - 7 = ceilLog m e - 8 by omega]
    exact mul_lt_mul_of_pos_right (by norm_num) unit
  · rw [if_neg h]
    constructor
    · refine above.trans ?_
      rw [shift (ceilLog m e) 6]
      exact mul_le_mul_of_nonneg_right (by norm_num) (by positivity)
    · rw [split, not_le] at h
      rw [show ceilLog m e - 6 - 1 = ceilLog m e - 7 by omega]
      exact_mod_cast h

/-- The scale of I8: the smallest one that keeps every input within 127 units, or the largest there is. -/
theorem blockScale_i8 {vs : List FVal} (h : ∃ x ∈ vs.filterMap FVal.size, x ≠ 0) :
    ((∀ x ∈ vs.filterMap FVal.size, x ≤ 127 * 2 ^ ((blockScale 3 vs : ℤ) - 256)) ∨ blockScale 3 vs = 511) ∧
      (blockScale 3 vs = 0 ∨ ∃ x ∈ vs.filterMap FVal.size, 127 * (2 : ℚ) ^ ((blockScale 3 vs : ℤ) - 257) < x) := by
  have hm := (amax_ne_zero_iff vs).2 h
  obtain ⟨bound, attained⟩ := amax_spec vs
  obtain ⟨above, below⟩ := scaleExp_i8 hm (amax vs).2
  have scale := blockScale_eq 3 vs hm
  have grow {a b : Int} (hab : a ≤ b) : 127 * (2 : ℚ) ^ a ≤ 127 * 2 ^ b :=
    mul_le_mul_of_nonneg_left (zpow_le_zpow_right₀ one_le_two hab) (by norm_num)
  constructor
  · refine or_iff_not_imp_right.2 fun h511 x hx => (bound x hx).trans (above.trans (grow ?_))
    omega
  · exact or_iff_not_imp_left.2 fun h0 => ⟨_, attained hm, lt_of_le_of_lt (grow (by omega)) below⟩

/-! ### Rescaling and re-tagging -/

section
variable {live : Nat → Bool} {bs : List Byte} {fx : Fx} {delta : Int}

theorem rescale_poisoned (h : blockWhy bs ≠ none) : rescale live bs delta fx = (poisonedBlock, drawBlock live fx) :=
  if_pos (Option.isSome_iff_ne_none.2 h)

theorem retag_poisoned (fmt : Nat) (h : blockWhy bs ≠ none) : retag fmt live bs fx = (poisonedBlock, drawBlock live fx) :=
  if_pos (Option.isSome_iff_ne_none.2 h)

theorem retag_sound (fmt : Nat) (h : blockWhy bs = none) : retag fmt live bs fx = pack fmt live ((List.range 48).map (blockValue bs)) fx := by
  unfold retag
  rw [if_neg (by simp [h])]
  rfl

theorem rescale_zero_block (h : blockWhy bs = none) (hf : blockFmt bs = 0) : rescale live bs delta fx = (bs, drawBlock live fx) := by
  unfold rescale
  rw [if_neg (by simp [h])]
  exact if_pos hf

/-- Within the scale's range only the header and the check are new. -/
theorem rescale_within (h : blockWhy bs = none) (hf : 1 ≤ blockFmt bs) {n : Nat} (hn : (blockScaleOf bs : Int) + delta = n) (h511 : n ≤ 511) :
    rescale live bs delta fx = (withCheck (headed (blockFmt bs) n (payload bs)), drawBlock live fx) := by
  unfold rescale
  dsimp only
  rw [if_neg (by simp [h]), if_neg (by omega), if_pos (by omega), hn, Int.toNat_natCast]
  rfl

/-- Beyond it the elements are packed at the nearest scale, moved as far as they are beyond it. -/
theorem rescale_beyond (h : blockWhy bs = none) (hf : 1 ≤ blockFmt bs) (hd : (blockScaleOf bs : Int) + delta < 0 ∨ 511 < (blockScaleOf bs : Int) + delta) :
    let moved : Int := blockScaleOf bs + delta
    rescale live bs delta fx =
      packAt (blockFmt bs) (if moved < 0 then 0 else 511) live ((List.range 48).map fun i => scaleDown (blockDec bs i) (256 - moved)) fx := by
  intro moved
  obtain ⟨edge, hedge⟩ : ∃ edge : Nat, edge = if moved < 0 then 0 else 511 := ⟨_, rfl⟩
  have clamped : max 0 (min 511 moved) = edge := by rw [hedge]; split <;> push_cast <;> omega
  rw [← hedge]
  unfold rescale
  dsimp only
  rw [if_neg (by simp [h]), if_neg (by omega), if_neg (by omega), show (blockScaleOf bs : Int) + delta = moved from rfl, clamped, Int.toNat_natCast]
  unfold packAt
  rw [encodeElems_congr (f := fun i => scaleDown (blockDec bs i) (256 - edge - max (-128) (min 128 (moved - edge))))
    (g := fun i => scaleDown (blockDec bs i) (256 - moved))]
  · rfl
  intro i _ fx
  rw [scaleDown_scaleDown, scaleDown_scaleDown]
  by_cases near : -128 ≤ moved - edge ∧ moved - edge ≤ 128
  · rw [show 256 - (edge : Int) - max (-128) (min 128 (moved - edge)) + (edge - 256) = 256 - moved + (edge - 256) by omega]
  · exact encodeElem_far (blockElem_blockDec bs i) (by omega) _ _
end

theorem blockFmt_le_three {bs : List Byte} (h : blockWhy bs = none) : blockFmt bs ≤ 3 := by
  unfold blockWhy at h
  split at h
  · cases h
  · split at h
    · cases h
    · split at h
      · cases h
      · omega

theorem length_map_range (f : Nat → FVal) : ((List.range 48).map f).length = 48 := by rw [List.length_map, List.length_range]

/-- Settles O42: the layout of a block by what its header reads as, the check by the injectivity of its register, the scale by the largest
magnitude, and a block moved out of its scale's range by what every element does beyond 2^128. -/
theorem blocks : Obligations.Blocks := by
  unfold Obligations.Blocks
  refine ⟨?_, fun bs i b hl h hi hb => blockWhy_set hl h hi hb, ?_, fun bs i _ => rfl, by decide +kernel⟩
  · intro fmt live vs fx h1 h3 hv bs sizes
    obtain ⟨len, isFmt, sound, isScale⟩ := packAt_sound h3 (blockScale_le fmt vs) live hv fx
    have scale : blockScaleOf bs = blockScale fmt vs := isScale
    rw [scale]
    refine ⟨len, isFmt, sound, blockScale_le fmt vs, blockScale_zero, fun h hf => blockScale_m8 hf h, fun h hf => ?_⟩
    subst hf
    exact blockScale_i8 h
  · intro live bs fx delta fmt hl r q drawn moved
    refine ⟨fun h hf h0 h511 => ?_, fun h hf hd => ?_, fun h hf => ?_, fun h => retag_sound fmt h, fun h => ?_⟩
    · obtain ⟨n, hn⟩ := Int.eq_ofNat_of_zero_le h0
      have fmtLe := blockFmt_le_three h
      have e : r = _ := rescale_within h hf hn (by omega)
      have l60 := length_payload hl
      rw [e, hn]
      refine ⟨drawBlock_eq live fx, ?_, ?_, blockFmt_headed (by omega) (by omega), ?_, fun i hi => blockDec_rescaled hl (by omega) (by omega) hi⟩
      · rw [length_withCheck, length_headed, l60]
      · rw [blockWhy_headed (by omega) (by omega) l60, if_neg (by omega), if_neg (by omega)]
      · rw [blockScaleOf_headed (by omega) (by omega)]
    · have e : r = _ := rescale_beyond h hf hd
      refine ⟨e, ?_⟩
      rw [e]
      obtain ⟨len, isFmt, sound, isScale⟩ := packAt_sound (blockFmt_le_three h) (show (if moved < 0 then 0 else 511) ≤ 511 by split <;> omega) live
        (length_map_range fun i => scaleDown (blockDec bs i) (256 - moved)) fx
      exact ⟨len, sound, isFmt, isScale⟩
    · exact (rescale_zero_block h hf).trans (by rw [drawBlock_eq])
    · have e : r = (poisonedBlock, drawn) := (rescale_poisoned h).trans (by rw [drawBlock_eq])
      have e' : q = (poisonedBlock, drawn) := (retag_poisoned fmt h).trans (by rw [drawBlock_eq])
      obtain ⟨len, first, zeros, check, why⟩ := poisonedBlock_sound
      rw [e, e']
      exact ⟨rfl, rfl, len, first, zeros, check, why⟩

end Sys2Proof.Machine
end

section
/-! The floating-point members (04 R111 to R119): each computes its elements in ascending thread and element order and clamps under `pfx.sat`. -/

namespace Sys2Proof.Machine

/-! ### Elementwise members that pass their checks (04 R92, R101) -/

section
variable {s : State} {w : BitVec 2} {d a : BitVec 7} (f : Word → Word → Word → Word → Fx → Word × Fx)

theorem elementwise_one (h : Ready s [.v 0 a (2 ^ w.toNat) (act s), .dv d]) : elementwise s w d a { b := none } f =
    vectorResult (Noted s [.v 0 a (2 ^ w.toNat) (act s), .dv d]) d (2 ^ w.toNat) fun u i fx => f (V s a i u) 0 0 0 fx := by
  unfold elementwise
  refine Eq.trans (guarded_ready (os := [.v 0 a (2 ^ w.toNat) (act s), .dv d]) h _) ?_
  simp only [Noted_V]
  rfl

theorem elementwise_one_kept (h : Ready s [.v 0 a (2 ^ w.toNat) (act s), .v 3 d (2 ^ w.toNat) (act s)]) :
    elementwise s w d a { b := none, readD := true } f =
      vectorResult (Noted s [.v 0 a (2 ^ w.toNat) (act s), .v 3 d (2 ^ w.toNat) (act s)]) d (2 ^ w.toNat)
        fun u i fx => f (V s a i u) 0 0 (V s d i u) fx := by
  unfold elementwise
  refine Eq.trans (guarded_ready (os := [.v 0 a (2 ^ w.toNat) (act s), .v 3 d (2 ^ w.toNat) (act s)]) h _) ?_
  simp only [Noted_V]
  rfl

theorem elementwise_two {b : BitVec 7} (h : Ready s [.v 0 a (2 ^ w.toNat) (act s), .v 1 b (2 ^ w.toNat) (act s), .dv d]) :
    elementwise s w d a { b := some b } f =
      vectorResult (Noted s [.v 0 a (2 ^ w.toNat) (act s), .v 1 b (2 ^ w.toNat) (act s), .dv d]) d (2 ^ w.toNat)
        fun u i fx => f (V s a i u) (V s b i u) 0 0 fx := by
  unfold elementwise
  refine Eq.trans (guarded_ready (os := [.v 0 a (2 ^ w.toNat) (act s), .v 1 b (2 ^ w.toNat) (act s), .dv d]) h _) ?_
  simp only [Noted_V]
  rfl

theorem elementwise_two_kept {b : BitVec 7} (h : Ready s [.v 0 a (2 ^ w.toNat) (act s), .v 1 b (2 ^ w.toNat) (act s), .v 3 d (2 ^ w.toNat) (act s)]) :
    elementwise s w d a { b := some b, readD := true } f =
      vectorResult (Noted s [.v 0 a (2 ^ w.toNat) (act s), .v 1 b (2 ^ w.toNat) (act s), .v 3 d (2 ^ w.toNat) (act s)]) d (2 ^ w.toNat)
        fun u i fx => f (V s a i u) (V s b i u) 0 (V s d i u) fx := by
  unfold elementwise
  refine Eq.trans (guarded_ready (os := [.v 0 a (2 ^ w.toNat) (act s), .v 1 b (2 ^ w.toNat) (act s), .v 3 d (2 ^ w.toNat) (act s)]) h _) ?_
  simp only [Noted_V]
  rfl
end

/-- The conversions between fp32 and the 16-bit formats: codes 6 and 7 read their destination. -/
theorem exec_cvtn_ready {s : State} {w : BitVec 2} {d a : BitVec 7} (c : BitVec 3)
    (h : Ready s [.v 0 a (2 ^ w.toNat) (act s), if 6 ≤ c.toNat then .v 3 d (2 ^ w.toNat) (act s) else .dv d]) :
    exec (.cvtn w d a c) s =
      .next (vectorResult (Noted s [.v 0 a (2 ^ w.toNat) (act s), if 6 ≤ c.toNat then .v 3 d (2 ^ w.toNat) (act s) else .dv d]) d (2 ^ w.toNat)
        fun u i fx => convert16 c.toNat (V s a i u) (if 6 ≤ c.toNat then V s d i u else 0) fx) := by
  refine congrArg Host.Outcome.next (?_ : elementwise s w d a { b := none, readD := 6 ≤ c.toNat } (fun x _ _ dv fx => convert16 c.toNat x dv fx) = _)
  by_cases h6 : 6 ≤ c.toNat
  · simp only [h6, ↓reduceIte, decide_true] at h ⊢
    exact elementwise_one_kept _ h
  · simp only [h6, ↓reduceIte, decide_false] at h ⊢
    exact elementwise_one _ h

end Sys2Proof.Machine
end

section
/-! fp32 operands and results as bit patterns (03 R66, R67), and what the functions of one rounding deliver (03 R72, R74; 04 R111, R115, R118, R119). -/

namespace Sys2Proof.Machine

/-! ### The pattern of a word -/

/-- A word's pattern without its sign. -/
def sizeOfWord (z : Word) : Nat := z.toNat % 2 ^ 31

/-- Whether a word is a NaN's pattern. -/
def nanWord (z : Word) : Bool := decide (z.toNat / 2 ^ 23 % 2 ^ 8 = 255 ∧ z.toNat % 2 ^ 23 ≠ 0)

/-- Whether a word is a signalling NaN's pattern. -/
def snanWord (z : Word) : Bool := nanWord z && decide (z.toNat % 2 ^ 23 < 2 ^ 22)

/-- The real number that a finite word stands for. -/
noncomputable def realOf (z : Word) : ℝ := (if z.msb then -1 else 1) * fp32.mag (sizeOfWord z)

theorem toNat_eq_sign_add (z : Word) : z.toNat = fp32.sign z.msb + sizeOfWord z := by
  have hz := z.isLt
  unfold sizeOfWord Fmt.sign
  rw [BitVec.msb_eq_decide, show fp32.eb + fp32.fb = 31 from rfl]
  by_cases h : 2 ^ 31 ≤ z.toNat
  · rw [decide_eq_true h, if_pos rfl]; omega
  · rw [decide_eq_false h, if_neg Bool.false_ne_true]; omega

theorem sizeOfWord_lt (z : Word) : sizeOfWord z < 2 ^ 31 := Nat.mod_lt _ (by decide)

theorem nanWord_iff (z : Word) : nanWord z = true ↔ 0x7F800000 < sizeOfWord z := by
  unfold nanWord sizeOfWord
  rw [decide_eq_true_eq]
  omega

theorem abs_realOf (z : Word) : |realOf z| = fp32.mag (sizeOfWord z) := by
  have := mag_nonneg fp32 (sizeOfWord z)
  unfold realOf
  split
  · rw [neg_one_mul, abs_neg, abs_of_nonneg this]
  · rw [one_mul, abs_of_nonneg this]

theorem realOf_pos {z : Word} (h : z.msb = false) : realOf z = fp32.mag (sizeOfWord z) := by simp [realOf, h]
theorem realOf_neg {z : Word} (h : z.msb = true) : realOf z = -fp32.mag (sizeOfWord z) := by simp [realOf, h]

/-- What a finite word stands for. -/
theorem fval_finite {z : Word} (h : sizeOfWord z < 0x7F800000) : ∃ man e, fval z = .fin z.msb man e ∧
    (man : ℝ) * 2 ^ e = fp32.mag (sizeOfWord z) ∧ man < 2 ^ 24 ∧ -149 ≤ e := by
  obtain ⟨man, e, decoded, value, -, hman, he⟩ := fdecode_finite (m := fp32) (p := sizeOfWord z) h z.msb
  rw [← toNat_eq_sign_add] at decoded
  exact ⟨man, e, decoded, value, hman, he⟩

theorem fval_inf {z : Word} (h : sizeOfWord z = 0x7F800000) : fval z = .inf z.msb := by
  rw [fval, toNat_eq_sign_add, h]
  exact fdecode_top fp32 z.msb

theorem fval_nan {z : Word} (h : nanWord z = true) : fval z = .nan (snanWord z) := by
  have := fdecode_nan (m := fp32) (p := sizeOfWord z) ((nanWord_iff z).1 h) (sizeOfWord_lt z) z.msb
  rw [← toNat_eq_sign_add] at this
  rw [fval, this, snanWord, h, Bool.true_and, sizeOfWord, Nat.mod_mod_of_dvd _ (by decide)]
  rfl

/-- A word is finite, infinite or a NaN. -/
theorem word_cases (z : Word) : sizeOfWord z < 0x7F800000 ∨ sizeOfWord z = 0x7F800000 ∨ nanWord z = true := by
  rw [nanWord_iff]; omega

theorem mag_eq_zero_iff {m : Fmt} {p : Nat} : m.mag p = 0 ↔ p = 0 := by
  rw [← mag_zero m, (mag_strictMono m).injective.eq_iff]

/-- A finite value's mantissa is zero with its size. -/
theorem man_eq_zero_iff {m : Fmt} {man p : Nat} {e : Int} (h : (man : ℝ) * 2 ^ e = m.mag p) : man = 0 ↔ p = 0 := by
  have unit : (2 : ℝ) ^ e ≠ 0 := by positivity
  rw [← mag_eq_zero_iff (m := m) (p := p), ← h, mul_eq_zero_iff_right unit, Nat.cast_eq_zero]

/-! ### Results with their flags and their draw -/

/-- A result's pattern, the flags it raises, and its one draw under `rsr`. -/
def Gives (fx : Fx) (r : Nat × Fx) (p : Nat) (flags : Word) : Prop :=
  r.1 = p ∧ r.2.flags = fx.flags ||| flags ∧ r.2.rng = if fx.mode = 5 then rngStep fx.rng else fx.rng

theorem gives_fconst (x : Nat) (flags : Word) (fx : Fx) : Gives fx (fconst x flags fx) x flags :=
  ⟨rfl, by rw [fconst, Fx.raise_flags, Fx.draw_flags], by rw [fconst, Fx.raise_rng, Fx.draw_rng, Fx.drawn]⟩

theorem fnan_single (s : Bool) (fx : Fx) : fnan fp32 [.nan s] fx = fconst 0x7FC00000 (if s then flagIv else 0) fx := by
  have any : [FVal.nan s].any (·.isSnan) = s := Bool.or_false s
  rw [fnan, any]
  rfl

theorem gives_fnan (s : Bool) (fx : Fx) : Gives fx (fnan fp32 [.nan s] fx) 0x7FC00000 (if s then flagIv else 0) := by
  rw [fnan_single]
  exact gives_fconst ..

theorem draw_number {fx : Fx} (h : fx.mode = 5) : fx.draw.1 = rngStep fx.rng := by simp [Fx.draw, h]

/-- The draw matters under `rsr` alone. -/
theorem goesUp_draw {mode : Nat} {draw draw' : Word} (h : mode = 5 → draw = draw') (neg odd : Bool) (lo hi v : ℝ) :
    GoesUp mode draw neg odd lo hi v ↔ GoesUp mode draw' neg odd lo hi v := by
  by_cases hm : mode = 5
  · rw [h hm]
  · simp [GoesUp, hm]

/-- One rounding in the mode of `fx` (03 R72, R74). -/
theorem fround_roundsTo {m : Fmt} (he : 2 ≤ m.eb) (hf : 1 ≤ m.fb) {man : Nat} {exp : Int} {sticky : Bool} {v : ℝ} (hv : Leads man exp sticky v)
    (hman : man = 0 → v = 0) (hs : sticky = true → m.fb + 35 ≤ bitLen man) {fx : Fx} (hm : fx.mode ≤ 5) (neg : Bool) :
    RoundsTo m fx.mode (rngStep fx.rng) neg v (fround m neg man exp sticky fx).1 := by
  have h := froundWith_roundsTo he hf hv hman hs hm fx.draw.1 neg
  have e : (fround m neg man exp sticky fx).1 = (froundWith m fx.mode fx.draw.1 neg man exp sticky).1 := by
    simp only [fround, Fx.draw_mode]
  unfold RoundsTo at h ⊢
  simp only [goesUp_draw draw_number] at h
  rwa [e]

/-- One rounding of a finite value's own mantissa. -/
theorem fround_exact_roundsTo {m : Fmt} (he : 2 ≤ m.eb) (hf : 1 ≤ m.fb) (man : Nat) (exp : Int) {fx : Fx} (hm : fx.mode ≤ 5) (neg : Bool) :
    RoundsTo m fx.mode (rngStep fx.rng) neg (man * 2 ^ exp) (fround m neg man exp false fx).1 :=
  fround_roundsTo he hf (leads_exact man exp) (by rintro rfl; simp) (by simp) hm neg

/-! ### fmin and fmax (04 R113) -/

theorem fdecode_isNan (z : Word) : (fdecode fp32 z.toNat).isNan = nanWord z := by
  rcases word_cases z with h | h | h
  · obtain ⟨man, e, hz, -⟩ := fval_finite h
    have : nanWord z = false := by rw [Bool.eq_false_iff, ne_eq, nanWord_iff]; omega
    rw [this, ← fval, hz]; rfl
  · have : nanWord z = false := by rw [Bool.eq_false_iff, ne_eq, nanWord_iff]; omega
    rw [this, ← fval, fval_inf h]; rfl
  · rw [h, ← fval, fval_nan h]; rfl

theorem fdecode_isSnan (z : Word) : (fdecode fp32 z.toNat).isSnan = snanWord z := by
  by_cases h : nanWord z = true
  · rw [← fval, fval_nan h]; rfl
  · have hn := fdecode_isNan z
    rw [Bool.not_eq_true] at h
    rw [snanWord, h]
    rw [h] at hn
    cases hd : fdecode fp32 z.toNat with
    | nan => rw [hd] at hn; cases hn
    | inf | fin => rfl

/-- The order of the words that are no NaN, -0 below +0. -/
def orderKey (z : Word) : Int := if z.msb then -(sizeOfWord z : Int) - 1 else sizeOfWord z

theorem frank_eq (z : Word) : frank z = orderKey z := by
  rw [frank, orderKey, BitVec.msb_eq_getLsbD_last]
  rfl

theorem fminMax_eq (largest : Bool) (x y : Word) (fx : Fx) : fminMax largest x y fx =
    (if nanWord x && nanWord y then 0x7FC00000 else if nanWord x then y else if nanWord y then x
      else if (if largest then orderKey y ≤ orderKey x else orderKey x ≤ orderKey y) then x else y,
      fx.raise (flagIf (snanWord x || snanWord y) flagIv)) := by
  unfold fminMax
  simp only [fdecode_isNan, fdecode_isSnan, frank_eq]
  cases largest <;> (split_ifs <;> rfl)

theorem fminMax_spec (fx : Fx) (x y : Word) (largest : Bool) : let r := fminMax largest x y fx
    r.2 = { fx with flags := fx.flags ||| if snanWord x || snanWord y then flagIv else 0 } ∧
    (nanWord x = true → nanWord y = true → r.1 = 0x7FC00000) ∧ (nanWord x = true → nanWord y = false → r.1 = y) ∧
    (nanWord x = false → nanWord y = true → r.1 = x) ∧
    (nanWord x = false → nanWord y = false → (r.1 = x ∨ r.1 = y) ∧
      if largest then orderKey x ≤ orderKey r.1 ∧ orderKey y ≤ orderKey r.1 else orderKey r.1 ≤ orderKey x ∧ orderKey r.1 ≤ orderKey y) := by
  intro r
  have hr : r = _ := fminMax_eq largest x y fx
  rw [hr]
  refine ⟨rfl, fun hx hy => by simp [hx, hy], fun hx hy => by simp [hx, hy], fun hx hy => by simp [hx, hy], fun hx hy => ?_⟩
  simp only [hx, hy, Bool.and_self, Bool.false_eq_true, ↓reduceIte]
  cases largest
  · by_cases h : orderKey x ≤ orderKey y
    · simp [h]
    · simp [h]; omega
  · by_cases h : orderKey y ≤ orderKey x
    · simp [h]
    · simp [h]; omega

end Sys2Proof.Machine
end

section
/-! Reciprocals and square roots as leading bits (04 R115): a quotient and an integer root cut a real number short, and the sticky bit says whether
anything is left. -/

namespace Sys2Proof.Machine

theorem le_bitLen {n k : Nat} (h : 2 ^ k ≤ n) : k + 1 ≤ bitLen n := by
  have := h.trans_lt (lt_two_pow_bitLen n)
  have := (Nat.pow_lt_pow_iff_right (a := 2) (by omega)).1 this
  omega

/-! ### Reciprocals -/

theorem leads_div (a : Nat) {b : Nat} (hb : b ≠ 0) : Leads (a / b) 0 (a % b != 0) ((a : ℝ) / b) := by
  have pos : (0 : ℝ) < b := by positivity
  have div := Nat.div_add_mod a b
  have lt : a % b + 1 ≤ b := Nat.mod_lt a (Nat.pos_of_ne_zero hb)
  have zero : a % b = 0 ↔ (a : ℝ) = (a / b : Nat) * b := by
    rw [← Nat.cast_mul, Nat.cast_inj, Nat.mul_comm]; omega
  generalize a / b = q at *
  generalize a % b = r at *
  rify at div lt
  have rnn : (0 : ℝ) ≤ r := r.cast_nonneg
  refine ⟨?_, ?_, ?_⟩
  · rw [zpow_zero, mul_one, le_div_iff₀ pos]; linarith
  · rw [zpow_zero, mul_one, div_lt_iff₀ pos]; linarith
  · rw [zpow_zero, mul_one, bne_iff_ne, ne_eq, ne_eq, zero, div_eq_iff pos.ne']

theorem leads_recip {man : Nat} (hman : man ≠ 0) (e : Int) :
    let (q, k, st) := recipBits man
    Leads q (-e - k) st (man * (2 : ℝ) ^ e)⁻¹ ∧ 67 ≤ bitLen q := by
  obtain ⟨k, hk⟩ : ∃ k, k = bitLen man + 66 := ⟨_, rfl⟩
  have value : (man * (2 : ℝ) ^ e)⁻¹ = ((2 ^ k : Nat) : ℝ) / man * 2 ^ (-e - k) := by
    rw [sub_eq_add_neg, zpow_add₀ two_ne_zero, zpow_neg, zpow_neg, zpow_natCast]
    push_cast
    field_simp
  dsimp only [recipBits]
  rw [← hk, value]
  refine ⟨by simpa using (leads_div (2 ^ k) hman).scaled (-e - k), le_bitLen ?_⟩
  rw [Nat.le_div_iff_mul_le (Nat.pos_of_ne_zero hman), hk, Nat.pow_add, Nat.mul_comm]
  exact Nat.mul_le_mul_right _ (lt_two_pow_bitLen man).le

/-! ### Square roots -/

theorem isqrtFrom_spec (n k r : Nat) (h : r * r ≤ n) (h' : n < (r + 2 ^ k) * (r + 2 ^ k)) :
    isqrtFrom n k r * isqrtFrom n k r ≤ n ∧ n < (isqrtFrom n k r + 1) * (isqrtFrom n k r + 1) := by
  induction k generalizing r with
  | zero => exact ⟨h, h'⟩
  | succ k ih =>
    unfold isqrtFrom
    split
    · refine ih _ ‹_› ?_
      rwa [Nat.add_assoc, ← Nat.two_mul, ← Nat.pow_succ']
    · exact ih _ h (by omega)

theorem isqrt_eq (n : Nat) : isqrt n = n.sqrt := by
  have fits : n < (0 + 2 ^ (bitLen n / 2 + 1)) * (0 + 2 ^ (bitLen n / 2 + 1)) := by
    rw [Nat.zero_add, ← Nat.pow_add]
    exact (lt_two_pow_bitLen n).trans_le (Nat.pow_le_pow_right (by decide) (by omega))
  obtain ⟨h1, h2⟩ := isqrtFrom_spec n _ 0 (Nat.zero_le _) fits
  exact Nat.eq_sqrt.2 ⟨h1, h2⟩

/-- The integer root of a quotient cuts the real root short. -/
theorem leads_sqrt_div (a : Nat) {b : Nat} (hb : b ≠ 0) : Leads (isqrt (a / b)) 0 (isqrt (a / b) * isqrt (a / b) * b != a) (√((a : ℝ) / b)) := by
  rw [isqrt_eq]
  have pos : (0 : ℝ) < b := by positivity
  obtain ⟨low, high, -⟩ := leads_div a hb
  rw [zpow_zero, mul_one] at low high
  have floor := Nat.sqrt_le' (a / b)
  have next : a / b + 1 ≤ (Nat.sqrt (a / b) + 1) ^ 2 := Nat.lt_succ_sqrt' (a / b)
  generalize Nat.sqrt (a / b) = r at *
  rify at floor next
  refine ⟨?_, ?_, ?_⟩
  · rw [zpow_zero, mul_one]
    exact Real.le_sqrt_of_sq_le (floor.trans low)
  · rw [zpow_zero, mul_one, Real.sqrt_lt' (by positivity)]
    exact high.trans_le next
  · rw [zpow_zero, mul_one, bne_iff_ne, ne_eq, ne_eq, Real.sqrt_eq_iff_mul_self_eq (by positivity) (by positivity), div_eq_iff pos.ne', eq_comm]
    norm_cast

/-- An even exponent is halved under a root. -/
theorem sqrt_mul_zpow (x : ℝ) (hx : 0 ≤ x) (k : Int) : √(x * 2 ^ (2 * k)) = √x * 2 ^ k := by
  rw [Real.sqrt_mul hx, mul_comm 2 k, zpow_mul, zpow_ofNat, Real.sqrt_sq (by positivity)]

/-- A mantissa with an even exponent, as the roots take it. -/
theorem even_parts (man : Nat) (e : Int) : ∃ m k, (if e % 2 = 0 then (man, e) else (2 * man, e - 1)) = (m, 2 * k) ∧
    (m : ℝ) * 2 ^ (2 * k) = man * 2 ^ e ∧ (man ≠ 0 → m ≠ 0) := by
  by_cases h : e % 2 = 0
  · refine ⟨man, e / 2, ?_, ?_, id⟩
    · rw [if_pos h, show 2 * (e / 2) = e by omega]
    · rw [show 2 * (e / 2) = e by omega]
  · refine ⟨2 * man, (e - 1) / 2, ?_, ?_, by omega⟩
    · rw [if_neg h, show 2 * ((e - 1) / 2) = e - 1 by omega]
    · rw [show 2 * ((e - 1) / 2) = e - 1 by omega, zpow_sub_one₀ two_ne_zero]
      push_cast
      ring

theorem leads_sqrt {man : Nat} (hman : man ≠ 0) (e : Int) :
    let (r, e', st) := sqrtBits man e
    Leads r e' st √(man * (2 : ℝ) ^ e) ∧ 67 ≤ bitLen r := by
  obtain ⟨m, k, hmk, value, hm⟩ := even_parts man e
  unfold sqrtBits
  rw [hmk]
  dsimp only
  have half : 2 * k / 2 = k := by omega
  have root : √(man * (2 : ℝ) ^ e) = √((m * 2 ^ 140 : Nat) / (1 : Nat)) * 2 ^ (k - 70) := by
    rw [← sqrt_mul_zpow _ (by positivity), ← value, show 2 * (k - 70) = 2 * k + -140 by ring, zpow_add₀ two_ne_zero]
    congr 1
    push_cast
    norm_num
    ring
  have leads := (leads_sqrt_div (m * 2 ^ 140) one_ne_zero).scaled (k - 70)
  rw [zero_add, Nat.div_one, Nat.mul_one, ← root] at leads
  rw [half]
  refine ⟨leads, le_trans (by decide) (le_bitLen (k := 70) ?_)⟩
  rw [isqrt_eq, Nat.le_sqrt, ← Nat.pow_add]
  exact Nat.le_mul_of_pos_left _ (Nat.pos_of_ne_zero (hm hman))

theorem leads_rsqrt {man : Nat} (hman : man ≠ 0) (e : Int) :
    let (r, e', st) := rsqrtBits man e
    Leads r e' st (√(man * (2 : ℝ) ^ e))⁻¹ ∧ 67 ≤ bitLen r := by
  obtain ⟨m, k, hmk, value, hm⟩ := even_parts man e
  have hm := hm hman
  unfold rsqrtBits
  rw [hmk]
  dsimp only
  obtain ⟨n, hn⟩ : ∃ n, n = bitLen m + 80 := ⟨_, rfl⟩
  rw [← hn]
  have half : -(2 * k / 2) - ((2 * n : Nat) : Int) / 2 = -k - n := by omega
  have root : (√(man * (2 : ℝ) ^ e))⁻¹ = √((2 ^ (2 * n) : Nat) / m) * 2 ^ (-k - (n : Int)) := by
    rw [← Real.sqrt_inv, ← sqrt_mul_zpow _ (by positivity), ← value]
    congr 1
    rw [show 2 * (-k - (n : Int)) = -(2 * k) + -((2 * n : Nat) : Int) by push_cast; ring, zpow_add₀ two_ne_zero, zpow_neg, zpow_neg, zpow_natCast]
    push_cast
    field_simp
  have leads := (leads_sqrt_div (2 ^ (2 * n)) hm).scaled (-k - n)
  rw [zero_add, ← root] at leads
  rw [half]
  refine ⟨leads, le_trans (by decide) (le_bitLen (k := 80) ?_)⟩
  rw [isqrt_eq, Nat.le_sqrt, ← Nat.pow_add, Nat.le_div_iff_mul_le (Nat.pos_of_ne_zero hm)]
  calc 2 ^ (80 + 80) * m ≤ 2 ^ 160 * 2 ^ bitLen m := Nat.mul_le_mul_left _ (lt_two_pow_bitLen m).le
    _ = 2 ^ (160 + bitLen m) := (Nat.pow_add ..).symm
    _ ≤ 2 ^ (2 * n) := Nat.pow_le_pow_right (by decide) (by omega)

end Sys2Proof.Machine
end

section
/-! The functions of one rounding on finite operands, in every mode (04 R111, R115, R118, R119). -/

namespace Sys2Proof.Machine

section
variable {fx : Fx} (hm : fx.mode ≤ 5) {x : Word} (hx : sizeOfWord x < 0x7F800000)
include hm hx

theorem fscalV_roundsTo (n : Int) :
    RoundsTo fp32 fx.mode (rngStep fx.rng) x.msb (|realOf x| * 2 ^ max (-512) (min 512 n)) (fscalV (fval x) n fx).1 := by
  obtain ⟨man, e, hval, value, -⟩ := fval_finite hx
  rw [abs_realOf, ← value, mul_assoc, ← zpow_add₀ two_ne_zero, hval]
  exact fround_exact_roundsTo (by decide) (by decide) man _ hm x.msb

theorem fconvV_roundsTo {m : Fmt} (he : 2 ≤ m.eb) (hf : 1 ≤ m.fb) :
    RoundsTo m fx.mode (rngStep fx.rng) x.msb |realOf x| (fconvV m (fval x) fx).1 := by
  obtain ⟨man, e, hval, value, -⟩ := fval_finite hx
  rw [abs_realOf, ← value, hval]
  exact fround_exact_roundsTo he hf man e hm x.msb

variable (h0 : sizeOfWord x ≠ 0)
include h0

theorem frcpV_roundsTo : RoundsTo fp32 fx.mode (rngStep fx.rng) x.msb |realOf x|⁻¹ (frcpV (fval x) fx).1 := by
  obtain ⟨man, e, hval, value, -⟩ := fval_finite hx
  have hman : man ≠ 0 := mt (man_eq_zero_iff value).1 h0
  obtain ⟨leads, bits⟩ := leads_recip hman e
  rw [abs_realOf, ← value, hval, frcpV, if_neg hman]
  exact fround_roundsTo (by decide) (by decide) leads (fun h => by rw [h] at bits; exact absurd bits (by decide))
    (fun _ => le_trans (by decide) bits) hm x.msb

variable (hpos : x.msb = false)
include hpos

theorem fsqrtV_roundsTo : RoundsTo fp32 fx.mode (rngStep fx.rng) false √(realOf x) (fsqrtV (fval x) fx).1 := by
  obtain ⟨man, e, hval, value, -⟩ := fval_finite hx
  have hman : man ≠ 0 := mt (man_eq_zero_iff value).1 h0
  obtain ⟨leads, bits⟩ := leads_sqrt hman e
  rw [realOf_pos hpos, ← value, hval, hpos, fsqrtV, if_neg hman, if_neg Bool.false_ne_true]
  exact fround_roundsTo (by decide) (by decide) leads (fun h => by rw [h] at bits; exact absurd bits (by decide))
    (fun _ => le_trans (by decide) bits) hm false

theorem frsqV_roundsTo : RoundsTo fp32 fx.mode (rngStep fx.rng) false (√(realOf x))⁻¹ (frsqV (fval x) fx).1 := by
  obtain ⟨man, e, hval, value, -⟩ := fval_finite hx
  have hman : man ≠ 0 := mt (man_eq_zero_iff value).1 h0
  obtain ⟨leads, bits⟩ := leads_rsqrt hman e
  rw [realOf_pos hpos, ← value, hval, hpos, frsqV, if_neg hman, if_neg Bool.false_ne_true]
  exact fround_roundsTo (by decide) (by decide) leads (fun h => by rw [h] at bits; exact absurd bits (by decide))
    (fun _ => le_trans (by decide) bits) hm false
end

/-! ### Integers to fp32 (04 R118) -/

theorem cvtfV_signed_roundsTo {fx : Fx} (hm : fx.mode ≤ 5) (x : Word) :
    RoundsTo fp32 fx.mode (rngStep fx.rng) x.msb |(x.toInt : ℝ)| (cvtfV true x fx).1 := by
  have h := fround_exact_roundsTo (m := fp32) (by decide) (by decide) x.toInt.natAbs 0 hm x.msb
  have e : cvtfV true x fx = fround fp32 x.msb x.toInt.natAbs 0 false fx := by
    rw [cvtfV, BitVec.msb_eq_toInt]
    rfl
  rw [e]
  rwa [zpow_zero, mul_one, Nat.cast_natAbs, Int.cast_abs] at h

theorem cvtfV_unsigned_roundsTo {fx : Fx} (hm : fx.mode ≤ 5) (x : Word) :
    RoundsTo fp32 fx.mode (rngStep fx.rng) false (x.toNat : ℝ) (cvtfV false x fx).1 := by
  have h := fround_exact_roundsTo (m := fp32) (by decide) (by decide) x.toNat 0 hm false
  rwa [zpow_zero, mul_one] at h

/-! ### Narrowing (04 R119) -/

theorem fconvV_finite_lt {m : Fmt} (he : 2 ≤ m.eb) (hf : 1 ≤ m.fb) {x : Word} (hx : sizeOfWord x < 0x7F800000) (fx : Fx) :
    (fconvV m (fval x) fx).1 < 2 ^ (m.eb + m.fb + 1) := by
  obtain ⟨man, e, hval, -⟩ := fval_finite hx
  rw [hval]
  exact froundWith_lt he hf ..

theorem convert16_narrow {fx : Fx} (hm : fx.mode ≤ 5) {x : Word} (hx : sizeOfWord x < 0x7F800000) (d : Word) :
    RoundsTo fp16 fx.mode (rngStep fx.rng) x.msb |realOf x| (convert16 0 x d fx).1.toNat ∧
    RoundsTo bf16 fx.mode (rngStep fx.rng) x.msb |realOf x| (convert16 1 x d fx).1.toNat := by
  have h16 := fconvV_finite_lt (m := fp16) (by decide) (by decide) hx fx
  have hbf := fconvV_finite_lt (m := bf16) (by decide) (by decide) hx fx
  have word {r : Nat × Fx} (h : r.1 < 2 ^ 16) : (asWord false r).1.toNat = r.1 := by
    rw [asWord, if_neg Bool.false_ne_true, BitVec.toNat_ofNat]
    exact Nat.mod_eq_of_lt (h.trans (by decide))
  constructor
  · rw [convert16, word h16]
    exact fconvV_roundsTo hm hx (by decide) (by decide)
  · rw [convert16, word hbf]
    exact fconvV_roundsTo hm hx (by decide) (by decide)

/-- Codes 6 and 7 put the narrowed value above the low half of the destination. -/
theorem convert16_upper {fx : Fx} (hm : fx.mode ≤ 5) {x : Word} (hx : sizeOfWord x < 0x7F800000) (d : Word) :
    ∀ c ∈ ([(6, fp16), (7, bf16)] : List (Nat × Fmt)), ∃ h : Nat, h < 2 ^ 16 ∧ RoundsTo c.2 fx.mode (rngStep fx.rng) x.msb |realOf x| h ∧
      (convert16 c.1 x d fx).1.toNat = 2 ^ 16 * h + d.toNat % 2 ^ 16 := by
  have word {h : Nat} (hh : h < 2 ^ 16) : (BitVec.ofNat 32 (h * 65536 + d.toNat % 65536)).toNat = 2 ^ 16 * h + d.toNat % 2 ^ 16 := by
    rw [BitVec.toNat_ofNat]; omega
  simp only [List.forall_mem_cons, List.not_mem_nil, false_imp_iff, implies_true, and_true]
  have h16 := fconvV_finite_lt (m := fp16) (by decide) (by decide) hx fx
  have hbf := fconvV_finite_lt (m := bf16) (by decide) (by decide) hx fx
  exact ⟨⟨_, h16, fconvV_roundsTo hm hx (by decide) (by decide), word h16⟩, ⟨_, hbf, fconvV_roundsTo hm hx (by decide) (by decide), word hbf⟩⟩

/-! ### Widening (04 R119) -/

/-- A word from a sign and a pattern. -/
theorem word_of_pattern (neg : Bool) {p : Nat} (hp : p < 2 ^ 31) : let z : Word := .ofNat 32 (fp32.sign neg + p)
    z.toNat = fp32.sign neg + p ∧ z.msb = neg ∧ sizeOfWord z = p := by
  have sign : fp32.sign neg = if neg then 2 ^ 31 else 0 := rfl
  have hz : (BitVec.ofNat 32 (fp32.sign neg + p)).toNat = fp32.sign neg + p := by
    rw [BitVec.toNat_ofNat, sign]
    apply Nat.mod_eq_of_lt
    split <;> omega
  refine ⟨hz, ?_, ?_⟩
  · rw [BitVec.msb_eq_decide, hz, sign]
    cases neg
    · simp; omega
    · simp
  · rw [sizeOfWord, hz, sign]
    cases neg <;> simp <;> omega

/-- The finite fp32 word of a magnitude that has one. -/
theorem froundWith_word {man : Nat} {e : Int} {p : Nat} (hv : (man : ℝ) * 2 ^ e = fp32.mag p) (hp : p < 0x7F800000) (mode : Nat) (draw : Word) (neg : Bool) :
    ∃ z : Word, froundWith fp32 mode draw neg man e false = (z.toNat, 0) ∧ z.msb = neg ∧ sizeOfWord z = p := by
  obtain ⟨hz, msb, size⟩ := word_of_pattern neg (p := p) (by omega)
  exact ⟨_, by rw [hz]; exact froundWith_exact (by decide) (by decide) hv hp mode draw neg, msb, size⟩

theorem lt_top_of_mag_lt {p : Nat} (h : fp32.mag p < 2 ^ (128 : ℤ)) : p < 0x7F800000 :=
  (mag_strictMono fp32).lt_iff_lt.1 (h.trans_eq (mag_top (m := fp32) (by decide)).symm)

/-- Every finite value of a narrower format is one of fp32. -/
theorem exists_fp32_mag {m : Fmt} (hm : m = fp16 ∨ m = bf16) {p : Nat} (hp : p < m.top) {man : Nat} {e : Int} (hv : (man : ℝ) * 2 ^ e = m.mag p)
    (hman : man < 2 ^ (m.fb + 1)) (he : m.emin - m.fb ≤ e) : ∃ q, q < 0x7F800000 ∧ fp32.mag q = m.mag p := by
  have top : m.mag m.top ≤ 2 ^ (128 : ℤ) := by
    obtain rfl | rfl := hm
    · rw [mag_top (by decide)]; exact zpow_le_zpow_right₀ one_le_two (by decide)
    · rw [mag_top (by decide)]; exact zpow_le_zpow_right₀ one_le_two (by decide)
  have bounds : man ≤ 2 ^ (fp32.fb + 1) ∧ fp32.emin - fp32.fb ≤ e := by
    obtain rfl | rfl := hm
    · exact ⟨hman.le.trans (by decide), le_trans (by decide) he⟩
    · exact ⟨hman.le.trans (by decide), le_trans (by decide) he⟩
  obtain ⟨q, hq⟩ := exists_mag fp32 bounds.1 bounds.2
  refine ⟨q, lt_top_of_mag_lt ?_, hq.trans hv⟩
  rw [hq, hv]
  exact (mag_strictMono m hp).trans_le top

/-- A widened value (04 R119). -/
theorem fconvV_widen {m : Fmt} (hm : m = fp16 ∨ m = bf16) {y : Nat} (hy : y < 2 ^ 16) (fx : Fx) :
    let r := (asWord false (fconvV fp32 (fdecode m y) fx)).1
    let h := y % 2 ^ 15
    (m.top < h → r = 0x7FC00000) ∧ (h ≤ m.top → r.msb = decide (2 ^ 15 ≤ y)) ∧ (h = m.top → sizeOfWord r = 0x7F800000) ∧
      (h < m.top → sizeOfWord r < 0x7F800000 ∧ |realOf r| = m.mag h) := by
  intro r h
  have width : m.eb + m.fb = 15 := by obtain rfl | rfl := hm <;> rfl
  have split : y = m.sign (decide (2 ^ 15 ≤ y)) + h := by
    rw [Fmt.sign, width]
    by_cases hb : 2 ^ 15 ≤ y
    · rw [if_pos (decide_eq_true hb)]; omega
    · rw [if_neg (by simp; omega)]; omega
  have hr : r = (asWord false (fconvV fp32 (fdecode m (m.sign (decide (2 ^ 15 ≤ y)) + h)) fx)).1 := by rw [← split]
  have hlt : h < 2 ^ (m.eb + m.fb) := by rw [width]; exact Nat.mod_lt _ (by decide)
  generalize decide (2 ^ 15 ≤ y) = neg at hr
  clear_value h r
  rcases Nat.lt_trichotomy h m.top with hlow | htop | hhigh
  · obtain ⟨man, e, decoded, value, -, hman, he⟩ := fdecode_finite hlow neg
    obtain ⟨q, hq, hmag⟩ := exists_fp32_mag hm hlow value hman he
    obtain ⟨z, hz, msb, size⟩ := froundWith_word (value.trans hmag.symm) hq fx.mode fx.draw.1 neg
    have : r = z := by
      have e : (fconvV fp32 (.fin neg man e) fx).1 = z.toNat := by
        simp only [fconvV, fround, Fx.draw_mode]
        rw [hz]
      rw [hr, decoded, asWord, if_neg Bool.false_ne_true, e, BitVec.ofNat_toNat, BitVec.setWidth_eq]
    rw [this]
    refine ⟨fun h => by omega, fun _ => msb, fun h => by omega, fun _ => ⟨size ▸ hq, by rw [abs_realOf, size, hmag]⟩⟩
  · have : r = .ofNat 32 (fp32.sign neg + fp32.top) := by rw [hr, htop, fdecode_top]; rfl
    obtain ⟨-, msb, size⟩ := word_of_pattern neg (p := fp32.top) (by decide)
    rw [this]
    exact ⟨fun h => by omega, fun _ => msb, fun _ => size, fun h => by omega⟩
  · rw [fdecode_nan hhigh hlt] at hr
    exact ⟨fun _ => hr, fun h => by omega, fun h => by omega, fun h => by omega⟩

end Sys2Proof.Machine
end

section
/-! Rounding to an integer (04 R118). -/

namespace Sys2Proof.Machine

/-- A magnitude rounded to the natural number `n` (04 R118). -/
structure RoundsToNat (fx : Fx) (neg : Bool) (v : ℝ) (k n : Nat) : Prop where
  lower : (k : ℝ) ≤ v
  upper : v < k + 1
  farther : GoesUp fx.mode (rngStep fx.rng) neg (k % 2 == 1) k (k + 1) v → n = k + 1
  nearer : ¬ GoesUp fx.mode (rngStep fx.rng) neg (k % 2 == 1) k (k + 1) v → n = k

/-- A whole magnitude is kept. -/
theorem RoundsToNat.eq_iff {fx : Fx} {neg : Bool} {v : ℝ} {k n : Nat} (h : RoundsToNat fx neg v k n) : v = n ↔ v = k := by
  obtain ⟨lower, upper, farther, nearer⟩ := h
  constructor
  · intro hv
    rw [hv] at lower upper
    have h1 : k ≤ n := by exact_mod_cast lower
    have h2 : n < k + 1 := by exact_mod_cast upper
    rw [hv, show n = k by omega]
  · intro hv
    rw [nearer fun hg => hg.1 hv, hv]

theorem froundInt_spec (neg : Bool) (man : Nat) (e : Int) {fx : Fx} (hm : fx.mode ≤ 5) : ∃ k n : Nat, RoundsToNat fx neg (man * 2 ^ e) k n ∧
    froundInt neg man e fx.mode fx.draw.1 = (if neg then -(n : Int) else n, decide ((man : ℝ) * 2 ^ e ≠ n)) := by
  have leads := leads_exact man e
  have split := splitAt_of (man := man) (sh := -e) (by rwa [neg_neg]) (by simp)
  unfold froundInt
  dsimp only
  generalize splitAt man (-e) false = p at split
  have odd : (p.int % 2 == 1) = !(p.int % 2 == 0) := by
    rcases Nat.mod_two_eq_zero_or_one p.int with h | h <;> simp [h]
  have goes := split.up_iff hm neg (p.int % 2 == 0) fx.draw.1
  rw [goesUp_draw draw_number, ← odd] at goes
  have rounds : RoundsToNat fx neg (man * 2 ^ e) p.int (p.int + if p.up fx.mode neg (p.int % 2 == 0) fx.draw.1 then 1 else 0) :=
    ⟨split.int_le, split.lt_int, fun h => by rw [if_pos (goes.2 h)], fun h => by rw [if_neg (mt goes.1 h), Nat.add_zero]⟩
  refine ⟨_, _, rounds, Prod.ext rfl ?_⟩
  rw [Bool.eq_iff_iff, decide_eq_true_eq, split.inexact_iff, ne_eq, ne_eq, rounds.eq_iff]

/-- The integer with a sign. -/
def signedNat (neg : Bool) (n : Nat) : Int := if neg then -n else n

theorem natAbs_signedNat (neg : Bool) (n : Nat) : (signedNat neg n).natAbs = n := by
  unfold signedNat; split <;> simp

theorem realOf_eq_signedNat_iff (x : Word) (n : Nat) : realOf x = signedNat x.msb n ↔ |realOf x| = n := by
  have nonneg := mag_nonneg fp32 (sizeOfWord x)
  rw [abs_realOf]
  unfold signedNat
  cases h : x.msb
  · rw [realOf_pos h]; simp
  · rw [realOf_neg h]; simp

/-- The least and the largest integer of a type. -/
def loInt (signed : Bool) : Int := if signed then -2 ^ 31 else 0
def hiInt (signed : Bool) : Int := if signed then 2 ^ 31 - 1 else 2 ^ 32 - 1

theorem cvtiV_of_froundInt {neg : Bool} {man : Nat} {e : Int} {fx : Fx} {v : Int} {inexact : Bool} (h : froundInt neg man e fx.mode fx.draw.1 = (v, inexact))
    (signed : Bool) : (cvtiV signed (.fin neg man e) fx).1 = (BitVec.ofInt 32 (max (loInt signed) (min (hiInt signed) v))).toNat ∧
      (cvtiV signed (.fin neg man e) fx).2.flags =
        fx.flags ||| (if v < loInt signed ∨ hiInt signed < v then flagIv else if inexact then flagNx else 0) := by
  have order : loInt signed ≤ hiInt signed := by cases signed <;> decide
  have answer : cvtiV signed (.fin neg man e) fx =
      if v < loInt signed then ((BitVec.ofInt 32 (loInt signed)).toNat, fx.draw.2.raise flagIv)
      else if hiInt signed < v then ((BitVec.ofInt 32 (hiInt signed)).toNat, fx.draw.2.raise flagIv)
      else ((BitVec.ofInt 32 v).toNat, fx.draw.2.raise (flagIf inexact flagNx)) := by
    unfold cvtiV
    dsimp only
    rw [Fx.draw_mode, h]
    rfl
  rw [answer]
  by_cases h1 : v < loInt signed
  · rw [if_pos h1, if_pos (.inl h1), max_eq_left (by omega)]
    exact ⟨rfl, by rw [Fx.raise_flags, Fx.draw_flags]⟩
  by_cases h2 : hiInt signed < v
  · rw [if_neg h1, if_pos h2, if_pos (.inr h2), min_eq_left (by omega), max_eq_right (by omega)]
    exact ⟨rfl, by rw [Fx.raise_flags, Fx.draw_flags]⟩
  · rw [if_neg h1, if_neg h2, if_neg (by omega), min_eq_right (by omega), max_eq_right (by omega)]
    exact ⟨rfl, by rw [Fx.raise_flags, Fx.draw_flags]; rfl⟩

/-- A finite magnitude with its fraction rounded away is one of the format. -/
theorem exists_mag_of_rounded {x : Word} (hx : sizeOfWord x < 0x7F800000) {fx : Fx} {k n : Nat} (h : RoundsToNat fx x.msb |realOf x| k n) :
    ∃ p, p < 0x7F800000 ∧ fp32.mag p = n := by
  rw [abs_realOf] at h
  by_cases whole : fp32.mag (sizeOfWord x) = n
  · exact ⟨_, hx, whole⟩
  obtain ⟨man, e, -, value, hman, -⟩ := fval_finite hx
  -- a value with a fraction is below 2^23
  have he : e < 0 := by
    by_contra hge
    obtain ⟨j, rfl⟩ : ∃ j : ℕ, e = j := ⟨e.toNat, by omega⟩
    have nat : fp32.mag (sizeOfWord x) = (man * 2 ^ j : Nat) := by rw [← value]; push_cast; rfl
    refine whole (h.eq_iff.2 ?_)
    have low := h.lower
    have up := h.upper
    rw [nat] at low up ⊢
    have h1 : k ≤ man * 2 ^ j := by exact_mod_cast low
    have h2 : man * 2 ^ j < k + 1 := by exact_mod_cast up
    rw [show man * 2 ^ j = k by omega]
  have small : k < 2 ^ 24 := by
    have : (k : ℝ) < 2 ^ 24 :=
      calc (k : ℝ) ≤ man * 2 ^ e := value ▸ h.lower
        _ ≤ man * 1 := mul_le_mul_of_nonneg_left (zpow_le_one_of_nonpos₀ one_le_two he.le) man.cast_nonneg
        _ < 2 ^ 24 := by rw [mul_one]; exact_mod_cast hman
    exact_mod_cast this
  have hn : n ≤ 2 ^ 24 := by
    by_cases hg : GoesUp fx.mode (rngStep fx.rng) x.msb (k % 2 == 1) k (k + 1) (fp32.mag (sizeOfWord x))
    · have := h.farther hg; omega
    · have := h.nearer hg; omega
  obtain ⟨p, hp⟩ := exists_mag fp32 (n := n) (e := 0) hn (by decide)
  rw [zpow_zero, mul_one] at hp
  refine ⟨p, lt_top_of_mag_lt ?_, hp⟩
  rw [hp]
  calc (n : ℝ) ≤ 2 ^ (24 : ℤ) := by exact_mod_cast hn
    _ < 2 ^ (128 : ℤ) := zpow_lt_zpow_right₀ one_lt_two (by decide)

theorem frndV_of_froundInt {neg : Bool} {man : Nat} {e : Int} {fx : Fx} {v : Int} {inexact : Bool} (h : froundInt neg man e fx.mode fx.draw.1 = (v, inexact)) :
    frndV (.fin neg man e) fx = ((froundWith fp32 0 0 neg v.natAbs 0 false).1, fx.draw.2.raise (flagIf inexact flagNx)) := by
  unfold frndV
  dsimp only
  rw [Fx.draw_mode, h]

/-- cvti and frnd of a finite operand round to one integer, in the mode of `fx`. -/
theorem roundToInt_spec {fx : Fx} (hm : fx.mode ≤ 5) {x : Word} (hx : sizeOfWord x < 0x7F800000) :
    ∃ k n : Nat, RoundsToNat fx x.msb |realOf x| k n ∧
      (∀ signed : Bool, (cvtiV signed (fval x) fx).1 = (BitVec.ofInt 32 (max (loInt signed) (min (hiInt signed) (signedNat x.msb n)))).toNat ∧
        (cvtiV signed (fval x) fx).2.flags = fx.flags ||| (if signedNat x.msb n < loInt signed ∨ hiInt signed < signedNat x.msb n then flagIv
          else if realOf x = signedNat x.msb n then 0 else flagNx)) ∧
      ∃ r : Word, (frndV (fval x) fx).1 = r.toNat ∧ r.msb = x.msb ∧ sizeOfWord r < 0x7F800000 ∧ |realOf r| = n ∧
        (frndV (fval x) fx).2.flags = fx.flags ||| if |realOf x| = n then 0 else flagNx := by
  obtain ⟨man, e, hval, value, -⟩ := fval_finite hx
  obtain ⟨k, n, rounds, result⟩ := froundInt_spec x.msb man e hm
  have inexact (fl : Word) : (if decide ((man : ℝ) * 2 ^ e ≠ n) then fl else 0) = if |realOf x| = n then 0 else fl := by
    rw [abs_realOf, value]
    by_cases h : fp32.mag (sizeOfWord x) = n <;> simp [h]
  have signedValue : (if x.msb then -(n : Int) else n) = signedNat x.msb n := rfl
  rw [signedValue] at result
  have rounds' : RoundsToNat fx x.msb |realOf x| k n := by rwa [abs_realOf, ← value]
  obtain ⟨p, hp, hmag⟩ := exists_mag_of_rounded hx rounds'
  obtain ⟨z, hz, msb, size⟩ := froundWith_word (man := n) (e := 0) (by rw [zpow_zero, mul_one, hmag]) hp 0 0 x.msb
  refine ⟨k, n, rounds', fun signed => ?_, z, ?_, msb, size ▸ hp, by rw [abs_realOf, size, hmag], ?_⟩
  · obtain ⟨h1, h2⟩ := cvtiV_of_froundInt result signed
    rw [hval, h1, h2, inexact]
    simp only [realOf_eq_signedNat_iff, and_self]
  · rw [hval, frndV_of_froundInt result, natAbs_signedNat, hz]
  · rw [hval, frndV_of_froundInt result, Fx.raise_flags, Fx.draw_flags, ← inexact]
    rfl

/-- cvti of what is no number. -/
theorem cvtiV_special (fx : Fx) (x : Word) (signed : Bool) :
    (nanWord x = true → (cvtiV signed (fval x) fx).1 = 0 ∧ (cvtiV signed (fval x) fx).2.flags = fx.flags ||| flagIv) ∧
    (sizeOfWord x = 0x7F800000 → (cvtiV signed (fval x) fx).2.flags = fx.flags ||| flagIv ∧ (cvtiV signed (fval x) fx).1 =
      if x.msb then (if signed then 2 ^ 31 else 0) else if signed then 2 ^ 31 - 1 else 2 ^ 32 - 1) := by
  have raised : (fx.draw.2.raise flagIv).flags = fx.flags ||| flagIv := by rw [Fx.raise_flags, Fx.draw_flags]
  refine ⟨fun h => ?_, fun h => ?_⟩
  · rw [fval_nan h]
    exact ⟨rfl, raised⟩
  · rw [fval_inf h]
    refine ⟨raised, ?_⟩
    cases x.msb <;> cases signed <;> rfl

end Sys2Proof.Machine
end

section
/-! NaNs, infinities, zeros, exact cases and limits (03 R68; 04 R112, R116, R117). -/

namespace Sys2Proof.Machine

/-! ### NaNs and infinities -/

/-- A NaN operand gives the canonical NaN, with `iv` for a signalling one. -/
theorem nan_gives {x : Word} (hx : nanWord x = true) (n : Int) (fx : Fx) :
    ∀ r ∈ [fscalV (fval x) n fx, frcpV (fval x) fx, frsqV (fval x) fx, fsqrtV (fval x) fx, fexp2V x fx, flog2V x fx, fsinV x fx,
      fcosV x fx, ftanhV x fx, frndV (fval x) fx], Gives fx r 0x7FC00000 (if snanWord x then flagIv else 0) := by
  have h := gives_fnan (snanWord x) fx
  have hval := fval_nan hx
  have hdec : fdecode fp32 x.toNat = .nan (snanWord x) := hval
  simp only [fscalV, frcpV, frsqV, fsqrtV, fexp2V, flog2V, fsinV, fcosV, ftanhV, frndV, hval, hdec, List.forall_mem_cons, List.not_mem_nil,
    false_imp_iff, implies_true, and_true]
  exact ⟨h, h, h, h, h, h, h, h, h, h⟩

theorem inf_gives {x : Word} (hx : sizeOfWord x = 0x7F800000) (n : Int) (fx : Fx) :
    Gives fx (fscalV (fval x) n fx) x.toNat 0 ∧ Gives fx (frndV (fval x) fx) x.toNat 0 := by
  have h := gives_fconst (fp32.inf x.msb) 0 fx
  have value : x.toNat = fp32.inf x.msb := by rw [toNat_eq_sign_add x, hx]; rfl
  rw [fval_inf hx, value]
  exact ⟨h, h⟩

theorem gives_of_eq_fconst {fx : Fx} {r : Nat × Fx} {p : Nat} {flags : Word} (h : r = fconst p flags fx) : Gives fx r p flags := by
  rw [h]
  exact gives_fconst ..

/-- Roots and the logarithm of a negative number. -/
theorem negative_gives {x : Word} (hneg : x.msb = true) (h0 : sizeOfWord x ≠ 0) (hx : sizeOfWord x < 0x7F800000) (fx : Fx) :
    ∀ r ∈ [frsqV (fval x) fx, fsqrtV (fval x) fx, flog2V x fx], Gives fx r 0x7FC00000 flagIv := by
  obtain ⟨man, e, hval, value, -⟩ := fval_finite hx
  have hman : man ≠ 0 := mt (man_eq_zero_iff value).1 h0
  have hdec : fdecode fp32 x.toNat = .fin x.msb man e := hval
  have h := gives_fconst fp32.canon flagIv fx
  simp only [frsqV, fsqrtV, flog2V, hval, hdec, hneg, if_neg hman, ↓reduceIte, List.forall_mem_cons, List.not_mem_nil, false_imp_iff, implies_true,
    and_true]
  exact ⟨h, h, h⟩

/-! ### Comparing a finite operand with a bound -/

/-- A finite value as a fraction of natural numbers. -/
theorem eq_nat_div (man : Nat) (e : Int) : (man : ℝ) * 2 ^ e = (man * 2 ^ e.toNat : Nat) / (2 ^ (-e).toNat : Nat) := by
  obtain h | h := le_total 0 e
  · obtain ⟨n, rfl⟩ := Int.eq_ofNat_of_zero_le h
    simp
  · obtain ⟨n, hn⟩ := Int.eq_ofNat_of_zero_le (neg_nonneg.2 h)
    obtain rfl : e = -n := by omega
    simp [div_eq_mul_inv]

theorem le_nat_iff (c man : Nat) (e : Int) : c * 2 ^ (-e).toNat ≤ man * 2 ^ e.toNat ↔ (c : ℝ) ≤ man * 2 ^ e := by
  have pos : (0 : ℝ) < (2 ^ (-e).toNat : Nat) := by positivity
  rw [eq_nat_div, le_div_iff₀ pos]
  exact_mod_cast Iff.rfl

theorem lt_nat_iff (c man : Nat) (e : Int) : c * 2 ^ (-e).toNat < man * 2 ^ e.toNat ↔ (c : ℝ) < man * 2 ^ e := by
  have pos : (0 : ℝ) < (2 ^ (-e).toNat : Nat) := by positivity
  rw [eq_nat_div, lt_div_iff₀ pos]
  exact_mod_cast Iff.rfl

theorem toFixed_eq (man : Nat) {e : Int} (he : -149 ≤ e) : (toFixed man e : ℝ) = man * 2 ^ e * 2 ^ fxBits := by
  obtain ⟨n, hn⟩ : ∃ n : ℕ, e + fxBits = n := ⟨(e + fxBits).toNat, by unfold fxBits; omega⟩
  rw [toFixed, mul_assoc, ← zpow_natCast, ← zpow_add₀ two_ne_zero, hn, Int.toNat_natCast, zpow_natCast]
  push_cast
  rfl

/-- The magnitude of a power of two among the normal numbers, times a few units. -/
theorem mag_fp32 (b n : Nat) (hb : b = 0 ∨ 2 ^ 23 ≤ n) (hn : n ≤ 2 ^ 24) : fp32.mag (b * 2 ^ 23 + n) = n * (2 : ℝ) ^ ((b : ℤ) - 149) :=
  mag_step fp32 hb hn

theorem mag_128 : fp32.mag 0x43000000 = 128 := (mag_fp32 133 (2 ^ 23) (by decide) (by decide)).trans (by norm_num)
theorem mag_150 : fp32.mag 0x43160000 = 150 := (mag_fp32 133 (2 ^ 23 + 0x160000) (by decide) (by decide)).trans (by norm_num)
theorem mag_two_pow_20 : fp32.mag 0x49800000 = 2 ^ 20 := (mag_fp32 146 (2 ^ 23) (by decide) (by decide)).trans (by norm_num)
theorem mag_two_pow_neg_12 : fp32.mag 0x39800000 = 2 ^ (-12 : ℤ) := (mag_fp32 114 (2 ^ 23) (by decide) (by decide)).trans (by norm_num)
theorem mag_nine : fp32.mag 0x41100000 = 9 := (mag_fp32 129 (2 ^ 23 + 0x100000) (by decide) (by decide)).trans (by norm_num)

/-! ### fexp2 (04 R116) -/

theorem fexp2V_overflow {x : Word} (hpos : x.msb = false) (hbig : 0x43000000 ≤ sizeOfWord x) (hx : sizeOfWord x < 0x7F800000) (fx : Fx) :
    Gives fx (fexp2V x fx) 0x7F800000 (flagOf ||| flagNx) := by
  obtain ⟨man, e, hval, value, -⟩ := fval_finite hx
  have hman : man ≠ 0 := mt (man_eq_zero_iff value).1 (by omega)
  have hdec : fdecode fp32 x.toNat = .fin x.msb man e := hval
  have big : 128 ≤ man * 2 ^ e.toNat / 2 ^ (-e).toNat := by
    rw [Nat.le_div_iff_mul_le (Nat.two_pow_pos _), le_nat_iff, value, Nat.cast_ofNat, ← mag_128]
    exact (mag_strictMono fp32).monotone hbig
  refine gives_of_eq_fconst ?_
  simp only [fexp2V, hdec, hpos, if_neg hman, big, decide_true, Bool.not_false, Bool.and_self, ↓reduceIte]
  rfl

theorem fexp2V_underflow {x : Word} (hneg : x.msb = true) (hbig : 0x43160000 < sizeOfWord x) (hx : sizeOfWord x < 0x7F800000) (fx : Fx) :
    Gives fx (fexp2V x fx) 0 (flagUf ||| flagNx) := by
  obtain ⟨man, e, hval, value, -⟩ := fval_finite hx
  have hman : man ≠ 0 := mt (man_eq_zero_iff value).1 (by omega)
  have hdec : fdecode fp32 x.toNat = .fin x.msb man e := hval
  have big : 150 * 2 ^ (-e).toNat < man * 2 ^ e.toNat := by
    rw [lt_nat_iff, value, Nat.cast_ofNat, ← mag_150]
    exact mag_strictMono fp32 hbig
  refine gives_of_eq_fconst ?_
  simp only [fexp2V, hdec, hneg, if_neg hman, big, decide_true, Bool.not_true, Bool.false_and, Bool.false_eq_true, Bool.and_self, ↓reduceIte]

/-- The pattern of a power of two. -/
def powerPattern (i : Int) : Nat := if -126 ≤ i then (i + 127).toNat * 2 ^ 23 else 2 ^ (i + 149).toNat

theorem powerPattern_zero : powerPattern 0 = 0x3F800000 := by
  rw [powerPattern, if_pos (by decide), show ((0 : Int) + 127).toNat = 127 from rfl]
  norm_num

theorem mag_powerPattern {i : Int} (hi : -149 ≤ i) : fp32.mag (powerPattern i) = 2 ^ i := by
  unfold powerPattern
  split
  · obtain ⟨b, hb⟩ : ∃ b : Nat, i = b - 126 := ⟨(i + 126).toNat, by omega⟩
    have e : (i + 127).toNat * 2 ^ 23 = b * 2 ^ 23 + 2 ^ 23 := by
      rw [show (i + 127).toNat = b + 1 by omega, Nat.add_mul, Nat.one_mul]
    rw [e, mag_fp32 b _ (.inr le_rfl) (by decide), Nat.cast_pow, Nat.cast_ofNat, ← zpow_natCast, ← zpow_add₀ two_ne_zero]
    congr 1
    push_cast
    omega
  · obtain ⟨n, hn⟩ : ∃ n : Nat, i = n - 149 := ⟨(i + 149).toNat, by omega⟩
    have small : 2 ^ n ≤ 2 ^ 24 := Nat.pow_le_pow_right (by decide) (by omega)
    have h := mag_fp32 0 (2 ^ n) (.inl rfl) small
    rw [show (i + 149).toNat = n by omega]
    rw [Nat.zero_mul, Nat.zero_add] at h
    rw [h, Nat.cast_pow, Nat.cast_ofNat, ← zpow_natCast, ← zpow_add₀ two_ne_zero]
    congr 1
    push_cast
    omega

/-- A finite operand with the value of an integer. -/
theorem int_num_den {x : Word} {man : Nat} {e : Int} (value : (man : ℝ) * 2 ^ e = fp32.mag (sizeOfWord x)) {i : Int} (hi : realOf x = i) :
    (if x.msb then -1 else 1) * (man : Int) * 2 ^ e.toNat = i * (2 ^ (-e).toNat : Nat) := by
  have pos : ((2 ^ (-e).toNat : Nat) : ℝ) ≠ 0 := by positivity
  rw [realOf, ← value, eq_nat_div, ← mul_div_assoc, div_eq_iff pos] at hi
  rw [mul_assoc]
  split
  · rw [if_pos ‹_›] at hi; exact_mod_cast hi
  · rw [if_neg ‹_›] at hi; exact_mod_cast hi

theorem fexp2V_int {x : Word} (hx : sizeOfWord x < 0x7F800000) {i : Int} (h1 : -149 ≤ i) (h2 : i ≤ 127) (hi : realOf x = i) (fx : Fx) :
    Gives fx (fexp2V x fx) (powerPattern i) 0 := by
  obtain ⟨man, e, hval, value, -⟩ := fval_finite hx
  have hdec : fdecode fp32 x.toNat = .fin x.msb man e := hval
  have whole := int_num_den value hi
  have magnitude : (man : ℝ) * 2 ^ e = |(i : ℝ)| := by rw [value, ← abs_realOf, hi]
  refine gives_of_eq_fconst ?_
  by_cases hman : man = 0
  · obtain rfl : i = 0 := by
      rw [hman, Nat.cast_zero, zero_mul, eq_comm, abs_eq_zero] at magnitude
      exact_mod_cast magnitude
    unfold fexp2V
    rw [hdec, powerPattern_zero]
    exact if_pos hman
  have noOverflow : (!x.msb && decide (128 ≤ man * 2 ^ e.toNat / 2 ^ (-e).toNat)) = false := by
    cases hmsb : x.msb
    · rw [realOf_pos hmsb, ← value] at hi
      have : ¬ 128 ≤ man * 2 ^ e.toNat / 2 ^ (-e).toNat := by
        rw [Nat.le_div_iff_mul_le (Nat.two_pow_pos _), le_nat_iff, hi]
        intro h
        have : (128 : Int) ≤ i := by exact_mod_cast h
        omega
      simpa using this
    · rfl
  have noUnderflow : ¬ 150 * 2 ^ (-e).toNat < man * 2 ^ e.toNat := by
    rw [lt_nat_iff, magnitude, lt_abs]
    rintro (h | h)
    · have : (150 : Int) < i := by exact_mod_cast h
      omega
    · have : (150 : Int) < -i := by exact_mod_cast h
      omega
  have floor : (i * (2 ^ (-e).toNat : Nat)).fdiv (2 ^ (-e).toNat : Nat) = i := Int.mul_fdiv_cancel _ (by positivity)
  have hv : ((1 : Nat) : ℝ) * 2 ^ i = fp32.mag (powerPattern i) := by rw [mag_powerPattern h1, Nat.cast_one, one_mul]
  have finite : powerPattern i < fp32.top := lt_top_of_mag_lt (by
    rw [mag_powerPattern h1]
    exact zpow_lt_zpow_right₀ one_lt_two (by omega))
  simp only [fexp2V, hdec, if_neg hman, noOverflow, noUnderflow, decide_false, Bool.and_false, Bool.false_eq_true, ↓reduceIte, whole, floor, sub_self,
    Int.toNat_zero, Nat.zero_mul, Nat.zero_div, froundWith_exact (m := fp32) (by decide) (by decide) hv finite]
  rw [show fp32.sign false = 0 from rfl, Nat.zero_add]

/-! ### flog2 (04 R116) -/

/-- A mantissa whose value is a power of two is one itself. -/
theorem man_eq_two_pow {man : Nat} {e i : Int} (h : (man : ℝ) * 2 ^ e = 2 ^ i) : ∃ n : Nat, e + n = i ∧ man = 2 ^ n := by
  have value : (man : ℝ) = 2 ^ (i - e) := by rw [zpow_sub₀ two_ne_zero, ← h]; field_simp
  have one : 1 ≤ man := by
    by_contra h0
    obtain rfl : man = 0 := by omega
    have : (0 : ℝ) < 2 ^ (i - e) := by positivity
    rw [← value] at this
    exact absurd this (by simp)
  have order : 0 ≤ i - e := by
    by_contra hlt
    have : (2 : ℝ) ^ (i - e) < 1 := zpow_lt_one_of_neg₀ one_lt_two (by omega)
    rw [← value] at this
    have : man < 1 := by exact_mod_cast this
    omega
  obtain ⟨n, hn⟩ := Int.eq_ofNat_of_zero_le order
  rw [hn, zpow_natCast] at value
  exact ⟨n, by omega, by exact_mod_cast value⟩

theorem flog2V_power {x : Word} (hx : sizeOfWord x < 0x7F800000) {i : Int} (hi : realOf x = (2 : ℝ) ^ i) (fx : Fx) :
    ∃ r : Word, Gives fx (flog2V x fx) r.toNat 0 ∧ sizeOfWord r < 0x7F800000 ∧ realOf r = i ∧ (i = 0 → r = 0) := by
  obtain ⟨man, e, hval, value, -, he⟩ := fval_finite hx
  have hdec : fdecode fp32 x.toNat = .fin x.msb man e := hval
  have pos : (0 : ℝ) < 2 ^ i := by positivity
  have hpos : x.msb = false := by
    by_contra h
    have := realOf_neg (Bool.not_eq_false _ ▸ h)
    have := mag_nonneg fp32 (sizeOfWord x)
    linarith
  rw [realOf_pos hpos] at hi
  obtain ⟨n, hn, hman⟩ := man_eq_two_pow (value.trans hi)
  have bits : bitLen man - 1 = n := by
    rw [hman, bitLen_eq le_rfl (Nat.pow_lt_pow_right (by decide) (Nat.lt_succ_self n)), Nat.add_sub_cancel]
  have hman0 : man ≠ 0 := by rw [hman]; exact (Nat.two_pow_pos n).ne'
  have below : i < 128 := by
    have : (2 : ℝ) ^ i < 2 ^ (128 : ℤ) := by
      rw [← hi]
      exact (mag_strictMono fp32 hx).trans_eq (mag_top (m := fp32) (by decide))
    exact (zpow_lt_zpow_iff_right₀ one_lt_two).1 this
  obtain ⟨p, hp⟩ := exists_mag fp32 (n := i.natAbs) (e := 0) (le_trans (by omega) (show 149 ≤ _ by decide)) (by decide)
  have finite : p < 0x7F800000 := lt_top_of_mag_lt (by
    rw [hp, zpow_zero, mul_one]
    calc (i.natAbs : ℝ) ≤ (2 ^ 8 : Nat) := by exact_mod_cast (show i.natAbs ≤ 2 ^ 8 by omega)
      _ = 2 ^ (8 : ℤ) := by norm_num
      _ < 2 ^ (128 : ℤ) := zpow_lt_zpow_right₀ one_lt_two (by decide))
  obtain ⟨z, hz, msb, size⟩ := froundWith_word hp.symm finite 0 0 (decide (i < 0))
  refine ⟨z, gives_of_eq_fconst ?_, size ▸ finite, ?_, fun h0 => ?_⟩
  · simp only [flog2V, hdec, if_neg hman0, hpos, Bool.false_eq_true, ↓reduceIte, bits, if_pos hman, hn, hz]
  · rw [(realOf_eq_signedNat_iff z i.natAbs).2 (by rw [abs_realOf, size, hp, zpow_zero, mul_one]), msb, signedNat]
    by_cases hlt : i < 0
    · rw [if_pos (decide_eq_true hlt)]; exact_mod_cast (by omega : -(i.natAbs : Int) = i)
    · rw [if_neg (by simpa using hlt)]; exact_mod_cast (by omega : (i.natAbs : Int) = i)
  · subst h0
    have p0 : p = 0 := mag_eq_zero_iff.1 (by rw [hp]; simp)
    apply BitVec.eq_of_toNat_eq
    rw [toNat_eq_sign_add z, msb, size, p0]
    rfl

/-! ### fsin, fcos and ftanh (04 R117) -/

theorem above20_of_size {x : Word} {man : Nat} {e : Int} (value : (man : ℝ) * 2 ^ e = fp32.mag (sizeOfWord x)) (h : 0x49800000 < sizeOfWord x) :
    above20 man e = true := by
  rw [above20, decide_eq_true_eq, lt_nat_iff, value, Nat.cast_pow, Nat.cast_ofNat, ← mag_two_pow_20]
  exact mag_strictMono fp32 h

theorem trig_above_gives {x : Word} (h : 0x49800000 < sizeOfWord x) (hx : sizeOfWord x < 0x7F800000) (fx : Fx) :
    Gives fx (fsinV x fx) (if x.msb then 2 ^ 31 else 0) flagNx ∧ Gives fx (fcosV x fx) 0x3F800000 flagNx := by
  obtain ⟨man, e, hval, value, -⟩ := fval_finite hx
  have hman : man ≠ 0 := mt (man_eq_zero_iff value).1 (by omega)
  have hdec : fdecode fp32 x.toNat = .fin x.msb man e := hval
  have above := above20_of_size value h
  constructor
  · exact gives_of_eq_fconst (by simp only [fsinV, hdec, if_neg hman, above, ↓reduceIte])
  · exact gives_of_eq_fconst (by simp only [fcosV, hdec, if_neg hman, above, ↓reduceIte])

theorem ftanhV_small {x : Word} (h : sizeOfWord x < 0x39800000) (fx : Fx) : Gives fx (ftanhV x fx) x.toNat 0 := by
  obtain ⟨man, e, hval, value, -, he⟩ := fval_finite (z := x) (by omega)
  have hdec : fdecode fp32 x.toNat = .fin x.msb man e := hval
  have small : toFixed man e < 2 ^ (fxBits - 12) := by
    have : (toFixed man e : ℝ) < 2 ^ (fxBits - 12) := by
      rw [toFixed_eq man he, value]
      calc fp32.mag (sizeOfWord x) * 2 ^ fxBits < 2 ^ (-12 : ℤ) * 2 ^ fxBits :=
            mul_lt_mul_of_pos_right (mag_two_pow_neg_12 ▸ mag_strictMono fp32 h) (by positivity)
        _ = 2 ^ (fxBits - 12) := by rw [← zpow_natCast, ← zpow_natCast, ← zpow_add₀ two_ne_zero]; rfl
    exact_mod_cast this
  exact gives_of_eq_fconst (by simp only [ftanhV, hdec, if_pos small])

theorem ftanhV_large {x : Word} (h : 0x41100000 ≤ sizeOfWord x) (hx : sizeOfWord x < 0x7F800000) (fx : Fx) :
    Gives fx (ftanhV x fx) (if x.msb then 0xBF800000 else 0x3F800000) flagNx := by
  obtain ⟨man, e, hval, value, -, he⟩ := fval_finite hx
  have hdec : fdecode fp32 x.toNat = .fin x.msb man e := hval
  have large : 9 * 2 ^ fxBits ≤ toFixed man e := by
    have : 9 * 2 ^ fxBits ≤ (toFixed man e : ℝ) := by
      rw [toFixed_eq man he, value, ← mag_nine]
      exact mul_le_mul_of_nonneg_right ((mag_strictMono fp32).monotone h) (by positivity)
    exact_mod_cast this
  have notSmall : ¬ toFixed man e < 2 ^ (fxBits - 12) := by
    have : 2 ^ (fxBits - 12) ≤ 9 * 2 ^ fxBits := by decide
    omega
  exact gives_of_eq_fconst (by simp only [ftanhV, hdec, if_neg notSmall, if_pos large])

/-! ### The clamp (04 R112) -/

theorem fsat_eq {r : Nat} (hr : r < 2 ^ 32) : let z : Word := .ofNat 32 r
    fsat r = if nanWord z || z.msb then 0 else if 0x3F800000 ≤ r then 0x3F800000 else r := by
  intro z
  have hz : z.toNat = r := by rw [BitVec.toNat_ofNat, Nat.mod_eq_of_lt hr]
  have hsize := toNat_eq_sign_add z
  rw [← hz]
  unfold fsat
  rcases word_cases z with h | h | h
  · have notNan : nanWord z = false := by rw [Bool.eq_false_iff, ne_eq, nanWord_iff]; omega
    obtain ⟨man, e, hval, value, -⟩ := fval_finite h
    rw [← fval, hval, notNan, Bool.false_or]
    dsimp only
    cases hmsb : z.msb
    · by_cases h0 : man = 0
      · have size0 := (man_eq_zero_iff value).1 h0
        rw [hmsb, size0] at hsize
        rw [hsize, h0]
        rfl
      · simp [h0]
    · simp
  · have notNan : nanWord z = false := by rw [Bool.eq_false_iff, ne_eq, nanWord_iff]; omega
    rw [← fval, fval_inf h, notNan, Bool.false_or]
    have large : 0x3F800000 ≤ z.toNat := by omega
    cases z.msb <;> simp [large]
  · rw [← fval, fval_nan h, h, Bool.true_or, if_pos rfl]

theorem asWord_spec (fx : Fx) {r : Nat} (hr : r < 2 ^ 32) : let z : Word := .ofNat 32 r
    asWord false (r, fx) = (z, fx) ∧ (asWord true (r, fx)).2 = fx ∧
      (asWord true (r, fx)).1 = if nanWord z || z.msb then 0 else if 0x3F800000 ≤ r then 0x3F800000 else z := by
  refine ⟨rfl, rfl, ?_⟩
  rw [asWord, if_pos rfl, fsat_eq hr]
  split
  · rfl
  · split <;> rfl

end Sys2Proof.Machine
end

section
/-! The floating-point instructions as a whole (04 R111 to R119). -/

namespace Sys2Proof.Machine

/-- Settles O12: the members by what an elementwise one answers, and the values by one rounding of a real number between two patterns, with the
quotients and roots as leading bits of theirs. -/
theorem floatInstructions : Obligations.FloatInstructions := by
  unfold Obligations.FloatInstructions
  constructor
  · intro s w d a b n sat x y xs ys two os od o1
    have one {f : Word → Word → Word → Word → Fx → Word × Fx} {i : Instr} {g : Nat → Nat → Fx → Word × Fx}
        (hi : exec i s = .next (elementwise s w d a { b := none } f)) (hg : (fun u i fx => f (V s a i u) 0 0 0 fx) = g) : two i o1 g :=
      fun h => hi.trans (congrArg _ ((elementwise_one f h).trans (by rw [hg])))
    have both {f : Word → Word → Word → Word → Fx → Word × Fx} {i : Instr} {g : Nat → Nat → Fx → Word × Fx}
        (hi : exec i s = .next (elementwise s w d a { b := some b } f)) (hg : (fun u i fx => f (V s a i u) (V s b i u) 0 0 fx) = g) : two i os g :=
      fun h => hi.trans (congrArg _ ((elementwise_two f h).trans (by rw [hg])))
    exact ⟨both rfl rfl, both rfl rfl, both rfl rfl, fun h => congrArg _ (elementwise_two_kept _ h), both rfl rfl, both rfl rfl, both rfl rfl,
      one rfl rfl, one rfl rfl, one rfl rfl, one rfl rfl, one rfl rfl, one rfl rfl, one rfl rfl, one rfl rfl, fun c => ⟨one rfl rfl, one rfl rfl⟩,
      one rfl rfl, fun c => exec_cvtn_ready c⟩
  · intro fx x y hm nan snan size finite mag val draw gives goesUp rounded
    refine ⟨fminMax_spec fx x y, fun hx n => fscalV_roundsTo hm hx n, fun hx h0 => frcpV_roundsTo hm hx h0,
      fun hx h0 hpos => ⟨fsqrtV_roundsTo hm hx h0 hpos, frsqV_roundsTo hm hx h0 hpos⟩, ⟨cvtfV_signed_roundsTo hm x, cvtfV_unsigned_roundsTo hm x⟩,
      fun hx d => ⟨(convert16_narrow hm hx d).1, (convert16_narrow hm hx d).2, convert16_upper hm hx d⟩, fun d => ?widen, fun hx => ?integer,
      cvtiV_special fx x, fun h n => nan_gives h n fx, fun h n => inf_gives h n fx, ?table, fun hneg h0 hx => negative_gives hneg h0 hx fx,
      fun hpos hbig hx => fexp2V_overflow hpos hbig hx fx, fun hneg hbig hx => fexp2V_underflow hneg hbig hx fx,
      fun i h1 h2 hx hi => fexp2V_int hx h1 h2 hi fx, fun i hx hi => flog2V_power hx hi fx, fun h hx => trig_above_gives h hx fx,
      fun _ h => ftanhV_small h fx, fun h hx => ftanhV_large h hx fx, fun r hr => asWord_spec fx hr⟩
    case widen =>
      have low : x.toNat % 2 ^ 16 < 2 ^ 16 := Nat.mod_lt _ (by decide)
      have high : x.toNat / 2 ^ 16 < 2 ^ 16 := by have := x.isLt; omega
      simp only [List.forall_mem_cons, List.not_mem_nil, false_imp_iff, implies_true, and_true]
      exact ⟨fconvV_widen (.inl rfl) low fx, fconvV_widen (.inr rfl) low fx, fconvV_widen (.inl rfl) high fx, fconvV_widen (.inr rfl) high fx⟩
    case integer =>
      obtain ⟨k, n, ⟨lower, upper, farther, nearer⟩, cvti, frnd⟩ := roundToInt_spec hm hx
      exact ⟨k, lower, upper, n, farther, nearer, cvti, frnd⟩
    case table =>
      intro p hp
      refine gives_of_eq_fconst ?_
      revert p
      simp only [List.forall_mem_cons, List.not_mem_nil, false_imp_iff, implies_true, and_true]
      exact ⟨rfl, rfl, rfl, rfl, rfl, rfl, rfl, rfl, rfl, rfl, rfl, rfl, rfl, rfl, rfl, rfl, rfl, rfl, rfl, rfl, rfl, rfl, rfl, rfl, rfl, rfl, rfl, rfl, rfl,
        rfl, rfl, rfl⟩

end Sys2Proof.Machine
end

section
/-! The integer functions and the scalar members (04 R97 to R100). -/

namespace Sys2Proof.Machine

/-! ### Integer functions -/

theorem bool32_decide (p : Prop) [Decidable p] : bool32 (decide p) = if p then 1 else 0 := by
  unfold bool32
  by_cases h : p <;> simp [h]

/-- A shift by an immediate of five bits stays below 32 (04 R98). -/
theorem toNat_setWidth_shift (b : BitVec 5) : (b.setWidth 32).toNat = b.toNat ∧ b.toNat < 32 :=
  ⟨by rw [BitVec.toNat_setWidth]; exact Nat.mod_eq_of_lt (by have := b.isLt; omega), b.isLt⟩

theorem shiftLeft_imm (x : Word) (b : BitVec 5) : shiftLeft x (b.setWidth 32) = x <<< b.toNat := by
  obtain ⟨e, h⟩ := toNat_setWidth_shift b
  rw [shiftLeft, e, if_pos h]

theorem shiftRight_imm (x : Word) (b : BitVec 5) : shiftRight x (b.setWidth 32) = x >>> b.toNat := by
  obtain ⟨e, h⟩ := toNat_setWidth_shift b
  rw [shiftRight, e, if_pos h]

theorem shiftArith_imm (x : Word) (b : BitVec 5) : shiftArith x (b.setWidth 32) = x.sshiftRight b.toNat := by
  obtain ⟨e, h⟩ := toNat_setWidth_shift b
  rw [shiftArith, e, if_pos h]

theorem rotateLeft_imm (x : Word) (b : BitVec 5) : rotateLeft x (b.setWidth 32) = x.rotateLeft b.toNat := by
  obtain ⟨e, h⟩ := toNat_setWidth_shift b
  rw [rotateLeft, e, Nat.mod_eq_of_lt h]

theorem leadingZeros_toNat (x : Word) : (leadingZeros x).toNat = 32 - bitLen x.toNat := by
  have zero : (x = 0) = (x.toNat = 0) := by rw [BitVec.toNat_eq]; rfl
  have e : leadingZeros x = .ofNat 32 (32 - bitLen x.toNat) := by simp only [leadingZeros, bitLen, zero]
  rw [e, BitVec.toNat_ofNat]
  exact Nat.mod_eq_of_lt (by omega)

/-- The highest set bit stands right below the leading zeros (04 R97). -/
theorem leadingZeros_spec (x : Word) : (leadingZeros x).toNat ≤ 32 ∧ x.toNat < 2 ^ (32 - (leadingZeros x).toNat) ∧
    (x ≠ 0 → 2 ^ (31 - (leadingZeros x).toNat) ≤ x.toNat) ∧ (x = 0 → leadingZeros x = 32) := by
  have fits := bitLen_le x.isLt
  rw [leadingZeros_toNat]
  refine ⟨by omega, ?_, fun h => ?_, by rintro rfl; rfl⟩
  · rw [show 32 - (32 - bitLen x.toNat) = bitLen x.toNat by omega]
    exact lt_two_pow_bitLen _
  · have hx : x.toNat ≠ 0 := fun h0 => h (BitVec.eq_of_toNat_eq h0)
    rw [show 31 - (32 - bitLen x.toNat) = bitLen x.toNat - 1 by have := bitLen_pos hx; omega]
    exact two_pow_le_of_bitLen hx

/-! ### Scalar members that pass their checks -/

@[simp] theorem Opd.whole_s (pos : Nat) (r : BitVec 7) (n : Nat) : (Opd.s pos r n).whole = true := by simp [Opd.whole, Opd.s]
@[simp] theorem Opd.whole_ds (r : BitVec 7) : (Opd.ds r).whole = true := rfl

theorem scalar2_ready {s : State} {d a b : BitVec 7} (h : Ready s [.s 0 a, .s 1 b, .ds d]) (f : Word → Word → Word) :
    scalar2 s d a b f = { s with cur := s.cur.sset d.toNat (f (S s a) (S s b)) } :=
  guarded_whole h (by simp) _

theorem scalar1_ready {s : State} {d a : BitVec 7} (h : Ready s [.s 0 a, .ds d]) (f : Word → Word) :
    scalar1 s d a f = { s with cur := s.cur.sset d.toNat (f (S s a)) } :=
  guarded_whole h (by simp) _

theorem scalarConst_ready {s : State} {d : BitVec 7} (h : Ready s [.ds d]) (x : Word) :
    scalarConst s d x = { s with cur := s.cur.sset d.toNat x } :=
  guarded_whole h (by simp) _

/-- Settles O2: every one of the twenty is `scalar2` of its function. -/
theorem scalarArithmetic : Obligations.ScalarArithmetic := by
  unfold Obligations.ScalarArithmetic
  intro s d a b h x y n
  have two {i : Instr} {f : Word → Word → Word} {z : Word} (hi : exec i s = .next (scalar2 s d a b f)) (hz : f x y = z) :
      exec i s = .next { s with cur := s.cur.sset d.toNat z } := by rw [hi, scalar2_ready h, ← hz]
  simp only [List.forall_mem_cons, List.not_mem_nil, false_imp_iff, implies_true, and_true]
  exact ⟨two rfl rfl, two rfl rfl, two rfl rfl, two rfl rfl, two rfl rfl, two rfl rfl, two rfl rfl, two rfl rfl, two rfl rfl, two rfl rfl,
    two rfl rfl, two rfl rfl, two rfl rfl, two rfl rfl, two rfl rfl, two rfl rfl,
    two rfl (bool32_decide (x = y)), two rfl (bool32_decide (x.toInt < y.toInt)), two rfl (bool32_decide (x.toNat < y.toNat)),
    two rfl ((congrArg bool32 decide_not.symm).trans (bool32_decide (x ≠ y)))⟩

/-- Settles O3: the one-source members are `scalar1` of their functions, the immediates constants, and the counts read the bits of a word. -/
theorem scalarMoves : Obligations.ScalarMoves := by
  unfold Obligations.ScalarMoves
  refine ⟨?_, fun s d a b h => ?_, fun s d i h => ?_, leadingZeros_spec, fun _ => rfl⟩
  · intro s d a b i h x n
    have one {i : Instr} {f : Word → Word} {z : Word} (hi : exec i s = .next (scalar1 s d a f)) (hz : f x = z) :
        exec i s = .next { s with cur := s.cur.sset d.toNat z } := by rw [hi, scalar1_ready h, ← hz]
    simp only [List.forall_mem_cons, List.not_mem_nil, false_imp_iff, implies_true, and_true]
    exact ⟨one rfl rfl, one rfl (shiftLeft_imm x b), one rfl (shiftRight_imm x b), one rfl (shiftArith_imm x b), one rfl (rotateLeft_imm x b),
      one rfl rfl, one rfl rfl, one rfl rfl⟩
  · exact congrArg Host.Outcome.next (guarded_whole h (by simp) _)
  · exact ⟨congrArg Host.Outcome.next (scalarConst_ready h _), congrArg Host.Outcome.next (scalarConst_ready h _)⟩

end Sys2Proof.Machine
end

section
/-! The bits of masks and words that are put together one by one (04 R101, R105, R106, R108). -/

namespace Sys2Proof.Machine

/-! ### Bits set one by one -/

/-- A bit of what is put together from a list: it was there, or an element sets it. -/
theorem getLsbD_foldl_or {w : Nat} (p : Nat → Bool) (g : Nat → BitVec w) (ts : List Nat) (m : BitVec w) (i : Nat) :
    (ts.foldl (fun m t => if p t then m ||| g t else m) m).getLsbD i = (m.getLsbD i || ts.any fun t => p t && (g t).getLsbD i) := by
  induction ts generalizing m with
  | nil => simp
  | cons t ts ih =>
    rw [List.foldl_cons, ih, List.any_cons]
    cases p t <;> simp [Bool.or_assoc]

theorem getLsbD_natCast_one_shiftLeft {w : Nat} (n i : Nat) : ((1 <<< n : Nat) : BitVec w).getLsbD i = decide (i < w ∧ i = n) := by
  rw [BitVec.natCast_eq_ofNat, BitVec.getLsbD_ofNat, Nat.one_shiftLeft, Nat.testBit_two_pow, Bool.decide_and]
  simp [eq_comm]

theorem getLsbD_maskOf (ts : List Nat) (p : Nat → Bool) {u : Nat} (hu : u < 64) : (maskOf ts p).getLsbD u = (decide (u ∈ ts) && p u) := by
  have h := getLsbD_foldl_or p (fun t => ((1 <<< t : Nat) : Mask)) ts 0 u
  rw [maskOf, h, Bool.eq_iff_iff]
  simp only [getLsbD_natCast_one_shiftLeft, hu, true_and, BitVec.ofNat_eq_ofNat, BitVec.getLsbD_zero, Bool.false_or, List.any_eq_true, Bool.and_eq_true,
    decide_eq_true_eq]
  constructor
  · rintro ⟨t, ht, hp, rfl⟩
    exact ⟨ht, hp⟩
  · exact fun ⟨ht, hp⟩ => ⟨u, ht, hp, rfl⟩

/-- Bit 31 - j of the reversed word is bit j (04 R101). -/
theorem getLsbD_reverseBits (x : Word) {j : Nat} (hj : j < 32) : (reverseBits x).getLsbD j = x.getLsbD (31 - j) := by
  have h := getLsbD_foldl_or (fun t => x.getLsbD t) (fun t => ((1 <<< (31 - t) : Nat) : Word)) (upto 32) 0 j
  rw [reverseBits, h, Bool.eq_iff_iff]
  simp only [getLsbD_natCast_one_shiftLeft, hj, true_and, BitVec.ofNat_eq_ofNat, BitVec.getLsbD_zero, Bool.false_or, List.any_eq_true, Bool.and_eq_true,
    decide_eq_true_eq, upto, List.mem_range]
  constructor
  · rintro ⟨t, ht, hp, rfl⟩
    rwa [show 31 - (31 - t) = t by omega]
  · exact fun hx => ⟨31 - j, by omega, hx, by omega⟩

/-! ### Bytes of words (04 R104, R106) -/

theorem testBit_ofBytes (bs : List Byte) (j : Nat) : (ofBytes bs).testBit j = (nth bs (j / 8) 0).getLsbD (j % 8) := by
  induction bs generalizing j with
  | nil => simp [ofBytes, nth]
  | cons b bs ih =>
    rw [ofBytes, Nat.add_comm, show 256 = 2 ^ 8 from rfl, Nat.testBit_two_pow_mul_add _ b.isLt, ih]
    split
    · rw [show j / 8 = 0 by omega, Nat.mod_eq_of_lt ‹_›]
      rfl
    · rw [show j / 8 = (j - 8) / 8 + 1 by omega, show j % 8 = (j - 8) % 8 by omega]
      rfl

theorem testBit_byteOf (x k : Nat) {j : Nat} (hj : j < 8) : (byteOf x k).testBit j = x.testBit (8 * k + j) := by
  rw [byteOf, show 256 = 2 ^ 8 from rfl, ← Nat.pow_mul, Nat.testBit_mod_two_pow, Nat.testBit_div_two_pow, decide_eq_true hj, Bool.true_and, Nat.add_comm]

theorem ofNat_byteOf (x : Word) (k : Nat) : BitVec.ofNat 8 (byteOf x.toNat k) = x.extractLsb' (8 * k) 8 :=
  BitVec.eq_of_getLsbD_eq fun i hi => by
    rw [BitVec.getLsbD_ofNat, testBit_byteOf _ _ hi, BitVec.getLsbD_extractLsb']
    rfl

theorem i8At_eq (x : Word) (k : Nat) : i8At x k = (x.extractLsb' (8 * k) 8).toInt := by rw [i8At, ofNat_byteOf]

theorem n8At_eq (x : Word) (k : Nat) : n8At x k = ((x.extractLsb' (8 * k) 8).toNat : Int) := by
  have lt : byteOf x.toNat k < 2 ^ 8 := Nat.mod_lt _ (by decide)
  rw [n8At, ← ofNat_byteOf, BitVec.toNat_ofNat, Nat.mod_eq_of_lt lt]

/-- A selector byte from 128 on has its bit 7 set. -/
theorem le_byteOf_iff (x k : Nat) : 128 ≤ byteOf x k ↔ x.testBit (8 * k + 7) = true := by
  have lt : byteOf x k < 256 := Nat.mod_lt _ (by decide)
  rw [← testBit_byteOf x k (by decide : 7 < 8), Nat.testBit_eq_decide_div_mod_eq, decide_eq_true_eq]
  omega

theorem permuteBytes_spec (x y c : Word) {j : Nat} (hj : j < 32) : let n := (y.toNat / 2 ^ (8 * (j / 8))) % 8
    (permuteBytes x y c).getLsbD j =
      (!y.getLsbD (8 * (j / 8) + 7) && if n < 4 then x.getLsbD (8 * n + j % 8) else c.getLsbD (8 * (n - 4) + j % 8)) := by
  intro n
  have hn : byteOf y.toNat (j / 8) % 8 = n := by
    rw [byteOf, Nat.mod_mod_of_dvd _ (by decide), show 256 = 2 ^ 8 from rfl, ← Nat.pow_mul]
  have hlow : j % 8 < 8 := Nat.mod_lt _ (by decide)
  have hsel : 128 ≤ byteOf y.toNat (j / 8) ↔ y.getLsbD (8 * (j / 8) + 7) = true := le_byteOf_iff ..
  have hcell : ∀ f : Nat → Byte, nth ((upto 4).map f) (j / 8) 0 = f (j / 8) := fun f => by
    have : j / 8 < 4 := by omega
    simp [nth, upto, this]
  -- the eight bytes c:x
  have hpick : (c.toNat * 2 ^ 32 + x.toNat).testBit (8 * n + j % 8) =
      if n < 4 then x.getLsbD (8 * n + j % 8) else c.getLsbD (8 * (n - 4) + j % 8) := by
    rw [Nat.mul_comm, Nat.testBit_two_pow_mul_add _ x.isLt]
    by_cases h4 : n < 4
    · rw [if_pos (by omega), if_pos h4]; rfl
    · rw [if_neg (by omega), if_neg h4, show 8 * n + j % 8 - 32 = 8 * (n - 4) + j % 8 by omega]; rfl
  rw [permuteBytes, BitVec.getLsbD_ofNat, decide_eq_true hj, Bool.true_and, testBit_ofBytes, hcell]
  dsimp only
  rw [hn]
  by_cases h : 128 ≤ byteOf y.toNat (j / 8)
  · rw [if_pos h, hsel.1 h]; simp
  · rw [if_neg h, Bool.eq_false_iff.2 (mt hsel.2 h), BitVec.getLsbD_ofNat, testBit_byteOf _ _ hlow, hpick, decide_eq_true hlow]; rfl

/-! ### Bit fields (04 R105) -/

/-- The bits of a mask of low ones. -/
theorem getLsbD_lowOnes {w : Nat} (n : Nat) {j : Nat} (hj : j < w) : (BitVec.ofNat w (2 ^ n - 1)).getLsbD j = decide (j < n) := by
  rw [BitVec.getLsbD_ofNat, Nat.testBit_two_pow_sub_one, decide_eq_true hj, Bool.true_and]

theorem fieldN_spec (x y : Word) {j : Nat} (hj : j < 32) : (fieldN x y).getLsbD j = (decide (j < fieldLen y) && x.getLsbD (fieldPos y + j)) := by
  rw [fieldN, BitVec.getLsbD_and, BitVec.getLsbD_ushiftRight, getLsbD_lowOnes _ hj, Bool.and_comm]

/-- Above the field its top bit is repeated. -/
theorem fieldI_spec (x y : Word) {j : Nat} (hj : j < 32) :
    (fieldI x y).getLsbD j = (decide (fieldLen y ≠ 0) && x.getLsbD (fieldPos y + min j (fieldLen y - 1))) := by
  have extend : fieldI x y = (BitVec.ofNat (fieldLen y) (fieldN x y).toNat).signExtend 32 := rfl
  have bit : ∀ i, i < fieldLen y → (BitVec.ofNat (fieldLen y) (fieldN x y).toNat).getLsbD i = x.getLsbD (fieldPos y + i) := fun i hi => by
    have hlen : fieldLen y ≤ 32 := (Nat.min_le_right ..).trans (Nat.sub_le ..)
    rw [BitVec.getLsbD_ofNat, decide_eq_true hi, Bool.true_and, ← BitVec.getLsbD, fieldN_spec x y (by omega), decide_eq_true hi, Bool.true_and]
  rw [extend, BitVec.getLsbD_signExtend, decide_eq_true hj, Bool.true_and]
  by_cases hin : j < fieldLen y
  · rw [if_pos hin, bit j hin, Nat.min_eq_left (by omega), decide_eq_true (by omega), Bool.true_and]
  · rw [if_neg hin, Nat.min_eq_right (by omega), BitVec.msb_eq_getLsbD_last]
    by_cases h0 : fieldLen y = 0
    · rw [BitVec.getLsbD_of_ge _ _ (by omega)]; simp [h0]
    · rw [bit _ (by omega), decide_eq_true h0, Bool.true_and]

theorem fieldInsert_spec (x y d : Word) {j : Nat} (hj : j < 32) : (fieldInsert x y d).getLsbD j =
    if fieldPos y ≤ j ∧ j < fieldPos y + fieldLen y then x.getLsbD (j - fieldPos y) else d.getLsbD j := by
  simp only [fieldInsert, BitVec.getLsbD_or, BitVec.getLsbD_and, BitVec.getLsbD_not, BitVec.getLsbD_shiftLeft, hj, decide_true, Bool.true_and]
  by_cases hlow : j < fieldPos y
  · rw [if_neg (by omega)]; simp [hlow]
  · rw [getLsbD_lowOnes _ (by omega : j - fieldPos y < 32)]
    by_cases hin : j - fieldPos y < fieldLen y
    · rw [if_pos (by omega)]; simp [hlow, hin]
    · rw [if_neg (by omega)]; simp [hin]

end Sys2Proof.Machine
end

section
/-! The vector integer members (04 R101 to R107, R109, R110, R113): each delivers its function of the active threads' elements. -/

namespace Sys2Proof.Machine

/-! ### Integer functions of vector elements -/

/-- The carry out of an addition of three (04 R102). -/
theorem addCarry_div (x y c : Word) : (.ofNat 32 (addCarry x y c / 2 ^ 32) : Word) = if 2 ^ 32 ≤ addCarry x y c then 1 else 0 := by
  have hx := x.isLt
  have hy := y.isLt
  have hc : c.toNat % 2 < 2 := Nat.mod_lt _ (by decide)
  have lt : addCarry x y c < 2 * 2 ^ 32 := by unfold addCarry; omega
  split
  · rw [show addCarry x y c / 2 ^ 32 = 1 by omega]; rfl
  · rw [show addCarry x y c / 2 ^ 32 = 0 by omega]; rfl

/-- The absolute value: the least integer has none (04 R101). -/
theorem absI_eq (sat : Bool) (x : Word) :
    absI sat x = if x = 0x80000000 then (if sat then 0x7FFFFFFF else 0x80000000) else if x.msb then -x else x := by
  unfold absI
  by_cases hx : x = 0x80000000
  · rw [if_pos hx, hx]; cases sat <;> rfl
  · rw [if_neg hx]
    have hne : x.toNat ≠ 2 ^ 31 := fun h => hx (BitVec.eq_of_toNat_eq h)
    have abs : x.toInt.natAbs < 2 ^ 31 ∧ (BitVec.ofNat 32 x.toInt.natAbs) = if x.msb then -x else x := by
      have hlt := x.isLt
      rw [BitVec.msb_eq_decide, BitVec.toInt_eq_toNat_cond]
      by_cases h : 2 ^ 31 ≤ x.toNat
      · rw [if_neg (by omega), if_pos (by simpa using h)]
        exact ⟨by omega, BitVec.eq_of_toNat_eq (by rw [BitVec.toNat_ofNat, BitVec.toNat_neg]; omega)⟩
      · rw [if_pos (by omega), if_neg (by simpa using h)]
        exact ⟨by omega, BitVec.eq_of_toNat_eq (by rw [BitVec.toNat_ofNat]; omega)⟩
    obtain ⟨lt, value⟩ := abs
    rw [← value]
    cases sat with
    | false => rfl
    | true =>
      rw [if_pos rfl, satI, clampInt, min_eq_right (by omega), max_eq_right (by omega)]
      rfl

/-! ### Members that pass their checks -/

@[simp] theorem Noted_imm32 (s : State) (os : List Opd) (n : Nat) (low : BitVec n) : imm32 (Noted s os) n low = imm32 s n low := by
  unfold imm32 limOver; rw [Noted_iss]

/-- The element function of an instruction without flags or draws. -/
theorem delivered_vectorResult (s : State) (os : List Opd) (d : BitVec 7) (n : Nat) (x : Nat → Nat → Word) :
    Delivered s (Noted s os) (vectorResult (Noted s os) d n fun t i fx => (x i t, fx)) d.toNat n x :=
  .of_noted rfl (vectorResult_pure ..)

/-- What a member that passed its checks delivers, when its effect writes a vector result. -/
theorem delivered_guarded {s : State} {os : List Opd} (h : Ready s os) {d : BitVec 7} {n : Nat} {k : State → State} {x : Nat → Nat → Word}
    (hk : k (Noted s os) = vectorResult (Noted s os) d n fun t i fx => (x i t, fx)) :
    Delivered s (Noted s os) (guarded s none os k) d.toNat n x := by
  rw [guarded_ready h, hk]
  exact delivered_vectorResult ..

/-- Only the elements of the registers that are written count. -/
theorem Delivered.congr {s n t : State} {d k : Nat} {x y : Nat → Nat → Word} (h : Delivered s n t d k x) (e : ∀ i u, i < k → x i u = y i u) :
    Delivered s n t d k y := by
  obtain ⟨value, mark, rest⟩ := h
  refine ⟨fun r u hu => (value r u hu).trans ?_, mark, rest⟩
  refine if_ctx_congr Iff.rfl (fun hr => ?_) fun _ => rfl
  rw [e (r - d) u (by omega)]

section
variable {s : State} {w : BitVec 2} {d a b : BitVec 7}

theorem vector1_ready (h : Ready s [.v 0 a (2 ^ w.toNat) (act s), .dv d]) (f : Word → Word) :
    Delivered s (Noted s [.v 0 a (2 ^ w.toNat) (act s), .dv d]) (vector1 s w d a f) d.toNat (2 ^ w.toNat) fun i u => f (V s a i u) := by
  rw [vector1, elementwise_one _ h]
  exact delivered_vectorResult ..

theorem vector2_ready (h : Ready s [.v 0 a (2 ^ w.toNat) (act s), .v 1 b (2 ^ w.toNat) (act s), .dv d]) (f : Word → Word → Word) :
    Delivered s (Noted s [.v 0 a (2 ^ w.toNat) (act s), .v 1 b (2 ^ w.toNat) (act s), .dv d]) (vector2 s w d a b f) d.toNat (2 ^ w.toNat)
      fun i u => f (V s a i u) (V s b i u) := by
  rw [vector2, elementwise_two _ h]
  exact delivered_vectorResult ..

/-- With a constant for the second source (04 R107). -/
theorem elementwise_const_ready (h : Ready s [.v 0 a (2 ^ w.toNat) (act s), .dv d]) (c : Word) (f : Word → Word → Word) :
    Delivered s (Noted s [.v 0 a (2 ^ w.toNat) (act s), .dv d]) (elementwise s w d a { b := none, const := c } (pure2 f)) d.toNat (2 ^ w.toNat)
      fun i u => f (V s a i u) c := by
  unfold elementwise
  exact delivered_guarded h (by simp only [Noted_V, pure2])

/-- With the fourth operand that pfx names (04 R102, R106). -/
theorem elementwise_fourth_ready
    (h : Ready s [.v 0 a (2 ^ w.toNat) (act s), .v 1 b (2 ^ w.toNat) (act s), .v 2 (pfxOf s).c4 1 (act s), .dv d]) (f : Word → Word → Word → Word) :
    Delivered s (Noted s [.v 0 a (2 ^ w.toNat) (act s), .v 1 b (2 ^ w.toNat) (act s), .v 2 (pfxOf s).c4 1 (act s), .dv d])
      (elementwise s w d a { b := some b, c := true } fun x y c _ fx => (f x y c, fx)) d.toNat (2 ^ w.toNat)
      fun i u => f (V s a i u) (V s b i u) (V s (pfxOf s).c4 0 u) := by
  unfold elementwise
  exact delivered_guarded h (by simp only [Noted_V, ↓reduceIte])

/-- With the destination as the third source (04 R104, R105). -/
theorem elementwise_kept_ready (h : Ready s [.v 0 a (2 ^ w.toNat) (act s), .v 1 b (2 ^ w.toNat) (act s), .v 3 d (2 ^ w.toNat) (act s)])
    (f : Word → Word → Word → Word) :
    Delivered s (Noted s [.v 0 a (2 ^ w.toNat) (act s), .v 1 b (2 ^ w.toNat) (act s), .v 3 d (2 ^ w.toNat) (act s)])
      (elementwise s w d a { b := some b, readD := true } fun x y _ z fx => (f x y z, fx)) d.toNat (2 ^ w.toNat)
      fun i u => f (V s a i u) (V s b i u) (V s d i u) := by
  rw [elementwise_two_kept _ h]
  exact delivered_vectorResult ..
end

/-- What an accumulating instruction makes of the exact sum of its destination and `e` (04 R104). -/
def accumulated (s : State) (signed : Bool) (e : Int) : Word :=
  .ofInt 32 (if (pfxOf s).sat then (if signed then clampInt e (-2 ^ 31) (2 ^ 31 - 1) else clampInt e 0 (2 ^ 32 - 1)) else e)

theorem accumulate_eq (s : State) (signed : Bool) (w : BitVec 2) (d a b : BitVec 7) (e : Word → Word → Int) : accumulate s signed w d a b e =
    elementwise s w d a { b := some b, readD := true } fun x y _ z fx =>
      (accumulated s signed ((if signed then z.toInt else (z.toNat : Int)) + e x y), fx) := by
  unfold accumulate accumulated
  congr
  funext x y _ z fx
  dsimp only
  cases (pfxOf s).sat <;> cases signed <;> rfl

/-! ### The statements -/

/-- Settles O5: every one of the nineteen is `vector2` of its function. -/
theorem vectorArithmetic : Obligations.VectorArithmetic := by
  unfold Obligations.VectorArithmetic
  intro s w d a b n os clamped h p hp
  refine ⟨_, ?_, vector2_ready h p.2⟩
  revert p
  simp only [List.forall_mem_cons, List.not_mem_nil, false_imp_iff, implies_true, and_true]
  exact ⟨rfl, rfl, rfl, rfl, rfl, rfl, rfl, rfl, rfl, rfl, rfl, rfl, rfl, rfl, rfl, rfl, rfl, rfl, rfl⟩

/-- Settles O6: the members by their third source, the accumulated values by the bytes they read, and the permutation bit by bit. -/
theorem vectorThirdSources : Obligations.VectorThirdSources := by
  unfold Obligations.VectorThirdSources
  refine ⟨?_, fun x y c j hj => permuteBytes_spec x y c hj⟩
  intro s w d a b n c osC osD i8 n8 sum signed unsigned
  refine ⟨fun h p hp => ⟨_, ?_, elementwise_fourth_ready h p.2⟩, fun h p hp => ⟨_, ?_, elementwise_kept_ready h p.2⟩⟩
  · revert p
    simp only [List.forall_mem_cons, List.not_mem_nil, false_imp_iff, implies_true, and_true]
    have carry (x y z : Word) : (if 2 ^ 32 ≤ x.toNat + y.toNat + z.toNat % 2 then (1 : Word) else 0) = .ofNat 32 (addCarry x y z / 2 ^ 32) :=
      (addCarry_div x y z).symm
    refine ⟨rfl, ?_, rfl⟩
    simp only [carry]
    rfl
  · have i8_eq : ∀ x j, i8 x j = i8At x j := fun x j => (i8At_eq x j).symm
    have n8_eq : ∀ x j, n8 x j = n8At x j := fun x j => (n8At_eq x j).symm
    revert p
    simp only [List.forall_mem_cons, List.not_mem_nil, false_imp_iff, implies_true, and_true, i8_eq, n8_eq]
    have next (sign : Bool) (e : Word → Word → Int) := congrArg (Host.Outcome.next (φ := Fault) (ρ := Refusal)) (accumulate_eq s sign w d a b e)
    exact ⟨next true _, next true _, next false _, next false _⟩

/-- Settles O7: the one-source members are `vector1` of their functions, and reversing is said bit by bit. -/
theorem vectorMoves : Obligations.VectorMoves := by
  unfold Obligations.VectorMoves
  refine ⟨?_, ?_, ?_, ?_, fun x j hj => getLsbD_reverseBits x hj⟩
  · intro s w d a b n os h p hp
    refine ⟨_, ?_, vector1_ready h p.2⟩
    revert p
    simp only [List.forall_mem_cons, List.not_mem_nil, false_imp_iff, implies_true, and_true, ← shiftLeft_imm, ← shiftRight_imm, ← shiftArith_imm,
      ← rotateLeft_imm, ← absI_eq]
    exact ⟨rfl, rfl, rfl, rfl, rfl, rfl, rfl, rfl⟩
  · intro s d a i os h
    exact ⟨_, rfl, (elementwise_const_ready (w := 0) h _ (· + ·)).congr fun j u hj => by rw [Nat.lt_one_iff.1 hj]⟩
  · intro s d i h
    exact ⟨_, rfl, delivered_guarded h (by simp only [Noted_imm32])⟩
  · intro s k d a b os h
    refine ⟨_, rfl, delivered_guarded h ?_⟩
    simp only [Noted_V, Noted_pre, Noted_iss]

/-- Settles O9: the fields bit by bit, and the members that deliver them. -/
theorem bitFields : Obligations.BitFields := by
  unfold Obligations.BitFields
  refine ⟨fun x y d j hj => ⟨fieldN_spec x y hj, fieldI_spec x y hj, fieldInsert_spec x y d hj⟩, ?_⟩
  intro s w d a b n os delivers
  exact ⟨fun h => ⟨_, rfl, vector2_ready h fieldN⟩, fun h => ⟨_, rfl, vector2_ready h fieldI⟩,
    fun h => ⟨_, rfl, elementwise_kept_ready h fieldInsert⟩⟩

/-! ### Access to single lanes (04 R110) -/

theorem execVrdl_ready {s : State} {d a b : BitVec 7}
    (h : Ready s [.v 0 a 1 (if act s != 0 then 1 <<< ((S s b).toNat % 64) else 0), { Opd.s 1 b with thr := if act s != 0 then 1 else 0 }, .ds d]) :
    let n := Noted s [.v 0 a 1 (if act s != 0 then 1 <<< ((S s b).toNat % 64) else 0), { Opd.s 1 b with thr := if act s != 0 then 1 else 0 }, .ds d]
    exec (.vrdl d a b) s = .next (if act s = 0 then n
      else { n with cur := n.cur.sset d.toNat (if (S s b).toNat % 64 < s.pre.width then V s a 0 ((S s b).toNat % 64) else 0) }) := by
  intro n
  refine congrArg Host.Outcome.next ((guarded_ready h _).trans ?_)
  by_cases h0 : act s = 0
  · simp only [h0, n, bne_self_eq_false, Bool.false_eq_true, ↓reduceIte]
  · simp only [h0, n, bne_iff_ne, ne_eq, not_false_eq_true, ↓reduceIte, setS, Noted_pre, Noted_V]

/-- The registers that zero mode writes, element by element (01 R9). -/
theorem zeroElems_spec (s : State) (d n : Nat) :
    (∀ r u, u < 64 → (zeroElems s d n).cur.vget r u =
      if r ≠ 0 ∧ d ≤ r ∧ r < d + n ∧ u < s.pre.width ∧ (zeroed s).getLsbD u then 0 else s.cur.vget r u) ∧
    zeroElems s d n = { s with cur := { s.cur with v := (zeroElems s d n).cur.v, vMark := (zeroElems s d n).cur.vMark } } := by
  obtain ⟨value, -, rest⟩ := vset_runs d n (fun _ _ => 0) (threads s.pre.width (zeroed s)) (fun _ => threads_lt) s.cur
  simp only [mem_threads] at value
  exact ⟨value, congrArg (fun c => { s with cur := c }) rest⟩

/-- Zero mode writes no active thread. -/
theorem zeroed_of_act {s : State} {u : Nat} (h : (act s).getLsbD u = true) : (zeroed s).getLsbD u = false := by
  unfold zeroed
  split
  · simp [h]
  · simp

/-- The state once a lane is written, if it is an active thread's. -/
def laneWritten (n : State) (d j : Nat) (x : Word) : State :=
  if j < n.pre.width ∧ (act n).getLsbD j then { n with cur := n.cur.vset d j x } else n

@[simp] theorem laneWritten_pre (n : State) (d j : Nat) (x : Word) : (laneWritten n d j x).pre = n.pre := by unfold laneWritten; split <;> rfl
@[simp] theorem laneWritten_zeroed (n : State) (d j : Nat) (x : Word) : zeroed (laneWritten n d j x) = zeroed n := by
  unfold laneWritten; split <;> rfl

theorem laneWritten_spec (n : State) (d : Nat) {j : Nat} (hj : j < 64) (x : Word) :
    (∀ r u, u < 64 → (laneWritten n d j x).cur.vget r u =
      if r = d ∧ r ≠ 0 ∧ u < n.pre.width ∧ u = j ∧ (act n).getLsbD u then x else n.cur.vget r u) ∧
    laneWritten n d j x = { n with cur := { n.cur with v := (laneWritten n d j x).cur.v, vMark := (laneWritten n d j x).cur.vMark } } := by
  unfold laneWritten
  split
  case isTrue h =>
    refine ⟨fun r u hu => (vget_vset _ _ _ _ _ _ hj hu).trans (if_congr ⟨?_, ?_⟩ rfl rfl), congrArg (fun c => { n with cur := c }) (vset_eq ..)⟩
    · rintro ⟨rfl, rfl, h0⟩
      exact ⟨rfl, h0, h.1, rfl, h.2⟩
    · rintro ⟨rfl, h0, -, rfl, -⟩
      exact ⟨rfl, rfl, h0⟩
  case isFalse h =>
    refine ⟨fun r u _ => (if_neg ?_).symm, rfl⟩
    rintro ⟨-, -, hw, rfl, ha⟩
    exact h ⟨hw, ha⟩

/-- Settles O8: the moves deliver what they read, the single lanes are read and written by the rules of registers. -/
theorem laneAccess : Obligations.LaneAccess := by
  unfold Obligations.LaneAccess
  refine ⟨?_, ?_, ?_, ?_⟩
  · intro s w d a n os h
    exact ⟨_, rfl, vector1_ready h id⟩
  · intro s d a os h
    exact ⟨_, rfl, delivered_guarded h (by simp only [Noted_S])⟩
  · intro s d a b j some_ os h
    exact execVrdl_ready h
  · intro s d a b j some_ os h
    have hj : j < 64 := Nat.mod_lt _ (by decide)
    obtain ⟨written, rest⟩ := laneWritten_spec (Noted s os) d.toNat hj (S s a)
    obtain ⟨zeros, rest'⟩ := zeroElems_spec (laneWritten (Noted s os) d.toNat j (S s a)) d.toNat 1
    have run : exec (.vwrl d a b) s = .next (zeroElems (laneWritten (Noted s os) d.toNat j (S s a)) d.toNat 1) := by
      refine congrArg Host.Outcome.next ((guarded_ready h _).trans ?_)
      simp only [Noted_S]
      rfl
    have read : ∀ r u, (Noted s os).cur.vget r u = s.cur.vget r u := fun r u => by rw [Furrow.vget, Noted_v]; rfl
    refine ⟨_, run, fun r u hu => ?_, ?_⟩
    · rw [zeros r u hu, written r u hu, laneWritten_zeroed, laneWritten_pre, Noted_zeroed, Noted_pre, Noted_act, read]
      by_cases active : r = d.toNat ∧ r ≠ 0 ∧ u < s.pre.width ∧ u = j ∧ (act s).getLsbD u = true
      · obtain ⟨-, -, -, -, ha⟩ := id active
        rw [if_pos active, if_pos active, zeroed_of_act ha]
        simp
      · rw [if_neg active, if_neg active]
        refine if_congr ⟨?_, ?_⟩ rfl rfl
        · rintro ⟨h0, h1, h2, hw, hzu⟩
          exact ⟨by omega, h0, hw, hzu⟩
        · rintro ⟨rfl, h0, hw, hzu⟩
          exact ⟨h0, le_rfl, by omega, hw, hzu⟩
    · refine rest'.trans ?_
      rw [rest]

end Sys2Proof.Machine
end

section
/-! Mask results: the integer compares, the floating-point compares and the mask instructions (04 R108, R114, R127, R128; 01 R9, R17, R35). -/

namespace Sys2Proof.Machine

/-! ### A mask written by a member -/

/-- What a mask result is: its active threads' bits, zero for those that zero mode writes, the others kept (01 R9, R17, R35). -/
theorem maskResult_written (s : State) (d : BitVec 4) {bits : Mask} {p : Nat → Bool}
    (hp : ∀ u, u < 64 → (act s).getLsbD u = true → bits.getLsbD u = p u) : MaskWritten s s (maskResult s d bits) d.toNat p := by
  refine ⟨fun q u hu => ?_, fun q => ?_, ?_⟩
  · refine (congrArg (·.getLsbD u) (kget_kset ..)).trans ?_
    have full : s.cur.full.getLsbD u = decide (u < s.cur.width) := getLsbD_lowOnes _ hu
    by_cases hq : q = d.toNat ∧ d.toNat ≠ 0
    · obtain ⟨rfl, h0⟩ := hq
      have act_eq : (bits.getLsbD u && (act s).getLsbD u) = ((act s).getLsbD u && p u) := by
        cases ha : (act s).getLsbD u
        · exact Bool.and_false _
        · rw [hp u hu ha, Bool.and_true, Bool.true_and]
      simp only [ne_eq, h0, not_false_eq_true, and_self, ↓reduceIte, true_and, BitVec.getLsbD_or, BitVec.getLsbD_and, BitVec.getLsbD_not, full,
        hu, decide_true, Bool.true_and, act_eq]
      by_cases covered : u < s.cur.width ∧ ((act s).getLsbD u = true ∨ (zeroed s).getLsbD u = true)
      · have cover : ((act s).getLsbD u || (zeroed s).getLsbD u) = true := by simpa using covered.2
        simp [covered, cover]
      · have cover : (((act s).getLsbD u || (zeroed s).getLsbD u) && decide (u < s.cur.width)) = false := by
          rw [Bool.eq_false_iff]; simpa [and_comm] using covered
        rw [if_neg covered, Bool.and_assoc _ (_ || _), cover]
        simp
    · rw [if_neg hq, if_neg (by rintro ⟨rfl, h0, -⟩; exact hq ⟨rfl, h0⟩)]
  · unfold maskResult Furrow.kset
    by_cases h0 : d.toNat = 0
    · rw [if_pos h0, if_neg (by omega)]
    · simp only [if_neg h0]
      by_cases hc : (act s ||| zeroed s) &&& s.cur.full = s.cur.full
      · rw [if_pos hc, tget_tset]
        exact if_congr ⟨fun h => ⟨h.symm, by omega, hc⟩, fun h => h.1.symm⟩ rfl rfl
      · rw [if_neg hc, if_neg (fun h => hc h.2.2)]
  · unfold maskResult Furrow.kset
    split <;> rfl

theorem MaskWritten.of_noted {s n t : State} {os : List Opd} {d : Nat} {p : Nat → Bool} (hn : n = Noted s os) (h : MaskWritten n n t d p) :
    MaskWritten s n t d p := by
  subst hn
  obtain ⟨value, mark, rest⟩ := h
  simp only [Noted_iss, Noted_act, Noted_zeroed] at value mark
  exact ⟨value, mark, rest⟩

/-- What a member that passed its checks writes, when its effect is a mask result. -/
theorem maskResult_noted (s : State) (os : List Opd) (d : BitVec 4) {bits : Mask} {p : Nat → Bool}
    (hp : ∀ u, u < 64 → (act s).getLsbD u = true → bits.getLsbD u = p u) :
    MaskWritten s (Noted s os) (maskResult (Noted s os) d bits) d.toNat p :=
  .of_noted rfl (maskResult_written _ d (by simpa only [Noted_act] using hp))

/-- The bits of a compare: those of the threads that it compares. -/
theorem getLsbD_maskOf_threads (w : Nat) (m : Mask) (p : Nat → Bool) {u : Nat} (hu : u < 64) (hm : m.getLsbD u = true) :
    (maskOf (threads w m) p).getLsbD u = (decide (u < w) && p u) := by
  rw [getLsbD_maskOf _ _ hu]
  simp only [mem_threads, hm, and_true]

/-! ### Integer compares (04 R108) -/

theorem compare2_ready {s : State} {a b : BitVec 7} (h : Ready s [.v 0 a 1 (act s), .v 1 b 1 (act s)]) (d : BitVec 4) (p : Word → Word → Bool) :
    MaskWritten s (Noted s [.v 0 a 1 (act s), .v 1 b 1 (act s)]) (compare2 s d a b p) d.toNat
      fun u => decide (u < s.pre.width) && p (V s a 0 u) (V s b 0 u) := by
  rw [compare2, guarded_ready h]
  simp only [Noted_V, Noted_pre]
  exact maskResult_noted s _ d fun u hu ha => getLsbD_maskOf_threads _ _ _ hu ha

/-- Settles O10: the four are `compare2` of their relations. -/
theorem integerCompares : Obligations.IntegerCompares := by
  unfold Obligations.IntegerCompares
  intro s d a b os h p hp
  refine ⟨_, ?_, compare2_ready h d p.2⟩
  have differ : (fun x y : Word => x != y) = fun x y => decide (x ≠ y) := funext₂ fun x y => (decide_not (p := x = y)).symm
  revert p
  simp only [List.forall_mem_cons, List.not_mem_nil, false_imp_iff, implies_true, and_true, ← differ]
  exact ⟨rfl, rfl, rfl, rfl⟩

/-! ### Floating-point compares (04 R114) -/

/-- The flags that a compare's active threads raise. -/
def compareFlags (s : State) (a b : BitVec 7) (r : FRel) : Word :=
  (threads s.pre.width (act s)).foldl (fun f u => f ||| (fcompare r (V s a 0 u) (V s b 0 u)).2) 0

/-- A state with flags raised for the issuing group. -/
def withRaised (t : State) (fl : Word) : State := { t with iss := { t.iss with raised := t.iss.raised ||| fl } }

/-- Raising flags changes nothing else. -/
theorem withRaised_restored {s t : State} (h : t.iss = s.iss) (fl : Word) : { withRaised t fl with iss := s.iss } = t := by rw [← h]; rfl

theorem floatCompare_eq {s : State} {a b : BitVec 7} (h : Ready s [.v 0 a 1 (act s), .v 1 b 1 (act s)]) (d : BitVec 4) (r : FRel) :
    floatCompare s d a b r = withRaised (maskResult (Noted s [.v 0 a 1 (act s), .v 1 b 1 (act s)]) d
      (maskOf (threads s.pre.width (act s)) fun u => (fcompare r (V s a 0 u) (V s b 0 u)).1)) (compareFlags s a b r) := by
  rw [floatCompare, guarded_ready h]
  have pre := Noted_pre s [.v 0 a 1 (act s), .v 1 b 1 (act s)]
  have reads := Noted_V s [.v 0 a 1 (act s), .v 1 b 1 (act s)]
  generalize Noted s [.v 0 a 1 (act s), .v 1 b 1 (act s)] = n at *
  rw [compareFlags, ← pre]
  simp only [← reads]
  rfl

theorem floatCompare_ready {s : State} {a b : BitVec 7} (h : Ready s [.v 0 a 1 (act s), .v 1 b 1 (act s)]) (d : BitVec 4) (r : FRel) :
    MaskWritten s (Noted s [.v 0 a 1 (act s), .v 1 b 1 (act s)]) { floatCompare s d a b r with iss := s.iss } d.toNat
      (fun u => decide (u < s.pre.width) && (fcompare r (V s a 0 u) (V s b 0 u)).1) ∧
    (floatCompare s d a b r).iss = { s.iss with raised := s.iss.raised ||| compareFlags s a b r } := by
  have kept (bits : Mask) : (maskResult (Noted s [.v 0 a 1 (act s), .v 1 b 1 (act s)]) d bits).iss = s.iss := Noted_iss ..
  rw [floatCompare_eq h, withRaised_restored (kept _)]
  exact ⟨maskResult_noted s _ d fun u hu ha => getLsbD_maskOf_threads _ _ _ hu ha, by rw [withRaised, kept]⟩

/-- The order of the fp32 numbers: sign and magnitude, the zeros equal. -/
def numberKey (z : Word) : Int := if z.msb then -(sizeOfWord z : Int) else sizeOfWord z

theorem fordKey_eq (z : Word) : fordKey z = if sizeOfWord z = 0 then 0 else orderKey z := by
  rw [fordKey, frank_eq]; rfl

theorem fordKey_lt_iff (x y : Word) : fordKey x < fordKey y ↔ numberKey x < numberKey y := by
  rw [fordKey_eq, fordKey_eq, orderKey, orderKey, numberKey, numberKey]
  split_ifs <;> omega

theorem fordKey_le_iff (x y : Word) : fordKey x ≤ fordKey y ↔ numberKey x ≤ numberKey y := by
  rw [← not_lt, ← not_lt, fordKey_lt_iff]

theorem numberKey_eq_iff (x y : Word) : numberKey x = numberKey y ↔ x = y ∨ sizeOfWord x = 0 ∧ sizeOfWord y = 0 := by
  constructor
  · intro h
    unfold numberKey at h
    by_cases hx : sizeOfWord x = 0
    · exact .inr ⟨hx, by split_ifs at h <;> omega⟩
    · have sign : x.msb = y.msb := by cases hmx : x.msb <;> cases hmy : y.msb <;> simp [hmx, hmy] at h ⊢ <;> omega
      have size : sizeOfWord x = sizeOfWord y := by rw [sign] at h; split_ifs at h <;> omega
      exact .inl (BitVec.eq_of_toNat_eq (by rw [toNat_eq_sign_add x, toNat_eq_sign_add y, sign, size]))
  · rintro (rfl | ⟨hx, hy⟩)
    · rfl
    · simp [numberKey, hx, hy]

theorem fordKey_eq_iff (x y : Word) : fordKey x = fordKey y ↔ x = y ∨ sizeOfWord x = 0 ∧ sizeOfWord y = 0 := by
  rw [← numberKey_eq_iff, le_antisymm_iff, fordKey_le_iff, fordKey_le_iff, ← le_antisymm_iff]

section
variable (x y : Word)

theorem fcompare_eq : fcompare .eq x y = (!(nanWord x || nanWord y) && fordKey x == fordKey y, flagIf (snanWord x || snanWord y) flagIv) := by
  simp only [fcompare, fdecode_isNan, fdecode_isSnan]
theorem fcompare_lt : fcompare .lt x y = (!(nanWord x || nanWord y) && decide (fordKey x < fordKey y), flagIf (nanWord x || nanWord y) flagIv) := by
  simp only [fcompare, fdecode_isNan]
theorem fcompare_le : fcompare .le x y = (!(nanWord x || nanWord y) && decide (fordKey x ≤ fordKey y), flagIf (nanWord x || nanWord y) flagIv) := by
  simp only [fcompare, fdecode_isNan]
theorem fcompare_un : fcompare .un x y = (nanWord x || nanWord y, flagIf (snanWord x || snanWord y) flagIv) := by
  simp only [fcompare, fdecode_isNan, fdecode_isSnan]
end

/-- Settles O15: the four are `floatCompare` of their relations, whose order is that of the keys of their operands. -/
theorem floatCompares : Obligations.FloatCompares := by
  unfold Obligations.FloatCompares
  constructor
  · intro s d a b os h p hp
    refine ⟨_, ?_, (floatCompare_ready h d p.2).1, (floatCompare_ready h d p.2).2⟩
    revert p
    simp only [List.forall_mem_cons, List.not_mem_nil, false_imp_iff, implies_true, and_true]
    exact ⟨rfl, rfl, rfl, rfl⟩
  · intro x y nan snan zero key
    have ordered : (!nan x && !nan y) = !(nanWord x || nanWord y) := (Bool.not_or ..).symm
    have equal : (decide (x = y) || (zero x && zero y)) = (fordKey x == fordKey y) := by
      rw [Bool.eq_iff_iff, beq_iff_eq, fordKey_eq_iff]
      simp only [zero, Bool.or_eq_true, Bool.and_eq_true, decide_eq_true_eq]
      rfl
    have less : decide (key x < key y) = decide (fordKey x < fordKey y) := decide_eq_decide.2 (fordKey_lt_iff x y).symm
    have lessEq : decide (key x ≤ key y) = decide (fordKey x ≤ fordKey y) := decide_eq_decide.2 (fordKey_le_iff x y).symm
    rw [ordered, equal, less, lessEq, fcompare_eq, fcompare_lt, fcompare_le, fcompare_un]
    exact ⟨rfl, rfl, rfl, rfl, rfl, rfl, rfl, rfl⟩

/-! ### Mask instructions (04 R127, R128) -/

@[simp] theorem Opd.whole_k (pos : Nat) (r : BitVec 4) : (Opd.k pos r).whole = true := by simp [Opd.whole, Opd.k]

theorem maskLogic_ready {s : State} {a b : BitVec 4} (h : Ready s [.k 0 a (act s != 0), .k 1 b (act s != 0)]) (d : BitVec 4)
    {f : Mask → Mask → Mask} {g : Bool → Bool → Bool} (hf : ∀ x y u, u < 64 → (f x y).getLsbD u = g (x.getLsbD u) (y.getLsbD u)) :
    MaskWritten s (Noted s [.k 0 a (act s != 0), .k 1 b (act s != 0)]) (maskLogic s d a b f) d.toNat
      fun u => g ((s.pre.kget s.iss.entry a.toNat).getLsbD u) ((s.pre.kget s.iss.entry b.toNat).getLsbD u) := by
  rw [maskLogic, guarded_ready h]
  simp only [Noted_pre, Noted_iss]
  exact maskResult_noted s _ d fun u hu _ => hf _ _ u hu

/-- The lowest set bit of a mask, -1 for none (04 R128). -/
def lowestBit (x : Mask) : Word := (((upto 64).find? fun u => x.getLsbD u).map (BitVec.ofNat 32)).getD 0xFFFFFFFF

theorem execKpopc_ready {s : State} {d : BitVec 7} {a : BitVec 4} (h : Ready s [.k 0 a (act s != 0), .ds d]) :
    exec (.kpopc d a) s =
      .next (setS (Noted s [.k 0 a (act s != 0), .ds d]) d (.ofNat 32 (bitCount 64 (s.pre.kget s.iss.entry a.toNat &&& act s).toNat))) := by
  refine congrArg Host.Outcome.next ((guarded_ready h _).trans ?_)
  simp only [Noted_pre, Noted_iss, Noted_act]

theorem execKffs_ready {s : State} {d : BitVec 7} {a : BitVec 4} (h : Ready s [.k 0 a (act s != 0), .ds d]) :
    exec (.kffs d a) s = .next (setS (Noted s [.k 0 a (act s != 0), .ds d]) d (lowestBit (s.pre.kget s.iss.entry a.toNat &&& act s))) := by
  refine congrArg Host.Outcome.next ((guarded_ready h _).trans ?_)
  have pre := Noted_pre s [.k 0 a (act s != 0), .ds d]
  have iss := Noted_iss s [.k 0 a (act s != 0), .ds d]
  have active := Noted_act s [.k 0 a (act s != 0), .ds d]
  generalize Noted s [.k 0 a (act s != 0), .ds d] = n at *
  rw [← pre, ← iss, ← active, lowestBit]
  cases (upto 64).find? fun u => (n.pre.kget n.iss.entry a.toNat &&& act n).getLsbD u <;> rfl

theorem lowestBit_none {x : Mask} (h : ∀ u, u < 64 → x.getLsbD u = false) : lowestBit x = 0xFFFFFFFF := by
  have : ((upto 64).find? fun u => x.getLsbD u) = none := List.find?_eq_none.2 fun u hu => by simp [h u (List.mem_range.1 hu)]
  rw [lowestBit, this]
  rfl

theorem lowestBit_some {x : Mask} {u : Nat} (hu : u < 64) (hx : x.getLsbD u = true) (low : ∀ v, v < u → x.getLsbD v = false) :
    lowestBit x = .ofNat 32 u := by
  have : ((upto 64).find? fun u => x.getLsbD u) = some u :=
    List.find?_range_eq_some.2 ⟨hx, List.mem_range.2 hu, fun v hv => by simp [low v hv]⟩
  rw [lowestBit, this]
  rfl

/-- The pair of a scalar register as one mask. -/
theorem getLsbD_pairS (s : State) (a : BitVec 7) (u : Nat) :
    (pairS s a).getLsbD u = if u < 32 then (S s a).getLsbD u else (SN s a.toNat 1).getLsbD (u - 32) := by
  rw [pairS, BitVec.getLsbD_append]
  rfl

/-- Settles O11: logic bit by bit, the counts by the bits of a mask, and the two halves of a scalar pair. -/
theorem maskLogicInstructions : Obligations.MaskLogic := by
  unfold Obligations.MaskLogic
  refine ⟨?_, ?_, ?_, ?_⟩
  · intro s d a b os x y h
    simp only [List.forall_mem_cons, List.not_mem_nil, false_imp_iff, implies_true, and_true]
    exact ⟨⟨_, rfl, maskLogic_ready h d (g := (· && ·)) fun x y u _ => BitVec.getLsbD_and⟩,
      ⟨_, rfl, maskLogic_ready h d (g := (· || ·)) fun x y u _ => BitVec.getLsbD_or⟩,
      ⟨_, rfl, maskLogic_ready h d (g := (· != ·)) fun x y u _ => BitVec.getLsbD_xor⟩,
      ⟨_, rfl, maskLogic_ready h d (g := fun p q => p && !q) fun x y u hu => by simp [hu]⟩⟩
  · intro s d a os x h
    exact ⟨execKpopc_ready h, _, execKffs_ready h, fun none => lowestBit_none none, fun u hu hx low => lowestBit_some hu hx low⟩
  · intro s d a h x
    exact congrArg Host.Outcome.next (guarded_whole h (by simp) _)
  · intro s d a os h
    refine ⟨_, congrArg Host.Outcome.next (guarded_ready h _), maskResult_noted s os d fun u _ _ => ?_⟩
    rw [getLsbD_pairS, Noted_S, SN, Noted_pre]
    rfl

end Sys2Proof.Machine
end

section
/-! Vector results with flags and without draws (01 R9, R28; 03 R69), and fadd, fsub, fmul and fmac outside `rsr` (04 R111, R112). -/

namespace Sys2Proof.Machine

/-! ### Flags without draws -/

/-- The flags that the elements of some threads raise together. -/
def unionFlags (ts : List Nat) (n : Nat) (fl : Nat → Nat → Word) (flags : Word) : Word :=
  ts.foldl (fun f u => (List.range n).foldl (fun f i => f ||| fl i u) f) flags

/-- An element function that only raises flags writes its values and raises all flags. -/
theorem eachElem_flags {g : Nat → Nat → Fx → Word × Fx} {x fl : Nat → Nat → Word} {fx : Fx}
    (hg : ∀ t i flags, g t i { fx with flags } = (x i t, { fx with flags := flags ||| fl i t })) (ts : List Nat) (n d : Nat) (f : Furrow) (flags : Word) :
    eachElem ts n d g f { fx with flags } = ((eachElem ts n d (fun t i fx => (x i t, fx)) f fx).1, { fx with flags := unionFlags ts n fl flags }) := by
  have inner (t : Nat) (l : List Nat) (f : Furrow) (flags : Word) :
      l.foldl (fun st i => ((st.1.vset (d + i) t (g t i st.2).1, (g t i st.2).2) : Furrow × Fx)) (f, { fx with flags }) =
        (l.foldl (fun f i => f.vset (d + i) t (x i t)) f, { fx with flags := l.foldl (fun f i => f ||| fl i t) flags }) := by
    induction l generalizing f flags with
    | nil => rfl
    | cons i l ih => simp only [List.foldl_cons, hg, ih]
  rw [eachElem_pure]
  unfold eachElem unionFlags
  induction ts generalizing f flags with
  | nil => rfl
  | cons t ts ih =>
    rw [List.foldl_cons, List.foldl_cons, List.foldl_cons, ← ih]
    exact congrArg (List.foldl _ · ts) (inner t (upto n) f flags)

theorem vectorResult_flags {s : State} {g : Nat → Nat → Fx → Word × Fx} {x fl : Nat → Nat → Word}
    (hg : ∀ t i flags, g t i { fxOf s with flags } = (x i t, { fxOf s with flags := flags ||| fl i t })) (d : BitVec 7) (n : Nat) :
    vectorResult s d n g =
      withRaised (vectorResult s d n fun t i fx => (x i t, fx)) (unionFlags (threads s.pre.width (act s)) n fl 0) := by
  have run := eachElem_flags hg (threads s.pre.width (act s)) n d.toNat s.cur 0
  have plain := eachElem_pure (threads s.pre.width (act s)) n d.toNat x s.cur (fxOf s)
  have start : { fxOf s with flags := 0 } = fxOf s := rfl
  rw [start] at run
  unfold vectorResult
  rw [run, plain]
  have none : s.iss.raised ||| (fxOf s).flags = s.iss.raised := BitVec.or_zero
  simp only [putFx, none]
  rfl

/-- What a member that passed its checks delivers, when its elements only raise flags. -/
theorem vectorResult_flags_ready {s : State} {os : List Opd} {g : Nat → Nat → Fx → Word × Fx} {x fl : Nat → Nat → Word}
    (hg : ∀ t i flags, g t i { fxOf s with flags } = (x i t, { fxOf s with flags := flags ||| fl i t })) (d : BitVec 7) (n : Nat) :
    Delivered s (Noted s os) { vectorResult (Noted s os) d n g with iss := s.iss } d.toNat n x ∧
      (vectorResult (Noted s os) d n g).iss = { s.iss with raised := s.iss.raised ||| unionFlags (threads s.pre.width (act s)) n fl 0 } := by
  have delivered := delivered_vectorResult s os d n x
  have kept : (vectorResult (Noted s os) d n fun t i fx => (x i t, fx)).iss = s.iss := by rw [delivered.rest]; exact Noted_iss s os
  rw [vectorResult_flags (by simpa only [Noted_fxOf] using hg), withRaised_restored kept]
  exact ⟨delivered, by rw [withRaised, kept, Noted_pre, Noted_act]⟩

/-! ### Arithmetic outside `rsr` -/

/-- A function of `fx` that draws nothing there: its value is fixed, and it raises fixed flags. -/
def Undrawn (fx : Fx) (g : Fx → Nat × Fx) : Prop := ∃ v fl, ∀ flags, g { fx with flags } = (v, { fx with flags := flags ||| fl })

theorem Undrawn.eq {fx : Fx} {g : Fx → Nat × Fx} (h : Undrawn fx g) (flags : Word) :
    g { fx with flags } = ((g { fx with flags := 0 }).1, { fx with flags := flags ||| (g { fx with flags := 0 }).2.flags }) := by
  obtain ⟨v, fl, h⟩ := h
  have zero : (0 : Word) ||| fl = fl := BitVec.zero_or
  rw [h, h, zero]

section
variable {fx : Fx} (hm : fx.mode ≠ 5)
include hm

theorem draw_undrawn : fx.draw = (0, fx) := if_neg hm

theorem undrawn_fconst (x : Nat) (fl : Word) : Undrawn fx (fconst x fl) :=
  ⟨x, fl, fun flags => by rw [fconst, draw_undrawn (fx := { fx with flags }) hm]; rfl⟩

/-- One rounding, of a value that the mode may settle (the sign of an exact zero, 03 R67). -/
theorem undrawn_fround (m : Fmt) (v : Nat → Bool × Nat × Int) :
    Undrawn fx fun fx => fround m (v fx.mode).1 (v fx.mode).2.1 (v fx.mode).2.2 false fx :=
  ⟨(froundWith m fx.mode 0 (v fx.mode).1 (v fx.mode).2.1 (v fx.mode).2.2 false).1,
    (froundWith m fx.mode 0 (v fx.mode).1 (v fx.mode).2.1 (v fx.mode).2.2 false).2, fun flags => by
      dsimp only [fround]; rw [draw_undrawn (fx := { fx with flags }) hm]; rfl⟩

omit hm in
theorem undrawn_ite {c : Prop} [Decidable c] {g h : Fx → Nat × Fx} (hg : Undrawn fx g) (hh : Undrawn fx h) :
    Undrawn fx fun fx => if c then g fx else h fx := by
  split
  · exact hg
  · exact hh

theorem undrawn_faddV (m : Fmt) (x y : FVal) : Undrawn fx (faddV m x y) := by
  cases x with
  | nan => exact undrawn_fconst hm ..
  | inf n =>
    cases y with
    | nan => exact undrawn_fconst hm ..
    | inf n' => exact undrawn_ite (undrawn_fconst hm ..) (undrawn_fconst hm ..)
    | fin => exact undrawn_fconst hm ..
  | fin na ma ea =>
    cases y with
    | nan => exact undrawn_fconst hm ..
    | inf n => exact undrawn_fconst hm ..
    | fin nb mb eb => exact undrawn_fround hm m fun mode => fsumExact mode na ma ea nb mb eb

theorem undrawn_fmulV (m : Fmt) (x y : FVal) : Undrawn fx (fmulV m x y) := by
  cases x with
  | nan => exact undrawn_fconst hm ..
  | inf n =>
    cases y with
    | nan => exact undrawn_fconst hm ..
    | inf n' => exact undrawn_fconst hm ..
    | fin n' => exact undrawn_ite (undrawn_fconst hm ..) (undrawn_fconst hm ..)
  | fin na ma ea =>
    cases y with
    | nan => exact undrawn_fconst hm ..
    | inf n' => exact undrawn_ite (undrawn_fconst hm ..) (undrawn_fconst hm ..)
    | fin nb mb eb => exact undrawn_fround hm m fun _ => (na != nb, ma * mb, ea + eb)

theorem undrawn_fmaV (m : Fmt) (x y z : FVal) : Undrawn fx (fmaV m x y z) := by
  unfold fmaV
  refine undrawn_ite (undrawn_fconst hm ..) (undrawn_ite (undrawn_fconst hm ..) ?_)
  split
  case h_1 na ma ea nb mb eb nc mc ec => exact undrawn_fround hm m fun mode => fsumExact mode (na != nb) (ma * mb) (ea + eb) nc mc ec
  case h_2 => exact undrawn_fconst hm ..
  case h_3 =>
    dsimp only
    split
    · exact undrawn_ite (undrawn_fconst hm ..) (undrawn_fconst hm ..)
    · exact undrawn_fconst hm ..

theorem undrawn_fconvV (m : Fmt) (x : FVal) : Undrawn fx (fconvV m x) := by
  cases x with
  | nan | inf => exact undrawn_fconst hm ..
  | fin n man e => exact undrawn_fround hm m fun _ => (n, man, e)
end

theorem Undrawn.asWord {fx : Fx} {g : Fx → Nat × Fx} (h : Undrawn fx g) (sat : Bool) (flags : Word) : asWord sat (g { fx with flags }) =
    ((Machine.asWord sat (g { fx with flags := 0 })).1, { fx with flags := flags ||| (g { fx with flags := 0 }).2.flags }) := by
  rw [h.eq]
  rfl

/-- Settles O14: outside `rsr` the elements draw nothing, so each is the function of its own operands and only their flags come together. -/
theorem floatElements : Obligations.FloatElements := by
  unfold Obligations.FloatElements
  intro s w d a b hm n sat xs ys os od fx p hp h
  have answer {g : Nat → Nat → Fx → Nat × Fx} (hg : ∀ i u, Undrawn fx (g i u)) (qs : List Opd) :
      let t := vectorResult (Noted s qs) d n fun u i fx => asWord sat (g i u fx)
      Delivered s (Noted s qs) { t with iss := s.iss } d.toNat n (fun i u => (asWord sat (g i u fx)).1) ∧
        t.iss = { s.iss with raised := s.iss.raised ||| unionFlags (threads s.pre.width (act s)) n (fun i u => (g i u fx).2.flags) 0 } :=
    vectorResult_flags_ready (fun t i flags => (hg i t).asWord sat flags) d n
  revert h
  revert p
  simp only [List.forall_mem_cons, List.not_mem_nil, false_imp_iff, implies_true, and_true]
  exact ⟨fun h => ⟨_, congrArg Host.Outcome.next (elementwise_two _ h), answer (fun i u => undrawn_faddV hm fp32 (xs i u) (ys i u)) os⟩,
    fun h => ⟨_, congrArg Host.Outcome.next (elementwise_two _ h), answer (fun i u => undrawn_faddV hm fp32 (xs i u) (ys i u).neg) os⟩,
    fun h => ⟨_, congrArg Host.Outcome.next (elementwise_two _ h), answer (fun i u => undrawn_fmulV hm fp32 (xs i u) (ys i u)) os⟩,
    fun h => ⟨_, congrArg Host.Outcome.next (elementwise_two_kept _ h), answer (fun i u => undrawn_fmaV hm fp32 (xs i u) (ys i u) (fval (V s d i u))) od⟩⟩

end Sys2Proof.Machine
end

section
/-! Tagged blocks in registers (04 R120 to R126, 03 R86): the groups that are acted on, the action for poisoned blocks, and what is delivered. -/

namespace Sys2Proof.Machine

/-! ### States with raised flags -/

@[simp] theorem withRaised_zero (s : State) : withRaised s 0 = s := by
  have none : s.iss.raised ||| 0 = s.iss.raised := BitVec.or_zero
  rw [withRaised, none]

theorem withRaised_withRaised (s : State) (f g : Word) : withRaised (withRaised s f) g = withRaised s (f ||| g) := by
  simp only [withRaised, BitVec.or_assoc]

theorem vectorResult_withRaised (s : State) (f : Word) (d : BitVec 7) (n : Nat) (x : Nat → Nat → Word) :
    vectorResult (withRaised s f) d n (fun t i fx => (x i t, fx)) = withRaised (vectorResult s d n fun t i fx => (x i t, fx)) f := by
  have plain := eachElem_pure (threads s.pre.width (act s)) n d.toNat x s.cur (fxOf s)
  have shared : vectorResult (withRaised s f) d n (fun t i fx => (x i t, fx)) =
      let r := eachElem (threads s.pre.width (act s)) n d.toNat (fun t i fx => (x i t, fx)) s.cur (fxOf s)
      zeroElems (putFx (withRaised s f) r.1 r.2) d.toNat n := rfl
  have none (x : Word) : x ||| (fxOf s).flags = x := BitVec.or_zero
  rw [shared, vectorResult, plain]
  simp only [putFx, none]
  rfl

/-- What is raised stays raised. -/
theorem and_not_or (x y : Word) : x &&& ~~~(x ||| y) = 0 := by
  apply BitVec.eq_of_getLsbD_eq
  intro i hi
  simp only [BitVec.getLsbD_and, BitVec.getLsbD_not, BitVec.getLsbD_or, hi, decide_true, Bool.true_and]
  cases x.getLsbD i <;> simp

/-! ### Poisoned source blocks (03 R86) -/

/-- Whether a group's source block is poisoned. -/
def badBlock (s : State) (a : BitVec 7) (g : Nat) : Bool := (blockWhy (blockOf s a g)).isSome

/-- The flag that poisoned source blocks raise. -/
def badFlag (s : State) (a : BitVec 7) : Word := flagIf ((blockGroups s.pre.width (act s)).any (badBlock s a)) flagBk

@[simp] theorem Noted_blockOf (s : State) (os : List Opd) (a : BitVec 7) (g : Nat) : blockOf (Noted s os) a g = blockOf s a g := by
  simp only [blockOf, Noted_V]

@[simp] theorem Noted_badBlock (s : State) (os : List Opd) (a : BitVec 7) : badBlock (Noted s os) a = badBlock s a := by
  funext g
  rw [badBlock, Noted_blockOf, badBlock]

@[simp] theorem Noted_badFlag (s : State) (os : List Opd) (a : BitVec 7) : badFlag (Noted s os) a = badFlag s a := by
  rw [badFlag, Noted_pre, Noted_act, Noted_badBlock, badFlag]

/-- The lowest poisoned group is the first that is bad, with its reason. -/
theorem firstBadBlock_eq (s : State) (a : BitVec 7) :
    firstBadBlock s a = ((blockGroups s.pre.width (act s)).find? (badBlock s a)).map fun g => (g, (blockWhy (blockOf s a g)).getD 0) := by
  rw [firstBadBlock]
  induction blockGroups s.pre.width (act s) with
  | nil => rfl
  | cons g gs ih =>
    rw [List.findSome?_cons, List.find?_cons, badBlock]
    cases why : blockWhy (blockOf s a g) with
    | none => exact ih
    | some => simp [why]

/-- With `status.bte` clear, or no poisoned source, the effect follows, with the flag raised where one is poisoned. -/
theorem consumeBlocks_effect {s : State} {a : BitVec 7}
    (h : s.pre.status.getLsbD 16 = false ∨ (blockGroups s.pre.width (act s)).any (badBlock s a) = false) (k : State → State) :
    consumeBlocks s a k = k (withRaised s (badFlag s a)) := by
  rw [consumeBlocks, firstBadBlock_eq, badFlag]
  cases hf : (blockGroups s.pre.width (act s)).find? (badBlock s a) with
  | none =>
    have clean : (blockGroups s.pre.width (act s)).any (badBlock s a) = false := by
      rw [List.any_eq_false]; exact fun g hg => List.find?_eq_none.1 hf g hg
    rw [clean]
    exact congrArg k (withRaised_zero s).symm
  | some g =>
    have bad : (blockGroups s.pre.width (act s)).any (badBlock s a) = true :=
      List.any_eq_true.2 ⟨g, List.mem_of_find?_eq_some hf, List.find?_some hf⟩
    rw [bad] at h ⊢
    exact if_neg (by simpa using h)

/-- With `status.bte` set the lowest poisoned group traps, its flag already in `status`. -/
theorem consumeBlocks_trap {s : State} {a : BitVec 7} {g : Nat} (hs : s.pre.status.getLsbD 16 = true)
    (hg : (blockGroups s.pre.width (act s)).find? (badBlock s a) = some g) (k : State → State) :
    consumeBlocks s a k = raise (orRaised (withRaised s flagBk)) 0x10 (.ofNat 32 (g * 16 + (blockWhy (blockOf s a g)).getD 0)) := by
  rw [consumeBlocks, firstBadBlock_eq, hg]
  exact if_pos hs

/-! ### Unpacked elements (04 R123) -/

/-- The element that `qunpk` delivers, in an `fx` whose mode is `rne` whatever the member's is. -/
def unpacked (s : State) (a : BitVec 7) (i u : Nat) (fx : Fx) : Word × Fx :=
  if i = 3 then (0, fx)
  else if badBlock s a (u / 16) then (0x7FC00000, fx)
  else
    let r := fconvV fp32 (blockValue (blockOf s a (u / 16)) (3 * (u % 16) + i)) { fx with mode := 0 }
    (.ofNat 32 r.1, { r.2 with mode := fx.mode })

/-- Under `rne` nothing is drawn. -/
theorem unpacked_flags (s : State) (a : BitVec 7) (fx : Fx) (i u : Nat) (flags : Word) : unpacked s a i u { fx with flags } =
    ((unpacked s a i u { rng := fx.rng }).1, { fx with flags := flags ||| (unpacked s a i u { rng := fx.rng }).2.flags }) := by
  have none : flags ||| 0 = flags := BitVec.or_zero
  unfold unpacked
  split
  · rw [none]
  · split
    · rw [none]
    · have e := (undrawn_fconvV (fx := { fx with mode := 0 }) (show (0 : Nat) ≠ 5 by decide) fp32 (blockValue (blockOf s a (u / 16)) (3 * (u % 16) + i))).eq flags
      dsimp only at e ⊢
      rw [e]

/-- The element without its flags. -/
theorem unpacked_value (s : State) (a : BitVec 7) (i u : Nat) (fx : Fx) : (unpacked s a i u fx).1 =
    if i = 3 then 0 else if badBlock s a (u / 16) then 0x7FC00000
    else .ofNat 32 (fconvV fp32 (blockValue (blockOf s a (u / 16)) (3 * (u % 16) + i)) { fx with mode := 0 }).1 := by
  unfold unpacked
  split
  · rfl
  · split <;> rfl

theorem vectorResult_unpacked (s n : State) (d a : BitVec 7) : vectorResult n d 4 (fun t i fx => unpacked s a i t fx) =
    withRaised (vectorResult n d 4 fun t i fx => ((unpacked s a i t { rng := n.cur.rng }).1, fx))
      (unionFlags (threads n.pre.width (act n)) 4 (fun i t => (unpacked s a i t { rng := n.cur.rng }).2.flags) 0) :=
  vectorResult_flags (fun t i flags => unpacked_flags s a (fxOf n) i t flags) d 4

/-! ### The members -/

section
variable {s : State} {d a b : BitVec 7}

theorem qpack_ready (h : Ready s [{ Opd.v 0 a 4 (act s) with used := 3 }, .dv d]) (fmt : BitVec 2) : exec (.qpack d a fmt) s =
    .next (eachBlock (Noted s [{ Opd.v 0 a 4 (act s) with used := 3 }, .dv d]) d fun g fx =>
      pack fmt.toNat (liveElem (act s) g) (((upto 16).map fun j => (upto 3).map fun e =>
        if (act s).getLsbD (16 * g + j) then fval (V s a e (16 * g + j)) else .fin false 0 0).flatten) fx) := by
  refine congrArg Host.Outcome.next ((guarded_ready h _).trans ?_)
  simp only [Noted_act, Noted_V]

/-- A member that consumes blocks and passes its checks: its effect, where poisoned sources do not trap. -/
theorem consumer_effect {os : List Opd} (h : Ready s os)
    (hb : s.pre.status.getLsbD 16 = false ∨ (blockGroups s.pre.width (act s)).any (badBlock s a) = false) (k : State → State) :
    guarded s none os (fun s => consumeBlocks s a k) = k (withRaised (Noted s os) (badFlag s a)) := by
  rw [guarded_ready h, consumeBlocks_effect (by simpa only [Noted_pre, Noted_act, Noted_badBlock] using hb), Noted_badFlag]

theorem consumer_trap {os : List Opd} (h : Ready s os) (hs : s.pre.status.getLsbD 16 = true) {g : Nat}
    (hg : (blockGroups s.pre.width (act s)).find? (badBlock s a) = some g) (k : State → State) :
    guarded s none os (fun s => consumeBlocks s a k) =
      raise (orRaised (withRaised (Noted s os) flagBk)) 0x10 (.ofNat 32 (g * 16 + (blockWhy (blockOf s a g)).getD 0)) := by
  rw [guarded_ready h, consumeBlocks_trap (by rwa [Noted_pre]) (by rwa [Noted_pre, Noted_act, Noted_badBlock]), Noted_blockOf]

theorem withRaised_act (n : State) (f : Word) : act (withRaised n f) = act n := rfl
theorem withRaised_V (n : State) (f : Word) (r : BitVec 7) (i t : Nat) : V (withRaised n f) r i t = V n r i t := rfl
theorem withRaised_blockOf (n : State) (f : Word) (r : BitVec 7) (g : Nat) : blockOf (withRaised n f) r g = blockOf n r g := rfl

/-- What `qunpk` delivers, and the flags that it raises. -/
theorem qunpk_effect {os : List Opd} (f : Word) :
    let t := vectorResult (withRaised (Noted s os) f) d 4 fun t i fx => unpacked s a i t fx
    t.iss = { s.iss with raised := t.iss.raised } ∧ (s.iss.raised ||| f) &&& ~~~t.iss.raised = 0 ∧
      Delivered s (Noted s os) { t with iss := s.iss } d.toNat 4 fun i u => (unpacked s a i u { rng := s.cur.rng }).1 := by
  intro t
  have delivered := delivered_vectorResult s os d 4 fun i u => (unpacked s a i u { rng := s.cur.rng }).1
  have kept : (vectorResult (Noted s os) d 4 fun t i fx => ((unpacked s a i t { rng := s.cur.rng }).1, fx)).iss = s.iss := by
    rw [delivered.rest]; exact Noted_iss s os
  obtain ⟨fl, ht⟩ : ∃ fl, t = withRaised (vectorResult (Noted s os) d 4 fun t i fx => ((unpacked s a i t { rng := s.cur.rng }).1, fx)) (f ||| fl) := by
    have rng : (withRaised (Noted s os) f).cur.rng = s.cur.rng := Noted_rng s os
    have run := vectorResult_unpacked s (withRaised (Noted s os) f) d a
    rw [rng, vectorResult_withRaised, withRaised_withRaised] at run
    exact ⟨_, run⟩
  rw [ht, withRaised_restored kept]
  refine ⟨by rw [withRaised, kept], ?_, delivered⟩
  rw [withRaised, kept, ← BitVec.or_assoc]
  exact and_not_or _ _
end

/-- Settles O41: what is done for each group follows from the checks and from the first poisoned block; `qunpk` draws nothing under `rne`. -/
theorem taggedBlocks : Obligations.TaggedBlocks := by
  unfold Obligations.TaggedBlocks
  intro s d a b fmt gs whole blk bad live lead o1 o2 o3 flag vals
  have flag_eq : ∀ n, flag n = withRaised n (badFlag s a) := fun n => by
    have : flag n = if gs.any bad then withRaised n flagBk else n := rfl
    have e : badFlag s a = if gs.any bad then flagBk else 0 := rfl
    rw [this, e]
    split
    · rfl
    · exact (withRaised_zero n).symm
  refine ⟨fun h => qpack_ready h fmt, fun hb => ⟨fun h => ?_, fun h => ?_, fun h => ?_⟩, ?_⟩
  · refine congrArg Host.Outcome.next ((consumer_effect h hb _).trans ?_)
    rw [flag_eq]
    simp only [withRaised_act, withRaised_blockOf, Noted_act, Noted_blockOf]
    rfl
  · refine congrArg Host.Outcome.next ((consumer_effect h hb _).trans ?_)
    rw [flag_eq]
    simp only [withRaised_act, withRaised_blockOf, withRaised_V, Noted_act, Noted_blockOf, Noted_V]
    rfl
  · obtain ⟨iss, raised, delivered⟩ := qunpk_effect (s := s) (d := d) (a := a) (os := o2) (badFlag s a)
    refine ⟨_, congrArg Host.Outcome.next ((consumer_effect h hb _).trans ?_), iss, ?_, delivered.congr fun i u _ => unpacked_value ..⟩
    · simp only [withRaised_blockOf, Noted_blockOf]
      rfl
    · rw [flag_eq]
      exact raised
  · intro hs g hg info up
    have inStatus (n : State) : (let r := n.iss.raised ||| 0x200
        { n with iss := { n.iss with raised := r }, cur := { n.cur with status := n.cur.status ||| r } }) = orRaised (withRaised n flagBk) := rfl
    have up_eq : ∀ os, up os = orRaised (withRaised (Noted s os) flagBk) := fun os => inStatus _
    rw [up_eq, up_eq]
    exact ⟨fun h => ⟨congrArg Host.Outcome.next (consumer_trap h hs hg _), congrArg Host.Outcome.next (consumer_trap h hs hg _)⟩,
      fun h => congrArg Host.Outcome.next (consumer_trap h hs hg _)⟩

end Sys2Proof.Machine
end

section
/-! Numbers with many leading bits, between two fp32 patterns (04 R115; 03 R66, R67): which patterns stand around them, and how far the next
ones are. -/

namespace Sys2Proof.Machine

/-! ### Flags -/

/-- Cut bits always raise `nx`. -/
theorem splitAt_sticky (man : Nat) (sh : Int) : (splitAt man sh true).inexact = true := by
  unfold splitAt Split.inexact
  split <;> simp

theorem or_and_of_and {x y n : Word} (h : y &&& n = n) : (x ||| y) &&& n = n := by
  apply BitVec.eq_of_getLsbD_eq
  intro i _
  have bit := congrArg (·.getLsbD i) h
  simp only [BitVec.getLsbD_and] at bit
  simp only [BitVec.getLsbD_and, BitVec.getLsbD_or]
  cases hn : n.getLsbD i
  · simp
  · rw [hn, Bool.and_true] at bit
    simp [bit]

theorem and_or_left (x n : Word) : (n ||| x) &&& n = n := by rw [BitVec.or_comm]; exact or_and_of_and BitVec.and_self

theorem froundWith_sticky_nx (m : Fmt) (mode : Nat) (draw : Word) (neg : Bool) {man : Nat} (hman : man ≠ 0) (exp : Int) :
    (froundWith m mode draw neg man exp true).2 &&& flagNx = flagNx := by
  unfold froundWith
  simp only [if_neg hman, splitAt_sticky, flagIf, ↓reduceIte, Bool.and_true]
  generalize Split.int _ + _ = n
  split
  · exact or_and_of_and BitVec.and_self
  · exact and_or_left _ _

theorem fconst_nx (x : Nat) {fl : Word} (h : fl &&& flagNx = flagNx) (fx : Fx) : (fconst x fl fx).2.flags &&& flagNx = flagNx := by
  rw [fconst, Fx.raise_flags]
  exact or_and_of_and h

/-! ### The distance between neighbouring patterns -/

/-- The unit in the last place of a pattern. -/
noncomputable def ulp (p : Nat) : ℝ := 2 ^ (((p / 2 ^ 23 - 1 : Nat) : ℤ) - 149)

theorem ulp_mono {p q : Nat} (h : p / 2 ^ 23 ≤ q / 2 ^ 23) : ulp p ≤ ulp q := zpow_le_zpow_right₀ one_le_two (by omega)

theorem ulp_pos (p : Nat) : 0 < ulp p := by unfold ulp; positivity

theorem mag_succ (p : Nat) : fp32.mag (p + 1) = fp32.mag p + ulp p := by
  obtain ⟨b, n, rfl, hb, hn⟩ := exists_step fp32 p
  have hb : b = 0 ∨ 2 ^ 23 ≤ n := hb
  have hn : n < 2 ^ 24 := hn
  have exponent : (b * 2 ^ 23 + n) / 2 ^ 23 - 1 = b := by omega
  have lo := mag_fp32 b n hb hn.le
  have hi := mag_fp32 b (n + 1) (by omega) (by omega)
  change fp32.mag (b * 2 ^ 23 + n + 1) = fp32.mag (b * 2 ^ 23 + n) + ulp (b * 2 ^ 23 + n)
  rw [ulp, exponent, lo, Nat.add_assoc, hi]
  push_cast
  ring

/-- Every pattern is a whole number of the least units. -/
theorem exists_units_mag (p : Nat) : ∃ n : Nat, fp32.mag p = n * 2 ^ (-149 : ℤ) := by
  obtain ⟨b, n, rfl, hb, hn⟩ := exists_step fp32 p
  refine ⟨n * 2 ^ b, (mag_fp32 b n hb (Nat.le_of_lt hn)).trans ?_⟩
  rw [sub_eq_add_neg, zpow_add₀ two_ne_zero, zpow_natCast]
  push_cast
  ring

/-! ### The patterns around a number (04 R115) -/

/-- `r` is one of the two patterns around `w`, with its sign. -/
def Around (r : Nat) (w : ℝ) : Prop :=
  ∃ p, fp32.mag p ≤ |w| ∧ |w| < fp32.mag (p + 1) ∧ ∃ q, (q = p ∨ q = p + 1) ∧ r = (if w < 0 then 2 ^ 31 else 0) + q

theorem RoundsTo.around {mode : Nat} {draw : Word} {neg : Bool} {w : ℝ} {r : Nat} (h : RoundsTo fp32 mode draw neg |w| r)
    (hneg : neg = true ↔ w < 0) (hlt : |w| < 2 ^ (128 : ℤ)) : Around r w := by
  obtain ⟨-, within⟩ := h
  obtain ⟨p, -, lower, upper, farther, nearer⟩ := within (abs_nonneg w) (hlt.trans_eq (mag_top (m := fp32) (by decide)).symm)
  have sign : fp32.sign neg = if w < 0 then 2 ^ 31 else 0 := if_congr hneg rfl rfl
  rw [sign] at farther nearer
  refine ⟨p, lower, upper, ?_⟩
  by_cases up : GoesUp mode draw neg (p % 2 == 1) (fp32.mag p) (fp32.mag (p + 1)) |w|
  · exact ⟨p + 1, .inr rfl, farther up⟩
  · exact ⟨p, .inl rfl, nearer up⟩

/-- A number inside the last of many leading bits is bracketed. -/
theorem bracket_around (upper : Bool) {man : Nat} (hman : 2 ^ 57 ≤ man) {exp : Int} {w : ℝ} (hw : |w| = (man + 1 / 2) * 2 ^ exp)
    (hlt : |w| < 2 ^ (128 : ℤ)) : Around (bracket upper (decide (w < 0)) man exp).1 w ∧ (bracket upper (decide (w < 0)) man exp).2 &&& flagNx = flagNx := by
  have unit : (0 : ℝ) < 2 ^ exp := by positivity
  have leads : Leads man exp true |w| := by
    refine ⟨by rw [hw]; linarith, by rw [hw]; linarith, iff_of_true rfl ?_⟩
    rw [hw]
    intro h
    linarith
  have hman0 : man ≠ 0 := by omega
  constructor
  · have bits : 58 ≤ bitLen man := le_bitLen hman
    have directed : (if upper then 3 else 2) ≤ 5 := by split <;> decide
    have rounds := froundWith_roundsTo (m := fp32) (by decide) (by decide) leads (fun h => absurd h hman0) (fun _ => bits) directed 0 (decide (w < 0))
    exact rounds.around decide_eq_true_iff hlt
  · exact froundWith_sticky_nx _ _ _ _ hman0 _

/-! ### Within two units (04 R115) -/

/-- Toward zero the sticky bit does not matter to the pattern. -/
theorem froundWith_rtz_sticky (m : Fmt) (draw : Word) (neg : Bool) (man : Nat) (exp : Int) (sticky : Bool) :
    (froundWith m 1 draw neg man exp sticky).1 = (froundWith m 1 draw neg man exp false).1 := by
  have int (sh : Int) : (splitAt man sh sticky).int = (splitAt man sh false).int := by unfold splitAt; split <;> rfl
  unfold froundWith
  simp only [Split.up_rtz, int, Bool.false_eq_true, ↓reduceIte]
  by_cases hman : man = 0
  · simp only [if_pos hman]
  · simp only [if_neg hman]
    split <;> rfl

/-- The pattern below a number of 2^-256 and a part of the next. -/
theorem pattern_below {man : Nat} (hman : man < 16 * 2 ^ 256) {w : ℝ} (hlo : (man : ℝ) * 2 ^ (-256 : ℤ) ≤ w) (hhi : w < (man + 1) * 2 ^ (-256 : ℤ)) :
    let p := (froundWith fp32 1 0 false man (-256) true).1
    p < 0x41800000 ∧ fp32.mag p ≤ w ∧ w < fp32.mag (p + 1) := by
  intro p
  have sixteen : fp32.mag 0x41800000 = 16 := (mag_fp32 130 (2 ^ 23) (by decide) (by decide)).trans (by norm_num)
  have small : (man : ℝ) * 2 ^ (-256 : ℤ) < 16 := by
    have : (man : ℝ) < 16 * 2 ^ 256 := by exact_mod_cast hman
    calc (man : ℝ) * 2 ^ (-256 : ℤ) < 16 * 2 ^ 256 * 2 ^ (-256 : ℤ) := mul_lt_mul_of_pos_right this (by positivity)
      _ = 16 := by norm_num
  have rounds : RoundsTo fp32 1 0 false (man * 2 ^ (-256 : ℤ)) p := by
    have h := froundWith_roundsTo (m := fp32) (by decide) (by decide) (leads_exact man (-256)) (by rintro rfl; simp) (by simp) (mode := 1) (by decide) 0 false
    rwa [← froundWith_rtz_sticky (sticky := true)] at h
  have top : (16 : ℝ) < fp32.mag fp32.top := by
    rw [← sixteen]
    exact mag_strictMono fp32 (by decide)
  obtain ⟨q, -, lower, upper, -, nearer⟩ := rounds.2 (by positivity) (small.trans top)
  have hp : p = q := by
    have := nearer (by unfold GoesUp; simp)
    rwa [show fp32.sign false = 0 from rfl, Nat.zero_add] at this
  rw [hp]
  refine ⟨?_, lower.trans hlo, hhi.trans_le ?_⟩
  · rw [← (mag_strictMono fp32).lt_iff_lt, sixteen]
    exact lower.trans_lt small
  · obtain ⟨n, hn⟩ := exists_units_mag (q + 1)
    have e : (n : ℝ) * 2 ^ (-149 : ℤ) = (n * 2 ^ 107 : Nat) * 2 ^ (-256 : ℤ) := by
      rw [show (-149 : ℤ) = 107 + -256 by norm_num, zpow_add₀ two_ne_zero]
      push_cast
      ring
    rw [hn, e] at upper ⊢
    have unit : (0 : ℝ) < 2 ^ (-256 : ℤ) := by positivity
    have : man < n * 2 ^ 107 := by exact_mod_cast lt_of_mul_lt_mul_right upper unit.le
    refine mul_le_mul_of_nonneg_right ?_ unit.le
    exact_mod_cast this

end Sys2Proof.Machine
end

section
/-! The values within two units of a fixed-point number (04 R115, R117). -/

namespace Sys2Proof.Machine

/-- `r` is a word within two units in the last place of `w`. -/
def Near (r : Nat) (w : ℝ) : Prop :=
  ∃ z : Word, r = z.toNat ∧ sizeOfWord z < 0x7F800000 ∧ ∀ q, fp32.mag q ≤ |w| → |w| < fp32.mag (q + 1) →
    |realOf z - w| ≤ 2 * (fp32.mag (q + 1) - fp32.mag q)

/-- The patterns a choice gives: from one below the lower of the two around the number to one above the upper, this last in the same binade only. -/
theorem within2_fst (choice : Nat) (v : Int) : ∃ L y, L = (froundWith fp32 1 0 false (v.natAbs - 1) (-256) true).1 ∧
    (within2 choice v).1 = fp32.sign (decide (v < 0)) + y ∧
    (y = L - 1 ∨ y = L ∨ y = L + 1 ∨ y = L + 2 ∧ (L + 2) / 2 ^ 23 = L / 2 ^ 23) := by
  refine ⟨_, _, rfl, congrArg (· + _) (if_congr decide_eq_true_iff.symm rfl rfl), ?_⟩
  rw [show (-256 : Int) = -fxBits from rfl]
  generalize (froundWith fp32 1 0 false (v.natAbs - 1) (-fxBits) true).1 = L
  split_ifs <;> omega

/-- No choice is farther than two units from a number above the pattern and below the next. -/
theorem mag_near {L y : Nat} {w : ℝ} (lower : fp32.mag L ≤ w) (upper : w < fp32.mag (L + 1))
    (hy : y = L - 1 ∨ y = L ∨ y = L + 1 ∨ y = L + 2 ∧ (L + 2) / 2 ^ 23 = L / 2 ^ 23) : |fp32.mag y - w| ≤ 2 * (fp32.mag (L + 1) - fp32.mag L) := by
  have next := mag_succ L
  have unit := ulp_pos L
  rw [abs_le]
  obtain rfl | rfl | rfl | ⟨rfl, binade⟩ := hy
  · cases L with
    | zero => constructor <;> linarith
    | succ k =>
      have := mag_succ k
      have := ulp_mono (p := k) (q := k + 1) (by omega)
      have := ulp_pos k
      rw [Nat.add_sub_cancel]
      constructor <;> linarith
  · constructor <;> linarith
  · constructor <;> linarith
  · have : fp32.mag (L + 2) = fp32.mag (L + 1) + ulp (L + 1) := mag_succ (L + 1)
    have := ulp_mono (p := L + 1) (q := L) (by omega)
    have := ulp_pos (L + 1)
    constructor <;> linarith

theorem within2_nx (choice : Nat) (v : Int) : (within2 choice v).2 &&& flagNx = flagNx := and_or_left _ _

/-- The number a fixed-point result stands for: half a unit below it in magnitude. -/
noncomputable def halfBelow (v : Int) : ℝ := v.sign * (v.natAbs - 1 / 2) * 2 ^ (-256 : ℤ)

section
variable {v : Int}

theorem halfBelow_zero : halfBelow 0 = 0 := by simp [halfBelow]

theorem halfBelow_of_pos (h : 0 < v) : halfBelow v = (v.natAbs - 1 / 2) * 2 ^ (-256 : ℤ) := by
  rw [halfBelow, Int.sign_eq_one_of_pos h, Int.cast_one, one_mul]

theorem halfBelow_of_neg (h : v < 0) : halfBelow v = -((v.natAbs - 1 / 2) * 2 ^ (-256 : ℤ)) := by
  rw [halfBelow, Int.sign_eq_neg_one_of_neg h]
  push_cast
  ring

theorem natAbs_half_pos (h : v ≠ 0) : (0 : ℝ) < (v.natAbs - 1 / 2) * 2 ^ (-256 : ℤ) := by
  have : (1 : ℝ) ≤ v.natAbs := by exact_mod_cast (by omega : 1 ≤ v.natAbs)
  have : (0 : ℝ) < v.natAbs - 1 / 2 := by linarith
  positivity

theorem halfBelow_neg_iff (v : Int) : halfBelow v < 0 ↔ v < 0 := by
  obtain h | rfl | h := lt_trichotomy v 0
  · have := natAbs_half_pos h.ne
    rw [halfBelow_of_neg h]
    exact iff_of_true (by linarith) h
  · simp [halfBelow_zero]
  · have := natAbs_half_pos h.ne'
    rw [halfBelow_of_pos h]
    exact iff_of_false (by linarith) (by omega)

theorem abs_halfBelow_of_ne (h : v ≠ 0) : |halfBelow v| = (v.natAbs - 1 / 2) * 2 ^ (-256 : ℤ) := by
  have pos := natAbs_half_pos h
  obtain hneg | hpos := lt_or_gt_of_ne h
  · rw [halfBelow_of_neg hneg, abs_neg, abs_of_pos pos]
  · rw [halfBelow_of_pos hpos, abs_of_pos pos]

theorem abs_halfBelow (v : Int) : ((v.natAbs - 1 : Nat) : ℝ) * 2 ^ (-256 : ℤ) ≤ |halfBelow v| ∧
    |halfBelow v| < ((v.natAbs - 1 : Nat) + 1) * 2 ^ (-256 : ℤ) := by
  have unit : (0 : ℝ) < 2 ^ (-256 : ℤ) := by positivity
  by_cases h : v = 0
  · subst h
    simp [halfBelow_zero]
  · rw [abs_halfBelow_of_ne h, Nat.cast_sub (by omega), Nat.cast_one]
    constructor
    · exact mul_le_mul_of_nonneg_right (by linarith) unit.le
    · exact mul_lt_mul_of_pos_right (by linarith) unit

theorem halfBelow_near (v : Int) : |halfBelow v - v * 2 ^ (-256 : ℤ)| ≤ 2 ^ (-257 : ℤ) := by
  have half : (2 : ℝ) ^ (-257 : ℤ) = 2 ^ (-256 : ℤ) / 2 := by rw [show (-257 : ℤ) = -256 - 1 from rfl, zpow_sub_one₀ two_ne_zero, div_eq_mul_inv]
  have unit : (0 : ℝ) < 2 ^ (-257 : ℤ) := by positivity
  have magnitude : (v.natAbs : ℝ) = |(v : ℝ)| := by rw [Nat.cast_natAbs, Int.cast_abs]
  obtain h | rfl | h := lt_trichotomy v 0
  · have hv : (v : ℝ) < 0 := by exact_mod_cast h
    have off : halfBelow v - v * 2 ^ (-256 : ℤ) = 2 ^ (-257 : ℤ) := by
      rw [halfBelow_of_neg h, magnitude, abs_of_neg hv, half]
      ring
    rw [off, abs_of_pos unit]
  · rw [halfBelow_zero, Int.cast_zero, zero_mul, sub_zero, abs_zero]
    exact unit.le
  · have hv : (0 : ℝ) < v := by exact_mod_cast h
    have off : halfBelow v - v * 2 ^ (-256 : ℤ) = -2 ^ (-257 : ℤ) := by
      rw [halfBelow_of_pos h, magnitude, abs_of_pos hv, half]
      ring
    rw [off, abs_neg, abs_of_pos unit]
end

theorem within2_near (choice : Nat) {v : Int} (hv : v.natAbs ≤ 16 * 2 ^ fxBits) : Near (within2 choice v).1 (halfBelow v) := by
  obtain ⟨L, y, hL, result, hy⟩ := within2_fst choice v
  obtain ⟨low, high⟩ := abs_halfBelow v
  have fits : v.natAbs - 1 < 16 * 2 ^ 256 := by
    have : v.natAbs ≤ 16 * 2 ^ 256 := hv
    omega
  obtain ⟨small, lower, upper⟩ := pattern_below fits low high
  rw [← hL] at small lower upper
  have bound : y < 2 ^ 31 := by omega
  obtain ⟨hz, msb, size⟩ := word_of_pattern (decide (v < 0)) bound
  refine ⟨_, result.trans hz.symm, by omega, fun q hq hq' => ?_⟩
  obtain rfl := eq_of_mag_le_of_lt lower upper hq hq'
  have near := mag_near lower upper hy
  rw [realOf, msb, size]
  by_cases h : v < 0
  · rw [abs_of_neg ((halfBelow_neg_iff v).2 h)] at near
    rw [if_pos (decide_eq_true h), ← abs_neg]
    convert near using 2
    ring
  · rw [abs_of_nonneg (not_lt.1 (mt (halfBelow_neg_iff v).1 h))] at near
    rwa [if_neg (by simpa using h), one_mul]

/-! ### The two claims of an inexact result -/

/-- `nx`, and one of the two patterns around a number that lies within `tol` of the exact one. -/
def Bracketed (r : Nat × Fx) (exact tol : ℝ) : Prop := r.2.flags &&& flagNx = flagNx ∧ ∃ w, |w - exact| ≤ tol ∧ Around r.1 w

/-- `nx`, and a word within two units of a number that lies within 2^-200 of the exact one. -/
def Close (r : Nat × Fx) (exact : ℝ) : Prop := r.2.flags &&& flagNx = flagNx ∧ ∃ w, |w - exact| ≤ 2 ^ (-200 : ℤ) ∧ Near r.1 w

theorem within2_close (choice : Nat) (fx : Fx) {v : Int} {exact : ℝ} (hv : v.natAbs ≤ 16 * 2 ^ fxBits) (near : |v * 2 ^ (-256 : ℤ) - exact| ≤ 2 ^ (-201 : ℤ)) :
    Close (fconst (within2 choice v).1 (within2 choice v).2 fx) exact := by
  refine ⟨fconst_nx _ (within2_nx choice v) fx, halfBelow v, ?_, within2_near choice hv⟩
  calc |halfBelow v - exact| ≤ |halfBelow v - v * 2 ^ (-256 : ℤ)| + |v * 2 ^ (-256 : ℤ) - exact| := abs_sub_le ..
    _ ≤ 2 ^ (-257 : ℤ) + 2 ^ (-201 : ℤ) := add_le_add (halfBelow_near v) near
    _ ≤ 2 ^ (-201 : ℤ) + 2 ^ (-201 : ℤ) := by gcongr <;> norm_num
    _ = 2 ^ (-200 : ℤ) := by norm_num

/-- An odd function's result has the operand's sign. -/
theorem within2_close_signed (choice : Nat) (fx : Fx) {v : Int} {exact : ℝ} (neg : Bool) (hv : v.natAbs ≤ 16 * 2 ^ fxBits)
    (near : |v * 2 ^ (-256 : ℤ) - exact| ≤ 2 ^ (-201 : ℤ)) :
    let signed := if neg then -v else v
    Close (fconst (within2 choice signed).1 (within2 choice signed).2 fx) (if neg then -exact else exact) := by
  cases neg
  · exact within2_close choice fx hv near
  · refine within2_close choice fx (v := -v) (exact := -exact) (by rwa [Int.natAbs_neg]) ?_
    rw [← abs_neg]
    convert near using 2
    push_cast
    ring

end Sys2Proof.Machine
end

section
/-! fexp2 between the special cases (04 R115, R116): the product of roots of two stays just below the power, so that its half unit above
stands for it. -/

namespace Sys2Proof.Machine

theorem one_le_unit : 1 ≤ 2 ^ fxBits := Nat.one_le_two_pow

/-! ### The product of roots -/

theorem rpow_half_sq (t : ℝ) : ((2 : ℝ) ^ (t / 2)) ^ 2 = 2 ^ t := by
  rw [← Real.rpow_natCast, ← Real.rpow_mul two_pos.le]
  norm_num

/-- A root of two in fixed point: at most the real one, and less than two units below it. -/
def IsRoot (r : Nat) (t : ℝ) : Prop := 2 ^ fxBits ≤ r ∧ (2 : ℝ) ^ t * 2 ^ fxBits - 2 ≤ r ∧ (r : ℝ) ≤ 2 ^ t * 2 ^ fxBits

theorem IsRoot.sqrt {r : Nat} {t : ℝ} (ht : 0 ≤ t) (h : IsRoot r t) : IsRoot (isqrt (r * 2 ^ fxBits)) (t / 2) := by
  obtain ⟨unit, low, high⟩ := h
  rw [isqrt_eq]
  have floor : (r * 2 ^ fxBits).sqrt * (r * 2 ^ fxBits).sqrt ≤ r * 2 ^ fxBits := Nat.sqrt_le _
  have next : r * 2 ^ fxBits + 1 ≤ ((r * 2 ^ fxBits).sqrt + 1) * ((r * 2 ^ fxBits).sqrt + 1) := Nat.lt_succ_sqrt _
  have unit' : 2 ^ fxBits ≤ (r * 2 ^ fxBits).sqrt := Nat.le_sqrt.2 (Nat.mul_le_mul_right _ unit)
  have square := rpow_half_sq t
  have one : (1 : ℝ) ≤ 2 ^ (t / 2) := Real.one_le_rpow one_le_two (by linarith)
  have hU : (1 : ℝ) ≤ 2 ^ fxBits := by exact_mod_cast one_le_unit
  refine ⟨unit', ?_, ?_⟩
  all_goals
    rw [← square] at low high
    generalize (r * 2 ^ fxBits).sqrt = n at *
    generalize (2 : ℝ) ^ (t / 2) = s at *
    rify at floor next unit'
    generalize (2 : ℝ) ^ fxBits = U at *
  · nlinarith
  · exact (sq_le_sq₀ (by positivity) (by positivity)).1 (by nlinarith)

/-- What a cut product of the accumulator with a root keeps. -/
theorem mul_root_bounds {acc r : Nat} {t : ℝ} (ht : 0 ≤ t) (hr : IsRoot r t) (hacc : 2 ^ fxBits ≤ acc) :
    2 ^ fxBits ≤ acc * r / 2 ^ fxBits ∧ (acc : ℝ) * 2 ^ t * (1 - 3 / 2 ^ fxBits) ≤ (acc * r / 2 ^ fxBits : Nat) ∧
      ((acc * r / 2 ^ fxBits : Nat) : ℝ) ≤ acc * 2 ^ t := by
  obtain ⟨unit, low, high⟩ := hr
  have pos : 0 < 2 ^ fxBits := Nat.two_pow_pos _
  have floor : acc * r / 2 ^ fxBits * 2 ^ fxBits ≤ acc * r := Nat.div_mul_le_self ..
  have next : acc * r < acc * r / 2 ^ fxBits * 2 ^ fxBits + 2 ^ fxBits := Nat.lt_div_mul_add pos
  refine ⟨(Nat.le_div_iff_mul_le pos).2 (Nat.mul_le_mul hacc unit), ?_, ?_⟩
  all_goals
    generalize acc * r / 2 ^ fxBits = n at *
    have one : (1 : ℝ) ≤ 2 ^ t := Real.one_le_rpow one_le_two ht
    generalize (2 : ℝ) ^ t = s at *
    rify at floor next hacc pos
    generalize (2 : ℝ) ^ fxBits = U at *
  · rw [mul_sub, mul_one, mul_div_assoc', sub_le_iff_le_add, ← sub_le_iff_le_add', le_div_iff₀ pos]
    nlinarith
  · refine le_of_mul_le_mul_right ?_ pos
    nlinarith

theorem exp2From_bounds (k : Nat) {r acc frac : Nat} {t : ℝ} (ht : 0 ≤ t) (hr : IsRoot r t) (hacc : 2 ^ fxBits ≤ acc) (hfrac : frac < 2 ^ 160)
    (hdvd : 2 ^ 160 ∣ frac * 2 ^ k) :
    2 ^ fxBits ≤ exp2From k r acc frac ∧ (acc : ℝ) * 2 ^ (t * (frac / 2 ^ 160)) * (1 - 3 / 2 ^ fxBits) ^ k ≤ exp2From k r acc frac ∧
      (exp2From k r acc frac : ℝ) ≤ acc * 2 ^ (t * (frac / 2 ^ 160)) := by
  have three : (3 : ℝ) ≤ 2 ^ fxBits := by exact_mod_cast (by decide : 3 ≤ 2 ^ fxBits)
  have keep : (0 : ℝ) ≤ 1 - 3 / 2 ^ fxBits := sub_nonneg.2 ((div_le_one (by positivity)).2 three)
  have keep' : (1 : ℝ) - 3 / 2 ^ fxBits ≤ 1 := sub_le_self _ (by positivity)
  induction k generalizing r acc frac t with
  | zero =>
    obtain rfl : frac = 0 := Nat.eq_zero_of_dvd_of_lt (by simpa using hdvd) hfrac
    simpa [exp2From] using hacc
  | succ k ih =>
    have half := hr.sqrt ht
    unfold exp2From
    dsimp only
    split_ifs with h0 hbit
    · subst h0
      refine ⟨hacc, ?_, by simp⟩
      simpa using mul_le_of_le_one_right acc.cast_nonneg (pow_le_one₀ keep keep')
    · obtain ⟨unit, low, high⟩ := mul_root_bounds (by linarith) half hacc
      have rest : 2 ^ 160 ∣ (2 * frac - 2 ^ 160) * 2 ^ k := by
        rw [Nat.sub_mul, Nat.mul_comm 2, Nat.mul_assoc, ← Nat.pow_succ']
        exact Nat.dvd_sub hdvd (Nat.dvd_mul_right ..)
      obtain ⟨unit', low', high'⟩ := ih (by linarith) half unit (by omega) rest
      have split : (2 : ℝ) ^ (t * (frac / 2 ^ 160)) = 2 ^ (t / 2) * 2 ^ (t / 2 * ((2 * frac - 2 ^ 160 : Nat) / 2 ^ 160)) := by
        rw [← Real.rpow_add two_pos, Nat.cast_sub hbit]
        congr 1
        push_cast
        ring
      rw [split]
      have pos : (0 : ℝ) ≤ 2 ^ (t / 2 * ((2 * frac - 2 ^ 160 : Nat) / 2 ^ 160)) := by positivity
      generalize (2 : ℝ) ^ (t / 2 * ((2 * frac - 2 ^ 160 : Nat) / 2 ^ 160)) = rest at *
      refine ⟨unit', le_trans ?_ low', high'.trans ?_⟩
      · calc (acc : ℝ) * (2 ^ (t / 2) * rest) * (1 - 3 / 2 ^ fxBits) ^ (k + 1)
            = acc * 2 ^ (t / 2) * (1 - 3 / 2 ^ fxBits) * rest * (1 - 3 / 2 ^ fxBits) ^ k := by ring
          _ ≤ _ := by gcongr
      · rw [← mul_assoc]
        gcongr
    · have rest : 2 ^ 160 ∣ 2 * frac * 2 ^ k := by rwa [Nat.mul_comm 2, Nat.mul_assoc, ← Nat.pow_succ']
      obtain ⟨unit', low', high'⟩ := ih (by linarith) half hacc (by omega) rest
      have same : t * (frac / 2 ^ 160) = t / 2 * ((2 * frac : Nat) / 2 ^ 160) := by push_cast; ring
      rw [same]
      refine ⟨unit', le_trans ?_ low', high'⟩
      exact mul_le_mul_of_nonneg_left (pow_le_pow_of_le_one keep keep' k.le_succ) (by positivity)

theorem isRoot_two : IsRoot (2 * 2 ^ fxBits) 1 := by
  refine ⟨by omega, ?_, ?_⟩
  · rw [Real.rpow_one]; push_cast; linarith
  · rw [Real.rpow_one]; push_cast; exact le_rfl

/-- The fixed-point power of a fraction f lies below 2^f by less than 2^-247 of it. -/
theorem exp2From_near {f : Nat} (hf : f < 2 ^ 160) :
    let out := exp2From 160 (2 * 2 ^ fxBits) (2 ^ fxBits) f
    2 ^ fxBits ≤ out ∧ out < 2 ^ (fxBits + 1) ∧ (2 : ℝ) ^ ((f : ℝ) / 2 ^ 160) * (1 - 480 / 2 ^ fxBits) * 2 ^ fxBits ≤ out ∧
      (out : ℝ) ≤ 2 ^ ((f : ℝ) / 2 ^ 160) * 2 ^ fxBits := by
  intro out
  obtain ⟨unit, low, high⟩ := exp2From_bounds 160 zero_le_one isRoot_two le_rfl hf (Nat.dvd_mul_left ..)
  rw [one_mul, Nat.cast_pow, Nat.cast_ofNat] at low high
  have bernoulli : 1 - 480 / 2 ^ fxBits ≤ (1 - 3 / (2 : ℝ) ^ fxBits) ^ 160 := by
    have three : (3 : ℝ) ≤ 2 ^ fxBits := by exact_mod_cast (by decide : 3 ≤ 2 ^ fxBits)
    have small : 3 / (2 : ℝ) ^ fxBits ≤ 1 := (div_le_one (by positivity)).2 three
    have := one_add_mul_le_pow (a := -(3 / (2 : ℝ) ^ fxBits)) (by linarith) 160
    rw [← sub_eq_add_neg] at this
    refine le_trans (le_of_eq ?_) this
    push_cast
    ring
  refine ⟨unit, ?_, ?_, high.trans_eq (mul_comm ..)⟩
  · have part : (f : ℝ) / 2 ^ 160 < 1 := (div_lt_one (by positivity)).2 (by exact_mod_cast hf)
    have : (2 : ℝ) ^ ((f : ℝ) / 2 ^ 160) < 2 := (Real.rpow_lt_rpow_of_exponent_lt one_lt_two part).trans_eq (Real.rpow_one 2)
    have : (out : ℝ) < 2 ^ fxBits * 2 := high.trans_lt (mul_lt_mul_of_pos_left this (by positivity))
    rw [← pow_succ] at this
    exact_mod_cast this
  · calc (2 : ℝ) ^ ((f : ℝ) / 2 ^ 160) * (1 - 480 / 2 ^ fxBits) * 2 ^ fxBits
        = 2 ^ fxBits * 2 ^ ((f : ℝ) / 2 ^ 160) * (1 - 480 / 2 ^ fxBits) := by ring
      _ ≤ 2 ^ fxBits * 2 ^ ((f : ℝ) / 2 ^ 160) * (1 - 3 / 2 ^ fxBits) ^ 160 := by gcongr
      _ ≤ out := low

/-! ### fexp2 -/

/-- The power of an exponent in two parts is bracketed. -/
theorem exp2_bracketed (upper : Bool) (fx : Fx) {f : Nat} (hf : f < 2 ^ 160) {i : Int} (hi : i ≤ 127) :
    let r := bracket upper false (exp2From 160 (2 * 2 ^ fxBits) (2 ^ fxBits) f) (i - fxBits)
    Bracketed (fconst r.1 r.2 fx) (2 ^ (i + (f : ℝ) / 2 ^ 160)) (2 ^ (i + (f : ℝ) / 2 ^ 160) * 2 ^ (-200 : ℤ)) := by
  obtain ⟨unit, double, low, high⟩ := exp2From_near hf
  generalize exp2From 160 (2 * 2 ^ fxBits) (2 ^ fxBits) f = man at *
  intro r
  obtain ⟨w, hw⟩ : ∃ w : ℝ, w = (man + 1 / 2) * 2 ^ (i - fxBits) := ⟨_, rfl⟩
  have pos : 0 < w := by rw [hw]; positivity
  have below : |w| < 2 ^ (128 : ℤ) := by
    rw [abs_of_pos pos]
    have : (man : ℝ) + 1 / 2 < 2 ^ (fxBits + 1) := by
      have : (man : ℝ) + 1 ≤ 2 ^ (fxBits + 1) := by exact_mod_cast double
      linarith
    calc w < 2 ^ (fxBits + 1) * 2 ^ (i - fxBits) := by rw [hw]; exact mul_lt_mul_of_pos_right this (by positivity)
      _ = 2 ^ (i + 1) := by
        rw [← zpow_natCast, ← zpow_add₀ two_ne_zero]
        congr 1
        push_cast
        ring
      _ ≤ 2 ^ (128 : ℤ) := zpow_le_zpow_right₀ one_le_two (by omega)
  have around := bracket_around upper (man := man) (exp := i - fxBits) (le_trans (by decide) unit) (by rw [abs_of_pos pos, hw]) below
  rw [decide_eq_false (not_lt.2 pos.le)] at around
  refine ⟨fconst_nx _ around.2 fx, w, ?_, around.1⟩
  have power : (2 : ℝ) ^ (i + (f : ℝ) / 2 ^ 160) = 2 ^ ((f : ℝ) / 2 ^ 160) * 2 ^ fxBits * 2 ^ (i - fxBits) := by
    rw [Real.rpow_add two_pos, Real.rpow_intCast, zpow_sub₀ two_ne_zero, zpow_natCast]
    field_simp
  have scale : (0 : ℝ) < 2 ^ (i - fxBits) := by positivity
  have one : (1 : ℝ) ≤ 2 ^ ((f : ℝ) / 2 ^ 160) := Real.one_le_rpow one_le_two (by positivity)
  rw [power, hw, ← sub_mul, abs_mul, abs_of_pos scale, mul_right_comm]
  refine mul_le_mul_of_nonneg_right ?_ scale.le
  have unit' : (2 : ℝ) ^ fxBits * 2 ^ (-200 : ℤ) = 2 ^ 56 := by
    rw [← zpow_natCast, ← zpow_add₀ two_ne_zero]
    norm_num [fxBits]
  have hU : (0 : ℝ) < 2 ^ fxBits := by positivity
  rw [mul_sub, mul_one, mul_div_assoc', sub_mul, div_mul_cancel₀ _ hU.ne'] at low
  rw [mul_assoc, unit', abs_le]
  constructor <;> linarith

/-- The whole part of a finite operand and its fraction. -/
theorem floor_parts (num : Int) {k : Nat} (hk : k ≤ 160) :
    let i := num.fdiv (2 ^ k : Nat)
    let f : Nat := (num - i * (2 ^ k : Nat)).toNat * 2 ^ 160 / 2 ^ k
    f < 2 ^ 160 ∧ (num : ℝ) / (2 ^ k : Nat) = i + (f : ℝ) / 2 ^ 160 := by
  intro i f
  have pos : (0 : Int) < (2 ^ k : Nat) := by positivity
  have hi : i = num / (2 ^ k : Nat) := Int.fdiv_eq_ediv_of_nonneg _ pos.le
  have rest : num - i * (2 ^ k : Nat) = num % (2 ^ k : Nat) := by rw [hi, Int.emod_def, mul_comm]
  have nonneg := Int.emod_nonneg num pos.ne'
  have lt := Int.emod_lt_of_pos num pos
  rw [← rest] at nonneg lt
  obtain ⟨n, hn⟩ := Int.eq_ofNat_of_zero_le nonneg
  have hf : f * 2 ^ k = n * 2 ^ 160 := by
    have : f = n * 2 ^ 160 / 2 ^ k := by simp only [f, hn, Int.toNat_natCast]
    rw [this]
    exact Nat.div_mul_cancel (Dvd.dvd.mul_left (pow_dvd_pow 2 hk) n)
  have hnlt : n < 2 ^ k := by rw [hn] at lt; exact_mod_cast lt
  constructor
  · by_contra h
    have : 2 ^ 160 * 2 ^ k ≤ n * 2 ^ 160 := hf ▸ Nat.mul_le_mul_right _ (not_lt.1 h)
    rw [Nat.mul_comm n] at this
    exact absurd (Nat.le_of_mul_le_mul_left this (Nat.two_pow_pos _)) (by omega)
  · have hpos : (0 : ℝ) < (2 ^ k : Nat) := by positivity
    have real : (num : ℝ) = i * (2 ^ k : Nat) + n := by exact_mod_cast (by omega : num = i * (2 ^ k : Nat) + n)
    have hf' : (f : ℝ) * (2 ^ k : Nat) = n * 2 ^ 160 := by exact_mod_cast hf
    rw [div_eq_iff hpos.ne', real, add_mul, div_mul_eq_mul_div, hf', mul_div_assoc, div_self (by positivity), mul_one]

/-- 2^-150 lies between zero and the least magnitude. -/
theorem half_least_bracketed (upper : Bool) (fx : Fx) :
    let r := froundWith fp32 (if upper then 3 else 2) 0 false 1 (-150) false
    Bracketed (fconst r.1 r.2 fx) (2 ^ (-150 : ℤ)) (2 ^ (-150 : ℤ) * 2 ^ (-200 : ℤ)) := by
  intro r
  have nx : r.2 &&& flagNx = flagNx := by cases upper <;> decide
  have pattern : r.1 = 0 ∨ r.1 = 1 := by cases upper <;> decide
  have pos : (0 : ℝ) < 2 ^ (-150 : ℤ) := by positivity
  refine ⟨fconst_nx _ nx fx, 2 ^ (-150 : ℤ), by rw [sub_self, abs_zero]; positivity, 0, ?_, ?_, r.1, pattern, ?_⟩
  · rw [mag_eq_zero_iff.2 rfl]; exact abs_nonneg _
  · rw [abs_of_pos pos, show fp32.mag (0 + 1) = _ from mag_fp32 0 1 (.inl rfl) (by decide)]
    norm_num
  · rw [if_neg pos.not_gt]
    exact (Nat.zero_add _).symm

theorem fconst_pair (r : Nat × Word) (fx : Fx) : (let (y, fl) := r; fconst y fl fx) = fconst r.1 r.2 fx := rfl

/-- fexp2 of a finite operand in its range: a power of two, or the bracket of the fixed-point power. Here and below the results keep the model's pairs:
to take such a pair apart by computation the kernel would have to run the loop that makes it. -/
theorem fexp2V_between {x : Word} {n : Bool} {man : Nat} {e : Int} (hdec : fdecode fp32 x.toNat = .fin n man e) (hman : man ≠ 0)
    (noOverflow : (!n && decide (128 ≤ man * 2 ^ e.toNat / 2 ^ (-e).toNat)) = false)
    (noUnderflow : (n && decide (150 * 2 ^ (-e).toNat < man * 2 ^ e.toNat)) = false) (fx : Fx) :
    let num : Int := (if n then -1 else 1) * (man : Int) * 2 ^ e.toNat
    let i := num.fdiv (2 ^ (-e).toNat : Nat)
    let f := (num - i * (2 ^ (-e).toNat : Nat)).toNat * 2 ^ 160 / 2 ^ (-e).toNat
    let upper := Config.fexp2Upper x
    fexp2V x fx =
      if f = 0 then (let (y, fl) := froundWith fp32 (if upper then 3 else 2) 0 false 1 i false; fconst y fl fx)
      else (let (y, fl) := bracket upper false (exp2From 160 (2 * 2 ^ fxBits) (2 ^ fxBits) f) (i - fxBits); fconst y fl fx) := by
  unfold fexp2V
  rw [hdec]
  exact (if_neg hman).trans ((if_neg (Bool.eq_false_iff.1 noOverflow)).trans (if_neg (Bool.eq_false_iff.1 noUnderflow)))

/-- Neither special case of a large magnitude is met. -/
theorem fexp2_in_range {x : Word} {man : Nat} {e : Int} (value : (man : ℝ) * 2 ^ e = fp32.mag (sizeOfWord x)) (low : -150 ≤ realOf x)
    (high : realOf x < 128) : (!x.msb && decide (128 ≤ man * 2 ^ e.toNat / 2 ^ (-e).toNat)) = false ∧
      (x.msb && decide (150 * 2 ^ (-e).toNat < man * 2 ^ e.toNat)) = false := by
  cases hmsb : x.msb
  · rw [realOf_pos hmsb, ← value] at high
    have : ¬ 128 ≤ man * 2 ^ e.toNat / 2 ^ (-e).toNat := by
      rw [Nat.le_div_iff_mul_le (Nat.two_pow_pos _), le_nat_iff]
      exact not_le.2 (by exact_mod_cast high)
    exact ⟨by simpa using this, rfl⟩
  · rw [realOf_neg hmsb, ← value] at low
    have : ¬ 150 * 2 ^ (-e).toNat < man * 2 ^ e.toNat := by
      rw [lt_nat_iff, not_lt, Nat.cast_ofNat]
      linarith
    exact ⟨rfl, by simpa using this⟩

/-- The operand as the quotient whose whole part is taken. -/
theorem realOf_eq_div {x : Word} {man : Nat} {e : Int} (value : (man : ℝ) * 2 ^ e = fp32.mag (sizeOfWord x)) :
    realOf x = (((if x.msb then -1 else 1) * (man : Int) * 2 ^ e.toNat : Int) : ℝ) / (2 ^ (-e).toNat : Nat) := by
  rw [realOf, ← value, eq_nat_div, ← mul_div_assoc]
  push_cast
  rw [mul_assoc]

theorem fexp2V_bracketed {x : Word} (hx : sizeOfWord x < 0x7F800000) (low : -150 ≤ realOf x) (high : realOf x < 128)
    (notInt : ∀ i : Int, -149 ≤ i → realOf x ≠ i) (fx : Fx) :
    Bracketed (fexp2V x fx) ((2 : ℝ) ^ realOf x) ((2 : ℝ) ^ realOf x * 2 ^ (-200 : ℤ)) := by
  obtain ⟨man, e, hval, value, -, he⟩ := fval_finite hx
  have hdec : fdecode fp32 x.toNat = .fin x.msb man e := hval
  have hman : man ≠ 0 := by
    rintro rfl
    refine notInt 0 (by decide) ?_
    rw [realOf, ← value]
    simp
  obtain ⟨noOverflow, noUnderflow⟩ := fexp2_in_range value low high
  obtain ⟨hf, parts⟩ := floor_parts ((if x.msb then -1 else 1) * (man : Int) * 2 ^ e.toNat) (k := (-e).toNat) (by omega)
  rw [← realOf_eq_div value] at parts
  have result := fexp2V_between hdec hman noOverflow noUnderflow fx
  extract_lets num i f upper at result
  change f < 2 ^ 160 at hf
  change realOf x = i + f / 2 ^ 160 at parts
  have hi : (i : ℝ) ≤ realOf x := by
    rw [parts]
    exact le_add_of_nonneg_right (by positivity)
  have hi' : i ≤ 127 := by
    have : (i : ℝ) < 128 := hi.trans_lt high
    have : i < 128 := by exact_mod_cast this
    omega
  rw [result, fconst_pair, fconst_pair]
  by_cases h0 : f = 0
  · rw [if_pos h0]
    rw [h0, Nat.cast_zero, zero_div, add_zero] at parts
    have hi150 : i = -150 := by
      have : -150 ≤ i := by
        rw [parts] at low
        exact_mod_cast low
      have : ¬ -149 ≤ i := fun h => notInt i h parts
      omega
    have half := half_least_bracketed upper fx
    rw [← hi150] at half
    rw [parts, Real.rpow_intCast]
    exact half
  · rw [if_neg h0, parts]
    exact exp2_bracketed upper fx hf hi'

end Sys2Proof.Machine
end

section
/-! flog2 between the powers of two (04 R115, R116): repeated squaring gives the bits of the logarithm, each cut by less than two units. -/

namespace Sys2Proof.Machine

/-- The binary logarithm of a fixed-point number. -/
noncomputable def fixedLog (m : Nat) : ℝ := Real.logb 2 (m / 2 ^ fxBits)

theorem unit_pos : (0 : ℝ) < 2 ^ fxBits := by positivity

theorem fixedLog_nonneg {m : Nat} (h : 2 ^ fxBits ≤ m) : 0 ≤ fixedLog m :=
  Real.logb_nonneg one_lt_two ((one_le_div unit_pos).2 (by exact_mod_cast h))

theorem fixedLog_lt_one {m : Nat} (h : 2 ^ fxBits ≤ m) (h' : m < 2 ^ (fxBits + 1)) : fixedLog m < 1 := by
  have pos : (0 : ℝ) < m / 2 ^ fxBits := div_pos (by exact_mod_cast (Nat.two_pow_pos _).trans_le h) unit_pos
  rw [fixedLog, Real.logb_lt_iff_lt_rpow one_lt_two pos, Real.rpow_one, div_lt_iff₀ unit_pos, ← pow_succ']
  exact_mod_cast h'

/-- The next number's logarithm is less than two units above. -/
theorem logb_succ_le {q : Nat} (hq : 2 ^ fxBits ≤ q) : Real.logb 2 ((q + 1 : ℝ) / q) ≤ 2 / 2 ^ fxBits := by
  have hU : (2 : ℝ) ^ fxBits ≤ q := by exact_mod_cast hq
  have hqpos : (0 : ℝ) < q := unit_pos.trans_le hU
  have two : (1 : ℝ) / 2 < Real.log 2 := lt_trans (by norm_num) Real.log_two_gt_d9
  have log : Real.log ((q + 1 : ℝ) / q) ≤ 1 / 2 ^ fxBits := by
    refine (Real.log_le_sub_one_of_pos (by positivity)).trans ?_
    rw [add_div, div_self hqpos.ne', add_sub_cancel_left]
    exact one_div_le_one_div_of_le unit_pos hU
  rw [Real.logb, div_le_iff₀ (by linarith)]
  calc Real.log ((q + 1 : ℝ) / q) ≤ 2 / 2 ^ fxBits * (1 / 2) := log.trans_eq (by ring)
    _ ≤ 2 / 2 ^ fxBits * Real.log 2 := by gcongr

/-- A cut square, or half of it, keeps twice the logarithm less the shift, up to two units. -/
theorem fixedLog_square {m q s : Nat} (hm : 2 ^ fxBits ≤ m) (hq : 2 ^ fxBits ≤ q) (floor : q * (2 ^ s * 2 ^ fxBits) ≤ m * m)
    (next : m * m < (q + 1) * (2 ^ s * 2 ^ fxBits)) : fixedLog q + s ≤ 2 * fixedLog m ∧ 2 * fixedLog m ≤ fixedLog q + s + 2 / 2 ^ fxBits := by
  have hmpos : (0 : ℝ) < m := by exact_mod_cast (Nat.two_pow_pos _).trans_le hm
  have hqpos : (0 : ℝ) < q := by exact_mod_cast (Nat.two_pow_pos _).trans_le hq
  have hU := unit_pos
  have twice : 2 * fixedLog m = Real.logb 2 ((m : ℝ) * m / (2 ^ fxBits * 2 ^ fxBits)) := by
    rw [fixedLog, two_mul, ← Real.logb_mul (by positivity) (by positivity)]
    congr 1
    field_simp
  have shifted (c : ℝ) (hc : 0 < c) : Real.logb 2 (c * (2 ^ s * 2 ^ fxBits) / (2 ^ fxBits * 2 ^ fxBits)) = Real.logb 2 (c / 2 ^ fxBits) + s := by
    rw [show c * (2 ^ s * 2 ^ fxBits) / (2 ^ fxBits * 2 ^ fxBits) = c / 2 ^ fxBits * 2 ^ s by field_simp,
      Real.logb_mul (by positivity) (by positivity), Real.logb_pow, Real.logb_self_eq_one one_lt_two, mul_one]
  have succ : Real.logb 2 ((q + 1 : ℝ) / 2 ^ fxBits) = fixedLog q + Real.logb 2 ((q + 1 : ℝ) / q) := by
    rw [fixedLog, ← Real.logb_mul (by positivity) (by positivity)]
    congr 1
    field_simp
  rw [twice]
  constructor
  · rw [fixedLog, ← shifted q hqpos]
    refine Real.logb_le_logb_of_le one_lt_two (by positivity) (div_le_div_of_nonneg_right ?_ (by positivity))
    exact_mod_cast floor
  · calc Real.logb 2 ((m : ℝ) * m / (2 ^ fxBits * 2 ^ fxBits))
        ≤ Real.logb 2 ((q + 1 : ℝ) * (2 ^ s * 2 ^ fxBits) / (2 ^ fxBits * 2 ^ fxBits)) := by
          refine Real.logb_le_logb_of_le one_lt_two (by positivity) (div_le_div_of_nonneg_right ?_ (by positivity))
          exact_mod_cast next.le
      _ = fixedLog q + s + Real.logb 2 ((q + 1 : ℝ) / q) := by rw [shifted _ (by positivity), succ]; ring
      _ ≤ fixedLog q + s + 2 / 2 ^ fxBits := by gcongr; exact logb_succ_le hq

/-- One more bit of the logarithm. -/
theorem log2_step {acc bit L L' P res off : ℝ} (hP : 0 < P) (low : L' + bit ≤ 2 * L) (high : 2 * L ≤ L' + bit + off)
    (low' : res ≤ (2 * acc + bit + L') * P) (high' : (2 * acc + bit + L') * P < res + 1 + (P - 1) * off) :
    res ≤ (acc + L) * (P * 2) ∧ (acc + L) * (P * 2) < res + 1 + (P * 2 - 1) * off := by
  have h1 := mul_le_mul_of_nonneg_right low hP.le
  have h2 := mul_le_mul_of_nonneg_right high hP.le
  constructor <;> linarith

theorem log2From_bounds (k : Nat) {m acc : Nat} (hm : 2 ^ fxBits ≤ m) (hm' : m < 2 ^ (fxBits + 1)) :
    (log2From k m acc : ℝ) ≤ (acc + fixedLog m) * 2 ^ k ∧
      (acc + fixedLog m) * 2 ^ k < log2From k m acc + 1 + (2 ^ k - 1) * (2 / 2 ^ fxBits) := by
  induction k generalizing m acc with
  | zero =>
    have := fixedLog_nonneg hm
    have := fixedLog_lt_one hm hm'
    simp only [log2From, pow_zero, mul_one, sub_self, zero_mul, add_zero]
    constructor <;> linarith
  | succ k ih =>
    have pos : 0 < 2 ^ fxBits := Nat.two_pow_pos _
    have square : 2 ^ fxBits * 2 ^ fxBits ≤ m * m := Nat.mul_le_mul hm hm
    have floor : m * m / 2 ^ fxBits * 2 ^ fxBits ≤ m * m := Nat.div_mul_le_self ..
    have next : m * m < m * m / 2 ^ fxBits * 2 ^ fxBits + 2 ^ fxBits := Nat.lt_div_mul_add pos
    have least : 2 ^ fxBits ≤ m * m / 2 ^ fxBits := (Nat.le_div_iff_mul_le pos).2 square
    rw [pow_succ]
    unfold log2From
    dsimp only
    generalize m * m / 2 ^ fxBits = q at *
    split_ifs with hbit
    · have below : q / 2 < 2 ^ (fxBits + 1) := by
        have : q * 2 ^ fxBits < 4 * 2 ^ fxBits * 2 ^ fxBits := by
          calc q * 2 ^ fxBits ≤ m * m := floor
            _ < 2 ^ (fxBits + 1) * 2 ^ (fxBits + 1) := Nat.mul_lt_mul'' hm' hm'
            _ = 4 * 2 ^ fxBits * 2 ^ fxBits := by ring
        have := Nat.lt_of_mul_lt_mul_right this
        omega
      have above : 2 ^ fxBits ≤ q / 2 := by omega
      have bits := fixedLog_square (s := 1) hm above
        (by calc q / 2 * (2 ^ 1 * 2 ^ fxBits) = 2 * (q / 2) * 2 ^ fxBits := by ring
              _ ≤ q * 2 ^ fxBits := Nat.mul_le_mul_right _ (by omega)
              _ ≤ m * m := floor)
        (by calc m * m < (q + 1) * 2 ^ fxBits := by linarith
              _ ≤ 2 * (q / 2 + 1) * 2 ^ fxBits := Nat.mul_le_mul_right _ (by omega)
              _ = (q / 2 + 1) * (2 ^ 1 * 2 ^ fxBits) := by ring)
      have rest := ih (acc := 2 * acc + 1) above below
      push_cast at bits rest
      exact log2_step (by positivity) bits.1 bits.2 rest.1 rest.2
    · have bits := fixedLog_square (s := 0) hm least (by rwa [Nat.pow_zero, Nat.one_mul]) (by rw [Nat.pow_zero]; linarith)
      have rest := ih (acc := 2 * acc) least (by omega)
      push_cast at bits rest
      exact log2_step (bit := 0) (by positivity) bits.1 bits.2 (by rw [add_zero]; exact rest.1) (by rw [add_zero]; exact rest.2)

/-! ### How far the logarithm stays from a whole number -/

theorem logb_ge_of_succ {t : ℝ} (h0 : 0 ≤ t) (h1 : t ≤ 1) : t ≤ Real.logb 2 (1 + t) := by
  rw [Real.le_logb_iff_rpow_le one_lt_two (by linarith), show (2 : ℝ) = 1 + 1 by norm_num]
  simpa using rpow_one_add_le_one_add_mul_self (by norm_num : (-1 : ℝ) ≤ 1) h0 h1

theorem logb_le_of_pred {t : ℝ} (h0 : 0 ≤ t) (h1 : t < 1) : Real.logb 2 (1 - t) ≤ -t := by
  have two : 0 < Real.log 2 := Real.log_pos one_lt_two
  have two' : Real.log 2 ≤ 1 := Real.log_two_lt_d9.le.trans (by norm_num)
  have log : Real.log (1 - t) ≤ -t := (Real.log_le_sub_one_of_pos (by linarith)).trans (by linarith)
  rw [Real.logb, div_le_iff₀ two]
  nlinarith

/-- A mantissa that is no power of two: its logarithm is no closer to a whole number than the next mantissas'. -/
theorem fixedLog_mantissa {man b : Nat} (hb : b ≤ 23) (low : 2 ^ b < man) (high : man < 2 ^ (b + 1)) :
    let m := man * 2 ^ (fxBits - b)
    2 ^ fxBits ≤ m ∧ m < 2 ^ (fxBits + 1) ∧ fixedLog m = Real.logb 2 (man / 2 ^ b) ∧
      2 ^ (-23 : ℤ) ≤ fixedLog m ∧ fixedLog m ≤ 1 - 2 ^ (-24 : ℤ) := by
  intro m
  have hfx : b ≤ fxBits := hb.trans (by decide)
  have hm : m = man * 2 ^ (fxBits - b) := rfl
  have scale : 2 ^ b * 2 ^ (fxBits - b) = 2 ^ fxBits := by rw [← Nat.pow_add, Nat.add_sub_cancel' hfx]
  have ratio : fixedLog m = Real.logb 2 (man / 2 ^ b) := by
    rw [fixedLog, hm]
    congr 1
    have : (2 : ℝ) ^ b * 2 ^ (fxBits - b) = 2 ^ fxBits := by exact_mod_cast scale
    rw [← this]
    push_cast
    field_simp
  have hpow : (0 : ℝ) < 2 ^ b := by positivity
  have small : (2 : ℝ) ^ b * 2 ^ (-23 : ℤ) ≤ 1 := by
    rw [← zpow_natCast, ← zpow_add₀ two_ne_zero]
    exact zpow_le_one_of_nonpos₀ one_le_two (by omega)
  have one : (1 : ℝ) + 2 ^ (-23 : ℤ) ≤ man / 2 ^ b := by
    have : (2 : ℝ) ^ b + 1 ≤ man := by exact_mod_cast low
    rw [le_div_iff₀ hpow]
    linarith
  have two : (man : ℝ) / 2 ^ b ≤ 2 * (1 - 2 ^ (-24 : ℤ)) := by
    have : (man : ℝ) + 1 ≤ 2 ^ b * 2 := by exact_mod_cast high
    have half : (2 : ℝ) * 2 ^ (-24 : ℤ) = 2 ^ (-23 : ℤ) := by norm_num
    rw [div_le_iff₀ hpow, mul_sub, half, sub_mul]
    linarith
  refine ⟨?_, ?_, ratio, ?_, ?_⟩
  · rw [hm, ← scale]
    exact Nat.mul_le_mul_right _ low.le
  · rw [hm, Nat.pow_succ, ← scale, Nat.mul_right_comm, ← Nat.pow_succ]
    exact Nat.mul_lt_mul_of_pos_right high (Nat.two_pow_pos _)
  · rw [ratio]
    exact (logb_ge_of_succ (by positivity) (by norm_num)).trans (Real.logb_le_logb_of_le one_lt_two (by positivity) one)
  · have below := logb_le_of_pred (t := 2 ^ (-24 : ℤ)) (by positivity) (by norm_num)
    have pos : (0 : ℝ) < 1 - 2 ^ (-24 : ℤ) := by norm_num
    calc fixedLog m ≤ Real.logb 2 (2 * (1 - 2 ^ (-24 : ℤ))) := by
          rw [ratio]
          exact Real.logb_le_logb_of_le one_lt_two (by positivity) two
      _ = 1 + Real.logb 2 (1 - 2 ^ (-24 : ℤ)) := by
          rw [Real.logb_mul two_ne_zero pos.ne', Real.logb_self_eq_one one_lt_two]
      _ ≤ 1 - 2 ^ (-24 : ℤ) := by linarith

/-! ### flog2 -/

/-- A number half way between two fixed-point ones of either sign is bracketed, when it is large or small enough. -/
theorem signed_bracket (upper : Bool) {l : Int} (large : 2 ^ 57 ≤ l ∨ l + 1 ≤ -2 ^ 57) (hl : |((l : ℝ) + 1 / 2) * 2 ^ (-120 : ℤ)| < 2 ^ (128 : ℤ)) :
    let r := if 0 ≤ l then bracket upper false l.toNat (-120) else bracket upper true (-(l + 1)).toNat (-120)
    Around r.1 (((l : ℝ) + 1 / 2) * 2 ^ (-120 : ℤ)) ∧ r.2 &&& flagNx = flagNx := by
  intro r
  obtain ⟨w, hw⟩ : ∃ w, w = ((l : ℝ) + 1 / 2) * 2 ^ (-120 : ℤ) := ⟨_, rfl⟩
  have unit : (0 : ℝ) < 2 ^ (-120 : ℤ) := by positivity
  rw [← hw] at hl ⊢
  obtain pos | neg := large
  · have cast : ((l.toNat : Nat) : ℝ) = l := by exact_mod_cast Int.toNat_of_nonneg (by omega)
    have real : (0 : ℝ) ≤ l := by exact_mod_cast (by omega : 0 ≤ l)
    have hpos : 0 < w := by rw [hw]; positivity
    have around := bracket_around upper (man := l.toNat) (exp := -120) (by omega) (by rw [abs_of_pos hpos, cast, hw]) hl
    rw [decide_eq_false (not_lt.2 hpos.le)] at around
    rwa [show r = _ from if_pos (by omega : 0 ≤ l)]
  · have cast : (((-(l + 1)).toNat : Nat) : ℝ) = -(l + 1) := by exact_mod_cast Int.toNat_of_nonneg (by omega)
    have real : (l : ℝ) + 1 ≤ 0 := by exact_mod_cast (by omega : l + 1 ≤ 0)
    have hneg : w < 0 := by rw [hw]; exact mul_neg_of_neg_of_pos (by linarith) unit
    have around := bracket_around upper (man := (-(l + 1)).toNat) (exp := -120) (by omega) (by rw [abs_of_neg hneg, cast, hw]; ring) hl
    rw [decide_eq_true hneg] at around
    rwa [show r = _ from if_neg (by omega : ¬ 0 ≤ l)]

/-- The sum of the whole part and the cut bits: far from zero, and within two units of the logarithm. -/
theorem log_parts {i : Int} {L : ℝ} {res : Nat} (hi : -149 ≤ i) (hi' : i < 128) (apart : 2 ^ (-23 : ℤ) ≤ L) (apart' : L ≤ 1 - 2 ^ (-24 : ℤ))
    (floor : res ≤ L * 2 ^ 120) (next : L * 2 ^ 120 < res + 1 + (2 ^ 120 - 1) * (2 / 2 ^ fxBits)) :
    let l : Int := i * 2 ^ 120 + res
    (2 ^ 57 ≤ l ∨ l + 1 ≤ -2 ^ 57) ∧ |((l : ℝ) + 1 / 2) * 2 ^ (-120 : ℤ) - (i + L)| ≤ 2 ^ (-100 : ℤ) ∧
      |((l : ℝ) + 1 / 2) * 2 ^ (-120 : ℤ)| < 2 ^ (128 : ℤ) := by
  intro l
  have tail : (2 ^ 120 - 1) * ((2 : ℝ) / 2 ^ fxBits) ≤ 1 := by norm_num [fxBits]
  have next : L * 2 ^ 120 < res + 2 := by linarith
  clear tail
  have real : (l : ℝ) = i * 2 ^ 120 + res := by simp only [l, Int.cast_add, Int.cast_mul, Int.cast_pow, Int.cast_ofNat, Int.cast_natCast]
  have near : |((l : ℝ) + 1 / 2) * 2 ^ (-120 : ℤ) - (i + L)| ≤ 2 ^ (-100 : ℤ) := by
    have e : ((l : ℝ) + 1 / 2) * 2 ^ (-120 : ℤ) - (i + L) = (res + 1 / 2 - L * 2 ^ 120) * 2 ^ (-120 : ℤ) := by
      rw [real]
      norm_num
      ring
    have unit : (0 : ℝ) < 2 ^ (-120 : ℤ) := by positivity
    have small : (2 : ℝ) * 2 ^ (-120 : ℤ) ≤ 2 ^ (-100 : ℤ) := by norm_num
    rw [e, abs_mul, abs_of_pos unit]
    refine (mul_le_mul_of_nonneg_right (abs_le.2 ⟨?_, ?_⟩) unit.le).trans small
    · linarith
    · linarith
  have least : (-149 : ℝ) ≤ i := by exact_mod_cast hi
  have most : (i : ℝ) ≤ 127 := by exact_mod_cast (by omega : i ≤ 127)
  norm_num at apart apart'
  refine ⟨?_, near, ?_⟩
  · obtain h | h := le_or_gt 0 i
    · left
      have : (0 : ℝ) ≤ i := by exact_mod_cast h
      have : (2 ^ 57 : ℝ) ≤ l := by rw [real]; norm_num at floor next ⊢; linarith
      exact_mod_cast this
    · right
      have : (i : ℝ) ≤ -1 := by exact_mod_cast (by omega : i ≤ -1)
      have : (l : ℝ) + 1 ≤ -2 ^ 57 := by rw [real]; norm_num at floor next ⊢; linarith
      exact_mod_cast this
  · obtain ⟨low, high⟩ := abs_le.1 near
    rw [abs_lt]
    norm_num at low high ⊢
    constructor <;> linarith

theorem flog2V_between {x : Word} {man : Nat} {e : Int} (hdec : fdecode fp32 x.toNat = .fin false man e) (hman : man ≠ 0)
    (notPower : man ≠ 2 ^ (bitLen man - 1)) (fx : Fx) :
    let b := bitLen man - 1
    let l : Int := (e + b) * 2 ^ 120 + (log2From 120 (man * 2 ^ (fxBits - b)) 0 : Nat)
    flog2V x fx =
      (let (y, fl) := if 0 ≤ l then bracket (Config.flog2Upper x) false l.toNat (-120)
        else bracket (Config.flog2Upper x) true (-(l + 1)).toNat (-120)
      fconst y fl fx) := by
  unfold flog2V
  rw [hdec]
  exact (if_neg hman).trans ((if_neg Bool.false_ne_true).trans (if_neg notPower))

/-- The leading exponent of a finite magnitude. -/
theorem exponent_lt {man b p : Nat} {e : Int} (hb : 2 ^ b ≤ man) (value : (man : ℝ) * 2 ^ e = fp32.mag p) (hp : p < 0x7F800000) : e + b < 128 := by
  refine (zpow_lt_zpow_iff_right₀ (one_lt_two (α := ℝ))).1 ?_
  have lead : (2 : ℝ) ^ b ≤ man := by exact_mod_cast hb
  calc (2 : ℝ) ^ (e + b) = 2 ^ b * 2 ^ e := by rw [zpow_add₀ two_ne_zero, zpow_natCast, mul_comm]
    _ ≤ man * 2 ^ e := by gcongr
    _ < 2 ^ (128 : ℤ) := by rw [value]; exact (mag_strictMono fp32 hp).trans_eq (mag_top (m := fp32) (by decide))

theorem flog2V_bracketed {x : Word} (h0 : 0 < sizeOfWord x) (hx : sizeOfWord x < 0x7F800000) (hpos : x.msb = false)
    (notPower : ∀ i : Int, realOf x ≠ (2 : ℝ) ^ i) (fx : Fx) : Bracketed (flog2V x fx) (Real.logb 2 (realOf x)) (2 ^ (-100 : ℤ)) := by
  obtain ⟨man, e, hval, value, bound, he⟩ := fval_finite hx
  rw [hpos] at hval
  have hdec : fdecode fp32 x.toNat = .fin false man e := hval
  have hman : man ≠ 0 := mt (man_eq_zero_iff value).1 h0.ne'
  have real : realOf x = man * 2 ^ e := by rw [realOf_pos hpos, value]
  have notPower' : man ≠ 2 ^ (bitLen man - 1) := by
    intro h
    refine notPower ((bitLen man - 1 : Nat) + e) ?_
    rw [real, zpow_add₀ two_ne_zero, zpow_natCast]
    congr 1
    exact_mod_cast h
  have low : 2 ^ (bitLen man - 1) < man := lt_of_le_of_ne (two_pow_le_of_bitLen hman) notPower'.symm
  have high : man < 2 ^ (bitLen man - 1 + 1) := by
    rw [Nat.sub_add_cancel (bitLen_pos hman)]
    exact lt_two_pow_bitLen man
  have hb : bitLen man - 1 ≤ 23 := by
    have := bitLen_le bound
    omega
  have below := exponent_lt (two_pow_le_of_bitLen hman) value hx
  have result := flog2V_between hdec hman notPower' fx
  dsimp only at result
  have log : Real.logb 2 (realOf x) = (e + (bitLen man - 1 : Nat) : Int) + Real.logb 2 (man / 2 ^ (bitLen man - 1)) := by
    rw [real, Real.logb_div (by exact_mod_cast hman) (by positivity), Real.logb_mul (by exact_mod_cast hman) (by positivity),
      ← Real.rpow_intCast, Real.logb_rpow two_pos (by norm_num), Real.logb_pow, Real.logb_self_eq_one one_lt_two]
    push_cast
    ring
  generalize bitLen man - 1 = b at *
  obtain ⟨least, most, ratio, apart, apart'⟩ := fixedLog_mantissa hb low high
  obtain ⟨floor, next⟩ := log2From_bounds 120 (acc := 0) least most
  rw [ratio] at floor next apart apart'
  rw [Nat.cast_zero, zero_add] at floor next
  rw [log]
  generalize Real.logb 2 (man / 2 ^ b) = L at *
  generalize log2From 120 (man * 2 ^ (fxBits - b)) 0 = res at *
  obtain ⟨large, near, small⟩ := log_parts (by omega) below apart apart' floor next
  have around := signed_bracket (Config.flog2Upper x) large small
  rw [result]
  exact ⟨fconst_nx _ around.2 fx, _, near, around.1⟩

end Sys2Proof.Machine
end

section
/-! The partial sums of the series of sine, cosine and exponential from any of their terms on, with the quotients of consecutive terms the
fixed-point loops divide by (04 R117). -/

namespace Sys2Proof.Machine

open Finset in
/-- The first `k` terms from term `j` on, in units of that term: v^i · j! / (j + s·i)!. -/
noncomputable def seriesFrom (s : Nat) (v : ℝ) (j k : Nat) : ℝ := ∑ i ∈ range k, v ^ i * (j.factorial / (j + s * i).factorial)

theorem seriesFrom_zero (s : Nat) (v : ℝ) (j : Nat) : seriesFrom s v j 0 = 0 := Finset.sum_range_zero _

/-- A longer sum from its first part and the series from there on. -/
theorem seriesFrom_add (s : Nat) (v : ℝ) (j k n : Nat) :
    seriesFrom s v j (k + n) = seriesFrom s v j k + v ^ k * (j.factorial / (j + s * k).factorial) * seriesFrom s v (j + s * k) n := by
  rw [seriesFrom, Finset.sum_range_add, seriesFrom, seriesFrom, Finset.mul_sum]
  congr 1
  refine Finset.sum_congr rfl fun i _ => ?_
  have : ((j + s * k).factorial : ℝ) ≠ 0 := by exact_mod_cast Nat.factorial_ne_zero _
  rw [pow_add, Nat.mul_add, ← Nat.add_assoc]
  field_simp

theorem seriesFrom_succ (s : Nat) (v : ℝ) (j k : Nat) :
    seriesFrom s v j (k + 1) = 1 + v * (j.factorial / (j + s).factorial) * seriesFrom s v (j + s) k := by
  have first : seriesFrom s v j 1 = 1 := by
    have : (j.factorial : ℝ) ≠ 0 := by exact_mod_cast Nat.factorial_ne_zero _
    simp [seriesFrom, this]
  rw [Nat.add_comm, seriesFrom_add, first, pow_one, Nat.mul_one]

/-! ### Bounds -/

/-- The terms of the series with argument `v` are at most those of the exponential of `c`. -/
def Tame (s : Nat) (v c : ℝ) : Prop := 0 ≤ c ∧ ∀ i : Nat, |v| ^ i * i.factorial ≤ c ^ i * (s * i).factorial

theorem tame_one {v c : ℝ} (h : |v| ≤ c) : Tame 1 v c := by
  refine ⟨(abs_nonneg v).trans h, fun i => ?_⟩
  rw [Nat.one_mul]
  gcongr

theorem tame_two {v c : ℝ} (h : |v| ≤ 2 * c) : Tame 2 v c := by
  have hc : 0 ≤ c := by linarith [abs_nonneg v]
  refine ⟨hc, fun i => ?_⟩
  have fact : (2 : ℝ) ^ i * i.factorial ≤ (2 * i).factorial := by exact_mod_cast Nat.two_pow_mul_factorial_le_factorial_two_mul i
  calc |v| ^ i * i.factorial ≤ (2 * c) ^ i * i.factorial := by gcongr
    _ = c ^ i * (2 ^ i * i.factorial) := by rw [mul_pow]; ring
    _ ≤ c ^ i * (2 * i).factorial := by gcongr

section
variable {s : Nat} {v c : ℝ} (h : Tame s v c)
include h

theorem Tame.term_le (j i : Nat) : |v| ^ i * (j.factorial / (j + s * i).factorial) ≤ c ^ i / i.factorial := by
  obtain ⟨hc, bound⟩ := h
  have split : (j.factorial : ℝ) * (s * i).factorial ≤ (j + s * i).factorial := by
    exact_mod_cast Nat.le_of_dvd (Nat.factorial_pos _) (Nat.factorial_mul_factorial_dvd_factorial_add j (s * i))
  have pos (n : Nat) : (0 : ℝ) < n.factorial := by exact_mod_cast Nat.factorial_pos n
  rw [← mul_div_assoc, div_le_div_iff₀ (pos _) (pos _)]
  calc |v| ^ i * j.factorial * i.factorial = j.factorial * (|v| ^ i * i.factorial) := by ring
    _ ≤ j.factorial * (c ^ i * (s * i).factorial) := mul_le_mul_of_nonneg_left (bound i) (by positivity)
    _ = c ^ i * (j.factorial * (s * i).factorial) := by ring
    _ ≤ c ^ i * (j + s * i).factorial := by gcongr

theorem Tame.sum_abs_le (j k : Nat) : ∑ i ∈ Finset.range k, |v| ^ i * ((j.factorial : ℝ) / (j + s * i).factorial) ≤ Real.exp c :=
  (Finset.sum_le_sum fun i _ => h.term_le j i).trans (Real.sum_le_exp_of_nonneg h.1 k)

theorem Tame.abs_seriesFrom_le (j k : Nat) : |seriesFrom s v j k| ≤ Real.exp c := by
  refine (Finset.abs_sum_le_sum_abs ..).trans (le_trans (le_of_eq ?_) (h.sum_abs_le j k))
  refine Finset.sum_congr rfl fun i _ => ?_
  rw [abs_mul, abs_pow, abs_of_nonneg (by positivity : (0 : ℝ) ≤ j.factorial / (j + s * i).factorial)]

/-- What is left of a series after its first terms, `a` being its unit. -/
theorem Tame.tail_le {a : ℝ} {j k : Nat} {limit : ℝ} (hlim : Filter.Tendsto (fun n => a * seriesFrom s v j n) Filter.atTop (nhds limit)) :
    |limit - a * seriesFrom s v j k| ≤ |a| * (|v| ^ k * (j.factorial / (j + s * k).factorial) * Real.exp c) := by
  have part (n : Nat) : |a * seriesFrom s v j (n + k) - a * seriesFrom s v j k| ≤
      |a| * (|v| ^ k * (j.factorial / (j + s * k).factorial) * Real.exp c) := by
    rw [Nat.add_comm, seriesFrom_add, mul_add, add_sub_cancel_left, abs_mul, abs_mul, abs_mul, abs_pow,
      abs_of_nonneg (by positivity : (0 : ℝ) ≤ j.factorial / (j + s * k).factorial)]
    gcongr
    exact h.abs_seriesFrom_le _ n
  refine le_of_tendsto' (x := Filter.atTop) (f := fun n => |a * seriesFrom s v j (n + k) - a * seriesFrom s v j k|) ?_ part
  exact (((Filter.tendsto_add_atTop_iff_nat k).2 hlim).sub_const _).abs
end

/-- Partial sums at two arguments of one bound. -/
theorem seriesFrom_sub_le {s : Nat} {v w M c : ℝ} (hM : Tame s M c) (one : 1 ≤ M) (hv : |v| ≤ M) (hw : |w| ≤ M) (j k : Nat) :
    |seriesFrom s v j k - seriesFrom s w j k| ≤ |v - w| * k * Real.exp c := by
  have hM0 : 0 ≤ M := by linarith
  rw [seriesFrom, seriesFrom, ← Finset.sum_sub_distrib]
  refine (Finset.abs_sum_le_sum_abs ..).trans ?_
  calc ∑ i ∈ Finset.range k, |v ^ i * ((j.factorial : ℝ) / (j + s * i).factorial) - w ^ i * (j.factorial / (j + s * i).factorial)|
      ≤ ∑ i ∈ Finset.range k, |v - w| * k * (|M| ^ i * (j.factorial / (j + s * i).factorial)) := by
        refine Finset.sum_le_sum fun i hi => ?_
        have hik : (i : ℝ) ≤ k := by exact_mod_cast (Finset.mem_range.1 hi).le
        rw [← sub_mul, abs_mul, abs_of_nonneg (by positivity : (0 : ℝ) ≤ j.factorial / (j + s * i).factorial), ← mul_assoc]
        refine mul_le_mul_of_nonneg_right ?_ (by positivity)
        calc |v ^ i - w ^ i| ≤ |v - w| * i * max |v| |w| ^ (i - 1) := abs_pow_sub_pow_le ..
          _ ≤ |v - w| * k * M ^ i := by
            gcongr
            exact (pow_le_pow_left₀ (by positivity) (max_le hv hw) _).trans (pow_le_pow_right₀ one (Nat.sub_le ..))
          _ = |v - w| * k * |M| ^ i := by rw [abs_of_nonneg hM0]
    _ = |v - w| * k * ∑ i ∈ Finset.range k, |M| ^ i * ((j.factorial : ℝ) / (j + s * i).factorial) := by rw [Finset.mul_sum]
    _ ≤ |v - w| * k * Real.exp c := mul_le_mul_of_nonneg_left (hM.sum_abs_le j k) (by positivity)

/-! ### The limits -/

theorem tendsto_seriesFrom_sin (r : ℝ) : Filter.Tendsto (fun k => r * seriesFrom 2 (-r ^ 2) 1 k) Filter.atTop (nhds (Real.sin r)) := by
  refine (Real.hasSum_sin r).tendsto_sum_nat.congr fun k => ?_
  rw [seriesFrom, Finset.mul_sum]
  refine Finset.sum_congr rfl fun i _ => ?_
  rw [neg_pow (r ^ 2), ← pow_mul, Nat.factorial_one, Nat.cast_one, Nat.add_comm 1]
  ring

theorem tendsto_seriesFrom_cos (r : ℝ) : Filter.Tendsto (seriesFrom 2 (-r ^ 2) 0) Filter.atTop (nhds (Real.cos r)) := by
  refine (Real.hasSum_cos r).tendsto_sum_nat.congr fun k => ?_
  rw [seriesFrom]
  refine Finset.sum_congr rfl fun i _ => ?_
  rw [neg_pow (r ^ 2), ← pow_mul, Nat.factorial_zero, Nat.cast_one, Nat.zero_add]
  ring

theorem tendsto_seriesFrom_exp (y : ℝ) : Filter.Tendsto (seriesFrom 1 y 0) Filter.atTop (nhds (Real.exp y)) := by
  rw [Real.exp_eq_exp_ℝ]
  refine (NormedSpace.expSeries_div_hasSum_exp y).tendsto_sum_nat.congr fun k => ?_
  rw [seriesFrom]
  refine Finset.sum_congr rfl fun i _ => ?_
  rw [Nat.factorial_zero, Nat.cast_one, Nat.zero_add, Nat.one_mul]
  ring

end Sys2Proof.Machine
end

section
/-! The fixed-point loops of the series of sine, cosine and exponential stay within two units a term of the real partial sums (04 R117). -/

namespace Sys2Proof.Machine

/-! ### Cut quotients -/

theorem int_div_near (a : Int) {b : Int} (hb : 0 < b) : |((a / b : Int) : ℝ) - a / b| ≤ 1 := by
  have hb' : (0 : ℝ) < b := by exact_mod_cast hb
  have floor : ((a / b : Int) : ℝ) * b ≤ a := by exact_mod_cast Int.ediv_mul_le a hb.ne'
  have next : (a : ℝ) < ((a / b : Int) + 1) * b := by exact_mod_cast Int.lt_ediv_add_one_mul_self a hb
  have := (le_div_iff₀ hb').2 floor
  have := (div_lt_iff₀ hb').2 next
  rw [abs_le]
  constructor <;> linarith

theorem nat_div_near (a : Nat) {b : Nat} (hb : 0 < b) : |((a / b : Nat) : ℝ) - a / b| ≤ 1 := by
  have h := int_div_near a (b := b) (by exact_mod_cast hb)
  rwa [← Int.natCast_div, Int.cast_natCast, Int.cast_natCast, Int.cast_natCast] at h

/-- Two cuts in a row. -/
theorem int_div_div_near (a : Int) {b c : Int} (hb : 0 < b) (hc : 0 < c) : |((-(a / b) / c : Int) : ℝ) + a / b / c| ≤ 2 := by
  have outer := int_div_near (-(a / b)) hc
  have inner := int_div_near a hb
  have hc' : (1 : ℝ) ≤ c := by exact_mod_cast hc
  have scaled : |((a / b : Int) - (a : ℝ) / b) / c| ≤ 1 := by
    rw [abs_div, abs_of_pos (by linarith : (0 : ℝ) < c)]
    exact (div_le_self (abs_nonneg _) hc').trans inner
  calc |((-(a / b) / c : Int) : ℝ) + a / b / c|
      = |((-(a / b) / c : Int) - ((-(a / b) : Int) : ℝ) / c) - ((a / b : Int) - (a : ℝ) / b) / c| := by
        congr 1
        push_cast
        ring
    _ ≤ 1 + 1 := (abs_sub _ _).trans (add_le_add outer scaled)
    _ = 2 := by norm_num

theorem nat_div_div_near (a : Nat) {b c : Nat} (hb : 0 < b) (hc : 0 < c) : |((a / b / c : Nat) : ℝ) - a / b / c| ≤ 2 := by
  have outer := nat_div_near (a / b) hc
  have inner := nat_div_near a hb
  have hc' : (1 : ℝ) ≤ c := by exact_mod_cast hc
  have scaled : |((a / b : Nat) - (a : ℝ) / b) / c| ≤ 1 := by
    rw [abs_div, abs_of_pos (by linarith : (0 : ℝ) < c)]
    exact (div_le_self (abs_nonneg _) hc').trans inner
  calc |((a / b / c : Nat) : ℝ) - a / b / c| = |((a / b / c : Nat) - ((a / b : Nat) : ℝ) / c) + ((a / b : Nat) - (a : ℝ) / b) / c| := by
        congr 1
        ring
    _ ≤ 1 + 1 := (abs_add_le _ _).trans (add_le_add outer scaled)
    _ = 2 := by norm_num

/-! ### The loops -/

/-- One more term in front: its successor is cut by at most two units. -/
theorem series_step {s : Nat} {v K : ℝ} {j k : Nat} {term next rest : ℝ} (hnext : |next - term * (v * (j.factorial / (j + s).factorial))| ≤ 2)
    (hrest : |rest - next * seriesFrom s v (j + s) k| ≤ 2 * k * K) (hK : |seriesFrom s v (j + s) k| ≤ K) :
    |term + rest - term * seriesFrom s v j (k + 1)| ≤ 2 * ((k + 1 : Nat) : ℝ) * K := by
  have cut : |(next - term * (v * (j.factorial / (j + s).factorial))) * seriesFrom s v (j + s) k| ≤ 2 * K := by
    rw [abs_mul]
    exact mul_le_mul hnext hK (abs_nonneg _) zero_le_two
  rw [seriesFrom_succ]
  calc |term + rest - term * (1 + v * (j.factorial / (j + s).factorial) * seriesFrom s v (j + s) k)|
      = |(rest - next * seriesFrom s v (j + s) k) + (next - term * (v * (j.factorial / (j + s).factorial))) * seriesFrom s v (j + s) k| := by
        congr 1
        ring
    _ ≤ 2 * k * K + 2 * K := (abs_add_le _ _).trans (add_le_add hrest cut)
    _ = 2 * ((k + 1 : Nat) : ℝ) * K := by push_cast; ring

theorem factorial_div_succ (j : Nat) : (j.factorial / (j + 1).factorial : ℝ) = 1 / (j + 1) := by
  have : (j.factorial : ℝ) ≠ 0 := by exact_mod_cast j.factorial_ne_zero
  rw [Nat.factorial_succ]
  push_cast
  field_simp

theorem factorial_div_succ_succ (j : Nat) : (j.factorial / (j + 2).factorial : ℝ) = 1 / ((j + 1) * (j + 2)) := by
  have : (j.factorial : ℝ) ≠ 0 := by exact_mod_cast j.factorial_ne_zero
  rw [Nat.factorial_succ, Nat.factorial_succ]
  push_cast
  field_simp
  ring

theorem trigSeries_near {r2 : Int} {c : ℝ} (h : Tame 2 (-(r2 / 2 ^ fxBits)) c) (k : Nat) (term : Int) (j : Nat) :
    |(trigSeries r2 k term j : ℝ) - term * seriesFrom 2 (-(r2 / 2 ^ fxBits)) j k| ≤ 2 * k * Real.exp c := by
  induction k generalizing term j with
  | zero => simp [trigSeries, seriesFrom_zero]
  | succ k ih =>
    unfold trigSeries
    rw [Int.cast_add]
    refine series_step ?_ (ih _ _) (h.abs_seriesFrom_le _ _)
    have cut := int_div_div_near (term * r2) (b := 2 ^ fxBits) (c := (j + 1) * (j + 2)) (by positivity) (by positivity)
    convert cut using 2
    rw [factorial_div_succ_succ]
    push_cast
    ring

theorem expSeries_near {y : Nat} {c : ℝ} (h : Tame 1 (y / 2 ^ fxBits) c) (k term j : Nat) :
    |(expSeries y k term j : ℝ) - term * seriesFrom 1 (y / 2 ^ fxBits) j k| ≤ 2 * k * Real.exp c := by
  induction k generalizing term j with
  | zero => simp [expSeries, seriesFrom_zero]
  | succ k ih =>
    unfold expSeries
    rw [Nat.cast_add]
    refine series_step ?_ (ih _ _) (h.abs_seriesFrom_le _ _)
    have cut := nat_div_div_near (term * y) (b := 2 ^ fxBits) (c := j + 1) (by positivity) (by positivity)
    convert cut using 2
    rw [factorial_div_succ]
    push_cast
    ring

end Sys2Proof.Machine
end

section
/-! 2π in fixed point by Machin's formula (04 R117): the arc tangents of 1/5 and 1/239 within three units a term. -/

namespace Sys2Proof.Machine

/-- The first `k` terms of the arc tangent's series from the divisor `j` on, in units of its power. -/
noncomputable def arctanFrom (x : ℝ) (j k : Nat) : ℝ := ∑ i ∈ Finset.range k, (-x) ^ i / (j + 2 * i : Nat)

theorem arctanFrom_add (x : ℝ) (j k n : Nat) : arctanFrom x j (k + n) = arctanFrom x j k + (-x) ^ k * arctanFrom x (j + 2 * k) n := by
  rw [arctanFrom, Finset.sum_range_add, arctanFrom, arctanFrom, Finset.mul_sum]
  congr 1
  refine Finset.sum_congr rfl fun i _ => ?_
  rw [pow_add, Nat.mul_add, ← Nat.add_assoc, mul_div_assoc]

theorem arctanFrom_succ (x : ℝ) (j k : Nat) : arctanFrom x j (k + 1) = 1 / j - x * arctanFrom x (j + 2) k := by
  have first : arctanFrom x j 1 = 1 / j := by simp [arctanFrom]
  rw [Nat.add_comm, arctanFrom_add, first]
  ring

section
variable {x : ℝ} (h0 : 0 ≤ x) (h1 : x ≤ 1 / 2)
include h0 h1

theorem abs_arctanFrom_le {j : Nat} (hj : 0 < j) (k : Nat) : |arctanFrom x j k| ≤ 2 := by
  induction k generalizing j with
  | zero => simp [arctanFrom]
  | succ k ih =>
    have first : |1 / (j : ℝ)| ≤ 1 := by
      rw [abs_of_nonneg (by positivity)]
      exact div_le_self zero_le_one (by exact_mod_cast hj)
    have rest : |x * arctanFrom x (j + 2) k| ≤ 1 := by
      rw [abs_mul, abs_of_nonneg h0]
      calc x * |arctanFrom x (j + 2) k| ≤ 1 / 2 * 2 := mul_le_mul h1 (ih (by omega)) (abs_nonneg _) (by norm_num)
        _ = 1 := by norm_num
    rw [arctanFrom_succ]
    exact (abs_sub _ _).trans ((add_le_add first rest).trans (by norm_num))

theorem arctan_tail_le {j k : Nat} (hj : 0 < j) {limit : ℝ} (hlim : Filter.Tendsto (arctanFrom x j) Filter.atTop (nhds limit)) :
    |limit - arctanFrom x j k| ≤ 2 * x ^ k := by
  have part (n : Nat) : |arctanFrom x j (n + k) - arctanFrom x j k| ≤ 2 * x ^ k := by
    rw [Nat.add_comm, arctanFrom_add, add_sub_cancel_left, abs_mul, abs_pow, abs_neg, abs_of_nonneg h0, mul_comm]
    gcongr
    exact abs_arctanFrom_le h0 h1 (by omega) n
  refine le_of_tendsto' (x := Filter.atTop) (f := fun n => |arctanFrom x j (n + k) - arctanFrom x j k|) ?_ part
  exact (((Filter.tendsto_add_atTop_iff_nat k).2 hlim).sub_const _).abs
end

theorem tendsto_arctanFrom {y : ℝ} (h0 : y ≠ 0) (hy : |y| < 1) :
    Filter.Tendsto (arctanFrom (y ^ 2) 1) Filter.atTop (nhds (Real.arctan y / y)) := by
  refine ((Real.hasSum_arctan hy).tendsto_sum_nat.div_const y).congr fun k => ?_
  rw [arctanFrom, Finset.sum_div]
  refine Finset.sum_congr rfl fun i _ => ?_
  rw [neg_pow (y ^ 2), ← pow_mul, pow_succ, Nat.add_comm 1]
  field_simp

theorem atanInv_near {n : Nat} (hn : 2 ≤ n) (k p : Nat) {j : Nat} (hj : 0 < j) :
    |(atanInv n k p j : ℝ) - p * arctanFrom (1 / (n * n)) j k| ≤ 3 * k := by
  have hn' : (2 : ℝ) ≤ n := by exact_mod_cast hn
  have h0 : (0 : ℝ) ≤ 1 / (n * n) := by positivity
  have h1 : (1 : ℝ) / (n * n) ≤ 1 / 2 := one_div_le_one_div_of_le two_pos (by nlinarith)
  induction k generalizing p j with
  | zero => simp [atanInv, arctanFrom]
  | succ k ih =>
    have quotient := nat_div_near p hj
    have power := nat_div_near p (b := n * n) (by positivity)
    have cut : |((p / (n * n) : Nat) - (p : ℝ) / (n * n : Nat)) * arctanFrom (1 / (n * n)) (j + 2) k| ≤ 2 := by
      rw [abs_mul]
      exact (mul_le_mul power (abs_arctanFrom_le h0 h1 (by omega) k) (abs_nonneg _) zero_le_one).trans (by norm_num)
    unfold atanInv
    rw [arctanFrom_succ]
    calc |(((p / j : Nat) : Int) - atanInv n k (p / (n * n)) (j + 2) : Int) - (p : ℝ) * (1 / j - 1 / (n * n) * arctanFrom (1 / (n * n)) (j + 2) k)|
        = |((p / j : Nat) - (p : ℝ) / j) - ((atanInv n k (p / (n * n)) (j + 2) - (p / (n * n) : Nat) * arctanFrom (1 / (n * n)) (j + 2) k) +
            ((p / (n * n) : Nat) - (p : ℝ) / (n * n : Nat)) * arctanFrom (1 / (n * n)) (j + 2) k)| := by
          congr 1
          rw [Int.cast_sub, Int.cast_natCast, Nat.cast_mul n n]
          ring
      _ ≤ 1 + (3 * k + 2) := (abs_sub _ _).trans (add_le_add quotient ((abs_add_le _ _).trans (add_le_add (ih _ (by omega)) cut)))
      _ = 3 * (k + 1 : Nat) := by push_cast; ring

/-- The arc tangent of 1/n in fixed point. -/
theorem atanInv_arctan {n k : Nat} (hn : 2 ≤ n) (tail : (2 : ℝ) * (1 / (n * n)) ^ k * 2 ^ fxBits ≤ 1) :
    |(atanInv n k (2 ^ fxBits / n) 1 : ℝ) - Real.arctan (n : ℝ)⁻¹ * 2 ^ fxBits| ≤ 3 * k + 3 := by
  have hn' : (2 : ℝ) ≤ n := by exact_mod_cast hn
  have h0 : (0 : ℝ) ≤ 1 / (n * n) := by positivity
  have h1 : (1 : ℝ) / (n * n) ≤ 1 / 2 := one_div_le_one_div_of_le two_pos (by nlinarith)
  have square : ((n : ℝ)⁻¹) ^ 2 = 1 / (n * n) := by
    rw [inv_pow, one_div, sq]
  have hy : |(n : ℝ)⁻¹| < 1 := by
    rw [abs_of_nonneg (by positivity)]
    exact inv_lt_one_of_one_lt₀ (by linarith)
  have limit := tendsto_arctanFrom (y := (n : ℝ)⁻¹) (by positivity) hy
  rw [square] at limit
  have loop := atanInv_near hn k (2 ^ fxBits / n) one_pos
  have first := nat_div_near (2 ^ fxBits) (b := n) (by omega)
  have start : |((2 ^ fxBits / n : Nat) - ((2 ^ fxBits : Nat) : ℝ) / n) * arctanFrom (1 / (n * n)) 1 k| ≤ 2 := by
    rw [abs_mul]
    exact (mul_le_mul first (abs_arctanFrom_le h0 h1 one_pos k) (abs_nonneg _) zero_le_one).trans (by norm_num)
  have rest : |((Real.arctan (n : ℝ)⁻¹ / (n : ℝ)⁻¹) - arctanFrom (1 / (n * n)) 1 k) * (2 ^ fxBits / n)| ≤ 1 := by
    rw [abs_mul, abs_of_nonneg (by positivity : (0 : ℝ) ≤ 2 ^ fxBits / n)]
    calc _ ≤ 2 * (1 / (n * n : ℝ)) ^ k * 2 ^ fxBits :=
          mul_le_mul (arctan_tail_le h0 h1 one_pos limit) (div_le_self (by positivity) (by linarith)) (by positivity) (by positivity)
      _ ≤ 1 := tail
  calc |(atanInv n k (2 ^ fxBits / n) 1 : ℝ) - Real.arctan (n : ℝ)⁻¹ * 2 ^ fxBits|
      = |((atanInv n k (2 ^ fxBits / n) 1 - (2 ^ fxBits / n : Nat) * arctanFrom (1 / (n * n)) 1 k) +
          ((2 ^ fxBits / n : Nat) - ((2 ^ fxBits : Nat) : ℝ) / n) * arctanFrom (1 / (n * n)) 1 k) -
          ((Real.arctan (n : ℝ)⁻¹ / (n : ℝ)⁻¹) - arctanFrom (1 / (n * n)) 1 k) * (2 ^ fxBits / n)| := by
        congr 1
        push_cast
        field_simp
        ring
    _ ≤ 3 * k + 2 + 1 := (abs_sub _ _).trans (add_le_add ((abs_add_le _ _).trans (add_le_add loop start)) rest)
    _ = 3 * k + 3 := by ring

theorem twoPi_near : |(twoPi : ℝ) - 2 * Real.pi * 2 ^ fxBits| ≤ 2 ^ 14 := by
  have five := atanInv_arctan (n := 5) (k := 130) (by norm_num) (by norm_num [fxBits])
  have large := atanInv_arctan (n := 239) (k := 40) (by norm_num) (by norm_num [fxBits])
  have machin := Real.four_mul_arctan_inv_5_sub_arctan_inv_239
  obtain ⟨v, hv⟩ : ∃ v : Int, v = 2 * (16 * atanInv 5 130 (2 ^ fxBits / 5) 1 - 4 * atanInv 239 40 (2 ^ fxBits / 239) 1) := ⟨_, rfl⟩
  have sum : (v : ℝ) - 2 * Real.pi * 2 ^ fxBits = 32 * (atanInv 5 130 (2 ^ fxBits / 5) 1 - Real.arctan (5 : Nat)⁻¹ * 2 ^ fxBits) -
      8 * (atanInv 239 40 (2 ^ fxBits / 239) 1 - Real.arctan (239 : Nat)⁻¹ * 2 ^ fxBits) := by
    have : 2 * Real.pi = 32 * Real.arctan (5 : Nat)⁻¹ - 8 * Real.arctan (239 : Nat)⁻¹ := by
      rw [Nat.cast_ofNat, Nat.cast_ofNat]
      linarith
    rw [this, hv]
    push_cast
    ring
  have near : |(v : ℝ) - 2 * Real.pi * 2 ^ fxBits| ≤ 2 ^ 14 := by
    obtain ⟨five1, five2⟩ := abs_le.1 five
    obtain ⟨large1, large2⟩ := abs_le.1 large
    norm_num only at five1 five2 large1 large2
    rw [sum, abs_le]
    constructor <;> linarith
  have positive : 0 ≤ v := by
    have : (2 : ℝ) ^ 14 ≤ 2 ^ fxBits := pow_le_pow_right₀ one_le_two (by decide)
    have := Real.pi_gt_three
    have : (0 : ℝ) ≤ v := by nlinarith [(abs_le.1 near).1]
    exact_mod_cast this
  have cast : (twoPi : ℝ) = v := by
    rw [twoPi, ← hv]
    exact_mod_cast Int.toNat_of_nonneg positive
  rwa [cast]

end Sys2Proof.Machine
end

section
/-! fsin and fcos up to 2^20 (04 R115, R117): the reduced argument, the series, and the values within two units. -/

namespace Sys2Proof.Machine

theorem two_pow_neg_256 : (2 : ℝ) ^ (-256 : ℤ) = (2 ^ fxBits)⁻¹ := by
  rw [zpow_neg]
  rfl

/-- A fixed-point number near an exact value of at most one has a place in the accepted words. -/
theorem near_of_fixed {v : Int} {exact : ℝ} (small : |exact| ≤ 1) (near : |v - exact * 2 ^ fxBits| ≤ 2 ^ 55) :
    v.natAbs ≤ 16 * 2 ^ fxBits ∧ |v * 2 ^ (-256 : ℤ) - exact| ≤ 2 ^ (-201 : ℤ) := by
  have unit := unit_pos
  constructor
  · have bound : |(v : ℝ)| ≤ 2 ^ fxBits + 2 ^ 55 := by
      calc |(v : ℝ)| = |exact * 2 ^ fxBits + (v - exact * 2 ^ fxBits)| := by rw [add_sub_cancel]
        _ ≤ |exact| * 2 ^ fxBits + 2 ^ 55 := by
          refine (abs_add_le _ _).trans (add_le_add (le_of_eq ?_) near)
          rw [abs_mul, abs_of_pos unit]
        _ ≤ 2 ^ fxBits + 2 ^ 55 := by gcongr; exact mul_le_of_le_one_left unit.le small
    have magnitude : ((v.natAbs : Nat) : ℝ) = |(v : ℝ)| := by rw [Nat.cast_natAbs, Int.cast_abs]
    rw [← magnitude] at bound
    have sum : v.natAbs ≤ 2 ^ fxBits + 2 ^ 55 := by exact_mod_cast bound
    have : 2 ^ 55 ≤ 2 ^ fxBits := Nat.pow_le_pow_right two_pos (by decide)
    generalize 2 ^ fxBits = U at *
    omega
  · have scale : (2 : ℝ) ^ 55 * (2 ^ fxBits)⁻¹ = 2 ^ (-201 : ℤ) := by
      rw [← two_pow_neg_256, ← zpow_natCast, ← zpow_add₀ two_ne_zero]
      rfl
    calc |v * 2 ^ (-256 : ℤ) - exact| = |v - exact * 2 ^ fxBits| * (2 ^ fxBits)⁻¹ := by
          rw [two_pow_neg_256, ← abs_of_pos (inv_pos.2 unit), ← abs_mul, abs_of_pos (inv_pos.2 unit), sub_mul, mul_inv_cancel_right₀ unit.ne']
      _ ≤ 2 ^ 55 * (2 ^ fxBits)⁻¹ := by gcongr
      _ = 2 ^ (-201 : ℤ) := scale

/-! ### The series of the reduced argument -/

theorem exp_25_le : Real.exp 25 ≤ 2 ^ 37 := by
  have e : Real.exp 25 = Real.exp 1 ^ 25 := by rw [← Real.exp_nat_mul]; norm_num
  calc Real.exp 25 = Real.exp 1 ^ 25 := e
    _ ≤ 2.7182818286 ^ 25 := pow_le_pow_left₀ (Real.exp_pos 1).le Real.exp_one_lt_d9.le 25
    _ ≤ 2 ^ 37 := by norm_num

/-- The square of a reduced argument in fixed point. -/
theorem square_near {r : Nat} (hr : (r : ℝ) ≤ 7 * 2 ^ fxBits) :
    let v : ℝ := -(((r : Int) * r / 2 ^ fxBits : Int) / 2 ^ fxBits)
    |v| ≤ 50 ∧ |-(r / 2 ^ fxBits : ℝ) ^ 2| ≤ 49 ∧ |v - -(r / 2 ^ fxBits : ℝ) ^ 2| ≤ 1 / 2 ^ fxBits := by
  intro v
  have unit := unit_pos
  have cut := int_div_near ((r : Int) * r) (b := 2 ^ fxBits) (by positivity)
  have arg : |-(r / 2 ^ fxBits : ℝ) ^ 2| ≤ 49 := by
    rw [abs_neg, abs_of_nonneg (by positivity)]
    calc (r / 2 ^ fxBits : ℝ) ^ 2 ≤ 7 ^ 2 := by gcongr; rwa [div_le_iff₀ unit]
      _ = 49 := by norm_num
  have diff : |v - -(r / 2 ^ fxBits : ℝ) ^ 2| ≤ 1 / 2 ^ fxBits := by
    have e : v - -(r / 2 ^ fxBits : ℝ) ^ 2 =
        -(((((r : Int) * r / 2 ^ fxBits : Int) : ℝ) - ((r : Int) * r : Int) / (2 ^ fxBits : Int)) * (1 / 2 ^ fxBits)) := by
      simp only [v]
      push_cast
      ring
    have pos : (0 : ℝ) < 1 / 2 ^ fxBits := one_div_pos.2 unit
    rw [e, abs_neg, abs_mul, abs_of_pos pos]
    exact mul_le_of_le_one_left pos.le (by exact_mod_cast cut)
  refine ⟨?_, arg, diff⟩
  have one : (1 : ℝ) / 2 ^ fxBits ≤ 1 := (div_le_one unit).2 (by exact_mod_cast one_le_unit)
  calc |v| = |(v - -(r / 2 ^ fxBits : ℝ) ^ 2) + -(r / 2 ^ fxBits : ℝ) ^ 2| := by rw [sub_add_cancel]
    _ ≤ 1 + 49 := (abs_add_le _ _).trans (add_le_add (diff.trans one) arg)
    _ = 50 := by norm_num

theorem trig_tail_small {v : ℝ} (hv : |v| ≤ 49) (j : Nat) : 7 * (|v| ^ 60 * (j.factorial / (j + 2 * 60).factorial)) * 2 ^ fxBits ≤ 1 := by
  have pos (n : Nat) : (0 : ℝ) < n.factorial := by exact_mod_cast Nat.factorial_pos n
  have quotient : (j.factorial : ℝ) / (j + 2 * 60).factorial ≤ 1 / Nat.factorial 120 := by
    rw [div_le_div_iff₀ (pos _) (pos _), one_mul]
    exact_mod_cast Nat.le_of_dvd (Nat.factorial_pos _) (Nat.factorial_mul_factorial_dvd_factorial_add j 120)
  have large : (7 : ℝ) * 49 ^ 60 * 2 ^ fxBits ≤ Nat.factorial 120 := by norm_num [fxBits, Nat.factorial]
  generalize Nat.factorial 120 = f at *
  have hf : (0 : ℝ) < f := lt_of_lt_of_le (by positivity) large
  calc (7 : ℝ) * (|v| ^ 60 * (j.factorial / (j + 2 * 60).factorial)) * 2 ^ fxBits ≤ 7 * (49 ^ 60 * (1 / (f : ℝ))) * 2 ^ fxBits := by gcongr
    _ = 7 * 49 ^ 60 * 2 ^ fxBits / (f : ℝ) := by ring
    _ ≤ 1 := (div_le_one hf).2 large

/-- The loop computes the series whose unit is its first term. -/
theorem trigSeries_limit {r j : Nat} {term : Int} {limit : ℝ} (hr : (r : ℝ) ≤ 7 * 2 ^ fxBits) (hterm : |(term : ℝ)| ≤ 7 * 2 ^ fxBits)
    (hlim : Filter.Tendsto (fun n => (term / 2 ^ fxBits : ℝ) * seriesFrom 2 (-(r / 2 ^ fxBits : ℝ) ^ 2) j n) Filter.atTop (nhds limit)) :
    |(trigSeries ((r : Int) * r / 2 ^ fxBits) 60 term j : ℝ) - limit * 2 ^ fxBits| ≤ 2 ^ 48 := by
  have unit := unit_pos
  obtain ⟨hv, hw, diff⟩ := square_near hr
  generalize hv' : -(((r : Int) * r / 2 ^ fxBits : Int) / 2 ^ fxBits : ℝ) = v at *
  generalize hw' : -(r / 2 ^ fxBits : ℝ) ^ 2 = w at *
  have bound : |v| ≤ 2 * 25 := hv.trans (by norm_num)
  have bound' : |w| ≤ 2 * 25 := hw.trans (by norm_num)
  have loop : |(trigSeries ((r : Int) * r / 2 ^ fxBits) 60 term j : ℝ) - term * seriesFrom 2 v j 60| ≤ 2 * (60 : Nat) * Real.exp 25 := by
    have tame := tame_two bound
    rw [← hv'] at tame ⊢
    exact trigSeries_near tame 60 term j
  have args := seriesFrom_sub_le (M := 50) (tame_two (c := 25) (by norm_num)) (by norm_num) hv (hw.trans (by norm_num)) j 60
  have tail := (tame_two bound').tail_le (k := 60) hlim
  have small := trig_tail_small hw j
  have quotient : (0 : ℝ) ≤ j.factorial / (j + 2 * 60).factorial := div_nonneg (Nat.cast_nonneg _) (Nat.cast_nonneg _)
  generalize (j.factorial / (j + 2 * 60).factorial : ℝ) = q at *
  have exp := exp_25_le
  have exp0 := Real.exp_pos 25
  generalize Real.exp 25 = K at *
  have moved : |(term : ℝ) * (seriesFrom 2 v j 60 - seriesFrom 2 w j 60)| ≤ 420 * K := by
    rw [abs_mul]
    calc |(term : ℝ)| * |seriesFrom 2 v j 60 - seriesFrom 2 w j 60| ≤ 7 * 2 ^ fxBits * (1 / 2 ^ fxBits * (60 : Nat) * K) := by
          refine mul_le_mul hterm (args.trans ?_) (abs_nonneg _) (by positivity)
          gcongr
      _ = 420 * K := by
          push_cast
          field_simp
          norm_num
  have left : |(limit - term / 2 ^ fxBits * seriesFrom 2 w j 60) * 2 ^ fxBits| ≤ K := by
    have unit0 : |(term : ℝ) / 2 ^ fxBits| ≤ 7 := by rwa [abs_div, abs_of_pos unit, div_le_iff₀ unit]
    rw [abs_mul, abs_of_pos unit]
    calc |limit - term / 2 ^ fxBits * seriesFrom 2 w j 60| * 2 ^ fxBits
        ≤ 7 * (|w| ^ 60 * q * K) * 2 ^ fxBits := by
          refine mul_le_mul_of_nonneg_right (tail.trans ?_) unit.le
          exact mul_le_mul_of_nonneg_right unit0 (mul_nonneg (mul_nonneg (pow_nonneg (abs_nonneg w) 60) quotient) exp0.le)
      _ = 7 * (|w| ^ 60 * q) * 2 ^ fxBits * K := by ring
      _ ≤ K := mul_le_of_le_one_left exp0.le small
  generalize trigSeries ((r : Int) * r / 2 ^ fxBits) 60 term j = S at *
  calc |(S : ℝ) - limit * 2 ^ fxBits|
      = |((S - term * seriesFrom 2 v j 60) + term * (seriesFrom 2 v j 60 - seriesFrom 2 w j 60)) -
          (limit - term / 2 ^ fxBits * seriesFrom 2 w j 60) * 2 ^ fxBits| := by
        congr 1
        field_simp
        ring
    _ ≤ 2 * (60 : Nat) * K + 420 * K + K := (abs_sub _ _).trans (add_le_add ((abs_add_le _ _).trans (add_le_add loop moved)) left)
    _ ≤ 2 ^ 48 := by
        norm_num
        linarith

/-! ### The reduced argument -/

theorem twoPi_bounds : (2 : ℝ) ^ fxBits ≤ twoPi ∧ (twoPi : ℝ) ≤ 7 * 2 ^ fxBits := by
  obtain ⟨low, high⟩ := abs_le.1 twoPi_near
  have unit : (2 : ℝ) ^ 14 ≤ 2 ^ fxBits / 2 := by
    rw [le_div_iff₀ two_pos, ← pow_succ]
    exact pow_le_pow_right₀ one_le_two (by decide)
  have pi3 := Real.pi_gt_three
  have pi4 := Real.pi_lt_d2
  constructor <;> nlinarith

/-- A remainder by the fixed-point 2π is the argument less whole turns. -/
theorem reduced_near {m : Nat} (hm : m ≤ 2 ^ 20 * 2 ^ fxBits) :
    ((m % twoPi : Nat) : ℝ) ≤ 7 * 2 ^ fxBits ∧
      ∃ q : Nat, |(m : ℝ) / 2 ^ fxBits - ((m % twoPi : Nat) / 2 ^ fxBits + q * (2 * Real.pi))| * 2 ^ fxBits ≤ 2 ^ 34 := by
  have unit := unit_pos
  obtain ⟨low, high⟩ := twoPi_bounds
  have near := twoPi_near
  have pos : 0 < twoPi := by exact_mod_cast unit.trans_le low
  have least : 2 ^ fxBits ≤ twoPi := by exact_mod_cast low
  have rest : m % twoPi ≤ twoPi := (Nat.mod_lt m pos).le
  have turns : m / twoPi ≤ 2 ^ 20 := by
    refine Nat.div_le_of_le_mul (hm.trans ?_)
    rw [Nat.mul_comm]
    exact Nat.mul_le_mul_right _ least
  have split : (m : ℝ) = twoPi * (m / twoPi : Nat) + (m % twoPi : Nat) := by exact_mod_cast (Nat.div_add_mod m twoPi).symm
  refine ⟨le_trans (by exact_mod_cast rest) high, m / twoPi, ?_⟩
  have turns' : ((m / twoPi : Nat) : ℝ) ≤ 2 ^ 20 := by exact_mod_cast turns
  rw [← abs_of_pos unit, ← abs_mul, abs_of_pos unit]
  calc |((m : ℝ) / 2 ^ fxBits - ((m % twoPi : Nat) / 2 ^ fxBits + (m / twoPi : Nat) * (2 * Real.pi))) * 2 ^ fxBits|
      = |((m / twoPi : Nat) : ℝ) * (twoPi - 2 * Real.pi * 2 ^ fxBits)| := by
        congr 1
        rw [split]
        field_simp
        ring
    _ ≤ 2 ^ 20 * 2 ^ 14 := by
        rw [abs_mul, Nat.abs_cast]
        exact mul_le_mul turns' near (abs_nonneg _) (by positivity)
    _ = 2 ^ 34 := by norm_num

end Sys2Proof.Machine
end

section
/-! fsin, fcos and ftanh deliver a word within two units of the exact value (04 R115, R117). -/

namespace Sys2Proof.Machine

/-! ### fsin and fcos -/

theorem near_of_fixed_steps {S exact exact' : ℝ} (loop : |S - exact' * 2 ^ fxBits| ≤ 2 ^ 48) (moved : |exact - exact'| * 2 ^ fxBits ≤ 2 ^ 34) :
    |S - exact * 2 ^ fxBits| ≤ 2 ^ 55 := by
  have unit := unit_pos
  calc |S - exact * 2 ^ fxBits| = |(S - exact' * 2 ^ fxBits) - (exact - exact') * 2 ^ fxBits| := by congr 1; ring
    _ ≤ 2 ^ 48 + 2 ^ 34 := (abs_sub _ _).trans (add_le_add loop (by rwa [abs_mul, abs_of_pos unit]))
    _ ≤ 2 ^ 55 := by norm_num

theorem sin_fixed {m : Nat} (hm : m ≤ 2 ^ 20 * 2 ^ fxBits) :
    let r : Int := (m % twoPi : Nat)
    |(trigSeries (r * r / 2 ^ fxBits) 60 r 1 : ℝ) - Real.sin (m / 2 ^ fxBits) * 2 ^ fxBits| ≤ 2 ^ 55 := by
  intro r
  have unit := unit_pos
  obtain ⟨hr, q, near⟩ := reduced_near hm
  have limit := tendsto_seriesFrom_sin ((m % twoPi : Nat) / 2 ^ fxBits : ℝ)
  have loop := trigSeries_limit (term := (m % twoPi : Nat)) hr (by rwa [Int.cast_natCast, Nat.abs_cast]) (by rwa [Int.cast_natCast])
  refine near_of_fixed_steps loop (le_trans ?_ near)
  rw [← Real.sin_add_nat_mul_two_pi ((m % twoPi : Nat) / 2 ^ fxBits : ℝ) q]
  exact mul_le_mul_of_nonneg_right (Real.abs_sin_sub_sin_le _ _) unit.le

theorem cos_fixed {m : Nat} (hm : m ≤ 2 ^ 20 * 2 ^ fxBits) :
    let r : Int := (m % twoPi : Nat)
    |(trigSeries (r * r / 2 ^ fxBits) 60 (2 ^ fxBits) 0 : ℝ) - Real.cos (m / 2 ^ fxBits) * 2 ^ fxBits| ≤ 2 ^ 55 := by
  intro r
  have unit := unit_pos
  obtain ⟨hr, q, near⟩ := reduced_near hm
  have limit := tendsto_seriesFrom_cos ((m % twoPi : Nat) / 2 ^ fxBits : ℝ)
  have one : ((2 ^ fxBits : Int) : ℝ) / 2 ^ fxBits = 1 := by push_cast; exact div_self unit.ne'
  have loop := trigSeries_limit (term := 2 ^ fxBits) (j := 0) hr (by push_cast; rw [abs_of_pos unit]; linarith) (by rw [one]; simpa only [one_mul] using limit)
  refine near_of_fixed_steps loop (le_trans ?_ near)
  rw [← Real.cos_add_nat_mul_two_pi ((m % twoPi : Nat) / 2 ^ fxBits : ℝ) q]
  exact mul_le_mul_of_nonneg_right (Real.abs_cos_sub_cos_le _ _) unit.le

theorem fsinV_between {x : Word} {n : Bool} {man : Nat} {e : Int} (hdec : fdecode fp32 x.toNat = .fin n man e) (hman : man ≠ 0)
    (below : above20 man e = false) (fx : Fx) :
    let r : Int := (toFixed man e % twoPi : Nat)
    let v := trigSeries (r * r / 2 ^ fxBits) 60 r 1
    fsinV x fx = (let (y, fl) := within2 (Config.fsinChoice x) (if n then -v else v); fconst y fl fx) := by
  unfold fsinV
  rw [hdec]
  exact (if_neg hman).trans (if_neg (Bool.eq_false_iff.1 below))

theorem fcosV_between {x : Word} {n : Bool} {man : Nat} {e : Int} (hdec : fdecode fp32 x.toNat = .fin n man e) (hman : man ≠ 0)
    (below : above20 man e = false) (fx : Fx) :
    let r : Int := (toFixed man e % twoPi : Nat)
    fcosV x fx = (let (y, fl) := within2 (Config.fcosChoice x) (trigSeries (r * r / 2 ^ fxBits) 60 (2 ^ fxBits) 0); fconst y fl fx) := by
  unfold fcosV
  rw [hdec]
  exact (if_neg hman).trans (if_neg (Bool.eq_false_iff.1 below))

theorem realOf_fixed {x : Word} {man : Nat} {e : Int} (value : (man : ℝ) * 2 ^ e = fp32.mag (sizeOfWord x)) (he : -149 ≤ e) :
    realOf x = if x.msb then -((toFixed man e : ℝ) / 2 ^ fxBits) else (toFixed man e : ℝ) / 2 ^ fxBits := by
  rw [toFixed_eq man he, mul_div_cancel_right₀ _ unit_pos.ne', value]
  cases h : x.msb
  · exact realOf_pos h
  · exact realOf_neg h

/-- An operand of fsin and fcos up to 2^20. -/
theorem trig_operand {x : Word} (h0 : 0 < sizeOfWord x) (hx : sizeOfWord x ≤ 0x49800000) :
    ∃ man e, fdecode fp32 x.toNat = .fin x.msb man e ∧ man ≠ 0 ∧ above20 man e = false ∧ toFixed man e ≤ 2 ^ 20 * 2 ^ fxBits ∧
      realOf x = if x.msb then -((toFixed man e : ℝ) / 2 ^ fxBits) else (toFixed man e : ℝ) / 2 ^ fxBits := by
  obtain ⟨man, e, hval, value, -, he⟩ := fval_finite (z := x) (by omega)
  have most : (man : ℝ) * 2 ^ e ≤ 2 ^ 20 := by
    rw [value, ← mag_two_pow_20]
    exact (mag_strictMono fp32).monotone hx
  have below : above20 man e = false := by
    rw [above20, decide_eq_false_iff_not, lt_nat_iff, not_lt, Nat.cast_pow, Nat.cast_ofNat]
    exact most
  have range : (toFixed man e : ℝ) ≤ 2 ^ 20 * 2 ^ fxBits := by
    rw [toFixed_eq man he]
    exact mul_le_mul_of_nonneg_right most (by positivity)
  exact ⟨man, e, hval, mt (man_eq_zero_iff value).1 h0.ne', below, by exact_mod_cast range, realOf_fixed value he⟩

theorem fsinV_close {x : Word} (h0 : 0 < sizeOfWord x) (hx : sizeOfWord x ≤ 0x49800000) (fx : Fx) : Close (fsinV x fx) (Real.sin (realOf x)) := by
  obtain ⟨man, e, hdec, hman, below, range, real⟩ := trig_operand h0 hx
  obtain ⟨fits, near⟩ := near_of_fixed (Real.abs_sin_le_one _) (sin_fixed range)
  have close := within2_close_signed (Config.fsinChoice x) fx x.msb fits near
  dsimp only at close
  have result := fsinV_between hdec hman below fx
  have odd : Real.sin (realOf x) = if x.msb then -Real.sin (toFixed man e / 2 ^ fxBits) else Real.sin (toFixed man e / 2 ^ fxBits) := by
    rw [real, apply_ite Real.sin, Real.sin_neg]
  rw [odd, result]
  generalize within2 _ _ = p at close ⊢
  exact close

theorem fcosV_close {x : Word} (h0 : 0 < sizeOfWord x) (hx : sizeOfWord x ≤ 0x49800000) (fx : Fx) : Close (fcosV x fx) (Real.cos (realOf x)) := by
  obtain ⟨man, e, hdec, hman, below, range, real⟩ := trig_operand h0 hx
  obtain ⟨fits, near⟩ := near_of_fixed (Real.abs_cos_le_one _) (cos_fixed range)
  have close := within2_close (Config.fcosChoice x) fx fits near
  have result := fcosV_between hdec hman below fx
  have even : Real.cos (realOf x) = Real.cos (toFixed man e / 2 ^ fxBits) := by
    rw [real, apply_ite Real.cos, Real.cos_neg, ite_self]
  rw [even, result]
  generalize within2 _ _ = p at close ⊢
  exact close

/-! ### ftanh -/

theorem exp_18_le : Real.exp 18 ≤ 2 ^ 26 := by
  have e : Real.exp 18 = Real.exp 1 ^ 18 := by rw [← Real.exp_nat_mul]; norm_num
  calc Real.exp 18 = Real.exp 1 ^ 18 := e
    _ ≤ 2.7182818286 ^ 18 := pow_le_pow_left₀ (Real.exp_pos 1).le Real.exp_one_lt_d9.le 18
    _ ≤ 2 ^ 26 := by norm_num

theorem tanh_eq_exp (t : ℝ) : Real.tanh t = (Real.exp (2 * t) - 1) / (Real.exp (2 * t) + 1) := by
  have pos := Real.exp_pos t
  rw [Real.tanh_eq_sinh_div_cosh, Real.sinh_eq, Real.cosh_eq, two_mul, Real.exp_add, Real.exp_neg]
  field_simp

theorem exp_tail_small {y : ℝ} (h0 : 0 ≤ y) (hy : y ≤ 18) :
    |y| ^ 150 * ((Nat.factorial 0 : ℝ) / (0 + 1 * 150 : Nat).factorial) * 2 ^ fxBits ≤ 2 ^ 10 := by
  have large : (18 : ℝ) ^ 150 * 2 ^ fxBits ≤ 2 ^ 10 * Nat.factorial 150 := by norm_num [fxBits, Nat.factorial]
  rw [Nat.factorial_zero, Nat.cast_one, Nat.one_mul, Nat.zero_add, abs_of_nonneg h0]
  have pos : (0 : ℝ) < Nat.factorial 150 := by exact_mod_cast Nat.factorial_pos 150
  generalize Nat.factorial 150 = f at *
  calc y ^ 150 * (1 / (f : ℝ)) * 2 ^ fxBits ≤ 18 ^ 150 * (1 / (f : ℝ)) * 2 ^ fxBits := by gcongr
    _ = 18 ^ 150 * 2 ^ fxBits / (f : ℝ) := by ring
    _ ≤ 2 ^ 10 := (div_le_iff₀ pos).2 large

theorem le_expSeries (y k term j : Nat) : term ≤ expSeries y (k + 1) term j := Nat.le_add_right ..

/-- The exponential loop within 2^37 units. -/
theorem exp_fixed {m : Nat} (hm : m < 9 * 2 ^ fxBits) :
    |(expSeries (2 * m) 150 (2 ^ fxBits) 0 : ℝ) - Real.exp (2 * (m / 2 ^ fxBits)) * 2 ^ fxBits| ≤ 2 ^ 37 := by
  have unit := unit_pos
  have arg : ((2 * m : Nat) : ℝ) / 2 ^ fxBits = 2 * (m / 2 ^ fxBits) := by push_cast; ring
  have range : (m : ℝ) / 2 ^ fxBits ≤ 9 := by
    rw [div_le_iff₀ unit]
    exact_mod_cast hm.le
  have tame : Tame 1 (((2 * m : Nat) : ℝ) / 2 ^ fxBits) 18 := tame_one (by rw [arg, abs_of_nonneg (by positivity)]; linarith)
  have loop := expSeries_near tame 150 (2 ^ fxBits) 0
  have tail := tame.tail_le (a := 1) (j := 0) (k := 150) (by simpa only [one_mul] using tendsto_seriesFrom_exp _)
  have small := exp_tail_small (y := ((2 * m : Nat) : ℝ) / 2 ^ fxBits) (by positivity) (by rw [arg]; linarith)
  rw [arg] at loop tail small
  rw [one_mul, abs_one, one_mul] at tail
  generalize |2 * ((m : ℝ) / 2 ^ fxBits)| ^ 150 * ((Nat.factorial 0 : ℝ) / (0 + 1 * 150 : Nat).factorial) = q at *
  generalize seriesFrom 1 (2 * ((m : ℝ) / 2 ^ fxBits)) 0 150 = P at *
  generalize expSeries (2 * m) 150 (2 ^ fxBits) 0 = S at *
  have exp := exp_18_le
  have exp0 := Real.exp_pos 18
  generalize Real.exp 18 = K at *
  rw [Nat.cast_pow, Nat.cast_ofNat] at loop
  have left : |(Real.exp (2 * (m / 2 ^ fxBits)) - P) * 2 ^ fxBits| ≤ 2 ^ 10 * K := by
    rw [abs_mul, abs_of_pos unit]
    calc |Real.exp (2 * (m / 2 ^ fxBits)) - P| * 2 ^ fxBits ≤ q * K * 2 ^ fxBits := mul_le_mul_of_nonneg_right tail unit.le
      _ = q * 2 ^ fxBits * K := by ring
      _ ≤ 2 ^ 10 * K := mul_le_mul_of_nonneg_right small exp0.le
  calc |(S : ℝ) - Real.exp (2 * (m / 2 ^ fxBits)) * 2 ^ fxBits|
      = |(S - 2 ^ fxBits * P) - (Real.exp (2 * (m / 2 ^ fxBits)) - P) * 2 ^ fxBits| := by congr 1; ring
    _ ≤ 2 * (150 : Nat) * K + 2 ^ 10 * K := (abs_sub _ _).trans (add_le_add loop left)
    _ ≤ 2 ^ 37 := by
        norm_num
        linarith

/-- The quotient of the hyperbolic tangent moves no more than its exponential. -/
theorem tanh_quotient_near {U a E : ℝ} (hU : 0 < U) (ha : U ≤ a) (hE : 1 ≤ E) :
    |(a - U) * U / (a + U) - (E - 1) / (E + 1) * U| ≤ |a - E * U| := by
  have e : (a - U) * U / (a + U) - (E - 1) / (E + 1) * U = (a - E * U) * (2 * U / ((a + U) * (E + 1))) := by
    have : a + U ≠ 0 := by linarith
    have : E + 1 ≠ 0 := by linarith
    field_simp
    ring
  have part : 2 * U / ((a + U) * (E + 1)) ≤ 1 := by
    rw [div_le_one (by nlinarith)]
    nlinarith
  have nonneg : 0 ≤ 2 * U / ((a + U) * (E + 1)) := div_nonneg (by linarith) (by nlinarith)
  rw [e, abs_mul, abs_of_nonneg nonneg]
  exact mul_le_of_le_one_right (abs_nonneg _) part

theorem tanh_fixed {m : Nat} (hm : m < 9 * 2 ^ fxBits) :
    let ey := expSeries (2 * m) 150 (2 ^ fxBits) 0
    |(((ey - 2 ^ fxBits) * 2 ^ fxBits / (ey + 2 ^ fxBits) : Nat) : ℝ) - Real.tanh (m / 2 ^ fxBits) * 2 ^ fxBits| ≤ 2 ^ 55 := by
  intro ey
  have unit := unit_pos
  have least : 2 ^ fxBits ≤ ey := le_expSeries ..
  have near : |(ey : ℝ) - Real.exp (2 * (m / 2 ^ fxBits)) * 2 ^ fxBits| ≤ 2 ^ 37 := exp_fixed hm
  clear_value ey
  have cut := nat_div_near ((ey - 2 ^ fxBits) * 2 ^ fxBits) (b := ey + 2 ^ fxBits) (by positivity)
  have one : 1 ≤ Real.exp (2 * ((m : ℝ) / 2 ^ fxBits)) := Real.one_le_exp (by positivity)
  have moved := tanh_quotient_near unit (a := ey) (by exact_mod_cast least) one
  rw [tanh_eq_exp]
  rw [Nat.cast_mul, Nat.cast_sub least, Nat.cast_add, Nat.cast_pow, Nat.cast_ofNat] at cut
  calc _ ≤ _ := abs_sub_le _ (((ey : ℝ) - 2 ^ fxBits) * 2 ^ fxBits / (ey + 2 ^ fxBits)) _
    _ ≤ 1 + 2 ^ 37 := add_le_add cut (moved.trans near)
    _ ≤ 2 ^ 55 := by norm_num

theorem ftanhV_between {x : Word} {n : Bool} {man : Nat} {e : Int} (hdec : fdecode fp32 x.toNat = .fin n man e)
    (low : ¬ toFixed man e < 2 ^ (fxBits - 12)) (high : ¬ 9 * 2 ^ fxBits ≤ toFixed man e) (fx : Fx) :
    let ey := expSeries (2 * toFixed man e) 150 (2 ^ fxBits) 0
    let v : Int := ((ey - 2 ^ fxBits) * 2 ^ fxBits / (ey + 2 ^ fxBits) : Nat)
    ftanhV x fx = (let (y, fl) := within2 (Config.ftanhChoice x) (if n then -v else v); fconst y fl fx) := by
  unfold ftanhV
  rw [hdec]
  exact (if_neg low).trans (if_neg high)

theorem ftanhV_close {x : Word} (hlow : 0x39800000 ≤ sizeOfWord x) (hhigh : sizeOfWord x < 0x41100000) (fx : Fx) :
    Close (ftanhV x fx) (Real.tanh (realOf x)) := by
  obtain ⟨man, e, hdec, value, -, he⟩ := fval_finite (z := x) (by omega)
  have low : ¬ toFixed man e < 2 ^ (fxBits - 12) := by
    rw [not_lt]
    have : 2 ^ (fxBits - 12) ≤ (toFixed man e : ℝ) := by
      rw [toFixed_eq man he, value]
      calc (2 : ℝ) ^ (fxBits - 12) = 2 ^ (-12 : ℤ) * 2 ^ fxBits := by rw [← zpow_natCast, ← zpow_natCast, ← zpow_add₀ two_ne_zero]; rfl
        _ ≤ fp32.mag (sizeOfWord x) * 2 ^ fxBits :=
          mul_le_mul_of_nonneg_right (mag_two_pow_neg_12 ▸ (mag_strictMono fp32).monotone hlow) (by positivity)
    exact_mod_cast this
  have high : toFixed man e < 9 * 2 ^ fxBits := by
    have : (toFixed man e : ℝ) < 9 * 2 ^ fxBits := by
      rw [toFixed_eq man he, value, ← mag_nine]
      exact mul_lt_mul_of_pos_right (mag_strictMono fp32 hhigh) (by positivity)
    exact_mod_cast this
  have small : |Real.tanh (toFixed man e / 2 ^ fxBits)| ≤ 1 := (Real.abs_tanh_lt_one _).le
  obtain ⟨fits, near⟩ := near_of_fixed small (v := (_ : Nat)) (by rw [Int.cast_natCast]; exact tanh_fixed high)
  have close := within2_close_signed (Config.ftanhChoice x) fx x.msb fits near
  dsimp only at close
  have result := ftanhV_between hdec low (not_le.2 high) fx
  have odd : Real.tanh (realOf x) = if x.msb then -Real.tanh (toFixed man e / 2 ^ fxBits) else Real.tanh (toFixed man e / 2 ^ fxBits) := by
    rw [realOf_fixed value he, apply_ite Real.tanh, Real.tanh_neg]
  rw [odd, result]
  generalize within2 _ _ = p at close ⊢
  exact close

end Sys2Proof.Machine
end

section
/-! The transcendental instructions' accuracy (04 R115 to R117). -/

namespace Sys2Proof.Machine

/-- The delivered bits do not depend on the furrow's rounding mode, generator and flags. -/
def Steady (f : Fx → Nat × Fx) : Prop := ∀ fx fx', (f fx).1 = (f fx').1

theorem steady_fconst (y : Nat) (fl : Word) : Steady (fconst y fl) := fun _ _ => rfl
theorem steady_fnan (xs : List FVal) : Steady (fnan fp32 xs) := fun _ _ => rfl
theorem steady_pair (r : Nat × Word) : Steady (fun fx => let (y, fl) := r; fconst y fl fx) := fun _ _ => rfl
theorem Steady.ite {p : Prop} [Decidable p] {f g : Fx → Nat × Fx} (hf : Steady f) (hg : Steady g) : Steady (fun fx => if p then f fx else g fx) := by
  by_cases h : p
  · simpa only [if_pos h] using hf
  · simpa only [if_neg h] using hg

theorem fsinV_steady (x : Word) : Steady (fsinV x) := by
  unfold fsinV
  split
  · exact steady_fnan _
  · exact steady_fconst _ _
  · refine (steady_fconst _ _).ite ((steady_fconst _ _).ite fun fx fx' => ?_)
    extract_lets r v
    generalize within2 _ _ = p
    exact steady_pair p fx fx'

theorem fcosV_steady (x : Word) : Steady (fcosV x) := by
  unfold fcosV
  split
  · exact steady_fnan _
  · exact steady_fconst _ _
  · refine (steady_fconst _ _).ite ((steady_fconst _ _).ite fun fx fx' => ?_)
    extract_lets r
    generalize within2 _ _ = p
    exact steady_pair p fx fx'

theorem ftanhV_steady (x : Word) : Steady (ftanhV x) := by
  unfold ftanhV
  split
  · exact steady_fnan _
  · exact steady_fconst _ _
  · refine (steady_fconst _ _).ite ((steady_fconst _ _).ite fun fx fx' => ?_)
    extract_lets ey v
    generalize within2 _ _ = p
    exact steady_pair p fx fx'

theorem flog2V_steady (x : Word) : Steady (flog2V x) := by
  unfold flog2V
  split
  · exact steady_fnan _
  · exact (steady_fconst _ _).ite (steady_fconst _ _)
  · refine (steady_fconst _ _).ite ((steady_fconst _ _).ite ((steady_fconst _ _).ite fun fx fx' => ?_))
    extract_lets l
    generalize (if 0 ≤ l then _ else _ : Nat × Word) = p
    exact steady_pair p fx fx'

theorem fexp2V_steady (x : Word) : Steady (fexp2V x) := by
  unfold fexp2V
  split
  · exact steady_fnan _
  · exact steady_fconst _ _
  · refine (steady_fconst _ _).ite ((steady_fconst _ _).ite ((steady_fconst _ _).ite fun fx fx' => ?_))
    extract_lets num den i f
    generalize froundWith _ _ _ _ _ _ _ = p
    generalize bracket _ _ _ _ = q
    exact (steady_pair p).ite (steady_pair q) fx fx'

theorem fp32_mag_eq (p : Nat) : fp32.mag p =
    if p < 2 ^ 23 then (p : ℝ) * 2 ^ (-149 : ℤ) else ((p % 2 ^ 23 + 2 ^ 23 : Nat) : ℝ) * 2 ^ ((p / 2 ^ 23 : Nat) - 150 : ℤ) := by
  have exponent : ((p / 2 ^ 23 : Nat) - 150 : ℤ) = (p / 2 ^ 23 : Nat) - (fp32.bias : ℤ) - (fp32.fb : ℤ) := by
    rw [sub_sub]
    rfl
  rw [exponent]
  rfl

/-- Settles O13: fexp2 by a product of roots of two just below the power, flog2 by repeated squaring with each bit cut short, fsin, fcos and ftanh by
partial sums of their series in fixed point, whose error and tail are far below 2^-200; the delivered patterns stand around the number so found, or
within two units of it. -/
theorem transcendentalAccuracy : Obligations.TranscendentalAccuracy := by
  unfold Obligations.TranscendentalAccuracy
  intro fx x size mag signed val inexact bracketed close
  have hmag (p : Nat) : mag p = fp32.mag p := (fp32_mag_eq p).symm
  have hval (z : Word) : val z = realOf z := by
    simp only [val, signed, hmag]
    cases h : z.msb
    · exact (realOf_pos h).symm
    · exact (realOf_neg h).symm
  have bracketed_of {r : Nat × Fx} {v tol : ℝ} (h : Bracketed r v tol) : bracketed r v tol := by
    obtain ⟨nx, w, near, p, low, high, pattern⟩ := h
    exact ⟨nx, w, p, near, (hmag p).trans_le low, high.trans_eq (hmag (p + 1)).symm, pattern⟩
  have close_of {r : Nat × Fx} {v : ℝ} (h : Close r v) : close r v := by
    obtain ⟨nx, w, near, z, hz, finite, within⟩ := h
    refine ⟨nx, w, z, near, hz, finite, fun q hq hq' => ?_⟩
    rw [hmag] at hq hq'
    rw [hval, hmag, hmag]
    exact within q hq hq'
  refine ⟨?_, ?_, ?_, ?_, ?_⟩
  · simp only [List.forall_mem_cons, List.not_mem_nil, false_imp_iff, implies_true, and_true]
    exact ⟨fexp2V_steady x fx, flog2V_steady x fx, fsinV_steady x fx, fcosV_steady x fx, ftanhV_steady x fx⟩
  · intro finite low high notInt
    rw [hval] at low high ⊢
    exact bracketed_of (fexp2V_bracketed finite low high (fun i hi => hval x ▸ notInt i hi) fx)
  · intro pos finite hmsb notPower
    rw [hval]
    exact bracketed_of (flog2V_bracketed pos finite hmsb (fun i => hval x ▸ notPower i) fx)
  · intro pos most
    rw [hval]
    exact ⟨close_of (fsinV_close pos most fx), close_of (fcosV_close pos most fx)⟩
  · intro least below
    rw [hval]
    exact close_of (ftanhV_close least below fx)

end Sys2Proof.Machine
end

section
/-! Taking a trap, and the plot fault that one can be (05 R130, R146, R147; 02 R49, R64). -/

namespace Sys2Proof.Machine

/-! ### A queue fault record leaves the furrows and the plots alone (15 R354) -/

/-- The working furrow, the furrows and the plots are the same. -/
structure SameFurrows (s t : State) : Prop where
  cur : t.cur = s.cur
  furrows : t.furrows = s.furrows
  plots : t.plots = s.plots

namespace SameFurrows

theorem refl (s : State) : SameFurrows s s := ⟨rfl, rfl, rfl⟩

theorem trans {a b c : State} (h : SameFurrows a b) (k : SameFurrows b c) : SameFurrows a c :=
  ⟨k.cur.trans h.cur, k.furrows.trans h.furrows, k.plots.trans h.plots⟩

theorem of_homes {s t : State} (h : HomeStep s t) : SameFurrows s t := ⟨h.1.cur, h.1.furrows, h.1.plots⟩

end SameFurrows

theorem sameFurrows_useLeaf (s : State) (ag : Agent) (need : Need) (pte leafAt base bits : Nat) :
    SameFurrows s (useLeaf s ag need pte leafAt base bits) := by
  have walks (t : State) : SameFurrows t (addWalks t ag.die ag.ctx base) := by
    unfold addWalks
    dsimp only
    split <;> exact ⟨rfl, rfl, rfl⟩
  have marked : SameFurrows s (markLeaf (addWalks (walkReads s ag.die ag.ctx base) ag.die ag.ctx base) leafAt need) :=
    ((SameFurrows.of_homes (homeStep_walkReads ..)).trans (walks _)).trans (.of_homes (homeStep_markLeaf ..))
  unfold useLeaf
  dsimp only
  generalize markLeaf (addWalks (walkReads s ag.die ag.ctx base) ag.die ag.ctx base) leafAt need = u at marked ⊢
  obtain ⟨cur, furrows, plots⟩ := marked
  split
  · split <;> exact ⟨cur, furrows, plots⟩
  · exact ⟨cur, furrows, plots⟩

theorem sameFurrows_usePlace (s : State) (ag : Agent) (need : Need) (p : Place) : SameFurrows s (usePlace s ag need p) := by
  unfold usePlace
  split
  · exact sameFurrows_useLeaf ..
  · exact sameFurrows_useLeaf ..
  · exact sameFurrows_useLeaf ..
  · exact .refl s

theorem sameFurrows_spanUse (ag : Agent) (need : Need) (fuel : Nat) (s : State) (va n : Nat) : SameFurrows s (spanUse s ag need va fuel n) := by
  induction fuel generalizing s va n with
  | zero => exact .refl s
  | succ fuel ih =>
    cases n with
    | zero => exact .refl s
    | succ n =>
      refine SameFurrows.trans ?_ (ih ..)
      split
      · exact .of_homes (homeStep_walkReads ..)
      · exact sameFurrows_usePlace ..

theorem sameFurrows_frontWrite {s t : State} {q va : Nat} {bs : List Byte} (h : frontWrite s q va bs = some t) : SameFurrows s t := by
  unfold frontWrite at h
  obtain ⟨l, -, rfl⟩ := Option.map_eq_some_iff.1 h
  exact ((sameFurrows_spanUse ..).trans (.of_homes (homeStep_putSpan ..))).trans ⟨rfl, rfl, rfl⟩

theorem sameFurrows_queueRecordNow {s t : State} {q : Nat} {bs : List Byte} (h : queueRecordNow s q bs = .done t) : SameFurrows s t := by
  have lost : SameFurrows s (lostRecord s q) := ⟨rfl, rfl, rfl⟩
  unfold queueRecordNow at h
  dsimp only at h
  split at h
  · cases h; exact lost
  · split at h
    · cases h; exact lost
    · split at h
      · cases h
      · split at h
        · cases h; exact lost
        next u hu =>
          cases h
          obtain ⟨v, hv, hv'⟩ := Option.bind_eq_some_iff.1 hu
          exact (sameFurrows_frontWrite hv).trans (sameFurrows_frontWrite hv')

theorem sameFurrows_queueRecord (s : State) (q : Nat) (bs : List Byte) : SameFurrows s (queueRecord s q bs) := by
  unfold queueRecord
  split
  · exact ⟨rfl, rfl, rfl⟩
  · split
    next h => exact sameFurrows_queueRecordNow h
    · exact ⟨rfl, rfl, rfl⟩

theorem sameFurrows_reportRecord (s : State) (f : Furrow) (kind : Nat) (cause : Option (BitVec 6)) (epc info : Option Word) (aux : Option Nat) :
    SameFurrows s (reportRecord s f kind cause epc info aux) :=
  have tick : SameFurrows s { s with tick := s.tick + 12 } := ⟨rfl, rfl, rfl⟩
  tick.trans (sameFurrows_queueRecord ..)

/-! ### Stopping a plot (05 R130, 06 R188) -/

/-- Furrows of a list marked as stopped, when the table lists them. -/
def stopListed (ks : List Nat) (s : State) : State := ks.foldl (fun s k => s.modFurrow k fun f => { f with stopped := true }) s

theorem stopListed_eq (ks : List Nat) (s : State) : stopListed ks s = { s with furrows := (stopListed ks s).furrows } := by
  induction ks generalizing s with
  | nil => rfl
  | cons k ks ih => exact ih (s.modFurrow k _)

/-- Once stopped, a furrow stays so, and one that is not listed stays out. -/
theorem stopListed_keeps {s : State} {k : Nat} (h : (s.furrow k).stopped = true ∨ tfind s.furrows k = none) (ks : List Nat) :
    ((stopListed ks s).furrow k).stopped = true ∨ tfind (stopListed ks s).furrows k = none := by
  induction ks generalizing s with
  | nil => exact h
  | cons j ks ih =>
    refine ih ?_
    simp only [State.furrow, State.modFurrow, tget, tfind_tmod] at h ⊢
    split
    · cases hk : tfind s.furrows k <;> simp
    · exact h

theorem stopListed_stops {s : State} {k : Nat} {ks : List Nat} (hk : k ∈ ks) :
    ((stopListed ks s).furrow k).stopped = true ∨ tfind (stopListed ks s).furrows k = none := by
  induction ks generalizing s with
  | nil => cases hk
  | cons j ks ih =>
    rcases List.mem_cons.1 hk with rfl | hk
    · refine stopListed_keeps (s := s.modFurrow k _) ?_ ks
      simp only [State.furrow, State.modFurrow, tget, tfind_tmod, if_true]
      cases tfind s.furrows k <;> simp
    · exact ih hk

theorem tfind_stopListed_isNone (ks : List Nat) (s : State) (k : Nat) : (tfind (stopListed ks s).furrows k).isNone = (tfind s.furrows k).isNone := by
  induction ks generalizing s with
  | nil => rfl
  | cons j ks ih =>
    refine (ih _).trans ?_
    simp only [State.modFurrow, tfind_tmod]
    split
    · exact Option.isNone_map
    · rfl

theorem stopPlot_cur (s : State) (p : Nat) :
    (stopPlot s p).cur = if !s.cur.stream && s.cur.plot == p then { s.cur with stopped := true } else s.cur := by
  have same : (stopListed (s.plot p).furrows s).cur = s.cur := by rw [stopListed_eq]
  rw [← same]
  rfl

/-- Every furrow of a stopped plot that the table lists is stopped. -/
theorem stopPlot_stops {s : State} {p k : Nat} (hk : k ∈ (s.plot p).furrows) :
    ((stopPlot s p).furrow k).stopped = true ∨ tfind s.furrows k = none := by
  rw [← Option.isNone_iff_eq_none, ← tfind_stopListed_isNone (s.plot p).furrows, Option.isNone_iff_eq_none]
  exact stopListed_stops hk

/-! ### A plot fault (05 R147, 06 R188, 15 R353) -/

@[simp] theorem plotFault_iss (s : State) (epc : Option Word) (c : BitVec 6) (info : Word) (aux : Option Nat) : (plotFault s epc c info aux).iss = s.iss := by
  have report := reportRecord_iss s s.cur 1 (some c) epc (some info) aux
  unfold plotFault
  dsimp only
  split
  · exact report
  · exact (stopPlot_iss ..).trans report

/-- A plot fault stops the working furrow, and every furrow of its plot that the table lists. -/
theorem plotFault_stops (s : State) (epc : Option Word) (c : BitVec 6) (info : Word) (aux : Option Nat) :
    (plotFault s epc c info aux).cur = { s.cur with stopped := true } ∧ (s.cur.stream = false → ∀ k ∈ (s.plot s.cur.plot).furrows,
      ((plotFault s epc c info aux).furrow k).stopped = true ∨ tfind s.furrows k = none) := by
  have report := sameFurrows_reportRecord s s.cur 1 (some c) epc (some info) aux
  unfold plotFault
  dsimp only
  generalize reportRecord s s.cur 1 (some c) epc (some info) aux = u at report
  obtain ⟨cur, furrows, plots⟩ := report
  have members : u.plot s.cur.plot = s.plot s.cur.plot := by rw [State.plot, plots]; rfl
  by_cases hs : s.cur.stream = true
  · rw [if_pos hs, ← cur]
    exact ⟨rfl, fun h => absurd hs (by rw [← cur, h]; decide)⟩
  · rw [if_neg hs]
    refine ⟨(stopPlot_cur ..).trans ?_, fun _ k hk => ?_⟩
    · rw [cur, if_pos (by simpa using hs)]
    · rw [← furrows]
      exact stopPlot_stops (members ▸ hk)

/-! ### Taking a trap (05 R146) -/

theorem raise_faults {s : State} {c : BitVec 6} {x : Word}
    (h : s.cur.rt = true ∨ s.cur.tvec = 0 ∨ insideCode s.cur (trapPacket s.cur.tvec c) = false) :
    raise s c x = { plotFault s (some (epcOf s.iss.pkt s.iss.slot)) c x none with iss := { s.iss with trapped := true } } := by
  have fault : (s.cur.rt || s.cur.tvec == 0 || !insideCode s.cur (trapPacket s.cur.tvec c)) = true := by
    simpa only [Bool.or_eq_true, beq_iff_eq, Bool.not_eq_true', or_assoc] using h
  simp only [raise, takeTrapAt, if_pos fault, plotFault_iss]

/-- Settles O30: a trap with an entry in the code's table changes the working furrow alone, and any other is a plot fault. -/
theorem trapEntry : Obligations.TrapEntry := by
  unfold Obligations.TrapEntry
  refine ⟨fun s c x => ?_, fun _ _ => ⟨rfl, rfl⟩, fun _ _ _ _ => rfl⟩
  intro f q epc
  refine ⟨fun hrt htv hin => ?_, fun h => ?_⟩
  · rw [raise_taken s c x hrt htv (decide_eq_true hin), BitVec.ofNat_toNat]
    rfl
  · have faults := raise_faults (s := s) (c := c) (x := x) (h.imp_right (.imp_right fun out => decide_eq_false (Nat.not_le.2 out)))
    exact ⟨_, faults, rfl, plotFault_stops s (some epc) c x none⟩

/-! ### The return from a trap (05 R148, R138) -/

/-- An `rte` in runtime mode goes to the word that it returns to, when that lies in the code. -/
theorem exec_rte {s : State} (i : BitVec 1) (hrt : s.pre.rt = true) (h : Ready s []) {q : Word} {sl : Nat}
    (hq : returnTo s (i == 1) = { s with cur := { s.cur with rt := false }, iss := { s.iss with ctl := .goto q sl } }) :
    exec (.rte i) s = .next (transfer s q.toNat fun s => returnTo s (i == 1)) := by
  have allowed : (if s.pre.rt then none else some (privInfo 2 0)) = none := if_pos hrt
  change execRte i s = _
  rw [execRte, allowed, guarded_whole h rfl, hq]

/-- Settles O31: `rte` is one transfer to the word that `epc` names or to the word after it. -/
theorem trapReturn : Obligations.TrapReturn := by
  unfold Obligations.TrapReturn
  intro s i hrt h pkt slot q sl
  have back : returnTo s (i == 1) = { s with cur := { s.cur with rt := false }, iss := { s.iss with ctl := .goto q sl } } := by
    rcases BitVec.eq_zero_or_eq_one i with rfl | rfl
    · rfl
    · by_cases hs : slot = 2 <;> simp [returnTo, q, sl, pkt, slot, hs]
  rw [exec_rte i hrt h back]
  refine ⟨fun hin => ?_, fun hout => ?_⟩
  · rw [transfer_inside (by omega), back]
  · rw [transfer_outside (by omega), BitVec.ofInt_natCast, BitVec.ofNat_toNat, BitVec.setWidth_eq]

end Sys2Proof.Machine
end

section
/-! The loop instruction and the branch on a mask register (05 R137, R138, R140, R147; 01 R21). -/

namespace Sys2Proof.Machine

/-! ### The loop instruction (05 R137) -/

theorem exec_loop {s : State} {r : BitVec 7} (h : Ready s [.s 3 r]) (o : BitVec 14) : exec (.loop r o) s =
    .next (if S s r - 1 = 0 then setS s r (S s r - 1)
      else transfer s (branchTarget s o) fun s => setS (setCtl s (.goto (.ofInt 32 (branchTarget s o)) 0)) r (S s r - 1)) :=
  congrArg _ (guarded_whole h (all_whole_s 3 r) _)

section
variable (o : BitVec 14)

/-- The word of a `loop` that names s0. -/
theorem encode_loop_zero : encode (.loop 0 o) = some (0x0A000000 + o.setWidth 32) := by
  refine congrArg some (BitVec.eq_of_toNat_eq ?_)
  simp

theorem toNat_loop_zero : ((0x0A000000 : Word) + o.setWidth 32).toNat = 0x0A000000 + o.toNat := by
  have := o.isLt
  have fixed : (0x0A000000 : Word).toNat = 0x0A000000 := rfl
  rw [BitVec.toNat_add, BitVec.toNat_setWidth, fixed]
  omega

theorem majorOf_loop_zero : majorOf (0x0A000000 + o.setWidth 32) = 5 := by
  have := o.isLt
  rw [majorOf, fld, toNat_loop_zero]
  omega

theorem chain_loop_zero : chain (0x0A000000 + o.setWidth 32) = false := by
  have := o.isLt
  rw [chain, BitVec.getLsbD, toNat_loop_zero, Nat.testBit_eq_decide_div_mod_eq, decide_eq_false_iff_not]
  omega

end

/-- A word without the chain bit ends its group (02 R40). -/
theorem groupWords_single {ws : List Word} {slot : Nat} {w : Word} (hget : ws[slot]? = some w) (hc : chain w = false) :
    groupWords ((ws.zipIdx.map fun x => (x.2, x.1)).drop slot) = [(slot, w)] := by
  obtain ⟨hlt, rfl⟩ := List.getElem?_eq_some_iff.1 hget
  rw [List.drop_eq_getElem_cons (by simpa using hlt)]
  simp [groupWords, hc]

/-- A word that decodes to no legal instruction, standing alone in its group, is the group's illegal pattern (02 R64). -/
theorem decodeGroup_illegal {mcc : Bool} {ws : List Word} {slot : Nat} {w : Word} {i : Instr} (hslot : slot < 3) (hget : ws[slot]? = some w)
    (hc : chain w = false) (hd : decodeWord w = .ok i) (hw : wellFormed i = false) (hu : unitRuns mcc w = true) (h1 : majorOf w ≠ 0x3E)
    (h2 : majorOf w ≠ 0x3F) : decodeGroup mcc ws slot = (slot, .error { cause := 0x01, slot, word := w }) := by
  obtain ⟨notPfx, notLim⟩ := not_attached_of_major hd h1 h2
  have faults : wordFaults mcc slot w none = [{ cause := 0x01, slot, word := w }] := by
    simp [wordFaults, hd, hc, hu, hw]
  have illegal : firstIllegal (groupWordFaults mcc [(slot, w)] ++ pipeFaults (baseWords [(slot, w)]) []) = some { cause := 0x01, slot, word := w } := by
    have whole : pipeFaults (baseWords [(slot, w)]) [] = [] := by simp [baseWords, h1, h2, pipeFaults]
    simp only [groupWordFaults, List.head?_nil, Option.map_none, faults, whole]
    interval_cases slot <;> rfl
  simp only [decodeGroup, groupWords_single hget hc, illegal]
  simp

/-- Settles O32: `loop` writes and transfers by its new count, and a word with s0 decodes to an instruction that is not well formed. -/
theorem loopInstruction : Obligations.LoopInstruction := by
  unfold Obligations.LoopInstruction
  refine ⟨fun s r o h => ?_, fun s r h => by rw [h]; rfl, fun mcc ws slot o hslot => ?_⟩
  · intro x q
    rw [exec_loop h]
    refine ⟨fun hx => by rw [if_pos hx]; rfl, fun hx h0 hin => ?_, fun hx hout => ?_⟩ <;> rw [if_neg hx]
    · exact congrArg _ (transfer_inside ⟨h0, hin⟩ _)
    · have out : ¬ (0 ≤ q ∧ 12 * q + 12 ≤ s.pre.csize.toNat) := by omega
      exact congrArg _ (transfer_outside out _)
  · intro w
    have decoded : decodeWord w = .ok (.loop 0 o) := decodeWord_encode rfl (encode_loop_zero o)
    have major : majorOf w = 5 := majorOf_loop_zero o
    have runs : unitRuns mcc w = true := by cases mcc <;> simp [unitRuns, major]
    exact ⟨decoded, rfl, fun hget => decodeGroup_illegal hslot hget (chain_loop_zero o) decoded rfl runs (by omega) (by omega)⟩

/-! ### The branch on a mask register (05 R140) -/

section
variable {s : State} {q : Int} {t : Mask}

theorem trySplit_outside (out : ¬ (0 ≤ q ∧ 12 * q + 12 ≤ s.pre.csize.toNat)) : trySplit s t q = raise s 0x06 (.ofInt 32 q) := by
  rw [trySplit, transfer_outside out]

variable (h : 0 ≤ q ∧ 12 * q + 12 ≤ s.pre.csize.toNat)
include h

theorem trySplit_runtime (hrt : s.pre.rt = true) : trySplit s t q =
    { plotFault s (some (epcOf s.iss.pkt s.iss.slot)) 0x11 s.pre.epc none with iss := { s.iss with trapped := true } } := by
  rw [trySplit, transfer_inside h, if_pos hrt]

variable (hrt : s.pre.rt = false)
include hrt

theorem trySplit_full (hn : 8 + s.pre.spillCap < s.pre.entries.length + 2) :
    trySplit s t q = raise s 0x0D (.ofNat 32 (s.pre.spillCap * 256 + s.pre.entries.length)) := by
  rw [trySplit, transfer_inside h, if_neg (by simp [hrt]), if_pos hn]

theorem trySplit_splits (hn : s.pre.entries.length + 2 ≤ 8 + s.pre.spillCap) : trySplit s t q = setCtl s (.split t (.ofInt 32 q)) := by
  rw [trySplit, transfer_inside h, if_neg (by simp [hrt]), if_neg (Nat.not_lt.2 hn)]

end

/-- The threads that a `brk` of kind `k` tests for (05 R140). -/
def tested (s : State) (k r : BitVec 4) : Mask :=
  if k = 1 then entryMask s &&& ~~~s.pre.kget s.iss.entry r.toNat else entryMask s &&& s.pre.kget s.iss.entry r.toNat

section
variable {s : State} {k r : BitVec 4} (h : Ready s [.k 3 r])
include h

/-- `brk any`, `all` and `none` send the entry one way. -/
theorem exec_brk_one (hk : k = 2 ∨ k = 3 ∨ k = 4) (o : BitVec 14) : exec (.brk k r o) s =
    .next (if k = 2 ∧ tested s k r ≠ 0 ∨ k = 3 ∧ tested s k r = entryMask s ∨ k = 4 ∧ tested s k r = 0 then goto s (branchTarget s o)
      else setCtl s .nextPacket) := by
  refine congrArg _ ((guarded_whole h (by simp) _).trans ?_)
  rcases hk with rfl | rfl | rfl <;> simp [tested]

/-- `brk set` and `clr` send each thread its way. -/
theorem exec_brk_each (hk : k.toNat < 2) (o : BitVec 14) : exec (.brk k r o) s =
    .next (if tested s k r = entryMask s then goto s (branchTarget s o) else if tested s k r = 0 then setCtl s .nextPacket
      else trySplit s (tested s k r) (branchTarget s o)) := by
  refine congrArg _ ((guarded_whole h (by simp) _).trans ?_)
  have kinds : k = 0 ∨ k = 1 := by bv_omega
  rcases kinds with rfl | rfl <;> simp [tested]

end

/-- Settles O34: a `brk` goes to its target, goes on, or divides the entry, and a division needs its target in the code, no runtime mode and space. -/
theorem branchOnMask : Obligations.BranchOnMask := by
  unfold Obligations.BranchOnMask
  intro s k r o h hk m kr t q ctl taken splits inside
  have one (each : ¬ k.toNat < 2) : k = 2 ∨ k = 3 ∨ k = 4 := by bv_omega
  have goes (ht : taken) : exec (.brk k r o) s = .next (goto s q) := by
    by_cases each : k.toNat < 2
    · have all : t = m := by
        rcases ht with ⟨rfl, -⟩ | ⟨rfl, -⟩ | ⟨rfl, -⟩ | ⟨-, ht⟩
        iterate 3 exact absurd each (by decide)
        exact ht
      exact (exec_brk_each h each o).trans (congrArg _ (if_pos all))
    · have some : k = 2 ∧ t ≠ 0 ∨ k = 3 ∧ t = m ∨ k = 4 ∧ t = 0 := by
        rcases ht with ht | ht | ht | ht
        · exact .inl ht
        · exact .inr (.inl ht)
        · exact .inr (.inr ht)
        · exact absurd ht.1 each
      exact (exec_brk_one h (one each) o).trans (congrArg _ (if_pos some))
  have divides (hs : splits) : exec (.brk k r o) s = .next (trySplit s t q) :=
    (exec_brk_each h hs.1 o).trans (congrArg _ ((if_neg hs.2.1).trans (if_neg hs.2.2)))
  have stays (ht : ¬ taken) (hs : ¬ splits) : exec (.brk k r o) s = ctl .nextPacket := by
    by_cases each : k.toNat < 2
    · have notAll : t ≠ m := fun all => ht (.inr (.inr (.inr ⟨each, all⟩)))
      have none : t = 0 := by_contra fun some => hs ⟨each, notAll, some⟩
      exact (exec_brk_each h each o).trans (congrArg _ ((if_neg notAll).trans (if_pos none)))
    · exact (exec_brk_one h (one each) o).trans (congrArg _ (if_neg fun c => ht (c.imp_right (Or.imp_right Or.inl))))
  refine ⟨stays, fun ht hin => (goes ht).trans (congrArg _ (goto_inside hin)), ?_, fun hs hin hrt hn => ?_, fun hs hin hrt hn => ?_, ?_⟩
  · rintro (ht | hs) out
    · exact (goes ht).trans (congrArg _ (goto_outside out))
    · exact (divides hs).trans (congrArg _ (trySplit_outside out))
  · exact (divides hs).trans (congrArg _ (trySplit_splits hin hrt hn))
  · exact (divides hs).trans (congrArg _ (trySplit_full hin hrt hn))
  · intro hs hin hrt u
    refine ⟨?_, plotFault_stops ..⟩
    rw [divides hs, trySplit_runtime hin hrt, plotFault_iss]
    rfl

end Sys2Proof.Machine
end

section
/-! The shuffles (05 R151, R152). -/

namespace Sys2Proof.Machine

/-- The operands of a shuffle whose threads read from `src`: the elements that are read, those of `bs`, and the destination. -/
def shuffleOpds (s : State) (w : BitVec 2) (d a : BitVec 7) (bs : List Opd) (src : Nat → Nat) : List Opd :=
  .v 0 a (2 ^ w.toNat) (maskOf ((threads s.pre.width (act s)).map src) fun _ => true) :: bs ++ [.dv d]

theorem shuffle_ready {s : State} {w : BitVec 2} {d a : BitVec 7} {bs : List Opd} {src : Nat → Nat} (h : Ready s (shuffleOpds s w d a bs src)) :
    Delivered s (Noted s (shuffleOpds s w d a bs src)) (shuffle s w d a bs src) d.toNat (2 ^ w.toNat) fun i u => V s a i (src u) := by
  unfold shuffle
  exact delivered_guarded h (by simp only [Noted_V])

/-- A source position in the segment names the thread there, any other the thread itself (05 R152). -/
theorem sourceThread_some (len t : Nat) (pos : Nat → Nat) : sourceThread len t (fun r => some (pos r)) =
    if decide (pos (t % len) < len) then t - t % len + pos (t % len) else t := by
  simp only [sourceThread, decide_eq_true_eq]

/-- A position that may lie below the segment (05 R152). -/
theorem sourceThread_down (len t m : Nat) : sourceThread len t (fun r => if m ≤ r then some (r - m) else none) =
    if decide (m ≤ t % len ∧ t % len - m < len) then t - t % len + (t % len - m) else t := by
  by_cases h : m ≤ t % len <;> simp [sourceThread, h]

/-- Settles O38: each of the four is `shuffle` of its source thread. -/
theorem shuffles : Obligations.Shuffles := by
  unfold Obligations.Shuffles
  intro s w d a b m n len ts pick p hp os h
  refine ⟨shuffle s w d a p.2.1 p.2.2, ?_, shuffle_ready h⟩
  clear h os
  revert p
  simp only [List.forall_mem_cons, List.not_mem_nil, false_imp_iff, implies_true, and_true]
  have run {i : Instr} {bs : List Opd} {src src' : Nat → Nat} (hi : exec i s = .next (shuffle s w d a bs src')) (hs : ∀ t, src' t = src t) :
      exec i s = .next (shuffle s w d a bs src) := by rw [hi, funext hs]
  exact ⟨run rfl fun t => sourceThread_some len t _, run rfl fun t => sourceThread_down len t _, run rfl fun t => sourceThread_some len t (· + m.toNat),
    run rfl fun t => sourceThread_some len t (· ^^^ m.toNat)⟩

end Sys2Proof.Machine
end

section
/-! Folds over ascending threads: what each thread receives, and which flags come with it (05 R153 to R155; 01 R28). -/

namespace Sys2Proof.Machine

/-! ### Flags raised on the way -/

/-- The generator and the mode are the same, and flags are raised only where they may be. -/
def Raises (may : Prop) (fx fx' : Fx) : Prop := ∃ fl, (fl = 0 ∨ may) ∧ fx' = { fx with flags := fx.flags ||| fl }

theorem Raises.refl (may : Prop) (fx : Fx) : Raises may fx fx := ⟨0, .inl rfl, by simp⟩

theorem Raises.trans {may : Prop} {a b c : Fx} (h : Raises may a b) (k : Raises may b c) : Raises may a c := by
  obtain ⟨fl, hfl, rfl⟩ := h
  obtain ⟨fl', hfl', rfl⟩ := k
  refine ⟨fl ||| fl', ?_, by simp [BitVec.or_assoc]⟩
  rcases hfl with rfl | hm
  · rcases hfl' with rfl | hm
    · exact .inl (by simp)
    · exact .inr hm
  · exact .inr hm

theorem raises_raise (fx : Fx) (fl : Word) : Raises True fx (fx.raise fl) := ⟨fl, .inr trivial, rfl⟩

/-! ### What a fold computes -/

/-- From `fx0` on, the fold lets a first value enter as `first` says and combines two values by `op`. -/
structure Fold.Computes (f : Fold) (may : Prop) (fx0 : Fx) (first : Word → Word) (op : Word → Word → Word) : Prop where
  enter : ∀ x fx, Raises may fx0 fx → (f.enter x fx).1 = first x ∧ Raises may fx (f.enter x fx).2
  op : ∀ x y fx, Raises may fx0 fx → (f.op x y fx).1 = op x y ∧ Raises may fx (f.op x y fx).2

theorem computes_plain (fx0 : Fx) (op : Word → Word → Word) : (Fold.plain op).Computes False fx0 id op :=
  ⟨fun _ fx _ => ⟨rfl, .refl _ fx⟩, fun _ _ fx _ => ⟨rfl, .refl _ fx⟩⟩

/-- A NaN as the canonical one (05 R153). -/
def canonical (x : Word) : Word := if (fval x).isNan then 0x7FC00000 else x

theorem enterFloat_spec (x : Word) (fx : Fx) : (enterFloat x fx).1 = canonical x ∧ Raises True fx (enterFloat x fx).2 := by
  unfold enterFloat canonical
  split
  · exact ⟨rfl, raises_raise ..⟩
  · exact ⟨rfl, .refl ..⟩

theorem computes_fadd {fx0 : Fx} (hm : fx0.mode ≠ 5) :
    Fold.fadd.Computes True fx0 canonical fun x y => (asWord false (faddV fp32 (fval x) (fval y) { fx0 with flags := 0 })).1 := by
  refine ⟨fun x fx _ => enterFloat_spec x fx, fun x y fx h => ?_⟩
  obtain ⟨fl, -, rfl⟩ := h
  have sum := (undrawn_faddV hm fp32 (fval x) (fval y)).asWord false (fx0.flags ||| fl)
  exact ⟨(congrArg Prod.fst sum :), _, .inr trivial, (congrArg Prod.snd sum :)⟩

/-- The extremes raise flags, and neither they nor their value draw. -/
theorem fminMax_raises (largest : Bool) (x y : Word) (fx fx' : Fx) :
    (fminMax largest x y fx).1 = (fminMax largest x y fx').1 ∧ Raises True fx (fminMax largest x y fx).2 := by
  unfold fminMax
  dsimp only
  split
  · exact ⟨rfl, raises_raise ..⟩
  · split
    · exact ⟨rfl, raises_raise ..⟩
    · split
      · exact ⟨rfl, raises_raise ..⟩
      · split <;> exact ⟨rfl, raises_raise ..⟩

theorem computes_fminMax (largest : Bool) (fx0 fx : Fx) :
    (Fold.fminMax largest).Computes True fx0 canonical fun x y => (fminMax largest x y fx).1 :=
  ⟨fun x fx' _ => enterFloat_spec x fx', fun x y fx' _ => fminMax_raises largest x y fx' fx⟩

/-! ### The values of one ascending list of threads -/

/-- The threads whose values a thread `t` receives together (05 R153). -/
def FoldKind.keeps (k : FoldKind) (t v : Nat) : Bool :=
  match k with
  | .reduce => true
  | .scan => decide (v ≤ t)
  | .exclusive => decide (v < t)

/-- In a reduction all of them. -/
theorem filter_reduce (t : Nat) (ts : List Nat) : ts.filter (FoldKind.reduce.keeps t) = ts := List.filter_eq_self.2 fun _ _ => rfl

theorem filter_le_append {done ts : List Nat} {t : Nat} (h : (done ++ t :: ts).Pairwise (· < ·)) :
    (done ++ t :: ts).filter (fun v => decide (v ≤ t)) = done ++ [t] ∧ (done ++ t :: ts).filter (fun v => decide (v < t)) = done := by
  obtain ⟨-, ht, apart⟩ := List.pairwise_append.1 h
  have below : ∀ v ∈ done, v < t := fun v hv => apart v hv t List.mem_cons_self
  have above : ∀ v ∈ ts, t < v := (List.pairwise_cons.1 ht).1
  constructor
  · rw [List.filter_append, List.filter_cons_of_pos (by simp), List.filter_eq_self.2 fun v hv => decide_eq_true (below v hv).le,
      List.filter_eq_nil_iff.2 fun v hv => by simpa using above v hv]
  · rw [List.filter_append, List.filter_cons_of_neg (by simp), List.filter_eq_self.2 fun v hv => decide_eq_true (below v hv),
      List.filter_eq_nil_iff.2 fun v hv => by simpa using (above v hv).le, List.append_nil]

theorem foldLeft_append_singleton (first : Word → Word) (op : Word → Word → Word) (l : List Word) (x : Word) :
    foldLeft first op (l ++ [x]) = if l = [] then first x else op (foldLeft first op l) x := by
  cases l with
  | nil => rfl
  | cons y l => simp [foldLeft, List.foldl_append]

/-- A value folded to what was accumulated, or entered as the first. -/
def Fold.add (f : Fold) (acc : Option Word) (x : Word) (fx : Fx) : Word × Fx := acc.elim (f.enter x fx) fun a => f.op a x fx

theorem foldThreads_cons (f : Fold) (v : Nat → Word) (t : Nat) (ts : List Nat) (acc : Option Word) (fx : Fx) :
    foldThreads f v (t :: ts) acc fx =
      ((t, (f.add acc (v t) fx).1) :: (foldThreads f v ts (some (f.add acc (v t) fx).1) (f.add acc (v t) fx).2).1,
        (foldThreads f v ts (some (f.add acc (v t) fx).1) (f.add acc (v t) fx).2).2) := by
  cases acc <;> rfl

section
variable {f : Fold} {may : Prop} {fx0 : Fx} {first : Word → Word} {op : Word → Word → Word} (hc : f.Computes may fx0 first op) (v : Nat → Word)
include hc

/-- After the threads of `done`, each further thread adds its value to the fold of those before it. -/
theorem foldThreads_append {ts done : List Nat} (h : (done ++ ts).Pairwise (· < ·)) {acc : Option Word}
    (hacc : acc = if done = [] then none else some (foldLeft first op (done.map v))) {fx : Fx} (hfx : Raises may fx0 fx) :
    (foldThreads f v ts acc fx).1 = ts.map (fun t => (t, foldLeft first op (((done ++ ts).filter fun u => decide (u ≤ t)).map v))) ∧
      Raises may fx (foldThreads f v ts acc fx).2 := by
  induction ts generalizing done acc fx with
  | nil => exact ⟨rfl, .refl ..⟩
  | cons t ts ih =>
    have step : (f.add acc (v t) fx).1 = foldLeft first op ((done ++ [t]).map v) ∧ Raises may fx (f.add acc (v t) fx).2 := by
      rw [List.map_append, List.map_singleton, foldLeft_append_singleton, hacc]
      cases done with
      | nil => exact hc.enter _ _ hfx
      | cons u done => exact hc.op _ _ _ hfx
    obtain ⟨value, raised⟩ := step
    have split : done ++ t :: ts = (done ++ [t]) ++ ts := by simp
    obtain ⟨values, rest⟩ := ih (split ▸ h) (acc := some (f.add acc (v t) fx).1) (by rw [if_neg (by simp), value]) (hfx.trans raised)
    rw [← split] at values
    rw [foldThreads_cons]
    refine ⟨?_, raised.trans rest⟩
    rw [values, value, List.map_cons, (filter_le_append h).1]

theorem foldThreads_scan {ts : List Nat} (h : ts.Pairwise (· < ·)) {fx : Fx} (hfx : Raises may fx0 fx) :
    (foldThreads f v ts none fx).1 = ts.map (fun t => (t, foldLeft first op ((ts.filter fun u => decide (u ≤ t)).map v))) ∧
      Raises may fx (foldThreads f v ts none fx).2 :=
  foldThreads_append hc v (done := []) h rfl hfx

end

/-- Each thread with the value of the threads before it. -/
theorem zip_before {γ : Type} (g : List Nat → γ) {ts done : List Nat} (h : (done ++ ts).Pairwise (· < ·)) :
    ts.zip (g done :: ts.map fun t => g ((done ++ ts).filter fun u => decide (u ≤ t))) =
      ts.map fun t => (t, g ((done ++ ts).filter fun u => decide (u < t))) := by
  induction ts generalizing done with
  | nil => rfl
  | cons t ts ih =>
    obtain ⟨upTo, before⟩ := filter_le_append h
    have split : done ++ t :: ts = (done ++ [t]) ++ ts := by simp
    rw [List.map_cons, List.zip_cons_cons, List.map_cons, upTo, before]
    rw [split] at h ⊢
    rw [ih h]

/-- What each thread of an ascending list receives (05 R153). -/
theorem foldValues_eq (k : FoldKind) (first : Word → Word) (op : Word → Word → Word) (v : Nat → Word) {ts : List Nat} (h : ts.Pairwise (· < ·)) :
    foldValues k (ts.map fun t => (t, foldLeft first op ((ts.filter fun u => decide (u ≤ t)).map v))) =
      ts.map fun t => (t, foldLeft first op ((ts.filter (k.keeps t)).map v)) := by
  cases k with
  | scan => rfl
  | exclusive =>
    have before := zip_before (fun l => foldLeft first op (l.map v)) (done := []) h
    simp only [List.nil_append, List.map_nil] at before
    simp only [foldValues, List.map_map, Function.comp_def, List.map_id']
    exact before
  | reduce =>
    cases hl : ts.getLast? with
    | none => rw [List.getLast?_eq_none_iff.1 hl]; rfl
    | some last =>
      have most : ∀ u ∈ ts, u ≤ last := by
        obtain ⟨init, rfl⟩ := List.getLast?_eq_some_iff.1 hl
        intro u hu
        rcases List.mem_append.1 hu with hu | hu
        · exact ((List.pairwise_append.1 h).2.2 u hu last (by simp)).le
        · exact (List.mem_singleton.1 hu).le
      have upTo : ts.filter (fun u => decide (u ≤ last)) = ts := List.filter_eq_self.2 fun u hu => decide_eq_true (most u hu)
      simp only [foldValues, List.map_map, List.getLast?_map, hl, Option.map_some, Option.getD_some, upTo, filter_reduce, Function.comp_def]

end Sys2Proof.Machine
end

section
/-! The reductions, scans and match-and-reduce: the sets of threads that are folded, and what is written (05 R151, R153 to R155; 01 R9). -/

namespace Sys2Proof.Machine

/-! ### Sets of threads folded one after another -/

/-- The values of a list of threads written to V[d]. -/
def writeEach (d : Nat) (x : Nat → Word) (ts : List Nat) (f : Furrow) : Furrow := ts.foldl (fun f t => f.vset d t (x t)) f

/-- Each set of threads folded, and its threads' values written (05 R153). -/
def foldSets (k : FoldKind) (f : Fold) (v : Nat → Word) (d : Nat) (sets : List (List Nat)) (st : Furrow × Fx) : Furrow × Fx :=
  sets.foldl (fun st ts => ((foldValues k (foldThreads f v ts none st.2).1).foldl (fun g x => g.vset d x.1 x.2) st.1,
    (foldThreads f v ts none st.2).2)) st

theorem foldSegments_eq (s : State) (k : FoldKind) (d a : BitVec 7) (f : Fold) : foldSegments s k d a f =
    guarded s none [.v 0 a 1 (act s), .dv d] fun s =>
      let r := foldSets k f (fun t => V s a 0 t) d.toNat (segments s) (s.cur, fxOf s)
      zeroElems (putFx s r.1 r.2) d.toNat 1 := rfl

theorem matchReduce_eq (s : State) (k : BitVec 4) (d a b : BitVec 7) (f : Fold) : matchReduce s k d a b f =
    guarded s none [.v 0 a 1 (act s), .v 1 b 1 (act s), .dv d] fun n =>
      let sets := keySets (fun t => V n a 0 t) (threads n.pre.width (act s))
      let r := foldSets .reduce f (fun t => V n b 0 t) d.toNat sets (n.cur, fxOf n)
      maskResult (zeroElems (putFx n r.1 r.2) d.toNat 1) k (maskOf (sets.map fun ts => ts.headD 0) fun _ => true) := rfl

section
variable {f : Fold} {may : Prop} {fx0 : Fx} {first : Word → Word} {op : Word → Word → Word} (hc : f.Computes may fx0 first op)
include hc

/-- With every set's folds given by one function of the thread, its threads' values are written. -/
theorem foldSets_eq {k : FoldKind} {v val : Nat → Word} {sets : List (List Nat)} (ascending : ∀ ts ∈ sets, ts.Pairwise (· < ·))
    (values : ∀ ts ∈ sets, ∀ t ∈ ts, foldLeft first op ((ts.filter (k.keeps t)).map v) = val t) (d : Nat) (g : Furrow) {fx : Fx}
    (hfx : Raises may fx0 fx) : ∃ fx', Raises may fx fx' ∧ foldSets k f v d sets (g, fx) = (writeEach d val sets.flatten g, fx') := by
  induction sets generalizing g fx with
  | nil => exact ⟨fx, .refl .., rfl⟩
  | cons ts sets ih =>
    have up := ascending ts List.mem_cons_self
    obtain ⟨scan, raised⟩ := foldThreads_scan hc v up hfx
    have written : (foldValues k (foldThreads f v ts none fx).1).foldl (fun g x => g.vset d x.1 x.2) g = writeEach d val ts g := by
      rw [scan, foldValues_eq k first op v up, List.map_congr_left fun t ht => by rw [values ts List.mem_cons_self t ht], List.foldl_map]
      rfl
    obtain ⟨fx', rest, run⟩ := ih (fun l hl => ascending l (List.mem_cons_of_mem _ hl)) (fun l hl => values l (List.mem_cons_of_mem _ hl))
      (writeEach d val ts g) (hfx.trans raised)
    refine ⟨fx', raised.trans rest, ?_⟩
    rw [foldSets, List.foldl_cons, written]
    refine run.trans ?_
    rw [List.flatten_cons, writeEach, writeEach, writeEach, List.foldl_append]

end

/-- Values written to all active threads in any order, and zero where zero mode writes (01 R9, R35). -/
theorem delivered_writeEach (s : State) (d : Nat) (x : Nat → Word) {us : List Nat} (hus : ∀ u, u ∈ us ↔ u ∈ threads s.pre.width (act s)) :
    Delivered s s (zeroElems { s with cur := writeEach d x us s.cur } d 1) d 1 fun _ u => x u := by
  obtain ⟨a1, a2, a3⟩ := vset_runs d 1 (fun _ => x) us (fun t ht => threads_lt ((hus t).1 ht)) s.cur
  obtain ⟨z1, z2, z3⟩ := vset_runs d 1 (fun _ _ => 0) (threads s.pre.width (zeroed s)) (fun _ => threads_lt) (writeEach d x us s.cur)
  refine ⟨fun r u hu => (z1 r u hu).trans ?_, fun r u hu => (z2 r u hu).trans ?_, ?_⟩
  · rw [show (writeEach d x us s.cur).vget r u = _ from a1 r u hu]
    simp only [hus, mem_threads]
    by_cases hr : r ≠ 0 ∧ d ≤ r ∧ r < d + 1 ∧ u < s.pre.width
    · obtain ⟨h1, h2, h3, h4⟩ := hr
      simp only [h1, h2, h3, h4, true_and, ne_eq, not_false_eq_true, and_self, ↓reduceIte]
      by_cases ha : (act s).getLsbD u = true
      · simp [ha, zeroed_of_act ha]
      · simp [ha]
    · rw [if_neg hr, if_neg (by tauto), if_neg (by tauto)]
  · rw [show tget (writeEach d x us s.cur).vMark (64 * r + u) .clean = _ from a2 r u hu]
    simp only [hus, mem_threads]
    by_cases h1 : r ≠ 0 ∧ d ≤ r ∧ r < d + 1 ∧ u < s.pre.width ∧ ((act s).getLsbD u = true ∨ (zeroed s).getLsbD u = true)
    · rw [if_pos h1]
      split
      · rfl
      · rw [if_pos (by tauto)]
    · rw [if_neg h1, if_neg (by tauto), if_neg (by tauto)]
  · refine congrArg (fun c => { s with cur := c }) (z3.trans ?_)
    rw [show writeEach d x us s.cur = _ from a3]
    rfl

/-- What folds deliver: values, and flags where the fold raises them. -/
theorem foldSets_delivered {s n : State} {os : List Opd} (hn : n = Noted s os) {f : Fold} {may : Prop} {first : Word → Word}
    {op : Word → Word → Word} (hc : f.Computes may (fxOf s) first op) {k : FoldKind} {v val : Nat → Word} {sets : List (List Nat)}
    (ascending : ∀ ts ∈ sets, ts.Pairwise (· < ·)) (members : ∀ u, u ∈ sets.flatten ↔ u ∈ threads s.pre.width (act s))
    (values : ∀ ts ∈ sets, ∀ t ∈ ts, foldLeft first op ((ts.filter (k.keeps t)).map v) = val t) (d : Nat) :
    ∃ m fl, (fl = 0 ∨ may) ∧ m.iss = s.iss ∧ Delivered s n m d 1 (fun _ u => val u) ∧
      (let r := foldSets k f v d sets (n.cur, fxOf n)
       zeroElems (putFx n r.1 r.2) d 1 = withRaised m fl) := by
  have start : fxOf n = fxOf s := by rw [hn, Noted_fxOf]
  obtain ⟨fx', ⟨fl, hfl, rfl⟩, run⟩ := foldSets_eq hc ascending values d n.cur (fx := fxOf n) (start ▸ .refl ..)
  have delivered := delivered_writeEach n d val (us := sets.flatten) (by simpa [hn] using members)
  refine ⟨_, fl, hfl, ?_, .of_noted hn delivered, ?_⟩
  · rw [delivered.rest, hn]
    exact Noted_iss s os
  · obtain ⟨-, -, rest⟩ := vset_runs d 1 (fun _ => val) sets.flatten (fun t ht => threads_lt ((members t).1 ht)) n.cur
    have same : writeEach d val sets.flatten n.cur = { writeEach d val sets.flatten n.cur with rng := n.cur.rng } := by
      rw [show writeEach d val sets.flatten n.cur = _ from rest]
    have none : (fxOf n).flags ||| fl = fl := BitVec.zero_or
    simp only [run, putFx, none]
    rw [same]
    rfl

/-! ### Reductions and scans (05 R153, R155) -/

theorem pairwise_threads (w : Nat) (m : Mask) : (threads w m).Pairwise (· < ·) := List.pairwise_lt_range.filter _

theorem pairwise_segments (s : State) : ∀ ts ∈ segments s, ts.Pairwise (· < ·) := by
  intro ts hts
  obtain ⟨g, -, rfl⟩ := List.mem_map.1 hts
  exact (pairwise_threads ..).filter _

/-- Every active thread lies in a segment. -/
theorem mem_flatten_segments (s : State) (u : Nat) : u ∈ (segments s).flatten ↔ u ∈ threads s.pre.width (act s) := by
  simp only [segments, List.mem_flatten, List.mem_map, upto, List.mem_range]
  constructor
  · rintro ⟨-, ⟨g, -, rfl⟩, hu⟩
    exact List.mem_of_mem_filter hu
  · intro hu
    refine ⟨_, ⟨u / segment s, ?_, rfl⟩, List.mem_filter.2 ⟨hu, beq_self_eq_true _⟩⟩
    have below : u < s.pre.width := (mem_threads.1 hu).1
    have pos : 0 < segment s := Nat.lt_min.2 ⟨by omega, Nat.two_pow_pos _⟩
    rw [Nat.lt_iff_add_one_le, Nat.le_div_iff_mul_le pos, Nat.add_mul]
    have := Nat.div_mul_le_self u (segment s)
    omega

/-- A thread's fold is over the values of its segment's active threads that it takes together. -/
theorem segment_values (s : State) (a : BitVec 7) (k : FoldKind) {ts : List Nat} (hts : ts ∈ segments s) {t : Nat} (ht : t ∈ ts) :
    (ts.filter (k.keeps t)).map (fun u => V s a 0 u) = segmentValues s a (segment s) t (k.keeps t) := by
  obtain ⟨g, -, rfl⟩ := List.mem_map.1 hts
  obtain rfl : t / segment s = g := by simpa using (List.mem_filter.1 ht).2
  rw [List.filter_filter, segmentValues]
  simp only [Bool.and_comm]

/-- A reduction or a scan that passed its checks (05 R153, R155). -/
theorem foldSegments_ready {s : State} {d a : BitVec 7} (h : Ready s [.v 0 a 1 (act s), .dv d]) {f : Fold} {may : Prop} {first : Word → Word}
    {op : Word → Word → Word} (hc : f.Computes may (fxOf s) first op) (k : FoldKind) :
    ∃ m fl, (fl = 0 ∨ may) ∧ m.iss = s.iss ∧ foldSegments s k d a f = withRaised m fl ∧
      Delivered s (Noted s [.v 0 a 1 (act s), .dv d]) m d.toNat 1
        fun _ u => foldLeft first op (segmentValues s a (segment s) u (k.keeps u)) := by
  have same : segments (Noted s [.v 0 a 1 (act s), .dv d]) = segments s := by simp only [segments, segment, Noted_pre, Noted_act, Noted_pfxOf]
  obtain ⟨m, fl, hfl, iss, delivered, run⟩ := foldSets_delivered (n := Noted s [.v 0 a 1 (act s), .dv d]) rfl hc (k := k)
    (v := fun u => V s a 0 u) (val := fun u => foldLeft first op (segmentValues s a (segment s) u (k.keeps u))) (sets := segments s)
    (pairwise_segments s) (mem_flatten_segments s) (fun ts hts t ht => by rw [segment_values s a k hts ht]) d.toNat
  refine ⟨m, fl, hfl, iss, ?_, delivered⟩
  rw [foldSegments_eq, guarded_ready h, ← run]
  simp only [Noted_V, same]

/-- A fold of integers raises nothing. -/
theorem foldSegments_plain {s : State} {d a : BitVec 7} (h : Ready s [.v 0 a 1 (act s), .dv d]) (k : FoldKind) (op : Word → Word → Word) :
    Delivered s (Noted s [.v 0 a 1 (act s), .dv d]) (foldSegments s k d a (.plain op)) d.toNat 1
      fun _ u => foldLeft id op (segmentValues s a (segment s) u (k.keeps u)) := by
  obtain ⟨m, fl, hfl, -, run, delivered⟩ := foldSegments_ready h (computes_plain (fxOf s) op) k
  obtain rfl : fl = 0 := hfl.resolve_right id
  rw [run, withRaised_zero]
  exact delivered

/-- A fold of fp32 numbers may raise flags besides. -/
theorem foldSegments_float {s : State} {d a : BitVec 7} (h : Ready s [.v 0 a 1 (act s), .dv d]) {f : Fold} {op : Word → Word → Word}
    (hc : f.Computes True (fxOf s) canonical op) (k : FoldKind) :
    let t := foldSegments s k d a f
    t.iss = { s.iss with raised := t.iss.raised } ∧ s.iss.raised &&& ~~~t.iss.raised = 0 ∧
      Delivered s (Noted s [.v 0 a 1 (act s), .dv d]) { t with iss := s.iss } d.toNat 1
        fun _ u => foldLeft canonical op (segmentValues s a (segment s) u (k.keeps u)) := by
  obtain ⟨m, fl, -, iss, run, delivered⟩ := foldSegments_ready h hc k
  simp only [run]
  rw [withRaised_restored iss, withRaised, iss]
  exact ⟨rfl, and_not_or .., delivered⟩

/-- Settles O39: each member is a fold of its segments, and a fold of one list gives each thread what its kind takes together. -/
theorem folds : Obligations.Folds := by
  unfold Obligations.Folds
  intro s d a os len fx minI maxI minN maxN can add low high all upTo before h
  constructor
  · have plain (k : FoldKind) (op : Word → Word → Word) : Delivered s (Noted s os) (foldSegments s k d a (.plain op)) d.toNat 1
        fun _ u => foldLeft id op (segmentValues s a len u (k.keeps u)) := foldSegments_plain h k op
    simp only [List.forall_mem_cons, List.not_mem_nil, false_imp_iff, implies_true, and_true]
    exact ⟨⟨_, rfl, plain .reduce _⟩, ⟨_, rfl, plain .reduce _⟩, ⟨_, rfl, plain .reduce _⟩, ⟨_, rfl, plain .reduce _⟩, ⟨_, rfl, plain .reduce _⟩,
      ⟨_, rfl, plain .reduce _⟩, ⟨_, rfl, plain .scan _⟩, ⟨_, rfl, plain .scan _⟩, ⟨_, rfl, plain .scan _⟩, ⟨_, rfl, plain .scan _⟩,
      ⟨_, rfl, plain .scan _⟩, ⟨_, rfl, plain .exclusive _⟩⟩
  · intro hm
    have sums := computes_fadd (fx0 := fxOf s) hm
    have extremes (largest : Bool) := computes_fminMax largest (fxOf s) fx
    simp only [List.forall_mem_cons, List.not_mem_nil, false_imp_iff, implies_true, and_true]
    exact ⟨⟨_, rfl, foldSegments_float h sums .reduce⟩, ⟨_, rfl, foldSegments_float h (extremes false) .reduce⟩,
      ⟨_, rfl, foldSegments_float h (extremes true) .reduce⟩, ⟨_, rfl, foldSegments_float h sums .scan⟩,
      ⟨_, rfl, foldSegments_float h (extremes false) .scan⟩, ⟨_, rfl, foldSegments_float h (extremes true) .scan⟩,
      ⟨_, rfl, foldSegments_float h sums .exclusive⟩⟩

/-! ### Match and reduce (05 R154) -/

/-- The least thread of those of a list with its key. -/
def leads (key : Nat → Word) (ts : List Nat) (t : Nat) : Bool := !ts.any fun u => decide (u < t) && key u == key t

theorem keySets_eq (key : Nat → Word) (ts : List Nat) :
    keySets key ts = (ts.filter (leads key ts)).map fun t => ts.filter fun u => key u == key t := rfl

section
variable {key : Nat → Word} {ts : List Nat}

theorem leads_iff {t : Nat} : leads key ts t = true ↔ ∀ u ∈ ts, key u = key t → t ≤ u := by
  simp only [leads, Bool.not_eq_true', List.any_eq_false, Bool.and_eq_true, decide_eq_true_eq, beq_iff_eq, not_and]
  exact forall₂_congr fun u _ => ⟨fun h hk => Nat.not_lt.1 fun hlt => h hlt hk, fun h hlt hk => absurd (h hk) (Nat.not_le.2 hlt)⟩

/-- Every thread's set has a leader. -/
theorem exists_leads {u : Nat} (hu : u ∈ ts) : ∃ t ∈ ts, leads key ts t = true ∧ key t = key u := by
  have some : ∃ t, t ∈ ts ∧ key t = key u := ⟨u, hu, rfl⟩
  obtain ⟨mem, same⟩ := Nat.find_spec some
  exact ⟨Nat.find some, mem, leads_iff.2 fun v hv hk => Nat.find_min' some ⟨hv, hk.trans same⟩, same⟩

theorem pairwise_keySets (h : ts.Pairwise (· < ·)) : ∀ l ∈ keySets key ts, l.Pairwise (· < ·) := by
  intro l hl
  obtain ⟨t, -, rfl⟩ := List.mem_map.1 (keySets_eq key ts ▸ hl)
  exact h.filter _

theorem mem_flatten_keySets (u : Nat) : u ∈ (keySets key ts).flatten ↔ u ∈ ts := by
  rw [keySets_eq, List.mem_flatten]
  constructor
  · rintro ⟨l, hl, hu⟩
    obtain ⟨t, -, rfl⟩ := List.mem_map.1 hl
    exact List.mem_of_mem_filter hu
  · intro hu
    obtain ⟨t, ht, lead, same⟩ := exists_leads (key := key) hu
    exact ⟨_, List.mem_map_of_mem (List.mem_filter.2 ⟨ht, lead⟩), List.mem_filter.2 ⟨hu, beq_iff_eq.2 same.symm⟩⟩

/-- A set is that of each of its threads. -/
theorem keySet_of_mem {l : List Nat} (hl : l ∈ keySets key ts) {t : Nat} (ht : t ∈ l) : l = ts.filter fun u => key u == key t := by
  obtain ⟨t', -, rfl⟩ := List.mem_map.1 (keySets_eq key ts ▸ hl)
  have same : key t = key t' := by simpa using (List.mem_filter.1 ht).2
  rw [same]

/-- A set begins with its leader, so the sets' first threads are the leaders. -/
theorem map_headD_keySets (h : ts.Pairwise (· < ·)) : (keySets key ts).map (fun l => l.headD 0) = ts.filter (leads key ts) := by
  rw [keySets_eq, List.map_map]
  refine (List.map_congr_left fun t ht => ?_).trans (List.map_id _)
  obtain ⟨mem, lead⟩ := List.mem_filter.1 ht
  have self : t ∈ ts.filter fun u => key u == key t := List.mem_filter.2 ⟨mem, beq_self_eq_true _⟩
  have up := h.filter fun u => key u == key t
  change (ts.filter fun u => key u == key t).headD 0 = t
  cases hl : ts.filter (fun u => key u == key t) with
  | nil => rw [hl] at self; cases self
  | cons a l =>
    have first : a ∈ ts.filter fun u => key u == key t := by rw [hl]; exact List.mem_cons_self
    obtain ⟨memA, sameA⟩ := List.mem_filter.1 first
    have least : t ≤ a := leads_iff.1 lead a memA (beq_iff_eq.1 sameA)
    rw [hl] at self up
    rcases List.mem_cons.1 self with rfl | ht
    · rfl
    · exact absurd ((List.pairwise_cons.1 up).1 t ht) (Nat.not_lt.2 least)

end

theorem pfxOf_congr {m s : State} (iss : m.iss = s.iss) : pfxOf m = pfxOf s := by unfold pfxOf; rw [iss]

theorem act_congr {m s : State} (pre : m.pre = s.pre) (iss : m.iss = s.iss) : act m = act s := by
  unfold act entryMask
  rw [pfxOf_congr iss, pre, iss]

theorem zeroed_congr {m s : State} (pre : m.pre = s.pre) (iss : m.iss = s.iss) : zeroed m = zeroed s := by
  unfold zeroed entryMask
  rw [act_congr pre iss, pfxOf_congr iss, pre, iss]

/-- A mask result on a state whose issuing group and furrow as fetched are those of `s`. -/
theorem MaskWritten.of_same {s m t : State} {d : Nat} {p : Nat → Bool} (pre : m.pre = s.pre) (iss : m.iss = s.iss) (h : MaskWritten m m t d p) :
    MaskWritten s m t d p := by
  obtain ⟨value, mark, rest⟩ := h
  rw [iss, act_congr pre iss, zeroed_congr pre iss] at value
  rw [act_congr pre iss, zeroed_congr pre iss] at mark
  exact ⟨value, mark, rest⟩

/-- A match-and-reduce that passed its checks (05 R154, R155). -/
theorem matchReduce_ready {s : State} {d a b : BitVec 7} (h : Ready s [.v 0 a 1 (act s), .v 1 b 1 (act s), .dv d]) {f : Fold} {may : Prop}
    {first : Word → Word} {op : Word → Word → Word} (hc : f.Computes may (fxOf s) first op) (k : BitVec 4) :
    let ts := threads s.pre.width (act s)
    let t := matchReduce s k d a b f
    ∃ m, t.iss = { s.iss with raised := t.iss.raised } ∧ s.iss.raised &&& ~~~t.iss.raised = 0 ∧
      Delivered s (Noted s [.v 0 a 1 (act s), .v 1 b 1 (act s), .dv d]) m d.toNat 1
        (fun _ u => foldLeft first op ((ts.filter fun v => V s a 0 v == V s a 0 u).map fun v => V s b 0 v)) ∧
      MaskWritten s m { t with iss := s.iss } k.toNat (fun u => decide (u < s.pre.width) && leads (fun v => V s a 0 v) ts u) := by
  intro ts t
  have up : ts.Pairwise (· < ·) := pairwise_threads ..
  obtain ⟨m, fl, -, iss, delivered, run⟩ := foldSets_delivered (n := Noted s [.v 0 a 1 (act s), .v 1 b 1 (act s), .dv d]) rfl hc (k := .reduce)
    (v := fun u => V s b 0 u) (val := fun u => foldLeft first op ((ts.filter fun v => V s a 0 v == V s a 0 u).map fun v => V s b 0 v))
    (sets := keySets (fun v => V s a 0 v) ts) (pairwise_keySets up) mem_flatten_keySets
    (fun l hl t ht => by rw [filter_reduce, ← keySet_of_mem hl ht]) d.toNat
  have pre : m.pre = s.pre := by rw [delivered.rest]; exact Noted_pre ..
  have done : t = withRaised (maskResult m k (maskOf (ts.filter (leads (fun v => V s a 0 v) ts)) fun _ => true)) fl := by
    rw [← map_headD_keySets up]
    simp only [t, matchReduce_eq, guarded_ready h, Noted_V, Noted_pre, run, ts]
    rfl
  have kept (bits : Mask) : (maskResult m k bits).iss = s.iss := iss
  refine ⟨m, ?_, ?_, delivered, ?_⟩
  · rw [done, withRaised, kept]
  · rw [done, withRaised, kept]
    exact and_not_or ..
  · rw [done, withRaised_restored (kept _)]
    refine .of_same pre iss (maskResult_written m k fun u hu ha => ?_)
    have active : (act s).getLsbD u = true := by rwa [act_congr pre iss] at ha
    rw [getLsbD_maskOf _ _ hu, Bool.and_true, Bool.eq_iff_iff]
    simp only [List.mem_filter, ts, mem_threads, active, and_true, decide_eq_true_eq, Bool.and_eq_true]

/-- Settles O40: each of the three is a fold of the threads of each key, whose first threads lead. -/
theorem matchReduceInstructions : Obligations.MatchReduce := by
  unfold Obligations.MatchReduce
  intro s k d a b os ts fx xop can add best h
  simp only [List.forall_mem_cons, List.not_mem_nil, false_imp_iff, implies_true, and_true, decide_eq_true_eq]
  have chosen : (if xop = 0 then maxI else if xop = 1 then maxN else if xop = 2 then minI else minN) = best := by
    funext x y
    by_cases h0 : xop = 0
    · simp only [best, if_pos h0]; rfl
    · by_cases h1 : xop = 1
      · simp only [best, if_neg h0, if_pos h1]; rfl
      · by_cases h2 : xop = 2
        · simp only [best, if_neg h0, if_neg h1, if_pos h2]; rfl
        · simp only [best, if_neg h0, if_neg h1, if_neg h2]; rfl
  have extreme : exec (.mredm k d a b) s = .next (matchReduce s k d a b (.plain best)) := by rw [← chosen]; rfl
  have plain (op : Word → Word → Word) := matchReduce_ready h (computes_plain (fxOf s) op) k
  refine ⟨?_, ?_, fun hm => ?_⟩
  · obtain ⟨m, answer⟩ := plain (· + ·)
    exact fun _ => ⟨m, _, rfl, answer⟩
  · obtain ⟨m, answer⟩ := plain best
    exact fun _ => ⟨m, _, extreme, answer⟩
  · obtain ⟨m, answer⟩ := matchReduce_ready h (computes_fadd (fx0 := fxOf s) hm) k
    exact ⟨m, _, rfl, answer⟩

end Sys2Proof.Machine
end

section
/-! Service requests, spawn, and what the group-control members leave to the group's end (05 R130, R132, R133; 06 R158, R159, R177, R178). -/

namespace Sys2Proof.Machine

/-! ### Service requests (05 R133) -/

/-- The record that a `sysc` sends. -/
def serviceRecord (s : State) (a : BitVec 7) (n : BitVec 5) : List Word := ringHead s s.pre s.iss.pkt 2 n.toNat ++ (upto 4).map (SN s a.toNat ·)

theorem exec_sysc {s : State} {d a : BitVec 7} (h : Ready s [.s 0 a 4, .ds d]) (n : BitVec 5) : exec (.sysc d a n) s =
    .next (if (s.ctx s.pre.ctx).fring = 0 then raise s 0x06 (.ofNat 32 (2 ^ 31 + n.toNat))
      else if s.pre.entries.any (·.waits.any isService) then stallWait s
      else parkEntry (s.modCtx s.pre.ctx fun c => { c with faults := c.faults ++ [serviceRecord s a n] }) (.service d)) :=
  congrArg _ (guarded_whole h (by simp) _)

/-! ### Spawn (06 R158, R159) -/

theorem spawnRoom_le (s : State) : spawnRoom s ≤ 32 := (Nat.min_le_left ..).trans (Nat.sub_le ..)

theorem exec_spawn {s : State} {d a : BitVec 7} (h : Ready s [.s 0 a, .ds d, spawnArgs s a]) (e : BitVec 5) : exec (.spawn d a e) s =
    let u := Noted s [.s 0 a, .ds d, spawnArgs s a]
    let n := if s.pre.stream then 0 else min (S s a).toNat (spawnRoom u)
    .next (if s.pre.stream then setS u d 0
      else if s.pre.ecnt ≤ e.toNat then raise u 0x06 (e.setWidth 32)
      else setS (spawnMany u (nth (launchOf u s.pre).entryTable e.toNat 0) n) d (.ofNat 32 n)) := by
  refine congrArg _ ((guarded_ready h _).trans ?_)
  simp only [spawnCount, Noted_pre, Noted_S]

/-! ### Waits at the end of the group (06 R177, R178) -/

theorem parkGroup_parkEntry (s : State) (w : Wait) :
    (parkGroup (parkEntry s w)).cur = s.cur.modEntry s.iss.entry fun e => { e with waits := e.waits ++ (s.iss.park ++ [w]) } := rfl

/-- Settles O37: each member by its equation, and the group's end by what it left there. -/
theorem serviceAndSpawn : Obligations.ServiceAndSpawn := by
  unfold Obligations.ServiceAndSpawn
  refine ⟨fun s d a n h => ?_, fun s d a e => ?_, fun s => ?_⟩
  · intro f
    rw [exec_sysc h]
    refine ⟨fun hr => by rw [if_pos hr], fun hr hw => ?_, fun hr hw => ?_⟩ <;> rw [if_neg hr]
    · exact congrArg _ (if_pos hw)
    · intro low r
      exact congrArg _ (if_neg (Bool.eq_false_iff.1 hw))
  · intro made os u h
    have run := exec_spawn h e
    refine ⟨fun hs => run.trans (congrArg _ (if_pos hs)), fun hs he => ?_, fun hs he => ?_⟩
    · exact run.trans (congrArg _ ((if_neg (Bool.eq_false_iff.1 hs)).trans (if_pos he)))
    · refine ⟨(Nat.min_le_right ..).trans (spawnRoom_le u), run.trans (congrArg _ ((if_neg (Bool.eq_false_iff.1 hs)).trans ((if_neg (Nat.not_le.2 he)).trans ?_)))⟩
      rw [if_neg (Bool.eq_false_iff.1 hs)]
      rfl
  · refine ⟨rfl, ⟨_, rfl, rfl, rfl⟩, ⟨_, rfl, rfl, rfl⟩, fun a h => ⟨_, exec_halt h, rfl, rfl⟩, fun _ _ _ _ _ _ _ _ => rfl, fun _ => rfl, fun hs => ?_⟩
    have waits {i : Instr} {n : Nat} {w : Wait} (hi : exec i s = .next (poisonGate s n fun s => parkEntry s w)) :
        ∃ u, exec i s = .next u ∧ (parkGroup u).cur = s.cur.modEntry s.iss.entry fun e => { e with waits := e.waits ++ (s.iss.park ++ [w]) } :=
      ⟨_, hi.trans (congrArg _ (poisonGate_open _ (.inl hs))), parkGroup_parkEntry s w⟩
    exact ⟨fun l t p m => waits (exec_waitc s l t p m), fun a p h => waits (exec_waitp h p)⟩

end Sys2Proof.Machine
end

section
/-! Which entries stay in the core (01 R20): the choice of the entry to spill, and what spilling until eight are left makes of the table. -/

namespace Sys2Proof.Machine

/-! ### The choice of the entry to spill -/

/-- The resident entries that may be spilled. -/
def spillable (es : List Entry) (keep : List Nat) : List Entry := es.filter fun e => e.resident && !keep.contains e.id

theorem mem_spillable {es : List Entry} {keep : List Nat} {x : Entry} : x ∈ spillable es keep ↔ x ∈ es ∧ x.resident = true ∧ x.id ∉ keep := by
  simp [spillable]

/-- A fold that goes over to an entry only when its key is less finds the first of the least. -/
theorem foldl_eq_argmin {key : Entry → Nat} {step : Option Entry → Entry → Option Entry} {l : List Entry} (first : ∀ e, step none e = some e)
    (next : ∀ b e, step (some b) e = if key e < key b then some e else some b) : l.foldl step none = l.argmin key := by
  refine congrArg (fun step => l.foldl step none) (funext₂ fun a e => ?_)
  cases a with
  | none => exact first e
  | some b => exact next b e

/-- The choice out of the dormant entry born first, if there is one, and the live one that issued least recently. -/
def choiceOf (dormant live : Option Entry) : Option Nat :=
  match dormant with
  | some e => some e.id
  | none => live.map (·.id)

theorem spillChoice_eq (es : List Entry) (keep : List Nat) : spillChoice es keep =
    choiceOf (((spillable es keep).filter (!·.live)).argmin (·.born)) (((spillable es keep).filter (·.live)).argmin (·.issued)) := by
  unfold spillChoice choiceOf spillable
  dsimp only
  rw [foldl_eq_argmin (key := fun x => x.born), foldl_eq_argmin (key := fun x => x.issued)]
  all_goals intros; rfl

/-- `x` goes before `y`: a dormant entry before a live one, then the older of two dormant ones, and of two live ones the one that issued earlier. -/
def spillsFirst (x y : Entry) : Prop := (x.live = false → y.live = false → x.born ≤ y.born) ∧ (x.live = true → y.live = true ∧ x.issued ≤ y.issued)

/-- The entry that is chosen goes before every other that may be spilled. -/
theorem spillChoice_some {es : List Entry} {keep : List Nat} {i : Nat} (h : spillChoice es keep = some i) :
    ∃ x ∈ spillable es keep, x.id = i ∧ ∀ y ∈ spillable es keep, spillsFirst x y := by
  rw [spillChoice_eq] at h
  cases hd : ((spillable es keep).filter (!·.live)).argmin (·.born) with
  | some e =>
    rw [hd] at h
    obtain ⟨mem, dormant⟩ := List.mem_filter.1 (List.argmin_mem hd)
    have he : e.live = false := by simpa using dormant
    refine ⟨e, mem, Option.some.inj h, fun y hy => ⟨fun _ hl => ?_, fun hl => absurd hl (by simp [he])⟩⟩
    exact List.le_of_mem_argmin (List.mem_filter.2 ⟨hy, by simp [hl]⟩) hd
  | none =>
    rw [hd] at h
    obtain ⟨e, hl, rfl⟩ := Option.map_eq_some_iff.1 h
    obtain ⟨mem, live⟩ := List.mem_filter.1 (List.argmin_mem hl)
    refine ⟨e, mem, rfl, fun y hy => ⟨fun h0 => absurd live (by simp [h0]), fun _ => ?_⟩⟩
    have none := List.filter_eq_nil_iff.1 (List.argmin_eq_none.1 hd) y hy
    have hy' : y.live = true := by simpa using none
    exact ⟨hy', List.le_of_mem_argmin (List.mem_filter.2 ⟨hy, hy'⟩) hl⟩

theorem spillChoice_none {es : List Entry} {keep : List Nat} (h : spillChoice es keep = none) : spillable es keep = [] := by
  rw [spillChoice_eq] at h
  cases hd : ((spillable es keep).filter (!·.live)).argmin (·.born) with
  | some e => rw [hd] at h; cases h
  | none =>
    rw [hd] at h
    have dormant := List.filter_eq_nil_iff.1 (List.argmin_eq_none.1 hd)
    have live := List.filter_eq_nil_iff.1 (List.argmin_eq_none.1 (Option.map_eq_none_iff.1 h))
    refine List.eq_nil_iff_forall_not_mem.2 fun x hx => ?_
    cases hl : x.live
    · exact dormant x hx (by simp [hl])
    · exact live x hx hl

/-! ### Entries spilled until eight are left -/

/-- The entry, spilled when it is one of `l`. -/
def spilledIf (l : List Nat) (x : Entry) : Entry := if x.id ∈ l then { x with resident := false } else x

section
variable (l : List Nat) (x : Entry)

@[simp] theorem spilledIf_id : (spilledIf l x).id = x.id := by unfold spilledIf; split <;> rfl

theorem spilledIf_eq : spilledIf l x = { x with resident := (spilledIf l x).resident } := by unfold spilledIf; split <;> rfl

theorem spilledIf_of_not_mem {x : Entry} (h : x.id ∉ l) : spilledIf l x = x := if_neg h

theorem spilledIf_nil : spilledIf [] = id := funext fun _ => if_neg List.not_mem_nil

theorem spilledIf_cons (i : Nat) : spilledIf (i :: l) x = spilledIf l (spilledIf [i] x) := by
  by_cases h : x.id = i
  · by_cases hl : i ∈ l <;> simp [spilledIf, h, hl]
  · simp [spilledIf, h]

theorem spilledIf_resident : (spilledIf l x).resident = (x.resident && !l.contains x.id) := by
  by_cases h : x.id ∈ l <;> simp [spilledIf, h]

end

/-- The resident entries of a table. -/
def residents (es : List Entry) : List Entry := es.filter (·.resident)

/-- One that leaves makes fewer. -/
theorem residents_spill_lt {es : List Entry} {x : Entry} (hx : x ∈ es) (hr : x.resident = true) :
    (residents (es.map (spilledIf [x.id]))).length < (residents es).length := by
  have left : (residents (es.map (spilledIf [x.id]))).length = ((residents es).filter fun e => e.id != x.id).length := by
    rw [residents, List.filter_map, List.length_map, residents, List.filter_filter]
    refine congrArg List.length (List.filter_congr fun e _ => ?_)
    rw [Function.comp_apply, spilledIf_resident, Bool.and_comm]
    simp [bne, beq_eq_decide]
  rw [left]
  refine List.length_filter_lt_length_iff_exists.2 ⟨x, List.mem_filter.2 ⟨hx, hr⟩, by simp⟩

/-- Where nothing may be spilled, only the entries to keep are resident. -/
theorem residents_le_of_spillable_nil {es : List Entry} {keep : List Nat} (hd : (es.map (·.id)).Nodup) (h : spillable es keep = []) :
    (residents es).length ≤ keep.length := by
  have ids : ((residents es).map (·.id)).Nodup := hd.sublist (List.filter_sublist.map _)
  have sub : (residents es).map (·.id) ⊆ keep := by
    intro i hi
    obtain ⟨x, hx, rfl⟩ := List.mem_map.1 hi
    obtain ⟨mem, resident⟩ := List.mem_filter.1 hx
    by_contra hk
    exact List.not_mem_nil (h ▸ mem_spillable.2 ⟨mem, resident, hk⟩)
  simpa using (List.subperm_of_subset ids sub).length_le

/-- What spilling makes of a table: some entries leave, none that is to be kept, each before every one that could leave and stays. -/
structure Spilled (es : List Entry) (keep : List Nat) (n : Nat) (l : List Nat) : Prop where
  others : ∀ i ∈ l, i ∉ keep
  precedence : ∀ x ∈ es, x.id ∈ l → ∀ y ∈ es, y.resident = true → y.id ∉ l → y.id ∉ keep → spillsFirst x y
  atMost : (residents es).length ≤ 8 + n → (residents (es.map (spilledIf l))).length ≤ 8
  enough : (residents es).length ≤ 8 → l = []

/-- A table that nothing leaves. -/
theorem spilled_nil {es : List Entry} {n : Nat} (h : (residents es).length ≤ 8 + n → (residents es).length ≤ 8) (keep : List Nat) :
    Spilled es keep n [] where
  others _ h := absurd h List.not_mem_nil
  precedence _ _ h := absurd h List.not_mem_nil
  atMost := by rwa [spilledIf_nil, List.map_id]
  enough _ := rfl

/-- A table that the entry `x` leaves, and then those of `l`. -/
theorem spilled_cons {es : List Entry} {keep : List Nat} {n : Nat} {x : Entry} {l : List Nat} (hd : (es.map (·.id)).Nodup) (hx : x ∈ spillable es keep)
    (least : ∀ y ∈ spillable es keep, spillsFirst x y) (many : ¬ (residents es).length ≤ 8) (h : Spilled (es.map (spilledIf [x.id])) keep n l) :
    Spilled es keep (n + 1) (x.id :: l) := by
  obtain ⟨mem, resident, hkx⟩ := mem_spillable.1 hx
  refine { others := ?_, precedence := ?_, atMost := ?_, enough := fun h => absurd h many }
  · intro i hi
    rcases List.mem_cons.1 hi with rfl | hi
    · exact hkx
    · exact h.others i hi
  · intro y hy hyl z hz hr hzl hzk
    have apart : z.id ≠ x.id := fun h => hzl (h ▸ List.mem_cons_self)
    have kept {e : Entry} (he : e ∈ es) (h : e.id ≠ x.id) : e ∈ es.map (spilledIf [x.id]) :=
      List.mem_map.2 ⟨e, he, spilledIf_of_not_mem _ (by simpa using h)⟩
    by_cases hyx : y.id = x.id
    · obtain rfl : y = x := List.inj_on_of_nodup_map hd hy mem hyx
      exact least z (mem_spillable.2 ⟨hz, hr, hzk⟩)
    · exact h.precedence y (kept hy hyx) ((List.mem_cons.1 hyl).resolve_left hyx) z (kept hz apart) hr (fun h => hzl (List.mem_cons_of_mem _ h)) hzk
  · intro few
    have both : (es.map (spilledIf [x.id])).map (spilledIf l) = es.map (spilledIf (x.id :: l)) := by
      rw [List.map_map]
      exact List.map_congr_left fun e _ => (spilledIf_cons l e x.id).symm
    rw [← both]
    refine h.atMost ?_
    have := residents_spill_lt mem resident
    omega

theorem residency_of_few {f : Furrow} (h : (residents f.entries).length ≤ 8) (keep : List Nat) (n : Nat) : residency f keep (n + 1) = f := if_pos h

theorem residency_of_choice {f : Furrow} {keep : List Nat} {i : Nat} (h : ¬ (residents f.entries).length ≤ 8) (hi : spillChoice f.entries keep = some i)
    (n : Nat) : residency f keep (n + 1) = residency { f with entries := f.entries.map (spilledIf [i]) } keep n := by
  have one : (f.modEntry i fun e => { e with resident := false }) = { f with entries := f.entries.map (spilledIf [i]) } := by
    have each : (fun e : Entry => if e.id = i then { e with resident := false } else e) = spilledIf [i] :=
      funext fun e => by simp only [spilledIf, List.mem_singleton]
    rw [← each]
    rfl
  rw [← one]
  refine (if_neg h).trans ?_
  rw [hi]

/-- Spilling makes a spilled table and nothing else. -/
theorem residency_spec {keep : List Nat} (hk : keep.length ≤ 8) (n : Nat) {f : Furrow} (hd : (f.entries.map (·.id)).Nodup) :
    ∃ l, residency f keep n = { f with entries := f.entries.map (spilledIf l) } ∧ Spilled f.entries keep n l := by
  induction n generalizing f with
  | zero => exact ⟨[], by rw [spilledIf_nil, List.map_id]; rfl, spilled_nil id keep⟩
  | succ n ih =>
    by_cases few : (residents f.entries).length ≤ 8
    · exact ⟨[], by rw [spilledIf_nil, List.map_id]; exact residency_of_few few .., spilled_nil (fun _ => few) keep⟩
    · cases hc : spillChoice f.entries keep with
      | none => exact absurd ((residents_le_of_spillable_nil hd (spillChoice_none hc)).trans hk) few
      | some i =>
        obtain ⟨x, hx, rfl, least⟩ := spillChoice_some hc
        have ids : ((f.entries.map (spilledIf [x.id])).map (·.id)).Nodup := by simpa [Function.comp_def] using hd
        obtain ⟨l, run, spilled⟩ := ih (f := { f with entries := f.entries.map (spilledIf [x.id]) }) ids
        refine ⟨x.id :: l, ?_, spilled_cons hd hx least few spilled⟩
        rw [residency_of_choice few hc, run, List.map_map]
        simp only [Function.comp_def, ← spilledIf_cons]

end Sys2Proof.Machine
end

section
/-! Entries that come to one packet's boundary (05 R142): when an entry stays where it is, and when two fuse into their parent. -/

namespace Sys2Proof.Machine

/-! ### One step of fusing -/

/-- The entry `y` stands where the entry `x` does, as a live sibling. -/
def meets (id : Nat) (x y : Entry) : Bool :=
  y.id != id && y.live && y.slot == 0 && y.parent == x.parent && y.pc == x.pc && y.parent != y.id

theorem meets_iff {id : Nat} {x y : Entry} : meets id x y = true ↔
    y.id ≠ id ∧ y.live = true ∧ y.slot = 0 ∧ y.parent = x.parent ∧ y.pc = x.pc ∧ y.parent ≠ y.id := by
  simp [meets, and_assoc]

/-- The entries without two that fuse. -/
def withoutBoth (f : Furrow) (x y : Entry) : Furrow :=
  { f with
    entries := f.entries.filter fun e => e.id != x.id && e.id != y.id
    handler := if f.handler = x.id ∨ f.handler = y.id then x.parent else f.handler }

/-- The entry that two have fused into. -/
def joined (x y p : Entry) : Entry := { p with live := true, mask := x.mask ||| y.mask, pc := x.pc, slot := 0, waits := x.waits ++ y.waits, lag := 0 }

/-- The furrow once two siblings have fused into their parent. -/
def fused (f : Furrow) (x y : Entry) : Furrow := (makeResident (withoutBoth f x y) x.parent).modEntry x.parent (joined x y)

section
variable {f : Furrow} {id : Nat} {x : Entry} (hx : f.entries.find? (·.id == id) = some x)
include hx

/-- A live entry at a packet's boundary, that is not the root, looks for a sibling there. -/
theorem fuse_looks (live : x.live = true) (slot : x.slot = 0) (parent : x.parent ≠ id) (n : Nat) :
    fuse f id (n + 1) = (f.entries.find? (meets id x)).elim f fun y => fuse (fused f x y) x.parent n := by
  obtain rfl := id_of_find? hx
  have looks : (!x.live || x.slot != 0 || x.parent == x.id) = false := by simp [live, slot, parent]
  rw [fuse, hx]
  dsimp only
  rw [looks, if_neg (by decide)]
  change (match f.entries.find? (meets x.id x) with
    | none => f
    | some y => fuse (fused f x y) x.parent n) = _
  cases f.entries.find? (meets x.id x) <;> rfl

theorem fuse_rests (h : x.live = false ∨ x.slot ≠ 0 ∨ x.parent = id) (n : Nat) : fuse f id n = f := by
  obtain rfl := id_of_find? hx
  have rests : (!x.live || x.slot != 0 || x.parent == x.id) = true := by simpa [or_assoc] using h
  cases n with
  | zero => rfl
  | succ n =>
    rw [fuse, hx]
    exact if_pos rests

theorem fuse_alone (h : ∀ y ∈ f.entries, meets id x y = false) (n : Nat) : fuse f id n = f := by
  by_cases looks : x.live = true ∧ x.slot = 0 ∧ x.parent ≠ id
  · obtain ⟨live, slot, parent⟩ := looks
    cases n with
    | zero => rfl
    | succ n =>
      rw [fuse_looks hx live slot parent, List.find?_eq_none.2 fun y hy => by simp [h y hy]]
      rfl
  · refine fuse_rests hx ?_ n
    rcases Bool.eq_false_or_eq_true x.live with live | dormant
    · exact .inr (by tauto)
    · exact .inl dormant

/-- An entry stays, or it fuses with a sibling that it meets. -/
theorem fuse_cases : (∀ n, fuse f id n = f) ∨ ∃ y, ∀ n, fuse f id (n + 1) = fuse (fused f x y) x.parent n := by
  cases hy : f.entries.find? (meets id x) with
  | none => exact .inl (fuse_alone hx fun y hy' => by simpa using List.find?_eq_none.1 hy y hy')
  | some y =>
    by_cases looks : x.live = true ∧ x.slot = 0 ∧ x.parent ≠ id
    · obtain ⟨live, slot, parent⟩ := looks
      exact .inr ⟨y, fun n => by rw [fuse_looks hx live slot parent, hy]; rfl⟩
    · refine .inl (fuse_rests hx ?_)
      rcases Bool.eq_false_or_eq_true x.live with live | dormant
      · exact .inr (by tauto)
      · exact .inl dormant

end

theorem fuse_absent {f : Furrow} {id : Nat} (h : f.entries.find? (·.id == id) = none) (n : Nat) : fuse f id n = f := by
  cases n with
  | zero => rfl
  | succ n => rw [fuse, h]

/-! ### As many steps as there are entries are enough -/

theorem residency_length {f : Furrow} {keep : List Nat} (n : Nat) : (residency f keep n).entries.length = f.entries.length := by
  induction n generalizing f with
  | zero => rfl
  | succ n ih =>
    rw [residency]
    split
    · rfl
    · split
      · rfl
      · rw [ih]
        exact List.length_map ..

theorem makeResident_length (f : Furrow) (id : Nat) : (makeResident f id).entries.length = f.entries.length := by
  unfold makeResident
  split
  · rfl
  · rw [residency_length]
    exact List.length_map ..

theorem fused_length_lt {f : Furrow} {x : Entry} (hx : x ∈ f.entries) (y : Entry) : (fused f x y).entries.length < f.entries.length := by
  have less : (withoutBoth f x y).entries.length < f.entries.length :=
    List.length_filter_lt_length_iff_exists.2 ⟨x, hx, by simp⟩
  rw [fused, Furrow.modEntry, List.length_map, makeResident_length]
  exact less

theorem fuse_enough {n m : Nat} {f : Furrow} (hn : f.entries.length ≤ n) (hm : f.entries.length ≤ m) (id : Nat) : fuse f id n = fuse f id m := by
  induction n generalizing m f id with
  | zero =>
    have none : f.entries.find? (·.id == id) = none := by rw [List.length_eq_zero_iff.1 (Nat.le_zero.1 hn)]; rfl
    rw [fuse_absent none, fuse_absent none]
  | succ n ih =>
    cases hx : f.entries.find? (·.id == id) with
    | none => rw [fuse_absent hx, fuse_absent hx]
    | some x =>
      have mem := List.mem_of_find?_eq_some hx
      rcases fuse_cases hx with stays | ⟨y, step⟩
      · rw [stays, stays]
      · have pos := List.length_pos_of_mem mem
        have less := fused_length_lt mem y
        obtain ⟨k, rfl⟩ : ∃ k, m = k + 1 := ⟨m - 1, by omega⟩
        rw [step, step]
        exact ih (by omega) (by omega) x.parent

/-! ### An entry that continues (05 R141, R142) -/

/-- The entry at a packet and slot. -/
def placedAt (id : Nat) (p : Word) (slot : Nat) (e : Entry) : Entry := if e.id = id then { e with pc := p, slot } else e

@[simp] theorem placedAt_id (id : Nat) (p : Word) (slot : Nat) (e : Entry) : (placedAt id p slot e).id = e.id := by unfold placedAt; split <;> rfl

theorem placedAt_of_ne {id : Nat} {e : Entry} (h : e.id ≠ id) (p : Word) (slot : Nat) : placedAt id p slot e = e := if_neg h

/-- The furrow with its entry `id` at a packet and slot. -/
def placeEntry (f : Furrow) (id : Nat) (p : Word) (slot : Nat) : Furrow := { f with entries := f.entries.map (placedAt id p slot) }

theorem continueAt_eq (f : Furrow) (id : Nat) (p : Word) (slot : Nat) :
    continueAt f id p slot = if slot = 0 then fuse (placeEntry f id p slot) id f.entries.length else placeEntry f id p slot := by
  have length : (placeEntry f id p slot).entries.length = f.entries.length := List.length_map ..
  rw [← length]
  rfl

theorem find?_placeEntry {f : Furrow} {id : Nat} {x : Entry} (hx : f.entries.find? (·.id == id) = some x) (p : Word) (slot : Nat) :
    (placeEntry f id p slot).entries.find? (·.id == id) = some { x with pc := p, slot } := by
  rw [placeEntry, find?_map_of_id (placedAt_id id p slot), hx]
  exact congrArg some (if_pos (id_of_find? hx))

/-- The other children of an entry's parent (05 R142). -/
def otherChildren (f : Furrow) (id : Nat) (x : Entry) : List Entry :=
  f.entries.filter fun y => y.id != id && y.id != y.parent && y.parent == x.parent

/-- Whom an entry meets at its new place stood there before. -/
theorem mem_otherChildren_of_meets {f : Furrow} {id : Nat} {x y : Entry} {p : Word} {slot : Nat} (hy : y ∈ (placeEntry f id p slot).entries)
    (h : meets id { x with pc := p, slot } y = true) : y ∈ otherChildren f id x := by
  obtain ⟨z, hz, rfl⟩ := List.mem_map.1 hy
  obtain ⟨hid, -, -, parent, -, child⟩ := meets_iff.1 h
  rw [placedAt_id] at hid child
  rw [placedAt_of_ne hid] at parent child ⊢
  exact List.mem_filter.2 ⟨hz, by simp [hid, parent, parent ▸ child.symm]⟩

/-- An entry that meets nobody just stands at its new place. -/
theorem continueAt_alone {f : Furrow} {id : Nat} {x : Entry} {p : Word} {slot : Nat} (hx : f.entries.find? (·.id == id) = some x)
    (h : slot ≠ 0 ∨ x.live = false ∨ x.parent = id ∨ ∀ y ∈ otherChildren f id x, y.live = false ∨ y.slot ≠ 0 ∨ y.pc ≠ p) :
    continueAt f id p slot = placeEntry f id p slot := by
  rw [continueAt_eq]
  split
  next hs =>
    have placed := find?_placeEntry hx p slot
    rcases h with h | h | h | h
    · exact absurd hs h
    · exact fuse_rests placed (.inl h) _
    · exact fuse_rests placed (.inr (.inr h)) _
    · refine fuse_alone placed (fun y hy => Bool.eq_false_iff.2 fun hm => ?_) _
      obtain ⟨-, live, slot, -, pc, -⟩ := meets_iff.1 hm
      rcases h y (mem_otherChildren_of_meets hy hm) with h | h | h
      · exact Bool.false_ne_true (h.symm.trans live)
      · exact h slot
      · exact h pc
  next => rfl

theorem find?_filter_of_id {l : List Entry} {n : Nat} {keeps : Entry → Bool} (h : ∀ e, e.id = n → keeps e = true) :
    (l.filter keeps).find? (·.id == n) = l.find? (·.id == n) := by
  rw [List.find?_filter]
  refine congrArg (l.find? ·) (funext fun e => ?_)
  by_cases he : e.id = n
  · simp [he, h e he]
  · simp [he]

/-- The place of an entry that leaves does not count. -/
theorem withoutBoth_placeEntry (f : Furrow) {id : Nat} {x : Entry} (hid : x.id = id) (y : Entry) (p : Word) (slot : Nat) :
    withoutBoth (placeEntry f id p slot) { x with pc := p, slot } y = withoutBoth f x y := by
  have same : (f.entries.map (placedAt id p slot)).filter (fun e => e.id != x.id && e.id != y.id) =
      f.entries.filter fun e => e.id != x.id && e.id != y.id := by
    rw [List.filter_map]
    simp only [Function.comp_def, placedAt_id]
    refine (List.map_congr_left fun e he => ?_).trans (List.map_id _)
    obtain ⟨-, left⟩ := List.mem_filter.1 he
    exact placedAt_of_ne (fun h => by simp [h, hid] at left) p slot
  simp only [withoutBoth, placeEntry, same]
  rfl

/-- With its one sibling at the same packet's boundary, an entry fuses into their parent, which continues there (05 R142). -/
theorem continueAt_fuses {f : Furrow} {id : Nat} {x y : Entry} {p : Word} (hx : f.entries.find? (·.id == id) = some x)
    (hy : otherChildren f id x = [y]) (live : x.live = true) (parent : x.parent ≠ id) (ylive : y.live = true) (yslot : y.slot = 0) (ypc : y.pc = p)
    (resident : (f.entry x.parent).resident = true) :
    continueAt f id p 0 = continueAt ((withoutBoth f x y).modEntry x.parent (joined { x with pc := p, slot := 0 } y)) x.parent p 0 := by
  have hid := id_of_find? hx
  obtain ⟨ymem, yother⟩ := List.mem_filter.1 (hy ▸ List.mem_singleton_self y : y ∈ otherChildren f id x)
  obtain ⟨⟨yid, ychild⟩, yparent⟩ : (y.id ≠ id ∧ y.id ≠ y.parent) ∧ y.parent = x.parent := by simpa using yother
  have placed := find?_placeEntry hx p 0
  -- the sibling is whom it meets
  have found : (placeEntry f id p 0).entries.find? (meets id { x with pc := p, slot := 0 }) = some y := by
    have ymem' : y ∈ (placeEntry f id p 0).entries := List.mem_map.2 ⟨y, ymem, placedAt_of_ne yid p 0⟩
    have some : ((placeEntry f id p 0).entries.find? (meets id { x with pc := p, slot := 0 })).isSome := by
      rw [List.find?_isSome]
      exact ⟨y, ymem', meets_iff.2 ⟨yid, ylive, yslot, yparent, ypc, ychild.symm⟩⟩
    obtain ⟨z, hz⟩ := Option.isSome_iff_exists.1 some
    have zmem := mem_otherChildren_of_meets (List.mem_of_find?_eq_some hz) (List.find?_some hz)
    rw [hy, List.mem_singleton] at zmem
    rw [hz, zmem]
  -- their parent is in the core
  have stays : (withoutBoth f x y).entry x.parent = f.entry x.parent := by
    rw [Furrow.entry, Furrow.entry, withoutBoth, find?_filter_of_id]
    intro e he
    have apart : x.parent ≠ y.id := fun h => ychild (yparent.trans h).symm
    simp [he, hid, parent, apart]
  have joins : fused (placeEntry f id p 0) { x with pc := p, slot := 0 } y =
      (withoutBoth f x y).modEntry x.parent (joined { x with pc := p, slot := 0 } y) := by
    rw [fused, withoutBoth_placeEntry f hid, makeResident, if_pos (by rw [stays, resident])]
  have shorter := fused_length_lt (List.mem_of_find?_eq_some placed) y
  have length : (placeEntry f id p 0).entries.length = f.entries.length := List.length_map ..
  rw [length, joins] at shorter
  obtain ⟨k, hk⟩ : ∃ k, f.entries.length = k + 1 := ⟨f.entries.length - 1, by omega⟩
  have lands : ∀ e ∈ ((withoutBoth f x y).modEntry x.parent (joined { x with pc := p, slot := 0 } y)).entries, e.id = x.parent → e.pc = p ∧ e.slot = 0 := by
    intro e he hep
    obtain ⟨e', -, rfl⟩ := List.mem_map.1 he
    by_cases h : e'.id = x.parent
    · rw [if_pos h]
      exact ⟨rfl, rfl⟩
    · rw [if_neg h] at hep
      exact absurd hep h
  rw [continueAt_here lands, continueAt_eq, if_pos rfl, hk, fuse_looks placed live rfl parent, found, Option.elim_some, joins]
  exact fuse_enough (by omega) le_rfl x.parent

end Sys2Proof.Machine
end

section
/-! The spill area (01 R19, R20): its records, and an entry that is brought back from its record. -/

namespace Sys2Proof.Machine

/-! ### The records of the spill area -/

/-- The layout of a record, field by field (01 R19). -/
theorem record_fields {e : Entry} (hid : e.id < 128) (hp : e.parent < 128) (hs : e.slot < 4) :
    fld e.record.toNat 0 2 = e.slot ∧ fld e.record.toNat 16 7 = e.parent ∧ fld e.record.toNat 23 7 = e.id ∧
      (fld e.record.toNat 30 2 == 1) = e.live ∧ fld e.record.toNat 32 32 = e.pc.toNat ∧ fld e.record.toNat 64 64 = e.mask.toNat := by
  have hpc := e.pc.isLt
  have hmask := e.mask.isLt
  obtain ⟨state, hstate, hl⟩ : ∃ n, (if e.live then 1 else 2) = n ∧ (n = 1 ∧ e.live = true ∨ n = 2 ∧ e.live = false) := by
    cases h : e.live
    · exact ⟨2, rfl, .inr ⟨rfl, rfl⟩⟩
    · exact ⟨1, rfl, .inl ⟨rfl, rfl⟩⟩
  have value : e.record.toNat = e.slot + e.parent * 2 ^ 16 + e.id * 2 ^ 23 + state * 2 ^ 30 + e.pc.toNat * 2 ^ 32 + e.mask.toNat * 2 ^ 64 := by
    rw [Entry.record, hstate, BitVec.toNat_ofNat, Nat.mod_eq_of_lt hid, Nat.mod_eq_of_lt hp, Nat.mod_eq_of_lt hs]
    refine Nat.mod_eq_of_lt ?_
    omega
  rw [value]
  simp only [fld]
  refine ⟨by omega, by omega, by omega, ?_, by omega, by omega⟩
  rcases hl with ⟨rfl, hl⟩ | ⟨rfl, hl⟩ <;> rw [hl, beq_eq_decide]
  · exact decide_eq_true (by omega)
  · exact decide_eq_false (by omega)

/-- An entry read from its own record is itself. -/
theorem ofRecord_record {e : Entry} (hid : e.id < 128) (hp : e.parent < 128) (hs : e.slot < 4) : e.ofRecord e.record.toNat = e := by
  obtain ⟨slot, parent, id, live, pc, mask⟩ := record_fields hid hp hs
  rw [Entry.ofRecord, slot, parent, id, live, pc, mask]
  simp

/-- Blocks of one length, put together and cut apart again. -/
theorem take_drop_flatten {γ : Type} {n : Nat} {l : List (List γ)} (h : ∀ b ∈ l, b.length = n) {i : Nat} (hi : i < l.length) :
    (l.flatten.drop (n * i)).take n = l[i] := by
  induction l generalizing i with
  | nil => cases hi
  | cons b l ih =>
    have hb := h b List.mem_cons_self
    cases i with
    | zero => rw [Nat.mul_zero, List.drop_zero, List.flatten_cons, ← hb, List.take_left]; rfl
    | succ i =>
      have next : n * (i + 1) = b.length + n * i := by rw [hb]; ring
      rw [next, List.flatten_cons, List.drop_length_add_append]
      exact ih (fun c hc => h c (List.mem_cons_of_mem _ hc)) (Nat.lt_of_succ_lt_succ hi)

/-- The spilled entries of a table. -/
def spilledEntries (f : Furrow) : List Entry := f.entries.filter fun e => !e.resident

theorem syncSpill_length (f : Furrow) : (syncSpill f).spilled.length = 16 * (spilledEntries f).length := by
  rw [syncSpill, List.length_flatten, List.map_map]
  have each : (spilledEntries f).map (List.length ∘ fun e => toBytes 16 e.record.toNat) = List.replicate (spilledEntries f).length 16 :=
    List.eq_replicate_iff.2 ⟨List.length_map .., fun n hn => by
      obtain ⟨e, -, rfl⟩ := List.mem_map.1 hn
      exact length_toBytes ..⟩
  refine (congrArg List.sum each).trans ?_
  simp [Nat.mul_comm]

/-- The records read from a spill area just written are those of the spilled entries. -/
theorem records_syncSpill (f : Furrow) :
    ((upto ((syncSpill f).spilled.length / 16)).map fun i => ofBytes (((syncSpill f).spilled.drop (16 * i)).take 16)) =
      (spilledEntries f).map fun e => e.record.toNat := by
  rw [syncSpill_length, Nat.mul_div_cancel_left _ (by decide)]
  refine List.ext_getElem (by simp [upto]) fun i hi hi' => ?_
  have here : i < ((spilledEntries f).map fun e => toBytes 16 e.record.toNat).length := by simpa using hi'
  have cut := take_drop_flatten (n := 16) (l := (spilledEntries f).map fun e => toBytes 16 e.record.toNat)
    (fun b hb => by
      obtain ⟨e, -, rfl⟩ := List.mem_map.1 hb
      exact length_toBytes ..) here
  simp only [List.getElem_map, upto, List.getElem_range] at cut ⊢
  refine (congrArg ofBytes cut).trans ?_
  rw [ofBytes_toBytes, Nat.mod_eq_of_lt]
  exact (BitVec.isLt _).trans_eq (by norm_num)

/-- The record of a spilled entry is found in the spill area (01 R19). -/
theorem spillRecord_syncSpill {f : Furrow} {e : Entry} (hd : (f.entries.map (·.id)).Nodup) (ids : ∀ x ∈ f.entries, x.id < 128 ∧ x.parent < 128 ∧ x.slot < 4)
    (he : e ∈ f.entries) (hr : e.resident = false) : (syncSpill f).spillRecord e.id = some e.record.toNat := by
  have mem : e ∈ spilledEntries f := List.mem_filter.2 ⟨he, by simp [hr]⟩
  have distinct : ((spilledEntries f).map (·.id)).Nodup := hd.sublist (List.filter_sublist.map _)
  rw [Furrow.spillRecord, records_syncSpill, List.find?_map, List.find?_congr (p₂ := (·.id == e.id)), find?_id_of_mem distinct mem, Option.map_some]
  intro x hx
  obtain ⟨hid, hp, hs⟩ := ids x (List.mem_of_mem_filter hx)
  rw [Function.comp_apply, (record_fields hid hp hs).2.2.1]

/-! ### An entry brought back (01 R20) -/

/-- The entry as its record in the spill area has it, in the core. -/
def restored (f : Furrow) (id : Nat) (e : Entry) : Entry := { (f.spillRecord id).elim e e.ofRecord with resident := true }

theorem restored_id {f : Furrow} {e : Entry} : (restored f e.id e).id = e.id := by
  rw [restored]
  cases h : f.spillRecord e.id with
  | none => rfl
  | some r =>
    have found : fld r 23 7 = e.id := by simpa using List.find?_some h
    exact found

/-- Making room for it does not spill it. -/
theorem makeResident_entry {f : Furrow} {id : Nat} {e : Entry} (he : f.entries.find? (·.id == id) = some e) (hr : e.resident = false)
    (hd : (f.entries.map (·.id)).Nodup) : (makeResident f id).entry id = restored f id e := by
  obtain rfl := id_of_find? he
  have kept (x : Entry) : (if x.id = e.id then restored f e.id x else x).id = x.id := by
    split
    next h => rw [← h, restored_id]
    next => rfl
  have ids : ((f.modEntry e.id (restored f e.id)).entries.map (·.id)).Nodup := by
    simpa only [Furrow.modEntry, List.map_map, Function.comp_def, kept] using hd
  obtain ⟨l, run, spilled⟩ := residency_spec (keep := [e.id]) (by simp) 2 ids
  have back : makeResident f e.id = residency (f.modEntry e.id (restored f e.id)) [e.id] 2 := by
    rw [makeResident, entry_of_find? he, if_neg (by simp [hr])]
    unfold restored
    cases f.spillRecord e.id <;> rfl
  rw [back, run]
  refine entry_of_find? ?_
  rw [find?_map_of_id (spilledIf_id l), Furrow.modEntry, find?_map_of_id kept, he]
  have stays : e.id ∉ l := fun h => spilled.others _ h (List.mem_singleton_self _)
  simp only [Option.map_some, if_true]
  rw [spilledIf_of_not_mem _ (by rwa [restored_id])]

end Sys2Proof.Machine
end

section
/-! The split of an entry (05 R140; 01 R19 to R21), and the statement about splitting, spilling and fusing. -/

namespace Sys2Proof.Machine

/-! ### The lowest free identifiers (05 R140) -/

theorem mem_freeIds {f : Furrow} {n : Nat} : n ∈ f.freeIds ↔ n < 2 * f.width ∧ f.hasEntry n = false := by
  simp [Furrow.freeIds, upto]

theorem hasEntry_eq_false_iff {f : Furrow} {n : Nat} : f.hasEntry n = false ↔ f.entries.find? (·.id == n) = none := by
  simp [Furrow.hasEntry]

/-- The first two free identifiers: none lower, and none between them. -/
theorem freeIds_lowest {f : Furrow} {a b : Nat} {rest : List Nat} (h : f.freeIds = a :: b :: rest) :
    a < b ∧ f.hasEntry a = false ∧ f.hasEntry b = false ∧ (∀ n, n < a → n < 2 * f.width → f.hasEntry n = true) ∧
      (∀ n, a < n → n < b → f.hasEntry n = true) := by
  have up : (a :: b :: rest).Pairwise (· < ·) := h ▸ List.pairwise_lt_range.filter _
  obtain ⟨ha, hb⟩ := List.pairwise_cons.1 up
  have free {n : Nat} : n < 2 * f.width ∧ f.hasEntry n = false ↔ n = a ∨ n = b ∨ n ∈ rest := by
    rw [← mem_freeIds, h, List.mem_cons, List.mem_cons]
  have used {n : Nat} (hw : n < 2 * f.width) (hn : ¬ (n = a ∨ n = b ∨ n ∈ rest)) : f.hasEntry n = true := by
    by_contra hf
    exact hn (free.1 ⟨hw, Bool.eq_false_iff.2 hf⟩)
  have hab : a < b := ha b List.mem_cons_self
  obtain ⟨-, freeA⟩ := free.2 (.inl rfl)
  obtain ⟨below, freeB⟩ := free.2 (.inr (.inl rfl))
  refine ⟨hab, freeA, freeB, fun n hn hw => used hw ?_, fun n hn hn' => used (by omega) ?_⟩
  · rintro (rfl | rfl | hr)
    · exact lt_irrefl _ hn
    · omega
    · exact absurd (ha n (List.mem_cons_of_mem _ hr)) (by omega)
  · rintro (rfl | rfl | hr)
    · exact lt_irrefl _ hn
    · omega
    · exact absurd ((List.pairwise_cons.1 hb).1 n hr) (by omega)

/-! ### The table of a split -/

/-- An entry of a split: `id`'s child `n` with the threads `m` at `pc` (05 R140). -/
def child (e : Entry) (id n born : Nat) (m : Mask) (pc : Word) : Entry :=
  { id := n, parent := id, mask := m, pc, born, issued := e.issued, waits := e.waits }

/-- The entry that splits is dormant. -/
def dormantIf (id : Nat) (x : Entry) : Entry := if x.id = id then { x with live := false, slot := 0, waits := [] } else x

@[simp] theorem dormantIf_id (id : Nat) (x : Entry) : (dormantIf id x).id = x.id := by unfold dormantIf; split <;> rfl
@[simp] theorem dormantIf_resident (id : Nat) (x : Entry) : (dormantIf id x).resident = x.resident := by unfold dormantIf; split <;> rfl
theorem dormantIf_of_ne {id : Nat} {x : Entry} (h : x.id ≠ id) : dormantIf id x = x := if_neg h

/-- The highest number of an entry's creation. -/
def lastBorn (f : Furrow) : Nat := f.entries.foldl (fun n x => max n x.born) 0

/-- The table once `id`, which is `e`, has split, before any entry is spilled. -/
def splitTable (f : Furrow) (id : Nat) (e : Entry) (t : Mask) (tgt nxt : Word) (a b : Nat) : List Entry :=
  f.entries.map (dormantIf id) ++ [child e id a (lastBorn f + 1) t tgt, child e id b (lastBorn f + 2) (e.mask &&& ~~~t) nxt]

section

variable {f : Furrow} {id a b : Nat} {rest : List Nat} {e : Entry} (hf : f.freeIds = a :: b :: rest)
  (he : f.entries.find? (·.id == id) = some e) (hd : (f.entries.map (·.id)).Nodup) (t : Mask) (tgt nxt : Word)

include hf he in
theorem split_eq : split f id t tgt nxt =
    fuse (residency { f with entries := splitTable f id e t tgt nxt a b } [a, b] 2) a (splitTable f id e t tgt nxt a b).length := by
  simp only [split, hf, entry_of_find? he]
  rfl

/-- Where the new identifiers are not concerned, the table is that of the furrow with `id` dormant. -/
theorem find?_splitTable {n : Nat} (ha : n ≠ a) (hb : n ≠ b) :
    (splitTable f id e t tgt nxt a b).find? (·.id == n) = (f.entries.find? (·.id == n)).map (dormantIf id) := by
  have none : [child e id a (lastBorn f + 1) t tgt, child e id b (lastBorn f + 2) (e.mask &&& ~~~t) nxt].find? (·.id == n) = none := by
    simp [child, ha.symm, hb.symm]
  rw [splitTable, List.find?_append, none, Option.or_none, find?_map_of_id (dormantIf_id id)]

include hf in
theorem find?_splitTable_taken : (splitTable f id e t tgt nxt a b).find? (·.id == a) = some (child e id a (lastBorn f + 1) t tgt) := by
  obtain ⟨-, freeA, -⟩ := freeIds_lowest hf
  rw [splitTable, List.find?_append, find?_map_of_id (dormantIf_id id), hasEntry_eq_false_iff.1 freeA]
  simp [child]

include hf in
theorem find?_splitTable_rest :
    (splitTable f id e t tgt nxt a b).find? (·.id == b) = some (child e id b (lastBorn f + 2) (e.mask &&& ~~~t) nxt) := by
  obtain ⟨hab, -, freeB, -⟩ := freeIds_lowest hf
  rw [splitTable, List.find?_append, find?_map_of_id (dormantIf_id id), hasEntry_eq_false_iff.1 freeB]
  simp [child, hab.ne]

theorem mem_splitTable {x : Entry} : x ∈ splitTable f id e t tgt nxt a b ↔ (∃ y ∈ f.entries, x = dormantIf id y) ∨
    x = child e id a (lastBorn f + 1) t tgt ∨ x = child e id b (lastBorn f + 2) (e.mask &&& ~~~t) nxt := by
  simp [splitTable, eq_comm]

include hf hd in
theorem splitTable_nodup : ((splitTable f id e t tgt nxt a b).map (·.id)).Nodup := by
  obtain ⟨hab, freeA, freeB, -⟩ := freeIds_lowest hf
  have ids : (splitTable f id e t tgt nxt a b).map (·.id) = f.entries.map (·.id) ++ [a, b] := by
    simp [splitTable, child, Function.comp_def]
  have absent {n : Nat} (h : f.hasEntry n = false) : n ∉ f.entries.map (·.id) := by
    intro hn
    obtain ⟨x, hx, rfl⟩ := List.mem_map.1 hn
    exact Bool.false_ne_true (h.symm.trans ((hasEntry_iff f _).2 ⟨x, hx, rfl⟩))
  rw [ids]
  refine List.Nodup.append hd (by simpa using hab.ne) fun n hn hn' => ?_
  rcases List.mem_cons.1 hn' with rfl | hn'
  · exact absent freeA hn
  · obtain rfl := List.mem_singleton.1 hn'
    exact absent freeB hn

theorem residents_splitTable_le : (residents (splitTable f id e t tgt nxt a b)).length ≤ (residents f.entries).length + 2 := by
  have same : (residents (f.entries.map (dormantIf id))).length = (residents f.entries).length := by
    rw [residents, List.filter_map, List.length_map]
    simp only [Function.comp_def, dormantIf_resident]
    rfl
  rw [splitTable, residents, List.filter_append, List.length_append]
  have two := List.length_filter_le (·.resident) [child e id a (lastBorn f + 1) t tgt, child e id b (lastBorn f + 2) (e.mask &&& ~~~t) nxt]
  rw [residents] at same
  have : [child e id a (lastBorn f + 1) t tgt, child e id b (lastBorn f + 2) (e.mask &&& ~~~t) nxt].length = 2 := rfl
  omega

/-- The taken threads' entry meets no sibling: there was no child before, and the other one stands elsewhere. -/
theorem split_meets_none (apart : tgt ≠ nxt) (childless : ∀ x ∈ f.entries, x.parent = id → x.id = id) {l : List Nat} {x y : Entry}
    (hx : x.parent = id ∧ x.pc = tgt) (hy : y ∈ (splitTable f id e t tgt nxt a b).map (spilledIf l)) : meets a x y = false := by
  refine Bool.eq_false_iff.2 fun hm => ?_
  obtain ⟨hid, live, -, parent, pc, notRoot⟩ := meets_iff.1 hm
  obtain ⟨parentX, pcX⟩ := hx
  obtain ⟨z, hz, rfl⟩ := List.mem_map.1 hy
  rw [spilledIf_eq] at live parent pc notRoot
  dsimp only at live parent pc notRoot
  rcases (mem_splitTable t tgt nxt).1 hz with ⟨w, hw, rfl⟩ | rfl | rfl
  · by_cases h : w.id = id
    · simp [dormantIf, h] at live
    · rw [dormantIf_of_ne h] at parent
      exact h (childless w hw (parent.trans parentX))
  · exact hid (spilledIf_id l _)
  · exact apart (pcX.symm.trans pc.symm)

end

end Sys2Proof.Machine
end

section
/-! Splitting, spilling and fusing entries (05 R140, R142; 01 R19 to R21): the statement. -/

namespace Sys2Proof.Machine

/-! ### The furrow after a split -/

section

variable {f : Furrow} {id a b : Nat} {rest : List Nat} {e : Entry} (hf : f.freeIds = a :: b :: rest)
  (he : f.entries.find? (·.id == id) = some e) (hd : (f.entries.map (·.id)).Nodup) {t : Mask} {tgt nxt : Word}

include hf he hd in
/-- A split makes its table, spilled, and nothing else. -/
theorem split_spec (apart : tgt ≠ nxt) (childless : ∀ x ∈ f.entries, x.parent = id → x.id = id) :
    ∃ l, split f id t tgt nxt = { f with entries := (splitTable f id e t tgt nxt a b).map (spilledIf l) } ∧
      Spilled (splitTable f id e t tgt nxt a b) [a, b] 2 l := by
  obtain ⟨l, run, spilled⟩ := residency_spec (keep := [a, b]) (by simp) 2
    (f := { f with entries := splitTable f id e t tgt nxt a b }) (splitTable_nodup hf hd t tgt nxt)
  refine ⟨l, ?_, spilled⟩
  rw [split_eq hf he, run]
  refine fuse_alone (x := spilledIf l (child e id a (lastBorn f + 1) t tgt)) ?_ (fun y hy => split_meets_none t tgt nxt apart childless ?_ hy) _
  · rw [find?_map_of_id (spilledIf_id l), find?_splitTable_taken hf]
    rfl
  · rw [spilledIf_eq]
    exact ⟨rfl, rfl⟩

end

/-- The entries of a table that stays but for who is in the core. -/
theorem entry_spilled (f : Furrow) (l : List Nat) {es : List Entry} {n : Nat} {x : Entry} (hx : es.find? (·.id == n) = some x) :
    ({ f with entries := es.map (spilledIf l) } : Furrow).entry n = spilledIf l x :=
  entry_of_find? (by rw [find?_map_of_id (spilledIf_id l), hx]; rfl)

/-- An entry that the split does not name is the one before, but for who is in the core. -/
theorem entry_split_other {f : Furrow} {id a b : Nat} (e : Entry) (t : Mask) (tgt nxt : Word) (l : List Nat) {n : Nat} (hn : n ≠ id) (ha : n ≠ a) (hb : n ≠ b) :
    let x := ({ f with entries := (splitTable f id e t tgt nxt a b).map (spilledIf l) } : Furrow).entry n
    x = { f.entry n with resident := x.resident } := by
  have found : ((splitTable f id e t tgt nxt a b).map (spilledIf l)).find? (·.id == n) = (f.entries.find? (·.id == n)).map (spilledIf l) := by
    rw [find?_map_of_id (spilledIf_id l), find?_splitTable t tgt nxt ha hb]
    cases hx : f.entries.find? (·.id == n) with
    | none => rfl
    | some x => rw [Option.map_some, dormantIf_of_ne (id_of_find? hx ▸ hn)]
  dsimp only [Furrow.entry]
  rw [found]
  cases f.entries.find? (·.id == n) with
  | none => rfl
  | some x => exact spilledIf_eq l x

/-- The entries of a split stay in the core. -/
theorem spilledIf_child {es : List Entry} {a b m : Nat} {l : List Nat} (h : Spilled es [a, b] m l) {n : Nat} (hn : n = a ∨ n = b) (e : Entry)
    (id born : Nat) (t : Mask) (pc : Word) : spilledIf l (child e id n born t pc) = child e id n born t pc :=
  spilledIf_of_not_mem _ fun hl => h.others n hl (by simpa using hn)

/-- Where there is room for all, a split spills nobody. -/
theorem split_keeps_residents {f : Furrow} {id a b : Nat} {e : Entry} {t : Mask} {tgt nxt : Word} {l : List Nat}
    (h : Spilled (splitTable f id e t tgt nxt a b) [a, b] 2 l) (room : f.entries.length + 2 ≤ 8) {n : Nat} (ha : n ≠ a) (hb : n ≠ b) :
    (({ f with entries := (splitTable f id e t tgt nxt a b).map (spilledIf l) } : Furrow).entry n).resident = (f.entry n).resident := by
  have all : (splitTable f id e t tgt nxt a b).length = f.entries.length + 2 := by simp [splitTable]
  obtain rfl := h.enough ((List.length_filter_le ..).trans (all.trans_le room))
  dsimp only [Furrow.entry]
  rw [spilledIf_nil, List.map_id, find?_splitTable t tgt nxt ha hb]
  cases f.entries.find? (·.id == n) with
  | none => rfl
  | some x => exact dormantIf_resident id x

/-- An entry that the split has spilled goes before every one that was there and stays (01 R20). -/
theorem split_spillsFirst {f : Furrow} {id a b : Nat} {e : Entry} {t : Mask} {tgt nxt : Word} {l : List Nat}
    (h : Spilled (splitTable f id e t tgt nxt a b) [a, b] 2 l) (hd : (f.entries.map (·.id)).Nodup) {x y : Entry}
    (hx : x ∈ (splitTable f id e t tgt nxt a b).map (spilledIf l)) (hy : y ∈ (splitTable f id e t tgt nxt a b).map (spilledIf l))
    (away : x.resident = false) (before : (f.entry x.id).resident = true) (stays : y.resident = true) (ha : y.id ≠ a) (hb : y.id ≠ b) :
    spillsFirst x y := by
  obtain ⟨x, memX, rfl⟩ := List.mem_map.1 hx
  obtain ⟨y, memY, rfl⟩ := List.mem_map.1 hy
  rw [spilledIf_resident, Bool.and_eq_true] at stays
  obtain ⟨resident, notSpilled⟩ := stays
  have hxl : x.id ∈ l := by
    rcases (mem_splitTable t tgt nxt).1 memX with ⟨w, hw, rfl⟩ | rfl | rfl
    · rw [spilledIf_id, dormantIf_id, entry_of_find? (find?_id_of_mem hd hw)] at before
      rw [spilledIf_resident, dormantIf_resident, before] at away
      simpa using away
    · rw [spilledIf_child h (.inl rfl)] at away
      cases away
    · rw [spilledIf_child h (.inr rfl)] at away
      cases away
  rw [spilledIf_id] at ha hb
  have first := h.precedence x memX hxl y memY resident (by simpa using notSpilled) (by simp [ha, hb])
  rw [spilledIf_eq l x, spilledIf_eq l y]
  exact first

/-! ### An entry read back from its record -/

/-- The fields of an entry in the core again are those of its record (01 R19, R20). -/
theorem restored_fields {f : Furrow} {id r : Nat} (e : Entry) (h : f.spillRecord id = some r) : let g := restored f id e
    g.slot = r % 4 ∧ g.parent = r / 2 ^ 16 % 128 ∧ g.id = r / 2 ^ 23 % 128 ∧ g.live = decide (r / 2 ^ 30 % 4 = 1) ∧
      g.pc = .ofNat 32 (r / 2 ^ 32) ∧ g.mask = .ofNat 64 (r / 2 ^ 64) := by
  simp only [restored, h, Option.elim_some, Entry.ofRecord, fld]
  refine ⟨by omega, rfl, rfl, rfl, ?_, ?_⟩
  · exact BitVec.eq_of_toNat_eq (by simp)
  · exact BitVec.eq_of_toNat_eq (by simp)

/-- The record that the spill area holds for an entry gives the entry back (01 R20). -/
theorem makeResident_syncSpill {f : Furrow} {id : Nat} {e : Entry} (he : f.entries.find? (·.id == id) = some e) (hr : e.resident = false)
    (hd : (f.entries.map (·.id)).Nodup) (ids : ∀ x ∈ f.entries, x.id < 128 ∧ x.parent < 128 ∧ x.slot < 4) :
    (makeResident (syncSpill f) id).entry id = { e with resident := true } := by
  obtain rfl := id_of_find? he
  have mem := List.mem_of_find?_eq_some he
  obtain ⟨hid, hp, hs⟩ := ids e mem
  rw [makeResident_entry (f := syncSpill f) he hr hd, restored, spillRecord_syncSpill hd ids mem hr, Option.elim_some, ofRecord_record hid hp hs]

/-- Settles O35: the table of a split is known entry by entry but for who is spilled, and that follows the order of 01 R20; a spilled entry's record
gives it back; and an entry meets at its new place only siblings that stood there. -/
theorem splitEntry : Obligations.SplitEntry := by
  unfold Obligations.SplitEntry
  refine ⟨fun f id t tgt nxt a b rest e hf he apart waits childless few hd => ?_, fun f id e he hr hd ids => ?_, fun f id slot p x hx hd => ?_⟩
  · obtain ⟨l, made, spilled⟩ := split_spec (t := t) hf he hd apart childless
    obtain ⟨hab, freeA, freeB, belowA, belowB⟩ := freeIds_lowest hf
    have used : f.hasEntry id = true := (hasEntry_iff f id).2 ⟨e, List.mem_of_find?_eq_some he, id_of_find? he⟩
    have ha : a ≠ id := fun h => Bool.false_ne_true (freeA.symm.trans (h ▸ used))
    have hb : b ≠ id := fun h => Bool.false_ne_true (freeB.symm.trans (h ▸ used))
    have atA := (entry_spilled f l (find?_splitTable_taken (id := id) (e := e) hf t tgt nxt)).trans (spilledIf_child spilled (.inl rfl) ..)
    have atB := (entry_spilled f l (find?_splitTable_rest (id := id) (e := e) hf t tgt nxt)).trans (spilledIf_child spilled (.inr rfl) ..)
    have parent : (splitTable f id e t tgt nxt a b).find? (·.id == id) = some { e with live := false, slot := 0, waits := [] } := by
      rw [find?_splitTable t tgt nxt ha.symm hb.symm, he]
      exact congrArg some (if_pos (id_of_find? he))
    have atId := entry_spilled f l parent
    rw [spilledIf_eq] at atId
    dsimp only
    rw [made]
    refine ⟨⟨ha, hb, hab, freeA, freeB, belowA, belowB⟩, fun x => ?_, ?_, by rw [atId], by rw [atId], by rw [atId],
      fun n hn hna hnb => entry_split_other e t tgt nxt l hn hna hnb, rfl, ?_, ?_, ?_⟩
    · by_cases hxa : x = a
      · subst hxa
        exact .inl ⟨rfl, by rw [atA]; rfl, by rw [atA]; rfl⟩
      · by_cases hxb : x = b
        · subst hxb
          exact .inr (.inl ⟨rfl, by rw [atB]; rfl, by rw [atB]; rfl⟩)
        · exact .inr (.inr ⟨hxa, hxb⟩)
    · rintro x (rfl | rfl)
      · rw [atA]
        exact ⟨rfl, rfl, rfl, rfl, waits, rfl⟩
      · rw [atB]
        exact ⟨rfl, rfl, rfl, rfl, waits, rfl⟩
    · exact spilled.atMost ((residents_splitTable_le t tgt nxt).trans (Nat.add_le_add_right few 2))
    · intro room x away
      by_cases hxa : x = a
      · subst hxa
        rw [atA] at away
        cases away
      · by_cases hxb : x = b
        · subst hxb
          rw [atB] at away
          cases away
        · exact (split_keeps_residents spilled room hxa hxb).symm.trans away
    · exact fun x hx y hy away before stays hya hyb => split_spillsFirst spilled hd hx hy away before stays hya hyb
  · refine ⟨syncSpill_length f, makeResident_syncSpill he hr hd ids, fun r hr' => ?_⟩
    dsimp only
    rw [makeResident_entry he hr hd]
    exact restored_fields e hr'
  · refine ⟨fun h => continueAt_alone hx h, fun y hy hs live parent ylive yslot ypc _ resident => ?_⟩
    obtain rfl := id_of_find? hx
    exact continueAt_fuses hx hy live parent ylive yslot ypc resident

end Sys2Proof.Machine
end
